-- ==== Sys2Proof/Word.lean ====
section
/-! DEFINITION. The widths of the NX4 (R4, R101, R128), the lanes of a vector register, and sparse tables. -/

namespace Sys2Proof

/-- A byte of memory (R4). -/
abbrev Byte := BitVec 8

/-- One lane of a vector register, an instruction word, or an FP32 or INT32 value (R128). -/
abbrev W32 := BitVec 32

/-- A scalar register, an address, or a 64-bit field (R101). -/
abbrev W64 := BitVec 64

/-- One bit for each of the 128 lanes of a troupe: `exec`, `live`, predicates, `%replay` (R101). -/
abbrev Mask := BitVec 128

/-- The 128 lanes of one vector register, or one row of an accumulator (R18, R128). -/
abbrev Lanes := Vector W32 128

/-- The lanes whose lane `l` holds `f l`. -/
def Lanes.ofFn (f : Nat → W32) : Lanes :=
  ⟨⟨(List.range 128).map f⟩, by simp⟩

/-- Lane `l`; a number that names no lane reads 0. -/
def Lanes.lane (v : Lanes) (l : Nat) : W32 :=
  if h : l < 128 then v[l] else 0

/-- All lanes zero. -/
def Lanes.zero : Lanes := ⟨⟨List.replicate 128 0⟩, by simp⟩

/-- Replace lane `l`; a number that names no lane changes nothing. -/
def Lanes.setLane (v : Lanes) (l : Nat) (x : W32) : Lanes :=
  if h : l < 128 then v.set l x h else v

/-- A sparse table from a number to data, sorted by number, each number at most once. -/
abbrev Table (α : Type) := List (Nat × α)

namespace Table

/-- The entry of number `k`, if the table lists it. -/
def find {α : Type} : Table α → Nat → Option α
  | [], _ => none
  | (i, a) :: t, k => if i = k then some a else find t k

/-- The entry of number `k`, or `d` where the table lists none. -/
def get {α : Type} (t : Table α) (k : Nat) (d : α) : α := (t.find k).getD d

/-- Set the entry of number `k`, keeping the table sorted. -/
def put {α : Type} : Table α → Nat → α → Table α
  | [], k, a => [(k, a)]
  | (i, b) :: t, k, a =>
    if i = k then (k, a) :: t
    else if k < i then (k, a) :: (i, b) :: t
    else (i, b) :: put t k a

/-- Remove every entry of number `k`. -/
def del {α : Type} (t : Table α) (k : Nat) : Table α := t.filter (fun e => e.1 ≠ k)

/-- The numbers the table lists, in order. -/
def keys {α : Type} (t : Table α) : List Nat := t.map (·.1)

/-- Apply `f` to every listed entry. -/
def mapVals {α : Type} (t : Table α) (f : Nat → α → α) : Table α := t.map (fun e => (e.1, f e.1 e.2))

end Table

end Sys2Proof
end

