-- ==== Sys2Proof/Config.lean ====
section
/-! DEFINITION. What the specification leaves to no rule: free values, and the named cryptographic algorithms
whose functions the specification does not give. None of these has a body, so no proof can lean on a value. -/

namespace Sys2Proof.Config

/-- A 32-bit value that no rule fixes, one for each number (log 10). -/
opaque freeWord : Nat → W32

/-- A choice between two outcomes that no rule makes, one for each number (log 10). -/
opaque freeBit : Nat → Bool

/-- A number that no rule fixes, one for each number (log 10). -/
opaque freeNat : Nat → Nat

/-- SHA3-256 as a 256-bit number (R413, R415): the standard is named and not given (log 11). -/
opaque sha3Digest : List Byte → BitVec 256

/-- ML-DSA-44 verification (FIPS 204) under a public key, of bytes and a signature over them (R413, R414) (log 11). -/
opaque mldsaVerify : List Byte → List Byte → List Byte → Bool

/-- ML-DSA-44 signature over bytes with a private seed (R418, R419) (log 11). -/
opaque mldsaSign : List Byte → List Byte → List Byte

/-- ML-DSA-44 public key of a private seed (R418) (log 11). -/
opaque mldsaPublic : List Byte → List Byte

/-- ML-KEM-768 encapsulation to a key with a seed: the ciphertext and the shared secret (R419) (log 11). -/
opaque mlkemEncap : List Byte → Nat → List Byte × List Byte

/-- The proof of a session's secret that FINISH carries (R419) (log 11). -/
opaque finishMac : List Byte → List Byte

/-- The start-up state of the SRAM array that the ROM reads at a boot (R417), another at each (log 11). -/
opaque sramState : Nat → List Byte

/-- The helper data correct a start-up state (R417) (log 11). -/
opaque pufCorrects : List Byte → List Byte → Bool

/-- The unique device secret that helper data stand for (R417) (log 11). -/
opaque deviceSecret : List Byte → BitVec 256

/-- AES-256-GCM of a secured message under a session's secret, by its number in the session (R419) (log 11). -/
opaque gcmSeal : List Byte → Nat → List Byte → List Byte

/-- Sixty-four bytes of the keystream of AES-256 in counter mode: data key by name, line address, write counter (R425)
(log 11). -/
opaque aesPad : Nat → Nat → Nat → List Byte

/-- The 56-bit MAC of a line: MAC key by name, ciphertext, address, counter, owning world (R425) (log 11). -/
opaque lineMac : Nat → List Byte → Nat → Nat → Nat → BitVec 56

/-- The 56-bit MAC of a node of the integrity tree: MAC key by name, the node's counters, its own counter (R426)
(log 61). -/
opaque nodeMac : Nat → List Nat → Nat → BitVec 56

/-- ML-DSA-44 certificate of a subject's public key under an issuer's private seed (R417, R418): X.509 is named and not
given (log 11). -/
opaque certificate : List Byte → List Byte → List Byte

/-- The certificates that Keapen made: the chain from its root to the device identity key (R417) (log 11). -/
opaque deviceChain : List Byte → List (List Byte)

/-- The key hash held in ROM (R414) (log 11). -/
opaque romKeyHash : List Byte

/-- The key hash that the body of the first-stage image carries: its place is not given (R414) (log 11). -/
opaque bodyKeyHash : List Byte → List Byte

/-- The configuration record's body as numbered values (R416); `none` when it cannot be read as such. Its layout is not
given (log 11). -/
opaque parseRecord : List Byte → Option (List (Nat × Nat))

/-- Bytes 8 to 59 of a flit of a transfer, by the transfer and the flit's place in it (R436): the layout is not given
(log 29). -/
opaque flitBody : Nat → Nat → List Byte

/-- The place, among a world's lanes to a peer, of the lane that serves a line (R436): the function is not given (log
29). -/
opaque flitLane : Nat → Nat

/-- The sequence number that a received flit acknowledges, if any (R437): the form is not given (log 29). -/
opaque flitAck : List Byte → Option Nat

end Sys2Proof.Config
end

