-- ==== Sys2Proof/Syntax.lean ====
section
/-! DEFINITION. The instructions and events of the NX4: one constructor of `Instr` for each row of the opcode table.
Fields that an encoding restricts to a group of registers are held as the number of the group. -/

namespace Sys2Proof

/-- A vector, scalar or selector number of six bits (R48). -/
abbrev Reg := Fin 64

/-- An aligned pair of registers: registers 2k and 2k + 1. -/
abbrev Pair := Fin 32

/-- An aligned quad of registers: registers 4k to 4k + 3. -/
abbrev Quad := Fin 16

/-- An aligned group of eight registers from 8k. -/
abbrev Oct := Fin 8

/-- A predicate number (R49). -/
abbrev Pred := Fin 32

/-- The guard field G (R28, R35); 0b1111 is no guard. -/
inductive Guard where
  | always
  | pos (p : Fin 7)
  | neg (p : Fin 7)
  deriving DecidableEq, Repr

/-- The chain and run-end bits of a free instruction (R28, R38). -/
structure Hdr where
  c : Bool
  e : Bool
  deriving DecidableEq, Repr

/-- Second source of a V3 or P instruction: a vector register, or the literal word that B = 63 announces (R34). -/
inductive VSrc where
  | reg (r : Fin 63)
  | lit (w : W32)
  deriving DecidableEq, Repr

/-- Second source of an S3 instruction: a scalar register, or a literal word (R34). -/
inductive SSrc where
  | reg (r : Fin 63)
  | lit (w : W32)
  deriving DecidableEq, Repr

/-- The address operands of a vector M-format instruction (R50). -/
structure MAddr where
  x : Reg
  sc : Fin 4
  base : Reg
  off : BitVec 24
  deriving DecidableEq, Repr

/-- The address operands of a scalar M-format instruction, whose X is 63 and SC 0 (R50). -/
structure SAddr where
  base : Reg
  off : BitVec 24
  deriving DecidableEq, Repr

/-- Scope codes 0 to 4 (R53, R208). -/
inductive Scope where
  | core | cluster | die | module | system
  deriving DecidableEq, Repr

/-- Atomic op codes 0x00 to 0x0F (R197). -/
inductive AOp where
  | add | minS | maxS | minZ | maxZ | and | or | xor | swap | cas | inc | dec | fadd | fmin | fmax | badd
  deriving DecidableEq, Repr

/-- Operands of the A format (R51): D, X, V, BASE, LA, AOP, W and OFFSET. -/
structure AArgs where
  d : Reg
  x : Reg
  v : Reg
  base : Reg
  la : Fin 16
  aop : AOp
  wide : Bool
  off : BitVec 15
  deriving DecidableEq, Repr

/-- Op codes of `prmw` (R239). -/
inductive QOp where
  | add | bnd | minS | maxS | and | or | xor | swap | cas | inc
  deriving DecidableEq, Repr

/-- Operands of a copy (R53). `srec` and `drec` are s[4k]; `bar` 63 is none; `cw` is CWA when CW is 1. -/
structure CArgs where
  srec : Fin 14
  drec : Fin 14
  bar : Reg
  la : Fin 16
  acq : Bool
  rel : Bool
  scope : Scope
  cw : Option (Fin 63)
  deriving DecidableEq, Repr

/-- Operands of `mma` (R54). `fb` is s[2k]. -/
structure MXArgs where
  acc : Reg
  aslot : Reg
  bslot : Reg
  la : Fin 16
  fb : Pair
  z : Bool
  bd : Bool
  deriving DecidableEq, Repr

/-- What `owrite` and `oread` move (R313): a half row in eight vector registers, or the side-band in one. -/
inductive OSel where
  | half (hi : Bool) (g : Oct)
  | side (v : Reg)
  deriving DecidableEq, Repr

/-- The targets of `swrs`: the special registers with a field software may write (R103, R104). -/
inductive SWTarget where
  | timerent | trappc | fpctl | fstat | mbatch
  deriving DecidableEq, Repr

/-- Modes of `tlbi` (R335). -/
inductive TlbiMode where
  | loc | va | all
  deriving DecidableEq, Repr

/-- Modes of `resume` (R348). -/
inductive ResumeMode where
  | retry | at | retire
  deriving DecidableEq, Repr

/-- The store in which an uncorrectable error is found (R429). -/
inductive ErrorSite where
  /-- L1 data or tag of a core, by 128-byte line number. -/
  | l1 (core line : Nat)
  /-- L2 data, by 128-byte line number. -/
  | l2Data (line : Nat)
  /-- L2 tag or state entry of a set of a slice; `both` when both copies are bad. -/
  | l2Tag (slice set : Nat) (both : Bool)
  /-- Cluster translation-buffer entry. -/
  | tlb (cluster set way : Nat)
  /-- Micro translation-buffer copy of that cluster entry in one core. -/
  | utlb (core set way : Nat)
  /-- One lane of a vector register of a troupe. -/
  | vreg (core tslot reg lane : Nat)
  /-- Eight bytes of the slot state of a troupe, by their place in a troupe image divided by 8 (R345). -/
  | slotState (core tslot word : Nat)
  /-- A 16-byte row of a scratchpad bank, by address divided by 16. -/
  | spad (core row : Nat)
  /-- A 64-byte unit of an operand slot, 0 to 127 for data and 128 to 131 for the side-band. -/
  | oslot (core slot unit : Nat)
  /-- An accumulator element; `bankB` names the bank. -/
  | acc (core a : Nat) (bankB : Bool) (row col : Nat)
  /-- A queued mailbox entry. -/
  | mbx (m entry : Nat)
  deriving DecidableEq, Repr

/-- A TLP of the host: the function that it is for, and whether it came on that function's IDE stream (R422). -/
structure Tlp where
  fn : Nat
  ide : Bool := false
  deriving DecidableEq, Repr

/-- An entry of a function's front-end table. A write from outside the VF comes to the PF (R423). -/
structure FeSlot where
  index : Nat
  outside : Bool := false
  deriving DecidableEq, Repr

/-- A waiting `qbarrier` as it was recorded for a migration: its slot, its words and its position in the order of R397
(R411). -/
structure QRecord where
  slot : Nat
  words : List W64
  place : Nat
  deriving DecidableEq, Repr

/-- The responder to which an SPDM request goes, by its function, and whether the request is a secured message of its
session (R419). -/
structure Responder where
  fn : Nat
  secured : Bool := false
  deriving DecidableEq, Repr

/-- What a peer asks of this module (R172, R351). -/
inductive RemoteKind where
  /-- Read `n` bytes at a physical address. -/
  | read (pa n : Nat)
  /-- Write bytes at a physical address. -/
  | write (pa : Nat) (data : List Byte)
  /-- Apply an atomic or reduction at a physical address. -/
  | atomic (pa : Nat) (aop : AOp) (wide : Bool) (x c : W64)
  /-- Ask whether an access of n bytes would be admitted, a write or a read: nothing is performed (R187; log 64). -/
  | query (pa n : Nat) (write : Bool)
  /-- Post seven payload words to a mailbox. -/
  | post (m : Nat) (payload : List W64) (core tslot launch : Nat)
  deriving DecidableEq, Repr

/-- How the host or a peer answers a request that this module issued (R199, R222). -/
inductive Reply where
  /-- Bytes read, the old value of an atomic, or the status of a mailbox post. -/
  | data (bytes : List Byte)
  /-- A store acknowledged. -/
  | ack
  /-- The target refused the access, or did not complete it. -/
  | refused
  /-- The target's binding is moving: the access is to be retried. -/
  | retry
  deriving DecidableEq, Repr

/-- The rows of the opcode table: 192 instructions, then 104 events and commands, those that the machine itself
lets fall due first. -/
inductive Instr where
  -- class 0: vector (R56, R141)
  | fadd (h : Hdr) (g : Guard) (d a : Reg) (b : VSrc)
  | fsub (h : Hdr) (g : Guard) (d a : Reg) (b : VSrc)
  | fmul (h : Hdr) (g : Guard) (d a : Reg) (b : VSrc)
  | ffma (h : Hdr) (g : Guard) (d a : Reg) (b : VSrc)
  | fmin (h : Hdr) (g : Guard) (d a : Reg) (b : VSrc)
  | fmax (h : Hdr) (g : Guard) (d a : Reg) (b : VSrc)
  | fneg (h : Hdr) (g : Guard) (d a : Reg)
  | fabs (h : Hdr) (g : Guard) (d a : Reg)
  | frcp (h : Hdr) (g : Guard) (d a : Reg)
  | frsq (h : Hdr) (g : Guard) (d a : Reg)
  | fex2 (h : Hdr) (g : Guard) (d a : Reg)
  | flg2 (h : Hdr) (g : Guard) (d a : Reg)
  | ftanh (h : Hdr) (g : Guard) (d a : Reg)
  | fcmpEq (h : Hdr) (g : Guard) (pd : Pred) (a : Reg) (b : VSrc)
  | fcmpNe (h : Hdr) (g : Guard) (pd : Pred) (a : Reg) (b : VSrc)
  | fcmpLt (h : Hdr) (g : Guard) (pd : Pred) (a : Reg) (b : VSrc)
  | fcmpLe (h : Hdr) (g : Guard) (pd : Pred) (a : Reg) (b : VSrc)
  | fcmpUn (h : Hdr) (g : Guard) (pd : Pred) (a : Reg) (b : VSrc)
  | badd (h : Hdr) (g : Guard) (d a : Reg) (b : VSrc)
  | bmul (h : Hdr) (g : Guard) (d a : Reg) (b : VSrc)
  | bfma (h : Hdr) (g : Guard) (d a : Reg) (b : VSrc)
  | cvt (h : Hdr) (g : Guard) (d a : Reg) (code : Fin 42)
  | iadd (h : Hdr) (g : Guard) (d a : Reg) (b : VSrc)
  | isub (h : Hdr) (g : Guard) (d a : Reg) (b : VSrc)
  | imul (h : Hdr) (g : Guard) (d a : Reg) (b : VSrc)
  | imulhiS (h : Hdr) (g : Guard) (d a : Reg) (b : VSrc)
  | imulhiZ (h : Hdr) (g : Guard) (d a : Reg) (b : VSrc)
  | imad (h : Hdr) (g : Guard) (d a : Reg) (b : VSrc)
  | iminS (h : Hdr) (g : Guard) (d a : Reg) (b : VSrc)
  | imaxS (h : Hdr) (g : Guard) (d a : Reg) (b : VSrc)
  | iminZ (h : Hdr) (g : Guard) (d a : Reg) (b : VSrc)
  | imaxZ (h : Hdr) (g : Guard) (d a : Reg) (b : VSrc)
  | iand (h : Hdr) (g : Guard) (d a : Reg) (b : VSrc)
  | ior (h : Hdr) (g : Guard) (d a : Reg) (b : VSrc)
  | ixor (h : Hdr) (g : Guard) (d a : Reg) (b : VSrc)
  | inot (h : Hdr) (g : Guard) (d a : Reg)
  | ishl (h : Hdr) (g : Guard) (d a : Reg) (b : VSrc)
  | ishrZ (h : Hdr) (g : Guard) (d a : Reg) (b : VSrc)
  | ishrS (h : Hdr) (g : Guard) (d a : Reg) (b : VSrc)
  | ipopc (h : Hdr) (g : Guard) (d a : Reg)
  | iclz (h : Hdr) (g : Guard) (d a : Reg)
  | iaddsatS (h : Hdr) (g : Guard) (d a : Reg) (b : VSrc)
  | icmpEq (h : Hdr) (g : Guard) (pd : Pred) (a : Reg) (b : VSrc)
  | icmpNe (h : Hdr) (g : Guard) (pd : Pred) (a : Reg) (b : VSrc)
  | icmpLtS (h : Hdr) (g : Guard) (pd : Pred) (a : Reg) (b : VSrc)
  | icmpLeS (h : Hdr) (g : Guard) (pd : Pred) (a : Reg) (b : VSrc)
  | icmpLtZ (h : Hdr) (g : Guard) (pd : Pred) (a : Reg) (b : VSrc)
  | icmpLeZ (h : Hdr) (g : Guard) (pd : Pred) (a : Reg) (b : VSrc)
  | sel (h : Hdr) (neg : Bool) (p : Fin 7) (d a : Reg) (b : VSrc)
  | mov (h : Hdr) (g : Guard) (d : Reg) (b : VSrc)
  | vbcast (h : Hdr) (g : Guard) (d a : Reg) (hi : Bool)
  | vlane (h : Hdr) (g : Guard) (d : Reg)
  | shflIdx (h : Hdr) (g : Guard) (d a : Reg) (b : VSrc)
  | shflXor (h : Hdr) (g : Guard) (d a : Reg) (b : VSrc)
  | shflUp (h : Hdr) (g : Guard) (d a : Reg) (b : VSrc)
  | shflDn (h : Hdr) (g : Guard) (d a : Reg) (b : VSrc)
  | redfAdd (h : Hdr) (g : Guard) (d a : Reg)
  | rediAdd (h : Hdr) (g : Guard) (d a : Reg)
  | redfMax (h : Hdr) (g : Guard) (d a : Reg)
  | pand (h : Hdr) (g : Guard) (pd pa pb : Pred)
  | por (h : Hdr) (g : Guard) (pd pa pb : Pred)
  | pxor (h : Hdr) (g : Guard) (pd pa pb : Pred)
  | pnot (h : Hdr) (g : Guard) (pd pa : Pred)
  | ballot (h : Hdr) (g : Guard) (d : Pair) (pa : Pred)
  -- class 1: scalar and control (R57, R106, R113, R361)
  | sadd (h : Hdr) (d a : Reg) (b : SSrc)
  | ssub (h : Hdr) (d a : Reg) (b : SSrc)
  | smul (h : Hdr) (d a : Reg) (b : SSrc)
  | sand (h : Hdr) (d a : Reg) (b : SSrc)
  | sor (h : Hdr) (d a : Reg) (b : SSrc)
  | sxor (h : Hdr) (d a : Reg) (b : SSrc)
  | sshl (h : Hdr) (d a : Reg) (b : SSrc)
  | sshrZ (h : Hdr) (d a : Reg) (b : SSrc)
  | sshrS (h : Hdr) (d a : Reg) (b : SSrc)
  | smov (h : Hdr) (d : Reg) (b : SSrc)
  | smov64 (h : Hdr) (d : Reg) (lo hi : W32)
  | scmpEq (h : Hdr) (f : Fin 8) (a : Reg) (b : SSrc)
  | scmpNe (h : Hdr) (f : Fin 8) (a : Reg) (b : SSrc)
  | scmpLtS (h : Hdr) (f : Fin 8) (a : Reg) (b : SSrc)
  | scmpLtZ (h : Hdr) (f : Fin 8) (a : Reg) (b : SSrc)
  | scmpLeS (h : Hdr) (f : Fin 8) (a : Reg) (b : SSrc)
  | scmpLeZ (h : Hdr) (f : Fin 8) (a : Reg) (b : SSrc)
  | sbfi (h : Hdr) (d a : Reg) (b : SSrc)
  | sbfx (h : Hdr) (d a : Reg) (b : SSrc)
  | srds (h : Hdr) (d : Reg) (n : Fin 18)
  | swrs (h : Hdr) (t : SWTarget) (a : Reg)
  | exsave (h : Hdr) (d : Pair) (live : Bool)
  | exload (h : Hdr) (a : Pair)
  | exand (h : Hdr) (p : Pred)
  | exandn (h : Hdr) (p : Pred)
  | exif (h : Hdr) (d : Pair) (p : Pred)
  | exelse (h : Hdr) (a : Pair)
  | excnt (h : Hdr) (d : Reg) (live : Bool)
  | br (e : Bool) (off : W32)
  | bexz (e : Bool) (off : W32)
  | bexnz (e : Bool) (off : W32)
  | bf (e : Bool) (f : Fin 8) (off : W32)
  | bnf (e : Bool) (f : Fin 8) (off : W32)
  | bri (e : Bool) (a : Reg) (off : W32)
  | call (e : Bool) (d : Reg) (off : W32)
  | loop (e : Bool) (a : Reg) (off : W32)
  | nop (h : Hdr)
  | ensJoin (e : Bool) (d a : Reg)
  | ensLeave (e : Bool) (d a : Reg)
  | ensNew (e : Bool) (d : Reg)
  | ensFree (e : Bool) (d a : Reg)
  | timerset (e : Bool) (a : Reg) (b : SSrc)
  | timerclr (e : Bool)
  | tret (e : Bool)
  | clock (h : Hdr) (d : Reg)
  | cycles (h : Hdr) (d : Reg)
  | yield (e : Bool)
  | exit (e : Bool)
  | lexit (e : Bool)
  -- class 2: memory (R58, R193, R196, R236, R258, R269, R274, R277, R278, R282, R284)
  | ldg8z (e : Bool) (g : Guard) (d : Reg) (m : MAddr) (la : Fin 16)
  | ldg8s (e : Bool) (g : Guard) (d : Reg) (m : MAddr) (la : Fin 16)
  | ldg16z (e : Bool) (g : Guard) (d : Reg) (m : MAddr) (la : Fin 16)
  | ldg16s (e : Bool) (g : Guard) (d : Reg) (m : MAddr) (la : Fin 16)
  | ldg32 (e : Bool) (g : Guard) (d : Reg) (m : MAddr) (la : Fin 16)
  | ldg64 (e : Bool) (g : Guard) (d : Pair) (m : MAddr) (la : Fin 16)
  | ldg128 (e : Bool) (g : Guard) (d : Quad) (m : MAddr) (la : Fin 16)
  | stg8 (e : Bool) (g : Guard) (d : Reg) (m : MAddr) (la : Fin 16)
  | stg16 (e : Bool) (g : Guard) (d : Reg) (m : MAddr) (la : Fin 16)
  | stg32 (e : Bool) (g : Guard) (d : Reg) (m : MAddr) (la : Fin 16)
  | stg64 (e : Bool) (g : Guard) (d : Pair) (m : MAddr) (la : Fin 16)
  | stg128 (e : Bool) (g : Guard) (d : Quad) (m : MAddr) (la : Fin 16)
  | lds32 (e : Bool) (g : Guard) (d : Reg) (m : MAddr) (la : Fin 16)
  | lds64 (e : Bool) (g : Guard) (d : Pair) (m : MAddr) (la : Fin 16)
  | lds128 (e : Bool) (g : Guard) (d : Quad) (m : MAddr) (la : Fin 16)
  | sts32 (e : Bool) (g : Guard) (d : Reg) (m : MAddr) (la : Fin 16)
  | sts64 (e : Bool) (g : Guard) (d : Pair) (m : MAddr) (la : Fin 16)
  | sts128 (e : Bool) (g : Guard) (d : Quad) (m : MAddr) (la : Fin 16)
  | sld (e : Bool) (d : Reg) (m : SAddr) (la : Fin 16)
  | sst (e : Bool) (d : Reg) (m : SAddr) (la : Fin 16)
  | slds (e : Bool) (d : Reg) (m : SAddr) (la : Fin 16)
  | ssts (e : Bool) (d : Reg) (m : SAddr) (la : Fin 16)
  | xst32 (e : Bool) (g : Guard) (d : Reg) (m : MAddr) (la : Fin 16)
  | xst128 (e : Bool) (g : Guard) (d : Quad) (m : MAddr) (la : Fin 16)
  | amog (e : Bool) (g : Guard) (x : AArgs)
  | amos (e : Bool) (g : Guard) (x : AArgs)
  | redg (e : Bool) (g : Guard) (x : AArgs)
  | pboard (e : Bool) (d : Quad) (slot : Reg) (la : Fin 16)
  | palight (e : Bool) (d : Quad) (slot : Reg) (la : Fin 16)
  | pread (e : Bool) (d : Quad) (slot : Reg) (la : Fin 16)
  | pwrite (e : Bool) (d : Quad) (slot : Reg) (la : Fin 16)
  | prmw (e : Bool) (d : Quad) (slot opnd : Reg) (la : Fin 16) (op : QOp) (wsel : Fin 4)
  | barInit (e : Bool) (a : Reg) (b : SSrc)
  | barArrive (e : Bool) (d a : Reg) (b : SSrc)
  | barExpect (e : Bool) (a : Reg) (b : SSrc)
  | barWait (e : Bool) (a : Reg) (b : SSrc)
  | barTest (e : Bool) (d a : Reg) (b : SSrc)
  | ebarArrive (e : Bool) (d a : Reg) (b : SSrc)
  | cpy (e : Bool) (x : CArgs)
  | cpyg (e : Bool) (x : CArgs)
  | pref (e : Bool) (l1 : Bool) (m : SAddr) (la : Fin 16)
  | pin (e : Bool) (d : Reg) (m : SAddr) (la : Fin 16)
  | unpin (e : Bool) (m : SAddr) (la : Fin 16)
  | fence (e : Bool) (scope : Scope)
  | mbxPost (e : Bool) (d a : Reg) (b : Oct)
  | mbxTake (e : Bool) (d : Oct) (a b : Reg)
  | mwait (e : Bool) (a : Reg)
  -- class 3: system and matrix (R59, R309, R330, R361, R381, R389)
  | oclaim (e : Bool) (d : Reg)
  | orelease (e : Bool) (d a : Reg)
  | owrite (e : Bool) (g : Guard) (slot : Reg) (x : OSel)
  | oread (e : Bool) (g : Guard) (slot : Reg) (x : OSel)
  | aclaim (e : Bool) (d : Reg)
  | arelease (e : Bool) (d a : Reg)
  | mma (e : Bool) (g : Guard) (x : MXArgs)
  | mfence (e : Bool) (d : Reg)
  | aswap (e : Bool) (a : Reg)
  | ard (e : Bool) (g : Guard) (d : Fin 4) (a : Reg) (grp : Fin 8)
  | awr (e : Bool) (g : Guard) (acc : Reg) (v : Fin 4) (grp : Fin 8)
  | azero (e : Bool) (a : Reg)
  | asts (e : Bool) (a : Reg) (b : SSrc)
  | tlbw (e : Bool) (a : Pair) (b : SSrc)
  | tlbr (e : Bool) (d : Pair) (a : Reg)
  | tlbi (e : Bool) (a : Reg) (mode : TlbiMode)
  | frameq (e : Bool) (d a : Reg)
  | yieldres (e : Bool) (d a : Reg) (cls : Fin 11)
  | lossrd (e : Bool) (d : Reg) (b : SSrc)
  | lossclr (e : Bool) (a : Reg)
  | resume (e : Bool) (d a : Reg) (mode : ResumeMode)
  | suspend (e : Bool) (d a : Reg)
  | revive (e : Bool) (d a : Reg) (b : SSrc)
  | wraparm (e : Bool) (a : Pair) (b : SSrc)
  | wrapdone (e : Bool) (b : SSrc)
  | valid (e : Bool) (a : Reg) (b : SSrc)
  | trap (e : Bool) (b : SSrc)
  | brk (e : Bool)
  | faultrd (e : Bool) (d : Oct) (a : Reg)
  | fstat (e : Bool) (g : Guard) (d : Reg)
  | cntcfg (e : Bool) (a : Reg) (b : SSrc)
  | cntrd (e : Bool) (d a : Reg)
  -- issue, placement, deadlines
  | runArbitration (core islot : Nat)
  | tokenRefill
  | slackRecompute
  | placementOpportunity
  | launchAcceptance (i : Nat)
  | troupeRetirement (core tslot : Nat)
  | nodeEventPost (launch i : Nat)
  | launchDivert (launch : Nat)
  | deadlineStop (launch : Nat)
  | actDivert (core tslot : Nat)
  | timerTrap (core tslot : Nat)
  | watchdog
  | missRetry (core tslot : Nat)
  -- memory and engines
  | serviceRequest (cluster i : Nat)
  | atomicReturn (core tslot : Nat)
  | processionPassage (core : Nat) (half : Bool)
  | pboardExhausted (core i : Nat)
  | processionOwnerChange (slot : Nat)
  | copyChunk (id chunk : Nat)
  | copyCompletion (id : Nat)
  | ensemblePhaseComplete (ens : Nat)
  | mmaExecute (core : Nat)
  | mmaComplete (core : Nat)
  | aswapExecute (core : Nat)
  | visibleBankComplete (core acc : Nat)
  -- allocator and abort engine
  | noticePost (w : Nat)
  | noticeExpiry (w id : Nat)
  | copyDrainTimeout (id : Nat)
  -- further events that the machine itself lets fall due
  | counterOverflow (w i : Nat)
  | sliceAccessPerformed (core tslot : Nat)
  | exchangeWriteLands (i : Nat)
  | prologueRepeat (q slot : Nat)
  | prologueOverrun (q slot : Nat)
  | qbarrierEvaluation (q slot : Nat)
  | packetCompletion (q slot : Nat)
  | qbarrierRearm (q : Nat) (r : QRecord)
  -- commands to the allocator
  | create (w : Nat) (ops : List W64)
  | destroy (w : Nat)
  | bind (w : Nat) (ops : List W64)
  | revoke (w : Nat) (ops : List W64)
  | limitsTokenBudget (w : Nat) (ops : List W64)
  | limitsDways (w : Nat) (ops : List W64)
  | limitsPinQuota (w : Nat) (ops : List W64)
  | limitsMissQuota (w : Nat) (ops : List W64)
  | limitsRequestQuota (w : Nat) (ops : List W64)
  | limitsWatchdog (w : Nat) (ops : List W64)
  | limitsTimingFence (w : Nat) (ops : List W64)
  | limitsReservedCycles (w : Nat) (ops : List W64)
  | switch (w : Nat) (ops : List W64)
  | remote (w : Nat) (ops : List W64)
  | restart (w : Nat) (ops : List W64)
  | launch (w : Nat) (ops : List W64)
  -- registers and packets
  | qWptrDoorbell (tlp : Tlp) (q : Nat) (value : W64)
  | queueStop (tlp : Tlp) (q : Nat)
  | queueRun (tlp : Tlp) (q : Nat) (value : W64)
  | feEntryWrite (tlp : Tlp) (entry : FeSlot) (lo : W64)
  | allocDoorbell (fn : Nat) (value : W64)
  | registerWrite (tlp : Tlp) (off : Nat) (value : W64)
  | qnop (q : Nat)
  | qlaunch (q : Nat)
  | qprolog (q : Nat)
  | qpred (q : Nat)
  | qbarrier (q : Nat)
  | qsignal (q : Nat)
  | qcopy (q : Nat)
  | qpost (q : Nat)
  | qmark (q : Nat)
  | qdebug (q : Nat)
  -- debug requests
  | halt (w : Nat) (loc : W64)
  | cont (w : Nat) (loc : W64)
  | step (w : Nat) (loc : W64) (lanes : Mask)
  | read (w : Nat) (loc item : W64)
  | write (w : Nat) (loc item : W64) (data : List Byte)
  | barrd (w : Nat) (core addr : W64)
  | setbp (w : Nat) (n value : W64)
  | setwp (w : Nat) (n w0 w1 : W64)
  | list (w : Nat)
  -- counters, host, peers, package, trust, errors
  | hostBar2Access (tlp : Tlp) (off n : Nat) (data : Option (List Byte))
  | hostMemoryWrite (pa n : Nat) (data : Option (List Byte))
  | remoteAccess (peer rworld tag : Nat) (kind : RemoteKind)
  | flitReceive (lane : Nat) (flit : List Byte)
  | flitResend (lane : Nat)
  | timeSyncInterval (good : Bool) (ppm : Int)
  | timeSourceLoss
  | heatSample (cluster : Nat) (celsius : Int)
  | powerCheck (watts : Nat) (draws : List Nat)
  | junctionTrip (celsius : Int)
  | hotReset
  | linkDown
  | getMeasurements (who : Responder) (index : Nat) (nonce : List Byte)
  | challenge (who : Responder) (nonce : List Byte)
  | keyExchange (fn : Nat) (encapKey : List Byte)
  | finish (fn : Nat) (mac : List Byte)
  | ideKm (who : Responder) (keys : List Byte)
  | lockInterface (fn : Nat)
  | startInterface (fn : Nat)
  | uncorrectableError (site : ErrorSite)
  | memoryLinePoison (line : Nat)
  | integrityNodeError (level j : Nat)
  | processionSlotPoison (slot : Nat)
  | pcieCompletion (id : Nat) (r : Reply)
  | liveMigrationQuiesce (w : Nat)
  | negotiateAlgorithms (fn : Nat) (mldsa sha3 mlkem aes : Bool)
  | getCertificate (who : Responder) (slot : Nat)
  deriving DecidableEq, Repr

end Sys2Proof
end

