-- ==== Sys2Proof/Machine/State.lean ====
section
/-! DEFINITION. Everything that the specification says an NX4 module holds, as plain data, and the module after hot
reset. Numbers of cores, slots and frames are `Nat`; register contents and words that software reads are bit vectors.
A table lists only what differs from the reset value of its entries. -/

namespace Sys2Proof.Machine

/-- Why a step cannot go on. -/
inductive Fault where
  /-- The module removed its own power at the junction trip (R440) and does nothing until the next reset.
  Raised by `step`. Safe: the hardware does nothing either. -/
  | unpowered
  deriving DecidableEq, Repr

/-- Why an instruction or event has no meaning here. -/
inductive Refusal where
  /-- An instruction that has no meaning yet, rejected by its name in the dispatch. Safe. -/
  | notModelled (mnemonic : String)
  deriving DecidableEq, Repr

/-- Sparse bytes: addresses strictly rising, no listed byte 0; an unlisted address reads 0 (log 4). -/
abbrev Bytes := List Host.Cell

/-- The sticky exception bits of the lanes, one mask for each exception (R135). -/
structure Sticky where
  inv : Mask := 0
  dz : Mask := 0
  ovf : Mask := 0
  unf : Mask := 0
  nx : Mask := 0
  deriving DecidableEq, Repr

/-- The special registers a troupe stores (R103); the others are views of its place and launch. -/
structure Specials where
  divpc : W32 := 0
  divcause : BitVec 8 := 0
  timer : W64 := 0
  timerent : W32 := 0
  trappc : W32 := 0
  fpctl : BitVec 8 := 0
  replay : Mask := 0
  batch : W32 := 0
  special : Bool := false
  deriving DecidableEq, Repr

/-- What a troupe that is not ready waits for (R89). -/
inductive Wait where
  | no
  /-- `bar.wait` on the object at `addr` for `phase`, since the Almanac time `since`; `next` is the word index behind
  it, while the program counter stays at the wait (R262, R356, R372). -/
  | bar (addr : Nat) (phase : W32) (since : Nat) (next : W32)
  /-- `mwait` for a batch (R285). -/
  | batch (n next : W32)
  /-- Parked on miss-table entries of its cluster, by virtual page number (R183). -/
  | parked (pages : List Nat)
  /-- Waiting for an entry of the full miss table of its cluster (R183). -/
  | missRoom
  /-- Waiting for a phase of an ensemble, because the exchange hold is full (R275). -/
  | exchange (ens : Nat)
  deriving DecidableEq, Repr

/-- Wrap-up (R357, R360). -/
inductive Wrap where
  | no | launch | act
  deriving DecidableEq, Repr

/-- An act armed by `wraparm` (R360, R363). -/
structure Act where
  armed : Bool := false
  ad : W64 := 0
  aw : W64 := 0
  work : W64 := 0
  used : Nat := 0
  slack : Nat := 3
  deriving DecidableEq, Repr

/-- What an issued operation will do when it is performed. -/
inductive OpKind where
  | load (bytes : Nat) (sext : Bool) (d : Nat)
  | sload (d : Nat)
  | store (bytes : Nat)
  | atomic (aop : AOp) (wide : Bool) (ret : Option Nat)
  | reduce (aop : AOp) (wide : Bool)
  /-- A Procession entry at the core's stop, and whether it writes registers. -/
  | ring (results : Bool)
  /-- A `mbx.post` to a peer, whose status goes to a scalar register (R283). -/
  | post (d : Nat)
  /-- The OR of `valid` (R365). -/
  | commit
  /-- A `bar.arrive` of n arrivals at the object at an address, whose phase goes to a scalar register (R211, R260). -/
  | arrive (addr n d : Nat)
  /-- A `mbx.post` of an entry to a mailbox of the module, whose status goes to a scalar register (R211, R283). -/
  | mpost (m : Nat) (entry : List W64) (d : Nat)
  deriving DecidableEq, Repr

/-- One lane of an issued access: its physical address, the data, and the compare value of `cas`. -/
structure LaneOp where
  lane : Nat
  va : Nat
  pa : Nat
  x : W64 := 0
  c : W64 := 0
  data : List Byte := []
  /-- The entry's NA bit: a miss in L2 streams (R178). -/
  na : Bool := false
  deriving DecidableEq, Repr

/-- An issued operation of a troupe that is not complete, in program order (R43 to R46, R195, R201). -/
structure Op where
  id : Nat
  kind : OpKind
  lanes : List LaneOp := []
  /-- Following instructions that may still issue before it is complete (R43). -/
  la : Nat := 0
  /-- Performed in S; only results or acknowledgements of the outside are awaited. -/
  performed : Bool := false
  /-- Lanes whose host or peer part is awaited. -/
  external : List LaneOp := []
  /-- Results gathered so far, by lane. -/
  results : List (Nat × List Byte) := []
  /-- An instruction within its window has broken its promise (R45). -/
  clash : Bool := false
  /-- Earlier operations of the troupe, reductions among them, that a release waits for (R211). -/
  after : List Nat := []
  /-- Targets outside the module to which its lanes there have been sent: 0 the host, p + 1 peer p (R222). -/
  gone : List Nat := []
  /-- The lanes of a returning atomic that translated, where others missed (R187). -/
  part : Bool := false
  deriving DecidableEq, Repr

/-- What an instruction can change in a troupe before it completes (R40). -/
structure Saved where
  v : Vector Lanes 64
  s : Vector W64 64
  p : Vector Mask 32
  f : BitVec 8
  exec : Mask
  live : Mask
  pc : W32
  sp : Specials
  sticky : Sticky
  reported : BitVec 5
  deriving DecidableEq, Repr

/-- The issue state of a troupe and what is kept for its observers. -/
structure Ctl where
  wait : Wait := .no
  /-- The troupe as it stood before the chain whose `bar.wait` waits (R40, R259). -/
  head : Option Saved := none
  /-- The shared unit of its core for which it contends, and the cycle since which it does (R85). -/
  since : Option (Nat × Nat) := none
  /-- The largest logical time of its reductions that have been performed (R209). -/
  redTs : Nat := 0
  /-- Halted after a fault (R368). -/
  halted : Bool := false
  /-- Halted for debugging (R386). -/
  debug : Bool := false
  /-- A HALT to take effect at the next run boundary (R386). -/
  haltReq : Bool := false
  /-- The next instruction is exempt from breakpoints and watchpoints (R386). -/
  exempt : Bool := false
  /-- The lanes of a STEP that has not been taken (R390). -/
  stepReq : Option Mask := none
  /-- The latest fault record, eight words, or none since placement (R370). -/
  record : List W64 := []
  /-- The cycle at which the troupe became ready (R89). -/
  readyAt : Nat := 0
  /-- It ended its run by `yield` (R120). -/
  yielded : Bool := false
  /-- Issue cycles since placement (R119). -/
  cycles : Nat := 0
  /-- The chain head recorded with a miss, or with AtomicOps put to the host (R188, R199). -/
  replayPc : Option W32 := none
  /-- Old values of the lanes that an atomic instruction has performed before the rest of it: they reach its registers
  when it completes (R40, R187, R199). -/
  gathered : List (Nat × List Byte) := []
  /-- The word index of a `tlbi` that has taken its entries, and the accesses under way that it waits for (R335). -/
  tlbi : Option (W32 × List Nat) := none
  /-- Being suspended, evicted or switched out: it wins no further run (R345). -/
  leaving : Bool := false
  /-- A launch divert whose moment has passed and which has not taken effect (R356). -/
  divert : Bool := false
  /-- `exit` or the last `lexit` was performed; retirement waits for issued operations (R73). -/
  exited : Bool := false
  /-- Stopped at D or by the watchdog (R358, R372). -/
  stopped : Bool := false
  /-- Retired by `resume … retire` (R348). -/
  resumeRetired : Bool := false
  /-- The instruction at the program counter could not issue yet and holds the issue slot (R84). -/
  stalled : Bool := false
  /-- Batches with `mma` instructions that are not complete: batch number, count (R285, R305). -/
  batches : List (W32 × Nat) := []
  /-- Ensembles it belongs to, at most 8 (R115). -/
  ens : List Nat := []
  /-- Poisoned lanes of vector registers (R429). -/
  vPoison : List (Nat × Nat) := []
  /-- Poisoned words of slot state, as the eight-byte words of a troupe image (R345, R429). -/
  sPoison : List Nat := []
  deriving DecidableEq, Repr

/-- A troupe in its slot (R101, R83). -/
structure Troupe where
  /-- A number that no other troupe since reset has had: the model's own name for it (log 2). -/
  uid : Nat
  world : Nat
  launch : Nat
  tid : Nat
  core : Nat
  tslot : Nat
  blocks : List Nat
  v : Vector Lanes 64
  s : Vector W64 64
  p : Vector Mask 32
  f : BitVec 8
  exec : Mask
  live : Mask
  pc : W32
  sp : Specials
  sticky : Sticky
  reported : BitVec 5
  /-- DONE, the latest batch that is complete (R285). -/
  done : W32
  handler : Bool
  wrap : Wrap
  act : Act
  pts : Nat
  ops : List Op
  ctl : Ctl
  deriving DecidableEq, Repr

/-- One issue slot (R84, R91, R92): the troupe slot that holds it, the words of its run, the world that won last,
the overdue worlds, and the cycle of each world's last win. -/
structure Islot where
  holder : Option Nat := none
  words : Nat := 0
  last : Nat := 0
  overdue : List Nat := []
  won : Table Nat := []
  /-- Something has issued in the current cycle (R84, R376). -/
  issued : Bool := false
  /-- The cycle of its last turn on the agenda: within a cycle a core's issue slots have theirs in ascending order
  (R85; log 1). -/
  asked : Option Nat := none
  deriving DecidableEq, Repr

/-- A line of L1 (R165, R204, R206): its world, bytes, timestamps and the cycle its age counts from. -/
structure L1Line where
  world : Nat
  bytes : List Byte
  wts : Nat
  rts : Nat
  born : Nat
  deriving DecidableEq, Repr

/-- An entry of a core's exchange table (R273). -/
structure XPair where
  ens : Nat
  side : Bool := false
  deriving DecidableEq, Repr

/-- An accumulator: bank A, bank B, and which is visible (R288, R306). -/
structure Acc where
  a : Vector Lanes 128
  b : Vector Lanes 128
  visB : Bool
  deriving DecidableEq, Repr

/-- An instruction in the queue of a core's matrix array (R304, R306, R314). -/
structure MmaEntry where
  id : Nat
  /-- Key of the issuing troupe and its own name, to which completion is reported. -/
  tkey : Nat
  uid : Nat
  world : Nat
  /-- `aswap` of the accumulator, instead of an `mma`. -/
  swap : Bool := false
  acc : Nat
  aslot : Nat := 0
  bslot : Nat := 0
  /-- The 128-bit format block (R293, R294). -/
  fb : BitVec 128 := 0
  z : Bool := false
  bd : Bool := false
  /-- Rows that the instruction updates (R314). -/
  rows : Mask := 0
  batch : W32 := 0
  /-- Slots A and B as they stood at issue, by byte of the slot (R308), and the super-scales read then (R296). -/
  ops : List Bytes := []
  /-- What the slots held before each write made to them since: whether slot B, and the contents (R308). -/
  seen : List (Bool × Bytes) := []
  ss : List (List W32) := []
  deriving DecidableEq, Repr

/-- Work on the visible bank of an accumulator (R307, R315). -/
inductive VisWork where
  | zero
  | store (addr : Nat)
  deriving DecidableEq, Repr

/-- A pending operation at a stop of the Procession (R241, R242). -/
structure RingOp where
  id : Nat
  tkey : Nat
  uid : Nat
  world : Nat
  kind : Nat
  slot : Nat
  /-- First of the D group, and the scalar that `pboard` returns its slot in. -/
  d : Nat
  sd : Nat
  payload : List W64 := []
  qop : QOp := .add
  wsel : Nat := 0
  x : W64 := 0
  y : W64 := 0
  issued : Nat
  /-- Step from which a `pboard` counts its 768 steps, once eligible (R245). -/
  from? : Option Nat := none
  /-- To be performed as on a vacated slot (R246, R249). -/
  vacated : Bool := false
  deriving DecidableEq, Repr

/-- One of the 192 cores (R15, R18). -/
structure Core where
  spad : Bytes := []
  spadBad : List Nat := []
  swts : Nat := 0
  srts : Nat := 0
  plotOwner : Table Nat := []
  oslotOwner : Table Nat := []
  accOwner : Table Nat := []
  tslotOwner : Table Nat := []
  blockOwner : Table Nat := []
  /-- Bytes of the operand slots: slot i, byte b at 8,448 i + b, the side-band from 8,192 (R286). -/
  oslots : Bytes := []
  oslotBad : List (Nat × Nat) := []
  oClaimed : List Nat := []
  aClaimed : List Nat := []
  accs : Table Acc := []
  accBad : List (Nat × Bool × Nat × Nat) := []
  xtab : Table XPair := []
  islots : Table Islot := []
  l1 : Table L1Line := []
  /-- Micro translation buffer, most recent first: set and way of the cluster's entries (R182). -/
  utlb : List (Nat × Nat) := []
  stopQ : List RingOp := []
  mq : List MmaEntry := []
  /-- The `mma` in the array (R304). -/
  array : Option MmaEntry := none
  visBusy : Table VisWork := []
  almSkew : Nat := 0
  /-- The cycle in which each shared unit last took an instruction: 0 the matrix queue, 1 the copy unit, 2 the stop's
  queue (R85). -/
  taken : Table Nat := []
  deriving DecidableEq, Repr

/-- An entry of a miss table (R183): world, virtual page number, the troupes parked on it by key. -/
structure MissEntry where
  world : Nat
  page : Nat
  parked : List Nat
  deriving DecidableEq, Repr

/-- A request in the queue of a service troupe (R190): the lanes of one line of one atomic instruction. -/
structure Request where
  opId : Nat
  tkey : Nat
  uid : Nat
  world : Nat
  core : Nat
  aop : AOp
  wide : Bool
  returns : Bool
  reduces : Bool
  pts : Nat
  lanes : List LaneOp
  /-- Earlier ordinary accesses of the troupe that are to be performed first (R201, R209). -/
  after : List Nat
  /-- AtomicOps that the host may refuse: the instruction waits for their answers (R199, R365). -/
  sync : Bool := false
  /-- The OR of `valid`, which later accesses of the troupe do not follow (R365). -/
  commit : Bool := false
  deriving DecidableEq, Repr

/-- One of the 24 clusters. -/
structure Cluster where
  /-- Translation buffer: entry words by 16 × set + way (R178, R180). -/
  tlb : Table (W64 × W64) := []
  wayOwner : Table Nat := []
  miss : List MissEntry := []
  reqQ : List Request := []
  /-- Heat state by temperature (R442), and the state to which R443 raises it. -/
  heat : Nat := 0
  raised : Nat := 0
  celsius : Int := 25
  engTurn : Nat := 0
  lastPlace : Option Nat := none
  deriving DecidableEq, Repr

/-- A line of L2 (R165 to R173, R204): its world, whether it is dirty and what memory holds behind it, its encoding,
its data way (and half), the timestamps, the world that pinned it, the order of last use, and poison. -/
structure L2Line where
  world : Nat
  dirty : Bool
  back : List Byte
  code : Nat
  way : Option Nat
  wts : Nat
  rts : Nat
  pinned : Option Nat
  used : Nat
  bad : Bool := false
  deriving DecidableEq, Repr

/-- One of the 64 L2 slices. -/
structure Slice where
  /-- Lines present, by physical address divided by 128. -/
  lines : Table L2Line := []
  /-- Largest rts of any line this slice has evicted (R205). -/
  floor : Nat := 0
  wayOwner : Table Nat := []
  deriving DecidableEq, Repr

/-- A copy (R263 to R272, R403). -/
structure Copy where
  id : Nat
  /-- The issuing troupe by key and name, or the queue and the packet of a `qcopy`. -/
  tkey : Nat
  uid : Nat
  queue : Option (Nat × Nat) := none
  world : Nat
  launch : Nat
  core : Nat
  cluster : Nat
  pc : W32
  gather : Bool
  src : List W64
  dst : List W64
  /-- The index table of `cpyg`, read at issue (R269). -/
  index : List W32 := []
  bar : Option Nat
  cw : Option (W64 × W64)
  /-- Operations of the issuer that payload reads wait for (R214), and completion actions (R215). -/
  acqAfter : List Nat := []
  relAfter : List Nat := []
  /-- ACQ: its payload follows the issuer's covered operations in logical time as well (R214). -/
  acq : Bool := false
  /-- Numbers of the chunks not yet taken. -/
  todo : List Nat
  /-- The chunk whose reads the host or a peer is to answer, and how its elements in memory translated: whether written,
  virtual and physical address, NA (R272, R335). -/
  taking : Option Nat := none
  plan : List (Bool × Nat × Nat × Bool) := []
  started : Bool := false
  landed : Nat := 0
  /-- Payload for the next phase of an ensemble, and host or peer writes not yet acknowledged. -/
  waiting : List Nat := []
  /-- That payload chunk by chunk, with the virtual and physical addresses of the chunk's elements in memory (R335). -/
  flights : List (List Nat × List (Nat × Nat)) := []
  /-- Ensembles of which the issuer is a member, with the phase to which its exchange writes belong (R219, R275). -/
  phases : List (Nat × W32) := []
  /-- Largest logical time of its payload writes (R216). -/
  ts : Nat := 0
  cause : Option Nat := none
  /-- Cycle at which the drain of R340 gives up on it. -/
  drainBy : Option Nat := none
  deriving DecidableEq, Repr

/-- An exchange write that has not landed (R275): where it goes, the phase it belongs to (`none`: the open one),
the troupe or copy that issued it. -/
structure Held where
  id : Nat
  core : Nat
  pair : Nat
  off : Nat
  bytes : List Byte
  ens : Nat
  phase : Option W32
  world : Nat
  tkey : Nat
  uid : Nat
  copy : Option Nat := none
  deriving DecidableEq, Repr

/-- One of the 768 slots of the Procession (R233). -/
structure RingSlot where
  w : List W64 := [0, 0, 0, 0]
  owner : Nat := 0
  boarded : Bool := false
  poisoned : Bool := false
  wts : Nat := 0
  rts : Nat := 0
  deriving DecidableEq, Repr

/-- The stops' binding table for one slot (R234). -/
structure RingTag where
  owner : Nat := 0
  boarded : Bool := false
  poisoned : Bool := false
  deriving DecidableEq, Repr

/-- A change of OWNER that waits for the slot to arrive at stop 0 (R249): the new owner, and whether the payload is
saved first and under which notice. -/
structure RingMove where
  slot : Nat
  owner : Nat
  save : Bool
  notice : Nat
  deriving DecidableEq, Repr

/-- One of the 4,096 ensembles (R115, R276). -/
structure Ens where
  owner : Nat := 0
  allocated : Bool := false
  members : List Nat := []
  phase : W32 := 0
  /-- Arrivals for the open phase: member, core and address of its echo barrier. -/
  arrived : List (Nat × Nat × Nat) := []
  /-- Arrivals that wait for exchange writes: member, echo, and the writes awaited (R277). -/
  pending : List (Nat × Nat × Nat × List Nat) := []
  deriving DecidableEq, Repr

/-- One of the 1,024 mailboxes (R280). -/
structure Mailbox where
  owner : Nat := 0
  entries : List (List W64) := []
  drops : Nat := 0
  arming : Option (Nat × Nat) := none
  deriving DecidableEq, Repr

/-- A bound extent of frames (R323, R324): its base, size code, world, and frames that are BUSY. -/
structure Extent where
  base : Nat
  size : Nat
  world : Nat
  area : Bool := false
  busy : List Nat := []
  deriving DecidableEq, Repr

/-- An aperture of a world (R325). -/
structure Aperture where
  base : Nat
  size : Nat
  r : Bool
  w : Bool
  deriving DecidableEq, Repr

/-- The state of a world (R320). One that is switched out is so core by core, in `World.outCores` (R349, R380; log
24). -/
inductive WState where
  | absent | live | halted
  deriving DecidableEq, Repr

/-- The areas of a world (R326, R341, R344): physical bases and sizes. -/
structure Areas where
  faultMbx : Nat := 0
  noticeMbx : Nat := 0
  lossBase : Nat := 0
  lossCap : Nat := 0
  repBase : Nat := 0
  repSize : Nat := 0
  repOff : Nat := 0
  susBase : Nat := 0
  susCap : Nat := 0
  swBase : Nat := 0
  swSize : Nat := 0
  deriving DecidableEq, Repr

/-- The per-world limits (R445): by core, slice or cluster; an unlisted one holds its value at CREATE. -/
structure Limits where
  budget : Table Nat := []
  nextBudget : Table Nat := []
  balance : Table Int := []
  dways : Table Nat := []
  pinQuota : Table Nat := []
  missQuota : Table Nat := []
  reqQuota : Table Nat := []
  tw : Nat := 0
  fenced : Bool := false
  reserved : Table Nat := []
  deriving DecidableEq, Repr

/-- A revocation notice (R337): class, resources wanted, those yielded since the post (troupe slots apart), the
candidates, the expiry in cycles, and whether it has been posted. -/
structure Notice where
  id : Nat
  cls : Nat
  count : Nat
  slots : Nat := 0
  core : Nat := 0
  cand : List W64
  life : Nat
  posted : Bool := false
  /-- EXPIRY_CYC and EXPIRY_NS; expiry is compared against the Almanac (R337, R355). -/
  expiry : Nat := 0
  expiryNs : Nat := 0
  yielded : Nat := 0
  slotsYielded : Nat := 0
  /-- Numbers seized, once it is closing. -/
  seized : List W64 := []
  closing : Bool := false
  /-- The names of troupes being evicted for it (R346). -/
  evict : List Nat := []
  deriving DecidableEq, Repr

/-- A resource that is being taken from a world (R340): its class and number, whether the abort engine seizes it, and
under which notice. -/
structure Take where
  cls : Nat
  num : Nat
  seize : Bool := false
  notice : Nat := 0
  /-- Class 6: the way's entries as they stood before they were invalidated (log 46). -/
  image : List Byte := []
  /-- Class 6: the accesses under way that translated through them (R340). -/
  after : List Nat := []
  deriving DecidableEq, Repr

/-- A counter (R375), with the events charged to each core since the world was last switched in there (R380). -/
structure Counter where
  event : Nat := 0
  en : Bool := false
  irq : Bool := false
  core : Nat := 0
  ovf : Bool := false
  count : BitVec 48 := 0
  /-- Events whose inclusion wraps the count (R379). -/
  pending : Nat := 0
  perCore : Table Nat := []
  deriving DecidableEq, Repr

/-- The data key, MAC key and counter seed of a world (R424), as the names of key generations (log 11). -/
structure Keys where
  data : Nat
  mac : Nat
  seed : Nat
  deriving DecidableEq, Repr

/-- A debug request (R383). -/
inductive DebugReq where
  | halt (loc : W64)
  | cont (loc : W64)
  | step (loc : W64) (lanes : Mask)
  | read (loc item : W64)
  | write (loc item : W64) (data : List Byte)
  | barrd (core addr : W64)
  | setbp (n value : W64)
  | setwp (n w0 w1 : W64)
  | list
  deriving DecidableEq, Repr

/-- One of the 64 worlds. -/
structure World where
  st : WState := .absent
  epoch : Nat := 0
  areas : Areas := {}
  lossBits : BitVec 12 := 0
  lossCount : Nat := 0
  lossTotal : Nat := 0
  notices : List Notice := []
  nextNotice : Nat := 1
  takes : List Take := []
  apertures : List Aperture := []
  limits : Limits := {}
  /-- The runtime launch (R75). -/
  runtime : Option Nat := none
  counters : Table Counter := []
  bkpt : Table W64 := []
  watch : Table (W64 × W64) := []
  keys : Option Keys := none
  /-- Cores on which the world is switched out (R349). -/
  outCores : List Nat := []
  /-- Ensembles of the exchange pairs of those cores: core, pair, ensemble (R349). -/
  outPairs : List (Nat × Nat × Nat) := []
  /-- It is being quiesced for a migration (R411). -/
  moving : Bool := false
  /-- Response of the last debug request, and the requests that wait, in order, each with a name (R383, R384). -/
  response : List Byte := []
  debugs : List (Nat × DebugReq) := []
  deriving DecidableEq, Repr

/-- An accepted launch (R74 to R98). -/
structure Launch where
  world : Nat
  /-- The sixteen words of the descriptor, with zero in the low bits of CODE_BASE. -/
  desc : List W64
  /-- Order of acceptance (R79). -/
  order : Nat
  table : List Nat := []
  slack : Nat := 3
  used : Nat := 0
  nextTid : Nat := 0
  /-- Troupes removed before placement (R88). -/
  removed : Nat := 0
  alive : Nat := 0
  /-- Troupes counted by each core node, and the core nodes that have held a troupe (R96). -/
  coreCount : Table Nat := []
  fired : List (Nat × Nat) := []
  /-- Fired nodes whose events are to be posted: level and node (R98). -/
  toPost : List (Nat × Nat) := []
  retired : Nat := 0
  stopped : Nat := 0
  reachedV : Bool := false
  reachedD : Bool := false
  dogged : Bool := false
  faulted : Bool := false
  mbxFailed : Bool := false
  /-- The record of its completion is written, or on its way (R97). -/
  written : Bool := false
  floor : Nat := 0
  /-- The queue and packet that presented it (R404). -/
  packet : Option (Nat × Nat) := none
  /-- The words of its packets as they were last fetched, by packet: physical address and word (R31). -/
  fetched : Table (List (Nat × W32)) := []
  /-- Module memory when its first troupe was placed: what a packet that is fetched later may still be (R31). -/
  codeMem : Bytes := []
  /-- What a troupe, by name, last read of packets that do not lie in one piece, until two readings agree (R31; log
  75). -/
  reading : Table (List (Nat × W32)) := []
  deriving DecidableEq, Repr

/-- A launch presented to the placer and not yet taken up (R75, R77). -/
structure Presented where
  world : Nat
  desc : List W64
  packet : Option (Nat × Nat) := none
  deriving DecidableEq, Repr

/-- A suspended, evicted or switched-out troupe (R345): where its image lies. -/
structure Away where
  uid : Nat
  world : Nat
  launch : Nat
  tid : Nat
  core : Nat
  /-- Physical address of the image, and the image number in the suspend area, if it lies there. -/
  base : Nat
  image : Option Nat
  /-- Troupe slot to return to at a world switch. -/
  tslot : Option Nat := none
  /-- Stopped at D; it is counted once its operations have been performed (R73, R358). -/
  stopped : Bool := false
  /-- What no image holds: its issue cycles (R119), its latest record (R370), and the logical times of accesses
  performed since it left (R201, R209). -/
  cycles : Nat := 0
  record : List W64 := []
  pts : Nat := 0
  redTs : Nat := 0
  gathered : List (Nat × List Byte) := []
  deriving DecidableEq, Repr

/-- A hart in user mode: its program counter, x0 to x31, the instructions it has retired, and the instruction that it
has fetched, with its length (R406; log 21). -/
structure Hart where
  pc : W64
  x : List W64
  retired : Nat := 0
  ir : Option (W32 × Nat) := none
  deriving DecidableEq, Repr

/-- A packet that is aborting (R399): the cause recorded, VADDR of the front end's own record, and whether its
completion signal is failed; whether that has been done, and whether the addresses of its abort list have been failed.
-/
structure Abort where
  cause : Nat
  record : Option W64
  fails : Bool
  signalled : Bool := false
  listed : Bool := false
  deriving DecidableEq, Repr

/-- A packet that has started and is not complete (R397). -/
structure Packet where
  /-- A name that no other packet since reset has had (log 2), the world whose queue it stood in, and its slot. -/
  id : Nat := 0
  world : Nat := 0
  slot : Nat
  words : List W64
  barrier : Bool
  /-- Launches it made that are not complete, the copy it runs, launches made so far (of a `qpred`: 1 once its arms are
  checked). -/
  launches : List Nat := []
  copy : Option Nat := none
  made : Nat := 0
  /-- Its prologue in progress, and that it runs again once its launch is accepted (R406). -/
  hart : Option Hart := none
  again : Bool := false
  /-- Its descriptor is with the placer (R404). -/
  presented : Bool := false
  /-- What it does besides launches and copies is done. -/
  acted : Bool := false
  /-- The cause with which it is to abort, where another unit has posted the record, or an address at the host or a peer
  that has refused it, with the cause; the abort in progress (R399). -/
  failed : Option Nat := none
  refused : Option (Nat × Nat) := none
  aborting : Option Abort := none
  /-- Almanac time of the last evaluation of a `qbarrier`, and whether a signal of it lies outside the module (R408). -/
  seen : Nat := 0
  far : Bool := false
  /-- A signal's line was written while its queue was not mapped (R391, R408). -/
  poked : Bool := false
  /-- Its position in the order of R397 when it was recorded for a migration (R411). -/
  place : Option Nat := none
  deriving DecidableEq, Repr

/-- One of the 64 queues (R392). -/
structure Queue where
  base : W64 := 0
  log2 : Nat := 0
  state : Nat := 1
  rptr : W32 := 0
  wptr : W32 := 0
  cause : Nat := 0
  slot : W32 := 0
  /-- The function it is mapped to, and the function bits of QMAP whether it is mapped or not (R434). -/
  qmap : Option Nat := none
  qfn : Nat := 0
  started : List Packet := []
  /-- The arms of a `qpred`: slots still to start in the taken arm, slots of an untaken arm that follows it. -/
  arm : Option (Nat × Nat) := none
  /-- Waiting `qbarrier` packets recorded for a migration, in order (R411). -/
  recorded : List Packet := []
  deriving DecidableEq, Repr

/-- The security state of a function (R419 to R423). -/
structure Trust where
  negotiated : Bool := false
  secret : Option (List Byte) := none
  session : Bool := false
  ide : Bool := false
  ideKeys : List Byte := []
  /-- Secured messages sent in the session (R419). -/
  secured : Nat := 0
  /-- TDISP: 0 CONFIG_UNLOCKED, 1 CONFIG_LOCKED, 2 RUN, 3 ERROR. -/
  tdisp : Nat := 0
  /-- A link-down has ended its confidential use, and START_INTERFACE has not completed since (R431). -/
  barred : Bool := false
  deriving DecidableEq, Repr

/-- One of the 64 functions (R434, R394). -/
structure Fn where
  irqStatus : BitVec 8 := 0
  irqMask : BitVec 8 := 255
  apbase : W64 := 0
  feRefused : Bool := false
  /-- Front-end translation table. -/
  fe : Table (W64 × W64) := []
  feHi : Table W64 := []
  trust : Trust := {}
  /-- The MSI-X table: address and data of each of the 8 vectors (R432). The host writes it where no rule places it (log
  81). -/
  msix : Table (W64 × W32) := []
  deriving DecidableEq, Repr

/-- A lane of the Wowen ports (R435 to R437). -/
structure Lane where
  owner : Nat := 0
  failed : Bool := false
  sendSeq : Nat := 0
  recvSeq : Nat := 0
  /-- Flits not acknowledged, oldest first, each with the Almanac time at which it was last sent. -/
  unacked : List (Nat × List Byte) := []
  resends : Nat := 0
  deriving DecidableEq, Repr

/-- Why a question was put to the outside, where its answer has a consequence of its own (R199, R270, R396 to R400,
R444). -/
inductive Errand where
  | plain
  /-- A reduction at the host: the read for the first of its lanes. -/
  | reduceRead (aop : AOp) (wide : Bool) (lanes : List LaneOp)
  /-- A reduction at the host: the write of a lane; lanes that follow. -/
  | reduceWrite (aop : AOp) (wide : Bool) (lanes : List LaneOp)
  /-- What a packet does itself. -/
  | act (queue packet : Nat)
  /-- The decrement of the completion signal of the packet that stood in a slot. -/
  | csig (queue slot : Nat)
  /-- A failing store for an abort list. -/
  | listed (queue : Nat)
  /-- The NX4's own write of a result record, or step of a signal, of a launch, with the ACCESS of its record. -/
  | own (access : Nat) (launch : Option Nat)
  /-- The read, and the CompareAndSwap of a word, with which `valid` ORs a mask into a word at the host (R365). -/
  | swapRead (mask : W64)
  | swap (mask old : W64)
  /-- Whether a peer admits an access that an instruction is about to make (R187). -/
  | query
  /-- A part of a write of a launch's result record, with the name of the write, or 0 once a record has told that the
  write failed (R97, R444). -/
  | record (launch write : Nat)
  /-- The completion word of a copy, with the copy's core, word index, launch and barrier. -/
  | word (core : Nat) (pc : W32) (launch : Nat) (bar : Option Nat)
  deriving DecidableEq, Repr

/-- A request to the host or a peer that has not been answered (R222, R229). -/
structure Ext where
  id : Nat
  tkey : Nat
  uid : Nat
  opId : Nat
  world : Nat
  /-- `none` for the host, or a peer number; and what is asked there (log 5). -/
  peer : Option Nat
  tag : Nat := 0
  lanes : List LaneOp
  /-- The issuing instruction waits for the answer, because it may be refused (R46, R187, R199). -/
  sync : Bool := false
  reply : Option Reply := none
  errand : Errand := .plain
  deriving DecidableEq, Repr

/-- What the module has sent to the outside (log 5). -/
inductive Out where
  | irq (fn vector : Nat)
  | request (id : Nat) (peer : Option Nat) (tag : Nat) (addr : Nat) (bytes : List Byte)
  | completion (ok : Bool) (poisoned : Bool) (bytes : List Byte)
  | peerReply (peer tag : Nat) (bytes : List Byte) (status : Nat)
  | flit (lane : Nat) (bytes : List Byte)
  | ack (lane seq : Nat)
  | spdm (fn : Nat) (bytes : List Byte)
  deriving DecidableEq, Repr

/-- The management core (R413 to R417, R434, R439). -/
structure Mgmt where
  /-- Flash images by layer, and the version floors (R413, R414). -/
  flash : Table (List Byte) := []
  svnFloor : Table Nat := []
  helper : List Byte := []
  bootStatus : BitVec 17 := 0
  booted : Bool := false
  measured : Table (List Byte) := []
  /-- CDI_5, the seed of the key of layer 4, and the certificates of the chain up to it (R417, R418). -/
  cdi : List Byte := []
  seed4 : List Byte := []
  chain : List (List Byte) := []
  /-- Configuration record, as named fields by number (R416). -/
  config : Table Nat := []
  allocCmd : Table W64 := []
  /-- Words of the command being performed; none when the allocator is idle. -/
  running : List W64 := []
  /-- The command has passed its checks and waits for what it has begun (R249, R349). -/
  begun : Bool := false
  /-- The cores on which the outgoing world of a SWITCH that has begun was switched out before it (R350). -/
  outBefore : List Nat := []
  allocStatus : Nat := 0
  laneFail : Nat := 0
  power : Nat := 0
  timeSrc : Nat := 0
  timeLocked : Bool := false
  timeMissed : Nat := 0
  timeGood : Nat := 0
  creates : Nat := 0
  /-- Requests for measurements that wait for the command in progress: responder, index, nonce (R421). -/
  asked : List (Responder × Nat × List Byte) := []
  deriving DecidableEq, Repr

/-- What the model steps next: the issue slot of a core, an event, a cycle of time, or a choice of the caches. -/
inductive Turn where
  | issue (core islot : Nat)
  | event (i : Instr)
  | tick
  /-- The hart of a queue. -/
  | hart (q : Nat)
  | evictL1 (core line : Nat)
  | evictL2 (line : Nat)
  deriving DecidableEq, Repr

/-- The model's own bookkeeping (log 1, log 2). -/
structure Book where
  /-- Events that have fallen due, first to last. -/
  due : List Instr := []
  /-- The order of agents that the outside world and the timing of the units make. -/
  agenda : List Turn := []
  /-- The issue slot that the default order serves next. -/
  rotor : Nat := 0
  /-- The troupe that issues, by key: 32 × core + troupe slot. -/
  cur : Nat := 0
  /-- It has issued in its run before: the run has begun (R41). -/
  begun : Bool := false
  /-- The issuing troupe as it stood before the chain in progress (R37). -/
  chain : Option Troupe := none
  /-- Lanes to which a debug step restricts the instruction (R390). -/
  lanes : Option Mask := none
  fresh : Nat := 0
  nextId : Nat := 1
  nextUid : Nat := 1
  nextOrder : Nat := 0
  deriving DecidableEq, Repr

/-- The whole module. -/
structure State where
  cycle : Nat
  /-- Almanac in ns, and the fraction of a ns in units of 1/21,000,000 (R354, R355). -/
  alm : Nat
  almFrac : Nat
  almStepped : Bool
  ppm : Int
  powered : Bool
  mem : Bytes
  poison : List Nat
  /-- Lost nodes of the integrity tree, until they are rebuilt: level and number (R430). -/
  rebuild : List (Nat × Nat)
  /-- Write counters of the 64-byte lines of LPDDR-5X (R425). -/
  lineCtr : Table Nat
  /-- Write counters of the nodes of the integrity tree, node j of level L at 16 j + L (R426). -/
  nodeCtr : Table Nat
  maxTs : Nat
  /-- The logical time of the last write that each link delivered: 0 the host's, n + 1 that of peer n (R223). -/
  linkTs : Table Nat
  extents : List Extent
  ring : Table RingSlot
  ringTab : Table RingTag
  ringMoves : List RingMove
  remote : Table W64
  troupes : Table Troupe
  away : List Away
  cores : Table Core
  clusters : Table Cluster
  slices : Table Slice
  worlds : Table World
  launches : Table Launch
  presented : List Presented
  copies : List Copy
  held : List Held
  ens : Table Ens
  mbx : Table Mailbox
  queues : Table Queue
  fns : Table Fn
  lanes : Table Lane
  /-- Reads through BAR2 that wait for the host or a peer: function, offset, bytes (R433). -/
  bar2 : List (Nat × Nat × Nat)
  ext : List Ext
  out : List Out
  mgmt : Mgmt
  book : Book
  deriving DecidableEq, Repr

/-- The registers of a troupe before anything is written: zero (R83, R101). -/
def zeroRegs : Vector Lanes 64 := ⟨⟨List.replicate 64 Lanes.zero⟩, by simp⟩

/-- Sixty-four zero scalar registers. -/
def zeroScalars : Vector W64 64 := ⟨⟨List.replicate 64 0⟩, by simp⟩

/-- Thirty-two zero predicates. -/
def zeroPreds : Vector Mask 32 := ⟨⟨List.replicate 32 0⟩, by simp⟩

/-- A troupe of world 0 with no lanes: what a slot without a troupe reads as. -/
def Troupe.blank : Troupe :=
  { uid := 0, world := 0, launch := 0, tid := 0, core := 0, tslot := 0, blocks := []
    v := zeroRegs, s := zeroScalars, p := zeroPreds, f := 0, exec := 0, live := 0, pc := 0
    sp := {}, sticky := {}, reported := 0, done := 0, handler := false, wrap := .no, act := {}, pts := 0
    ops := [], ctl := {} }

/-- Bank of zeros (R288). -/
def zeroBank : Vector Lanes 128 := ⟨⟨List.replicate 128 Lanes.zero⟩, by simp⟩

/-- An accumulator as bound: both banks zero, bank A visible (R288; log 6). -/
def Acc.zero : Acc := ⟨zeroBank, zeroBank, false⟩

/-- The module after hot reset: %cycle, timestamps, ring, tables and caches at their reset values (R103, R205, R233,
R320); world 0 is live and owns everything; no launch, queue or mapping exists. The Almanac, its rate and the memory
hold what logs 3 and 4 name. -/
def State.reset : State :=
  { cycle := 0, alm := 0, almFrac := 0, almStepped := false, ppm := 0, powered := true
    mem := [], poison := [], rebuild := [], lineCtr := [], nodeCtr := [], maxTs := 0, linkTs := [], extents := [], ring := [], ringTab := [], ringMoves := [], remote := []
    troupes := [], away := [], cores := [], clusters := [], slices := []
    worlds := [(0, { st := .live, keys := some ⟨0, 1, 2⟩ })]
    launches := [], presented := [], copies := [], held := [], ens := [], mbx := [], queues := [], fns := []
    lanes := [], bar2 := [], ext := [], out := [], mgmt := {}, book := {} }

end Sys2Proof.Machine
end

