-- ==== Sys2Proof/Machine/Bits.lean ====
section
/-! DEFINITION. Fields of words, masks of lanes, byte order, and sparse byte memories. -/

namespace Sys2Proof.Machine

/-- The field [hi:lo] of a 64-bit word. -/
def fld (x : W64) (hi lo : Nat) : Nat := x.toNat / 2 ^ lo % 2 ^ (hi - lo + 1)

/-- Bit i of a 64-bit word. -/
def bit (x : W64) (i : Nat) : Bool := x.getLsbD i

/-- A 64-bit word from a number. -/
abbrev w64 (n : Nat) : W64 := BitVec.ofNat 64 n

/-- A 32-bit word from a number. -/
abbrev w32 (n : Nat) : W32 := BitVec.ofNat 32 n

/-- All ones in 64 bits. -/
def ones64 : W64 := BitVec.allOnes 64

/-- Bool as a number. -/
def b2n (b : Bool) : Nat := if b then 1 else 0

/-- The lanes l with `f l`, as a mask (R35). -/
def maskOf (f : Nat → Bool) : Mask :=
  BitVec.ofNat 128 ((List.range 128).foldl (fun n l => if f l then n + 2 ^ l else n) 0)

/-- Lane l is in the mask. -/
def inMask (m : Mask) (l : Nat) : Bool := m.getLsbD l

/-- The lanes of a mask, ascending. -/
def lanesOf (m : Mask) : List Nat := (List.range 128).filter (fun l => m.getLsbD l)

/-- The number of lanes of a mask (R111). -/
def popMask (m : Mask) : Nat := (lanesOf m).length

/-- The lowest 64 lanes. -/
def maskLo (m : Mask) : W64 := m.extractLsb' 0 64

/-- Lanes 64 to 127. -/
def maskHi (m : Mask) : W64 := m.extractLsb' 64 64

/-- pair(x) of R111, from its low and high words. -/
def joinMask (lo hi : W64) : Mask := hi ++ lo

/-- Beats of a mask that are not skipped (R85). -/
def beats (m : Mask) : Nat :=
  ((List.range 8).filter (fun b => (m >>> (16 * b)).extractLsb' 0 16 ≠ 0)).length

/-- The value of bytes in little-endian order (R4). -/
def leNat : List Byte → Nat
  | [] => 0
  | b :: t => b.toNat + 256 * leNat t

/-- The low `n` bytes of a value, in little-endian order (R4). -/
def leBytes : Nat → Nat → List Byte
  | 0, _ => []
  | n + 1, v => BitVec.ofNat 8 v :: leBytes n (v / 256)

/-- The eight bytes of a word. -/
def wordBytes (x : W64) : List Byte := leBytes 8 x.toNat

/-- Cut bytes into 64-bit words. -/
def toWords : Nat → List Byte → List W64
  | 0, _ => []
  | n + 1, bs => w64 (leNat (bs.take 8)) :: toWords n (bs.drop 8)

/-- One byte of a sparse memory; an unlisted address reads 0. -/
def Bytes.byte : Bytes → Nat → Byte
  | [], _ => 0
  | (i, b) :: t, a => if i = a then b else Bytes.byte t a

/-- Write one byte, keeping addresses rising and listing no zero. -/
def Bytes.set : Bytes → Nat → Byte → Bytes
  | [], a, x => if x = 0 then [] else [(a, x)]
  | (i, b) :: t, a, x =>
    if i = a then (if x = 0 then t else (a, x) :: t)
    else if a < i then (if x = 0 then (i, b) :: t else (a, x) :: (i, b) :: t)
    else (i, b) :: Bytes.set t a x

/-- The canonical form: addresses strictly rising, no byte 0 listed. -/
def Bytes.wf : Bytes → Bool
  | [] => true
  | [(_, b)] => b ≠ 0
  | (i, b) :: (j, c) :: t => b ≠ 0 && i < j && Bytes.wf ((j, c) :: t)

/-- `n` bytes from an address up. -/
def Bytes.read (m : Bytes) (a : Nat) : Nat → List Byte
  | 0 => []
  | n + 1 => m.byte a :: Bytes.read m (a + 1) n

/-- Write bytes from an address up. -/
def Bytes.write (m : Bytes) (a : Nat) : List Byte → Bytes
  | [] => m
  | x :: t => Bytes.write (m.set a x) (a + 1) t

/-- Write many bytes from an address up at once. -/
def Bytes.splice (m : Bytes) (a : Nat) (bs : List Byte) : Bytes :=
  m.filter (fun e => e.1 < a) ++ ((bs.zipIdx a).map fun x => (x.2, x.1)).filter (fun e => e.2 ≠ 0) ++
    m.filter (fun e => a + bs.length ≤ e.1)

/-- The listed bytes of a range, by their distance from its start. -/
def Bytes.window (m : Bytes) (a n : Nat) : Bytes :=
  (m.filter fun e => a ≤ e.1 && e.1 < a + n).map fun e => (e.1 - a, e.2)

/-- Clear `n` bytes from an address up. -/
def Bytes.clear (m : Bytes) (a n : Nat) : Bytes := m.filter (fun e => e.1 < a || a + n ≤ e.1)

/-- The 64-bit word at an address. -/
def Bytes.word (m : Bytes) (a : Nat) : W64 := w64 (leNat (m.read a 8))

/-- Replace element i of a list. -/
def setNth {α : Type} : List α → Nat → α → List α
  | [], _, _ => []
  | _ :: t, 0, x => x :: t
  | y :: t, n + 1, x => y :: setNth t n x

/-- The least number below `n` with `p`, from `k` up. -/
def findFrom (p : Nat → Bool) : Nat → Nat → Option Nat
  | 0, _ => none
  | n + 1, k => if p k then some k else findFrom p n (k + 1)

/-- The least number below `n` with `p`. -/
def findBelow (n : Nat) (p : Nat → Bool) : Option Nat := findFrom p n 0

/-- The element of a list with the least key, the first among equals. -/
def least {α : Type} (key : α → Nat) : List α → Option α
  | [] => none
  | x :: t =>
    match least key t with
    | none => some x
    | some y => if key x ≤ key y then some x else some y

/-- A list without repeats, keeping first places. -/
def nub : List Nat → List Nat
  | [] => []
  | x :: t => x :: (nub t).filter (· ≠ x)

/-- Insert into an ascending list without repeats. -/
def insertAsc (x : Nat) : List Nat → List Nat
  | [] => [x]
  | y :: t => if x = y then y :: t else if x < y then x :: y :: t else y :: insertAsc x t

/-- A list in ascending order without repeats. -/
def sortAsc (l : List Nat) : List Nat := l.foldl (fun a x => insertAsc x a) []

end Sys2Proof.Machine
end

