-- ==== Sys2Proof/Machine/Ops.lean ====
section
/-! DEFINITION. The named operations of the machine: access to its parts, time, counters and interrupts, the barrier
unit and the mailboxes, taking a fault and leaving it, and the ends of runs. -/

namespace Sys2Proof.Machine

/-- What an instruction or event does to the module. -/
abbrev Res := Host.Outcome State Fault Refusal

/-! ## Parts -/

/-- Core k. -/
def State.core (s : State) (k : Nat) : Core := s.cores.get k {}

/-- Replace core k by a function of it. -/
def State.modCore (s : State) (k : Nat) (f : Core → Core) : State :=
  { s with cores := s.cores.put k (f (s.core k)) }

/-- Cluster c. -/
def State.cluster (s : State) (c : Nat) : Cluster := s.clusters.get c {}

/-- Replace cluster c by a function of it. -/
def State.modCluster (s : State) (c : Nat) (f : Cluster → Cluster) : State :=
  { s with clusters := s.clusters.put c (f (s.cluster c)) }

/-- L2 slice i. -/
def State.slice (s : State) (i : Nat) : Slice := s.slices.get i {}

/-- Replace slice i by a function of it. -/
def State.modSlice (s : State) (i : Nat) (f : Slice → Slice) : State :=
  { s with slices := s.slices.put i (f (s.slice i)) }

/-- World w. -/
def State.world (s : State) (w : Nat) : World := s.worlds.get w {}

/-- Replace world w by a function of it. -/
def State.modWorld (s : State) (w : Nat) (f : World → World) : State :=
  { s with worlds := s.worlds.put w (f (s.world w)) }

/-- Function n. -/
def State.fn (s : State) (n : Nat) : Fn := s.fns.get n {}

/-- Replace function n by a function of it. -/
def State.modFn (s : State) (n : Nat) (f : Fn → Fn) : State := { s with fns := s.fns.put n (f (s.fn n)) }

/-- Queue q. -/
def State.queue (s : State) (q : Nat) : Queue := s.queues.get q {}

/-- Replace queue q by a function of it. -/
def State.modQueue (s : State) (q : Nat) (f : Queue → Queue) : State :=
  { s with queues := s.queues.put q (f (s.queue q)) }

/-- Mailbox m. -/
def State.mailbox (s : State) (m : Nat) : Mailbox := s.mbx.get m {}

/-- Replace mailbox m by a function of it. -/
def State.modMailbox (s : State) (m : Nat) (f : Mailbox → Mailbox) : State :=
  { s with mbx := s.mbx.put m (f (s.mailbox m)) }

/-- Replace a started packet of a queue. -/
def State.modPacket (s : State) (q id : Nat) (f : Packet → Packet) : State :=
  s.modQueue q fun x => { x with started := x.started.map fun p => if p.id == id then f p else p }

/-- Ensemble e. -/
def State.ensemble (s : State) (e : Nat) : Ens := s.ens.get e {}

/-- Replace ensemble e by a function of it. -/
def State.modEns (s : State) (e : Nat) (f : Ens → Ens) : State := { s with ens := s.ens.put e (f (s.ensemble e)) }

/-- The cluster of a core (R15). -/
def clusterOf (core : Nat) : Nat := core / 8

/-- The die of a core (R15). -/
def dieOf (core : Nat) : Nat := core / 48

/-- The key of a troupe slot. -/
def keyOf (core tslot : Nat) : Nat := core * 32 + tslot

/-- The troupe in a slot. -/
def State.troupe (s : State) (k : Nat) : Option Troupe := s.troupes.find k

/-- Put a troupe back into its slot. -/
def State.putTroupe (s : State) (t : Troupe) : State :=
  { s with troupes := s.troupes.put (keyOf t.core t.tslot) t }

/-- Replace the troupe of a slot, if there is one. -/
def State.modTroupe (s : State) (k : Nat) (f : Troupe → Troupe) : State :=
  match s.troupes.find k with
  | none => s
  | some t => { s with troupes := s.troupes.put k (f t) }

/-- The troupe that issues. -/
def State.me (s : State) : Troupe := s.troupes.get s.book.cur Troupe.blank

/-- Replace the troupe that issues. -/
def State.setMe (s : State) (t : Troupe) : State := { s with troupes := s.troupes.put s.book.cur t }

/-- The troupe whose registers the instruction reads: as it stood before the chain (R37). -/
def State.src (s : State) : Troupe := s.book.chain.getD s.me

/-- Replace the bookkeeping. -/
def State.modBook (s : State) (f : Book → Book) : State := { s with book := f s.book }

/-- Replace the issue state of the issuing troupe. -/
def State.modCtl (s : State) (f : Ctl → Ctl) : State := s.setMe { s.me with ctl := f s.me.ctl }

/-- Let an event fall due. -/
def State.raiseEvent (s : State) (i : Instr) : State := s.modBook fun b => { b with due := b.due ++ [i] }

/-- Let an event of a started packet fall due; events name it by its slot. -/
def State.raisePacket (s : State) (mk : Nat → Nat → Instr) (q id : Nat) : State :=
  match (s.queue q).started.find? fun p => p.id == id with
  | none => s
  | some p => s.raiseEvent (mk q p.slot)

/-- A name that nothing has had since reset (log 2). -/
def State.freshId (s : State) : Nat × State :=
  (s.book.nextId, s.modBook fun b => { b with nextId := b.nextId + 1 })

/-- A free number: no rule fixes it (log 10). -/
def State.freeNat (s : State) : Nat × State :=
  (Config.freeNat s.book.fresh, s.modBook fun b => { b with fresh := b.fresh + 1 })

/-! ## Registers of a troupe -/

/-- Scalar register n (R101). -/
def Troupe.sreg (t : Troupe) (n : Nat) : W64 := if h : n < 64 then t.s[n] else 0

/-- Write scalar register n. -/
def Troupe.setS (t : Troupe) (n : Nat) (x : W64) : Troupe := if h : n < 64 then { t with s := t.s.set n x h } else t

/-- Write consecutive scalar registers. -/
def Troupe.setSs (t : Troupe) (n : Nat) : List W64 → Troupe
  | [] => t
  | x :: xs => Troupe.setSs (t.setS n x) (n + 1) xs

/-- Vector register n (R101). -/
def Troupe.vreg (t : Troupe) (n : Nat) : Lanes := if h : n < 64 then t.v[n] else Lanes.zero

/-- Write vector register n. -/
def Troupe.setV (t : Troupe) (n : Nat) (x : Lanes) : Troupe := if h : n < 64 then { t with v := t.v.set n x h } else t

/-- Predicate n (R101). -/
def Troupe.preg (t : Troupe) (n : Nat) : Mask := if h : n < 32 then t.p[n] else 0

/-- Write predicate n. -/
def Troupe.setP (t : Troupe) (n : Nat) (x : Mask) : Troupe := if h : n < 32 then { t with p := t.p.set n x h } else t

/-- pair(x) of R111. -/
def Troupe.pair (t : Troupe) (n : Nat) : Mask := joinMask (t.sreg n) (t.sreg (n + 1))

/-- setpair(x, m) of R111. -/
def Troupe.setPair (t : Troupe) (n : Nat) (m : Mask) : Troupe := (t.setS n (maskLo m)).setS (n + 1) (maskHi m)

/-- The registers after an instruction whose lookahead promise was broken: each lane of a vector register and each
scalar register holds what it held before or what was produced, and no rule says which (R45, log 25). -/
def Troupe.mix (old new : Troupe) (f : Nat) : Troupe :=
  { new with
    v := Vector.ofFn fun r => Lanes.ofFn fun l =>
      if Config.freeBit (f + 128 * r.val + l) then (old.vreg r.val).lane l else (new.vreg r.val).lane l
    s := Vector.ofFn fun r => if Config.freeBit (f + 8192 + r.val) then old.sreg r.val else new.sreg r.val }

/-- Put a troupe back with the results of one of its operations, mixed where the promise was broken (R45). -/
def State.putMixed (s : State) (clash : Bool) (old new : Troupe) : State :=
  if clash then
    let s := s.putTroupe (old.mix new s.book.fresh)
    s.modBook fun b => { b with fresh := b.fresh + 8256 }
  else s.putTroupe new

/-- The troupe's own key. -/
def Troupe.key (t : Troupe) : Nat := keyOf t.core t.tslot

/-! ## Issued operations -/

/-- What backs a physical address (R160). -/
inductive Region where
  | sram | lpddr | firmware | host | peer (p : Nat) | hole
  deriving DecidableEq, Repr

/-- The region of a physical address. -/
def regionOf (pa : Nat) : Region :=
  if pa < 0x600000000 then .sram
  else if pa < 0x10000000000 then .hole
  else if pa < 0x2FFC0000000 then .lpddr
  else if pa < 0x30000000000 then .firmware
  else if pa < 0x400000000000 then .hole
  else if pa < 0x600000000000 then .host
  else if pa < 0xA00000000000 then .peer ((pa - 0x600000000000) / 0x40000000000)
  else .hole

/-- The address is module memory. -/
def inModule (pa : Nat) : Bool :=
  match regionOf pa with
  | .sram | .lpddr | .firmware => true
  | _ => false

/-- The target outside the module of an address: 0 the host, p + 1 peer p. -/
def farOf (pa : Nat) : Option Nat :=
  match regionOf pa with
  | .host => some 0
  | .peer p => some (p + 1)
  | _ => none

/-- An operation is, in part at least, an ordinary access or a release in program order with them, and that part is not
performed: lanes in module memory, but neither those outside nor a post to a peer (R201, R211, R222). -/
def Op.ordinary (o : Op) : Bool :=
  !o.performed && (match o.kind with | .post _ => false | _ => o.lanes.isEmpty || o.lanes.any fun l => inModule l.pa)

/-- The targets outside the module to which a load or a store is still to be sent (R222). -/
def Op.unsent (o : Op) : List Nat :=
  match o.kind with
  | .load _ _ _ | .sload _ | .store _ => nub (o.lanes.filterMap fun l => farOf l.pa) |>.filter fun g => !o.gone.contains g
  | _ => []

/-- Some issued ordinary access is not performed (R201, R221). -/
def Troupe.busyOps (t : Troupe) : Bool := t.ops.any Op.ordinary

/-! ## Launch descriptors (R74) -/

/-- Word n of the descriptor. -/
def Launch.word (l : Launch) (n : Nat) : W64 := l.desc.getD n 0

/-- DEADLINE. -/
def Launch.deadline (l : Launch) : Nat := (l.word 7).toNat

/-- WRAPBUDGET. -/
def Launch.budget (l : Launch) : Nat := fld (l.word 8) 63 32

/-- The divert time V (R78, R356). -/
def Launch.divertTime (l : Launch) : Nat := l.deadline - l.budget

/-- WRAPENTRY. -/
def Launch.wrapEntry (l : Launch) : W32 := w32 (fld (l.word 8) 31 0)

/-- STANDING. -/
def Launch.standing (l : Launch) : Bool := bit (l.word 1) 38

/-- DEBUG. -/
def Launch.debug (l : Launch) : Bool := bit (l.word 1) 40

/-- THREADS. -/
def Launch.threads (l : Launch) : Nat := fld (l.word 2) 31 0

/-- The number of troupes (R72). -/
def Launch.troupes (l : Launch) : Nat := (l.threads + 127) / 128

/-- BLOCKS. -/
def Launch.blocks (l : Launch) : Nat := fld (l.word 1) 35 32

/-- CORESET holds core k. -/
def Launch.mayUse (l : Launch) (k : Nat) : Bool := bit (l.word (3 + k / 64)) (k % 64)

/-- CODE_BASE. -/
def Launch.code (l : Launch) : Nat := (l.word 0).toNat

/-- RESULT, SIGNAL and EVENTS. -/
def Launch.result (l : Launch) : Nat := (l.word 11).toNat

/-- SIGNAL. -/
def Launch.signal (l : Launch) : Nat := (l.word 12).toNat

/-- EVENTS. -/
def Launch.events (l : Launch) : Nat := fld (l.word 13) 11 0

/-- A launch that no descriptor describes. -/
def Launch.blank : Launch := { world := 0, desc := [], order := 0 }

/-- Launch number n. -/
def State.launch (s : State) (n : Nat) : Launch := s.launches.get n Launch.blank

/-- Replace launch n, if there is one. -/
def State.modLaunch (s : State) (n : Nat) (f : Launch → Launch) : State :=
  match s.launches.find n with
  | none => s
  | some l => { s with launches := s.launches.put n (f l) }

/-- The launch is its world's runtime launch (R75). -/
def State.isRuntime (s : State) (t : Troupe) : Bool := (s.world t.world).runtime == some t.launch

/-- A core's copy of the Almanac (R354). -/
def State.almOf (s : State) (core : Nat) : Nat := s.alm + (s.core core).almSkew

/-! ## Interrupts and counters -/

/-- The function is there: the PF, and after a boot the VFs that the configuration record offers (R414, R416, R432). -/
def State.fnPresent (s : State) (f : Nat) : Bool := f == 0 || (s.mgmt.booted && decide (f ≤ s.mgmt.config.get 4 0) && decide (f < 64))

/-- Raise vector v of function n (R434): the status bit is set, and the vector is sent unless it is masked. A function
that is not offered has no vectors (R432). -/
def State.irq (s : State) (n v : Nat) : State :=
  if !s.fnPresent n then s
  else
    let s := s.modFn n fun f => { f with irqStatus := f.irqStatus ||| (1#8 <<< v) }
    if (s.fn n).irqMask.getLsbD v then s else { s with out := s.out ++ [.irq n v] }

/-- Counter i of a world. -/
def World.counter (w : World) (i : Nat) : Counter := w.counters.get i {}

/-- The counter takes events of this code charged to this core (R375, R377). -/
def Counter.takes (c : Counter) (w event core : Nat) : Bool :=
  c.en && c.event == event && event != 0 && (c.core == 255 || c.core == core) && (event < 32 || w == 0)

/-- Add n events to one counter; a wrap is left to COUNTER_OVERFLOW (R379). -/
def Counter.add (c : Counter) (core n : Nat) : Counter :=
  let c := { c with perCore := c.perCore.put core (c.perCore.get core 0 + n) }
  if c.pending = 0 ∧ c.count.toNat + n < 2 ^ 48 then { c with count := c.count + BitVec.ofNat 48 n }
  else { c with pending := c.pending + n }

/-- Count n events of a code, charged to a core, in one counter of world w. -/
def State.countIn (s : State) (w event core n i : Nat) : State :=
  let c := (s.world w).counter i
  if c.takes w event core then
    let d := c.add core n
    let s := s.modWorld w fun x => { x with counters := x.counters.put i d }
    if c.pending = 0 ∧ d.pending ≠ 0 then s.raiseEvent (.counterOverflow w i) else s
  else s

/-- Count n events of a code for world w (R376 to R378); an access that no core requests is charged to none. -/
def State.count (s : State) (w event core n : Nat) : State :=
  if n = 0 ∨ 192 ≤ core then s else (List.range 8).foldl (fun s i => s.countIn w event core n i) s

/-! ## Scratchpad -/

/-- Where a scratchpad address stands: in the readable bank of an exchange pair, or as it is (R273). -/
def Core.phys (c : Core) (a : Nat) : Nat :=
  match c.xtab.find (a / 32768) with
  | some x => if a / 16384 % 2 = 0 ∧ x.side then a + 16384 else a
  | none => a

/-- The address lies in a plot bound to the world and not in the odd plot of a pair (R162, R259, R273). -/
def Core.plotOk (c : Core) (w a : Nat) : Bool :=
  c.plotOwner.get (a / 16384) 0 == w &&
  !((c.xtab.find (a / 32768)).isSome && a / 16384 % 2 == 1)

/-- The address lies in a plot that the world uses, or that is being taken from it and not yet tagged anew (R340). -/
def Core.plotHeld (c : Core) (w a : Nat) : Bool := c.plotOk w a || c.plotOk (w + 64) a

/-- Read n bytes of scratchpad. -/
def Core.spadRead (c : Core) (a n : Nat) : List Byte := c.spad.read (c.phys a) n

/-- Write bytes of scratchpad; a row written whole is no longer poisoned (R429). -/
def Core.spadWrite (c : Core) (a : Nat) (bs : List Byte) : Core :=
  let p := c.phys a
  { c with spad := c.spad.write p bs
           spadBad := c.spadBad.filter fun r => !(p ≤ 16 * r && 16 * r + 16 ≤ p + bs.length) }

/-- Every byte of a protected word lies in one of the spans, an address and a length each. -/
def coveredBy (spans : List (Nat × Nat)) (a n : Nat) : Bool :=
  (List.range n).all fun i => spans.any fun x => x.1 ≤ a + i && a + i < x.1 + x.2

/-- Rows that one access has written whole, by several lanes or elements, are no longer poisoned (R429; log 77). -/
def Core.healRows (c : Core) (spans : List (Nat × Nat)) : Core :=
  { c with spadBad := c.spadBad.filter fun r => !coveredBy spans (16 * r) 16 }

/-- The same for the 64-byte units of operand slots (R429; log 77). -/
def Core.healSlots (c : Core) (spans : List (Nat × Nat)) : Core :=
  { c with oslotBad := c.oslotBad.filter fun x => !coveredBy spans (8448 * x.1 + 64 * x.2) 64 }

/-- Write many bytes of scratchpad, plot by plot. -/
def Core.spadBlock (c : Core) (a : Nat) (bs : List Byte) : Nat → Core
  | 0 => c
  | n + 1 =>
    let k := 16384 - a % 16384
    let p := c.phys a
    let now := bs.take k
    let c := { c with spad := c.spad.splice p now
                      spadBad := c.spadBad.filter fun r => !(p ≤ 16 * r && 16 * r + 16 ≤ p + now.length) }
    c.spadBlock (a + k) (bs.drop k) n

/-- Note a timestamp for the module floor (R205). -/
def State.noteTs (s : State) (ts : Nat) : State := { s with maxTs := max s.maxTs ts }

/-- A scratchpad read at logical time pts: the reader's new pts (R207). -/
def State.spadReadTs (s : State) (core pts : Nat) : State × Nat :=
  let p := max pts (s.core core).swts
  let r := max (s.core core).srts p
  ((s.modCore core fun c => { c with srts := r }).noteTs r, p)

/-- A scratchpad write from logical time pts: the writer's new pts (R207). -/
def State.spadWriteTs (s : State) (core pts : Nat) : State × Nat :=
  let ts := max pts ((s.core core).srts + 1)
  ((s.modCore core fun c => { c with swts := ts, srts := ts }).noteTs ts, ts)

/-! ## Barrier objects (R253 to R257) -/

/-- The fields of a barrier object. -/
structure Bar where
  expected : Nat
  arrived : Nat
  external : Bool
  error : Bool
  pending : Int
  phase : W32
  lastErr : Nat
  deriving DecidableEq, Repr

/-- The object in sixteen bytes (R253). -/
def Bar.ofBytes (bs : List Byte) : Bar :=
  let n := leNat (bs.take 4)
  let p : Nat := leNat ((bs.drop 4).take 4) % 2 ^ 28
  { expected := n % 4096, arrived := n / 4096 % 4096, external := n / 2 ^ 24 % 2 = 1, error := n / 2 ^ 25 % 2 = 1
    pending := if p < 2 ^ 27 then (p : Int) else (p : Int) - 2 ^ 28
    phase := w32 (leNat ((bs.drop 8).take 4)), lastErr := leNat ((bs.drop 12).take 1) }

/-- The sixteen bytes of an object (R253). -/
def Bar.toBytes (b : Bar) : List Byte :=
  leBytes 4 (b.expected + b.arrived * 4096 + b2n b.external * 2 ^ 24 + b2n b.error * 2 ^ 25) ++
  leBytes 4 (b.pending % (2 ^ 28 : Int)).toNat ++ leBytes 4 b.phase.toNat ++ leBytes 4 b.lastErr

/-- The object fails with a code; the first failure's code stands (R256). -/
def Bar.fail (b : Bar) (cause : Nat) : Bar := if b.error then b else { b with error := true, lastErr := cause }

/-- Phase q has passed (R255). -/
def Bar.passed (b : Bar) (q : W32) : Bool :=
  let d := (b.phase - q).toNat
  1 ≤ d && d ≤ 2 ^ 31 - 1

/-- What the barrier unit performs on an object. -/
inductive BarOp where
  | init (expected : Nat) (external : Bool)
  | arrive (n : Nat)
  | expect (n : Int)
  /-- Set EXTERNAL alone, with no completion test (R254). -/
  | external
  /-- `bar.test` and `bar.wait`, which change nothing before the completion test (R254, R260). -/
  | test
  /-- A copy's end: landed bytes, and its cause code when it failed (R256, R268). -/
  | land (n : Nat) (cause : Option Nat)
  deriving DecidableEq, Repr

/-- PENDING changes by n, or the object fails (R256). -/
def Bar.addPending (b : Bar) (n : Int) : Bar :=
  if b.error then b
  else if -(2 ^ 27) ≤ b.pending + n ∧ b.pending + n < 2 ^ 27 then { b with pending := b.pending + n }
  else b.fail 8

/-- The change an operation makes to the fields, before the completion test (R256, R260). -/
def BarOp.apply (op : BarOp) (b : Bar) : Bar :=
  match op with
  | .init e x => { b with expected := e, external := x, arrived := 0, pending := 0, error := false, lastErr := 0 }
  | .arrive n =>
    if b.error then b
    else if b.arrived + n ≤ b.expected then { b with arrived := b.arrived + n } else b.fail 8
  | .expect n => b.addPending n
  | .external => { b with external := true }
  | .test => b
  | .land n cause =>
    let b := b.addPending (-n)
    match cause with
    | some c => b.fail c
    | none => b

/-- The completion test (R254). -/
def Bar.complete (b : Bar) : Bar :=
  if b.error = false ∧ b.arrived = b.expected ∧ b.pending = 0 then { b with phase := b.phase + 1, arrived := 0 } else b

/-- The object after an operation of the unit (R254). -/
def Bar.after (b : Bar) (op : BarOp) : Bar := if op = .external then op.apply b else (op.apply b).complete

/-- Read the object at an address. -/
def Core.bar (c : Core) (a : Nat) : Bar := Bar.ofBytes (c.spadRead a 16)

/-! ## Fault records and mailboxes -/

/-- A fault record (R369). `place` is core, troupe slot and troupe number, or none. -/
def faultRecord (cause access world : Nat) (place : Option (Nat × Nat × Nat)) (halted : Bool) (pc : W32) (lanes : Mask)
    (vaddr : W64) (time : Nat) (launch : Option Nat) : List W64 :=
  let (core, tslot, tid) := place.getD (255, 0, 2 ^ 32 - 1)
  [ w64 (4 + cause * 2 ^ 8 + access * 2 ^ 16 + world * 2 ^ 24 + core * 2 ^ 32 + tslot * 2 ^ 40 + b2n halted * 2 ^ 47),
    w64 (pc.toNat + tid * 2 ^ 32), maskLo lanes, maskHi lanes, vaddr, w64 time,
    w64 (match launch with | some l => l | none => 2 ^ 12), 0 ]

/-- End the run on an issue slot, if the troupe slot holds it (R41). -/
def State.dropHold (s : State) (core tslot : Nat) : State :=
  let i := tslot % 4
  let sl := (s.core core).islots.get i {}
  if sl.holder = some tslot then
    s.modCore core fun c => { c with islots := c.islots.put i { sl with holder := none, words := 0 } }
  else s

/-- The parked troupes of a halted world leave their miss entries, which makes room for others (R183, R185). -/
def State.unparkWorld (s : State) (w : Nat) : State :=
  let hit := (s.clusters.filter fun c => c.2.miss.any fun m => m.world == w).map (·.1)
  let f (_ : Nat) (c : Cluster) : Cluster := { c with miss := c.miss.filter fun m => m.world != w }
  let g (_ : Nat) (t : Troupe) : Troupe :=
    match t.ctl.wait with
    | .parked _ => if t.world = w then { t with ctl := { t.ctl with wait := .no } } else t
    | _ => t
  let s := { s with clusters := s.clusters.mapVals f, troupes := s.troupes.mapVals g }
  (s.troupes.filter fun t => hit.contains (clusterOf t.2.core) && t.2.ctl.wait == .missRoom).foldl
    (fun s t => s.raiseEvent (.missRetry t.2.core t.2.tslot)) s

/-- Halt a world on a fault of its runtime launch, and report it to the PF (R186, R321). -/
def State.haltWorld (s : State) (w : Nat) : State :=
  if (s.world w).st = .live then ((s.modWorld w fun x => { x with st := .halted }).unparkWorld w).irq 0 4 else s

/-- Troupes on a core that wait for an object (R254). -/
def State.waiters (s : State) (core a : Nat) : List Nat :=
  (List.range 32).filterMap fun t =>
    match s.troupes.find (keyOf core t) with
    | some x => match x.ctl.wait with
      | .bar b _ _ _ => if b = a then some (keyOf core t) else none
      | _ => none
    | none => none

/-- A troupe's wait ends because its phase passed: it acquires, and is ready 8 cycles later (R212, R262). -/
def State.wake (s : State) (k : Nat) : State :=
  s.modTroupe k fun t =>
    { t with
      pts := max t.pts (s.core t.core).swts
      pc := match t.ctl.wait with | .bar _ _ _ n => n | .batch _ n => n | _ => t.pc
      ctl := { t.ctl with wait := .no, head := none, readyAt := s.cycle + 8 } }

/-- Release the waiters of an object whose phase has passed. -/
def State.releasePassed (s : State) (b : Bar) (ks : List Nat) : State :=
  ks.foldl (fun s k =>
    match s.troupes.find k with
    | some t => match t.ctl.wait with
      | .bar _ q _ _ => if b.passed q then s.wake k else s
      | _ => s
    | none => s) s

/-- A record kept in a troupe slot that makes the troupe halted after a fault (R368). -/
def Troupe.halt (t : Troupe) (r : List W64) : Troupe :=
  { t with ctl := { t.ctl with wait := .no, halted := true, record := r, stalled := false, head := none, since := none } }

/-- What an instruction can change in a troupe. -/
def Troupe.saved (t : Troupe) : Saved :=
  { v := t.v, s := t.s, p := t.p, f := t.f, exec := t.exec, live := t.live, pc := t.pc, sp := t.sp, sticky := t.sticky
    reported := t.reported }

/-- A troupe that waits in a chained `bar.wait`, as it stood before the chain: a fault that ends the wait leaves nothing
of the chain (R40, R259), but that what the wait has reported stays reported (R138). -/
def Troupe.atHead (t : Troupe) : Troupe :=
  match t.ctl.head with
  | none => t
  | some h => { t with v := h.v, s := h.s, p := h.p, f := h.f, exec := h.exec, live := h.live, pc := h.pc, sp := h.sp
                       sticky := h.sticky, reported := h.reported ||| t.reported }

/-- The barrier unit and the mailboxes call one another: an operation may fail waiters, whose records arm barriers.
Each call clears an arming, so that 1,025 turns are never exceeded (R254, R283). -/
def State.barUnit : Nat → State → Nat → Nat → BarOp → State
  | 0, s, _, _, _ => s
  | fuel + 1, s, core, a, op =>
    let bad := (s.core core).spadBad.contains ((s.core core).phys a / 16)
    let b := ((s.core core).bar a).after op
    let b := if bad then b.fail 0x14 else b
    let s := s.modCore core fun c => c.spadWrite a b.toBytes
    let s := (s.spadWriteTs core 0).1
    if b.error then
      (s.waiters core a).foldl (fun s k =>
        match s.troupes.find k with
        | none => s
        | some t =>
          let t := t.atHead
          let r := faultRecord 8 6 t.world (some (t.core, t.tslot, t.tid)) true t.pc t.live (w64 a)
            (s.almOf t.core) (some t.launch)
          let s := s.putTroupe ({ t with pts := max t.pts (s.core core).swts }.halt r)
          let s := s.count t.world 0x13 t.core 1
          let s := if s.isRuntime t then s.haltWorld t.world else s
          let m := (s.world t.world).areas.faultMbx
          let x := s.mailbox m
          if t.world = 0 ∧ x.owner ≠ 0 then s
          else
            let s := s.modMailbox m fun x =>
              if x.entries.length < 64 then { x with entries := x.entries ++ [r], arming := none }
              else { x with drops := min (x.drops + 1) 0xFFFF, arming := none }
            match x.arming with
            | some (c, ba) => if (s.core c).plotOk x.owner ba then State.barUnit fuel s c ba (.arrive 1) else s
            | none => s) s
    else if op = .external then s
    else s.releasePassed b (s.waiters core a)

/-- An operation of the barrier unit of a core on the object at an address. -/
def State.barDo (s : State) (core a : Nat) (op : BarOp) : State := State.barUnit 1025 s core a op

/-- An arrival from outside the core carries everything performed before it: the scratchpad's time follows (R212). -/
def State.bumpSpad (s : State) (core : Nat) : State := s.modCore core fun c => { c with srts := max c.srts s.maxTs }

/-- The arrival that every post performs at the mailbox's arming (R283). -/
def State.fireArming (s : State) (m : Nat) : State :=
  let x := s.mailbox m
  match x.arming with
  | none => s
  | some (c, a) =>
    let s := s.modMailbox m fun x => { x with arming := none }
    if (s.core c).plotOk x.owner a then (s.bumpSpad c).barDo c a (.arrive 1) else s

/-- An entry that the NX4 posts itself: into a full mailbox it is dropped and counted (R283). -/
def State.mbxPut (s : State) (m : Nat) (entry : List W64) : State :=
  (s.modMailbox m fun x =>
    if x.entries.length < 64 then { x with entries := x.entries ++ [entry] }
    else { x with drops := min (x.drops + 1) 0xFFFF }).fireArming m

/-- A record goes to the world's fault mailbox. Mailbox 0, which stands for that of world 0, may be bound to another
world, whose state such a record does not reach (R352). -/
def State.tellFault (s : State) (w : Nat) (r : List W64) : State :=
  let m := (s.world w).areas.faultMbx
  if w = 0 ∧ (s.mailbox m).owner ≠ 0 then s else s.mbxPut m r

/-- A record in the world's fault mailbox that names no troupe (R368); an absent world has none. -/
def State.postPlain (s : State) (w cause access : Nat) (pc : W32) (lanes : Mask) (vaddr : W64) (launch : Option Nat) :
    State :=
  if (s.world w).st = .absent then s
  else s.tellFault w (faultRecord cause access w none false pc lanes vaddr s.alm launch)

/-- The record of an event that names a troupe. -/
def State.recordOf (s : State) (t : Troupe) (cause access : Nat) (halted : Bool) (pc : W32) (lanes : Mask)
    (vaddr : W64) : List W64 :=
  faultRecord cause access t.world (some (t.core, t.tslot, t.tid)) halted pc lanes vaddr (s.almOf t.core) (some t.launch)

/-- Keep a record in the troupe's slot, count it and post it (R368, R370). -/
def State.postFor (s : State) (t : Troupe) (r : List W64) : State :=
  let s := s.putTroupe { t with ctl := { t.ctl with record := r } }
  (s.count t.world 0x13 t.core 1).tellFault t.world r

/-- A troupe becomes halted after a fault: its record is kept and posted, its run ends, and a fault of the runtime
launch halts the world (R368, R321). -/
def State.faultAt (s : State) (t : Troupe) (cause access : Nat) (lanes : Mask) (vaddr : W64) : State :=
  let r := s.recordOf t cause access true t.pc lanes vaddr
  let s := (s.putTroupe (t.halt r)).dropHold t.core t.tslot
  let s := (s.count t.world 0x13 t.core 1).tellFault t.world r
  if s.isRuntime t then s.haltWorld t.world else s

/-- The issuing troupe raises a precise fault: nothing of the chain takes effect, and it halts at the chain head
(R40, R368). -/
def State.fault (s : State) (cause access : Nat) (lanes : Mask) (vaddr : W64) : Res :=
  .next ((s.modBook fun b => { b with chain := none }).faultAt s.src cause access lanes vaddr)

/-- The fault of an instruction that acts for the troupe as a whole: its lane mask is `live`. -/
def State.faultAll (s : State) (cause access : Nat) (vaddr : W64) : Res := s.fault cause access s.src.live vaddr

/-- The instruction cannot issue yet: it holds the issue slot and nothing else happens (R84). -/
def State.stall (s : State) : Res :=
  .next ((s.modBook fun b => { b with chain := none }).setMe { s.src with ctl := { s.src.ctl with stalled := true } })

/-! ## Shared units of a core (R85) -/

/-- The cycle since which a troupe contends for a unit; one that does not stall contends from now. -/
def State.waitsSince (s : State) (t : Troupe) (u : Nat) : Nat :=
  match t.ctl.since with
  | some (v, c) => if v = u ∧ t.ctl.stalled = true then c else s.cycle
  | none => s.cycle

/-- A shared unit of its core takes the troupe's instruction in this cycle: it has taken none yet, and no other issue
slot has waited for it longer, or as long with a lower number (R85). -/
def State.mayEnter (s : State) (t : Troupe) (u : Nat) : Bool :=
  let c := s.core t.core
  c.taken.find u != some s.cycle &&
  !(List.range 4).any fun i =>
    i != t.tslot % 4 &&
    (match (c.islots.get i {}).holder.bind fun h => s.troupes.find (keyOf t.core h) with
     | none => false
     | some x => match x.ctl.since with
       | some (v, y) => v == u && x.ctl.stalled && (decide (y < s.waitsSince t u) || (y == s.waitsSince t u && decide (i < t.tslot % 4)))
       | none => false)

/-- Stall until a shared unit of the core takes the instruction: it is taken, or its queue is full (R21, R84, R85). -/
def State.contend (s : State) (u : Nat) : Res :=
  let t := s.src
  .next ((s.modBook fun b => { b with chain := none }).setMe
    { t with ctl := { t.ctl with stalled := true, since := some (u, s.waitsSince t u) } })

/-- Enter a shared unit of the core, or stall until it takes the instruction (R21, R85). -/
def State.enter (s : State) (u : Nat) (go : State → Res) : Res :=
  let t := s.src
  if s.mayEnter t u then
    go ((s.modCore t.core fun c => { c with taken := c.taken.put u s.cycle }).modCtl fun c => { c with since := none })
  else s.contend u

/-! ## Ends of runs, diverts, the timer -/

/-- The heat state of a cluster (R442, R443). -/
def Cluster.heatState (c : Cluster) : Nat := max c.heat c.raised

/-- The slack class of a troupe: its act's, its launch's, or 0 in a runtime launch (R87). -/
def State.classOf (s : State) (t : Troupe) : Nat :=
  if s.isRuntime t then 0 else if t.act.armed then t.act.slack else (s.launch t.launch).slack

/-- R27 lets the troupe be ready: its cluster's heat state holds nothing back, or the troupe is urgent enough. -/
def State.coolFor (s : State) (t : Troupe) : Bool :=
  decide ((s.cluster (clusterOf t.core)).heatState < 3) || t.wrap != .no || decide (s.classOf t ≤ 1)

/-- A divert takes effect on a troupe: wrap-up from its entry with every live lane (R357). -/
def Troupe.divertTo (t : Troupe) (entry : W32) (cause : Nat) : Troupe :=
  { t with
    exec := t.live, pc := entry, handler := false, wrap := if cause = 1 then .launch else .act
    sp := { t.sp with divpc := t.pc, divcause := BitVec.ofNat 8 cause, replay := 0, timer := 0 }
    ctl := { t.ctl with wait := .no, head := none, divert := false, replayPc := none, gathered := [], stalled := false } }

/-- A troupe that was not ready before, and is from now on (R89). -/
def Troupe.readyFrom (t : Troupe) (woken : Bool) (now : Nat) : Troupe :=
  if woken then { t with ctl := { t.ctl with readyAt := max t.ctl.readyAt now } } else t

/-- Divert the troupe `t` of a slot now, and count it (R357, R376). One that waited, or that R27 held back, becomes
ready now (R89). -/
def State.divertNow (s : State) (k : Nat) (t : Troupe) (cause : Nat) : State :=
  let u := (t.divertTo (s.launch t.launch).wrapEntry cause).readyFrom (t.ctl.wait != .no || !s.coolFor t) s.cycle
  ({ s with troupes := s.troupes.put k u } : State).count t.world 0x12 t.core 1

/-- The divert time of an armed act (R360). -/
def Act.divertTime (a : Act) : Nat := a.ad.toNat - a.aw.toNat

/-- What a run boundary brings to a troupe: its divert, and otherwise a due timer (R356, R373). -/
def State.boundary (s : State) (k : Nat) : State :=
  match s.troupes.find k with
  | none => s
  | some t =>
    let t := { t with ctl := { t.ctl with readyAt := s.cycle, stalled := false } }
    let s := { s with troupes := s.troupes.put k t }
    if t.ctl.exited ∨ t.ctl.stopped ∨ t.ctl.halted ∨ t.ctl.debug then s
    else if t.ctl.divert ∧ t.wrap ≠ .launch then s.divertNow k t 1
    else if t.act.armed ∧ t.wrap = .no ∧ t.act.divertTime ≤ s.almOf t.core then s.divertNow k t 2
    else if t.sp.timer ≠ 0 ∧ t.sp.timer.toNat ≤ s.cycle then s.raiseEvent (.timerTrap t.core t.tslot)
    else s

/-- The issuing troupe's run has ended in `bar.wait` or `mwait`, and it waits; a divert that has come abandons the wait
at once, unless the troupe is halted for debugging (R356, R360). -/
def State.endInWait (s : State) : State :=
  let t := s.me
  let s := s.dropHold t.core t.tslot
  if t.ctl.debug then s
  else if t.ctl.divert ∧ t.wrap ≠ .launch then s.divertNow s.book.cur t 1
  else if t.act.armed ∧ t.wrap = .no ∧ t.act.divertTime ≤ s.almOf t.core then s.divertNow s.book.cur t 2
  else s

/-- The issuing troupe's run ends (R41). -/
def State.endRun (s : State) : State :=
  let t := s.me
  (s.dropHold t.core t.tslot).boundary s.book.cur

/-- Go on behind an instruction of `len` words; E = 1 ends the run (R30, R41). -/
def State.advance (s : State) (len : Nat) (e : Bool) : State :=
  let t := s.me
  let s := s.setMe { t with pc := t.pc + w32 len, ctl := { t.ctl with stalled := false } }
  if e then s.endRun else s

/-- Branch to a word index; the run ends (R114). -/
def State.jump (s : State) (pc : W32) : State :=
  (s.setMe { s.me with pc := pc, ctl := { s.me.ctl with stalled := false } }).endRun

/-- Put the issuing troupe back and go on. -/
def State.done (s : State) (t : Troupe) (len : Nat) (e : Bool) : Res := .next ((s.setMe t).advance len e)

/-- Some work of the troupe is still under way that retirement waits for (R73). -/
def State.outstanding (s : State) (t : Troupe) : Bool :=
  !t.ops.isEmpty ||
  s.copies.any (fun c => c.uid == t.uid && c.queue.isNone) ||
  (s.core t.core).mq.any (fun m => m.uid == t.uid) || (s.core t.core).array.any (fun m => m.uid == t.uid) ||
  s.ext.any (fun x => x.uid == t.uid) ||
  s.clusters.any (fun c => c.2.reqQ.any (fun r => r.uid == t.uid)) ||
  s.held.any (fun h => h.uid == t.uid && h.copy.isNone)

/-- A troupe that has issued its last instruction retires once its operations are performed (R73). -/
def State.tryRetire (s : State) (k : Nat) : State :=
  match s.troupes.find k with
  | none => s
  | some t =>
    if (t.ctl.exited ∨ t.ctl.stopped) ∧ ¬ s.outstanding t then s.raiseEvent (.troupeRetirement t.core t.tslot) else s

/-- The troupe issues nothing further: `exit`, `lexit` of the last lanes, `resume … retire` (R121). -/
def State.exitNow (s : State) (t : Troupe) : State :=
  let t := { t with live := 0, exec := 0, ctl := { t.ctl with exited := true, wait := .no, halted := false, stalled := false } }
  ((s.putTroupe t).dropHold t.core t.tslot).tryRetire t.key

/-! ## Worlds of frames (R160, R323) -/

/-- Page size in bytes of a size code (R177). -/
def pageSize (code : Nat) : Nat := 4096 * 4 ^ code

/-- The extent that holds a physical address (R324). -/
def State.extentOf (s : State) (pa : Nat) : Option Extent :=
  s.extents.find? fun e => e.base ≤ pa && pa < e.base + pageSize e.size

/-- The world that owns the frame of a physical address; frames in no extent are world 0's (R323). -/
def State.frameOwner (s : State) (pa : Nat) : Nat := ((s.extentOf pa).map (·.world)).getD 0

/-- The byte of the frame owner table for a frame (R323). -/
def State.ownerByte (s : State) (pa : Nat) : Byte :=
  match s.extentOf pa with
  | none => 0
  | some e => BitVec.ofNat 8 (e.world + b2n (e.busy.contains (pa / 4096)) * 64 + b2n e.area * 128)

/-- The frame that a byte of the frame owner table describes (R323). -/
def tableFrame (pa : Nat) : Nat :=
  let i := pa - 0x2FFC0000000
  if i < 0x600000 then i * 4096 else 0x10000000000 + (i - 0x600000) * 4096

/-- One byte of module memory; the frame owner table is read as computed from the extents (R323). -/
def State.memByte (s : State) (pa : Nat) : Byte :=
  if 0x2FFC0000000 ≤ pa ∧ pa < 0x2FFC0000000 + 0x20600000 then s.ownerByte (tableFrame pa) else s.mem.byte pa

/-- Bytes of module memory. -/
def State.memRead (s : State) (pa : Nat) : Nat → List Byte
  | 0 => []
  | n + 1 => s.memByte pa :: s.memRead (pa + 1) n

/-- A 64-bit word of module memory. -/
def State.memWord (s : State) (pa : Nat) : W64 := w64 (leNat (s.memRead pa 8))

end Sys2Proof.Machine
end

