-- ==== Sys2Proof/Machine/Operands.lean ====
section
/-! DEFINITION. Operand forms: guards, second sources, literals, and the addresses of the M and A formats. -/

namespace Sys2Proof.Machine

/-- The second source of an S3 instruction: a scalar, or a literal sign-extended to 64 bits (R34). -/
def sval (b : SSrc) (t : Troupe) : W64 :=
  match b with
  | .reg r => t.sreg r.val
  | .lit w => w.signExtend 64

/-- Words of an S3 instruction (R33). -/
def slen : SSrc → Nat
  | .reg _ => 1
  | .lit _ => 2

/-- The second source of a V3 instruction: a vector register, or a literal in every lane (R34). -/
def vval (b : VSrc) (t : Troupe) (l : Nat) : W32 :=
  match b with
  | .reg r => (t.vreg r.val).lane l
  | .lit w => w

/-- Words of a V3 instruction (R33). -/
def vlen : VSrc → Nat
  | .reg _ => 1
  | .lit _ => 2

/-- The lanes in which the guard is true (R35). -/
def guardMask (g : Guard) (t : Troupe) : Mask :=
  match g with
  | .always => BitVec.allOnes 128
  | .pos p => t.preg p.val
  | .neg p => ~~~ (t.preg p.val)

/-- The lanes a debug step leaves to the instruction: all, when there is none (R390). -/
def State.stepMask (s : State) : Mask := s.book.lanes.getD (BitVec.allOnes 128)

/-- The effective mask: `exec` and guard, both as before the chain (R85, R139), within a debug step's lanes. -/
def State.effective (s : State) (g : Guard) : Mask := s.src.exec &&& guardMask g s.src &&& s.stepMask

/-- The index of a lane: v[X] zero-extended, or 0 where X = 63 names no index (R50, R51). -/
def laneIndex (t : Troupe) (x : Reg) (l : Nat) : W64 :=
  if x.val = 63 then 0 else ((t.vreg x.val).lane l).setWidth 64

/-- The address of a lane of a vector M-format instruction, modulo 2^64 (R50). -/
def laneAddr (t : Troupe) (m : MAddr) (l : Nat) : W64 :=
  t.sreg m.base.val + (laneIndex t m.x l <<< m.sc.val) + m.off.signExtend 64

/-- The address of a scalar M-format instruction (R50, R194). -/
def scalarAddr (t : Troupe) (m : SAddr) : W64 := t.sreg m.base.val + m.off.signExtend 64

/-- The address of a lane of an A-format instruction: the index is scaled by the access size (R51). -/
def atomicAddr (t : Troupe) (x : AArgs) (l : Nat) : W64 :=
  t.sreg x.base.val + laneIndex t x.x l * (if x.wide then 8 else 4) + x.off.signExtend 64

/-- The 64-bit value of a lane of a register pair, low word first (R193, R197). -/
def lanePair (t : Troupe) (n l : Nat) : W64 := (t.vreg (n + 1)).lane l ++ (t.vreg n).lane l

/-- The bytes of a lane of `n` consecutive vector registers, lowest first (R193). -/
def laneBytes (t : Troupe) (d l : Nat) : Nat → List Byte
  | 0 => []
  | n + 1 => leBytes 4 ((t.vreg d).lane l).toNat ++ laneBytes t (d + 1) l n

end Sys2Proof.Machine
end

