-- ==== Sys2Proof/Machine/Flags.lean ====
section
/-! DEFINITION. Flags, predicates and sticky status: how compares write f0 to f7 and predicates, how exceptions
gather in the lanes, and the report of exceptions at a report point. -/

namespace Sys2Proof.Machine

/-- Flag i (R101, R110). -/
def Troupe.flag (t : Troupe) (i : Nat) : Bool := t.f.getLsbD i

/-- Write flag i, leaving the others (R110). -/
def Troupe.setFlag (t : Troupe) (i : Nat) (x : Bool) : Troupe :=
  { t with f := if x then t.f ||| (1#8 <<< i) else t.f &&& ~~~ (1#8 <<< i) }

/-- The sticky bits of one lane, in the order of %fstat (R105, R371). -/
def Sticky.lane (k : Sticky) (l : Nat) : Nat :=
  b2n (inMask k.inv l) + 2 * b2n (inMask k.dz l) + 4 * b2n (inMask k.ovf l) + 8 * b2n (inMask k.unf l) +
  16 * b2n (inMask k.nx l)

/-- %fstat: each bit the OR over the lanes (R105). -/
def Sticky.summary (k : Sticky) : BitVec 5 :=
  BitVec.ofNat 5 (b2n (k.inv != 0) + 2 * b2n (k.dz != 0) + 4 * b2n (k.ovf != 0) + 8 * b2n (k.unf != 0) +
    16 * b2n (k.nx != 0))

/-- Clear the bits of %fstat that are 1 in x, in every lane (R105). -/
def Sticky.clear (k : Sticky) (x : BitVec 5) : Sticky :=
  { inv := if x.getLsbD 0 then 0 else k.inv, dz := if x.getLsbD 1 then 0 else k.dz
    ovf := if x.getLsbD 2 then 0 else k.ovf, unf := if x.getLsbD 3 then 0 else k.unf
    nx := if x.getLsbD 4 then 0 else k.nx }

/-- Gather the exceptions of the lanes of a mask: `e l` holds them in the order of %fstat (R135). -/
def Sticky.gather (k : Sticky) (m : Mask) (e : Nat → BitVec 5) : Sticky :=
  { inv := k.inv ||| (m &&& maskOf fun l => (e l).getLsbD 0), dz := k.dz ||| (m &&& maskOf fun l => (e l).getLsbD 1)
    ovf := k.ovf ||| (m &&& maskOf fun l => (e l).getLsbD 2), unf := k.unf ||| (m &&& maskOf fun l => (e l).getLsbD 3)
    nx := k.nx ||| (m &&& maskOf fun l => (e l).getLsbD 4) }

/-- The lanes whose sticky bits include a bit of x (R137). -/
def Sticky.having (k : Sticky) (x : BitVec 5) : Mask :=
  (if x.getLsbD 0 then k.inv else 0) ||| (if x.getLsbD 1 then k.dz else 0) ||| (if x.getLsbD 2 then k.ovf else 0) |||
  (if x.getLsbD 3 then k.unf else 0) ||| (if x.getLsbD 4 then k.nx else 0)

/-- The exceptions that a report point reports: enabled, raised and not reported (R137). -/
def Troupe.newExceptions (t : Troupe) : BitVec 5 :=
  t.sticky.summary &&& t.sp.fpctl.extractLsb' 2 5 &&& ~~~ t.reported

/-- HALT of %fpctl (R105). -/
def Troupe.haltEnabled (t : Troupe) : Bool := t.sp.fpctl.getLsbD 7

/-- A report point: a record of the new exceptions, then either a halt before the point takes effect or what the
point does (R137, R138). -/
def State.report (s : State) (go : State → Res) : Res :=
  let t0 := s.src
  let new := t0.newExceptions
  if new = 0 then go s
  else
    let lanes := t0.sticky.having new
    if t0.haltEnabled then
      let r := s.recordOf t0 0x0D 0 true s.me.pc lanes (new.setWidth 64)
      let s := s.modBook fun b => { b with chain := none }
      let s := (s.putTroupe ({ t0 with reported := t0.reported ||| new }.halt r)).dropHold t0.core t0.tslot
      let s := (s.count t0.world 0x13 t0.core 1).tellFault t0.world r
      .next (if s.isRuntime t0 then s.haltWorld t0.world else s)
    else
      let r := s.recordOf t0 0x0D 0 false s.me.pc lanes (new.setWidth 64)
      go (s.postFor { s.me with reported := s.me.reported ||| new } r)

end Sys2Proof.Machine
end

