-- ==== Sys2Proof/Machine/Scalar.lean ====
section
/-! DEFINITION. Class 1: scalar arithmetic, flags, bit fields, special registers, masks, branches, ensembles, time,
yielding and retirement (R106 to R123). -/

namespace Sys2Proof.Machine

/-- Write one scalar register and go on (R108). -/
def State.scalar (s : State) (d : Reg) (x : W64) (len : Nat) (e : Bool) : Res := s.done (s.me.setS d.val x) len e

/-- `sadd`: wraps modulo 2^64 (R108). -/
def execSadd (h : Hdr) (d a : Reg) (b : SSrc) (s : State) : Res :=
  let t := s.src
  s.scalar d (t.sreg a.val + sval b t) (slen b) h.e

/-- `ssub` (R108). -/
def execSsub (h : Hdr) (d a : Reg) (b : SSrc) (s : State) : Res :=
  let t := s.src
  s.scalar d (t.sreg a.val - sval b t) (slen b) h.e

/-- `smul`: the low 64 bits of the product (R108). -/
def execSmul (h : Hdr) (d a : Reg) (b : SSrc) (s : State) : Res :=
  let t := s.src
  s.scalar d (t.sreg a.val * sval b t) (slen b) h.e

/-- `sand` (R108). -/
def execSand (h : Hdr) (d a : Reg) (b : SSrc) (s : State) : Res :=
  let t := s.src
  s.scalar d (t.sreg a.val &&& sval b t) (slen b) h.e

/-- `sor` (R108). -/
def execSor (h : Hdr) (d a : Reg) (b : SSrc) (s : State) : Res :=
  let t := s.src
  s.scalar d (t.sreg a.val ||| sval b t) (slen b) h.e

/-- `sxor` (R108). -/
def execSxor (h : Hdr) (d a : Reg) (b : SSrc) (s : State) : Res :=
  let t := s.src
  s.scalar d (t.sreg a.val ^^^ sval b t) (slen b) h.e

/-- `sshl` by b[5:0] (R108). -/
def execSshl (h : Hdr) (d a : Reg) (b : SSrc) (s : State) : Res :=
  let t := s.src
  s.scalar d (t.sreg a.val <<< ((sval b t).toNat % 64)) (slen b) h.e

/-- `sshr.z` by b[5:0], zeros shifted in (R108). -/
def execSshrZ (h : Hdr) (d a : Reg) (b : SSrc) (s : State) : Res :=
  let t := s.src
  s.scalar d (t.sreg a.val >>> ((sval b t).toNat % 64)) (slen b) h.e

/-- `sshr.s` by b[5:0], copies of bit 63 shifted in (R108). -/
def execSshrS (h : Hdr) (d a : Reg) (b : SSrc) (s : State) : Res :=
  let t := s.src
  s.scalar d ((t.sreg a.val).sshiftRight ((sval b t).toNat % 64)) (slen b) h.e

/-- `smov` (R108). -/
def execSmov (h : Hdr) (d : Reg) (b : SSrc) (s : State) : Res := s.scalar d (sval b s.src) (slen b) h.e

/-- `smov64`: the second literal word times 2^32 plus the first (R108). -/
def execSmov64 (h : Hdr) (d : Reg) (lo hi : W32) (s : State) : Res := s.scalar d (hi ++ lo) 3 h.e

/-- Write a flag and go on (R110). -/
def State.compare (s : State) (f : Fin 8) (x : Bool) (len : Nat) (e : Bool) : Res := s.done (s.me.setFlag f.val x) len e

/-- `scmp Eq`: a = b (R110). -/
def execScmpEq (h : Hdr) (f : Fin 8) (a : Reg) (b : SSrc) (s : State) : Res :=
  let t := s.src
  s.compare f (t.sreg a.val == sval b t) (slen b) h.e

/-- `scmp Ne`: a ≠ b (R110). -/
def execScmpNe (h : Hdr) (f : Fin 8) (a : Reg) (b : SSrc) (s : State) : Res :=
  let t := s.src
  s.compare f (t.sreg a.val != sval b t) (slen b) h.e

/-- `scmp LtS`: a < b, signed (R110). -/
def execScmpLtS (h : Hdr) (f : Fin 8) (a : Reg) (b : SSrc) (s : State) : Res :=
  let t := s.src
  s.compare f ((t.sreg a.val).slt (sval b t)) (slen b) h.e

/-- `scmp LtZ`: a < b, unsigned (R110). -/
def execScmpLtZ (h : Hdr) (f : Fin 8) (a : Reg) (b : SSrc) (s : State) : Res :=
  let t := s.src
  s.compare f ((t.sreg a.val).ult (sval b t)) (slen b) h.e

/-- `scmp LeS`: a ≤ b, signed (R110). -/
def execScmpLeS (h : Hdr) (f : Fin 8) (a : Reg) (b : SSrc) (s : State) : Res :=
  let t := s.src
  s.compare f ((t.sreg a.val).sle (sval b t)) (slen b) h.e

/-- `scmp LeZ`: a ≤ b, unsigned (R110). -/
def execScmpLeZ (h : Hdr) (f : Fin 8) (a : Reg) (b : SSrc) (s : State) : Res :=
  let t := s.src
  s.compare f ((t.sreg a.val).ule (sval b t)) (slen b) h.e

/-- lo and width of a field specification (R109). -/
def fieldSpec (b : W64) : Nat × Nat := (fld b 5 0, fld b 13 8 + 1)

/-- Insert the low bits of a into the field of old; bits above 63 do not exist (R109). -/
def insertField (old a spec : W64) : W64 :=
  let (lo, width) := fieldSpec spec
  let m : W64 := ((BitVec.ofNat 64 (2 ^ width - 1)) <<< lo)
  (old &&& ~~~ m) ||| ((a <<< lo) &&& m)

/-- The field of a, zero-extended (R109). -/
def extractField (a spec : W64) : W64 :=
  let (lo, width) := fieldSpec spec
  (a >>> lo) &&& BitVec.ofNat 64 (2 ^ width - 1)

/-- `sbfi`: the other bits of s[D] keep their values; s[D] is a source (R109). -/
def execSbfi (h : Hdr) (d a : Reg) (b : SSrc) (s : State) : Res :=
  let t := s.src
  s.scalar d (insertField (t.sreg d.val) (t.sreg a.val) (sval b t)) (slen b) h.e

/-- `sbfx` (R109). -/
def execSbfx (h : Hdr) (d a : Reg) (b : SSrc) (s : State) : Res :=
  let t := s.src
  s.scalar d (extractField (t.sreg a.val) (sval b t)) (slen b) h.e

/-- The 64-bit value of a special register; %replay has its low half here (R103, R104). -/
def State.special (s : State) (t : Troupe) (n : Nat) : W64 :=
  let l := s.launch t.launch
  match n with
  | 0 => w64 t.tid
  | 1 => w64 l.troupes
  | 2 => w64 t.core
  | 3 => w64 t.tslot
  | 4 => w64 t.world
  | 5 => w64 t.launch
  | 6 => w64 s.cycle
  | 7 => if t.act.armed then t.act.ad else w64 l.deadline
  | 8 => l.wrapEntry.setWidth 64
  | 9 => t.sp.divpc.setWidth 64
  | 10 => t.sp.divcause.setWidth 64
  | 11 => t.sp.timer
  | 12 => t.sp.timerent.setWidth 64
  | 13 => t.sp.trappc.setWidth 64
  | 14 => t.sp.fpctl.setWidth 64
  | 15 => t.sticky.summary.setWidth 64
  | 16 => maskLo t.sp.replay
  | _ => w64 (t.sp.batch.toNat + b2n t.sp.special * 2 ^ 32)

/-- `srds`: %replay fills a pair (R104). -/
def execSrds (h : Hdr) (d : Reg) (n : Fin 18) (s : State) : Res :=
  if n.val = 16 then s.done (s.me.setPair d.val s.src.sp.replay) 1 h.e
  else s.scalar d (s.special s.src n.val) 1 h.e

/-- Write the RW and W1C fields of a special register (R104, R105, R137). -/
def Troupe.setSpecial (t : Troupe) (n : SWTarget) (x : W64) : Troupe :=
  match n with
  | .timerent => { t with sp := { t.sp with timerent := x.setWidth 32 } }
  | .trappc => { t with sp := { t.sp with trappc := x.setWidth 32 } }
  | .fpctl => { t with sp := { t.sp with fpctl := x.setWidth 8 } }
  | .fstat => { t with sticky := t.sticky.clear (x.setWidth 5), reported := t.reported &&& ~~~ x.setWidth 5 }
  | .mbatch => { t with sp := { t.sp with special := t.sp.special && !bit x 32 } }

/-- `swrs` (R104). -/
def execSwrs (h : Hdr) (n : SWTarget) (a : Reg) (s : State) : Res := s.done (s.me.setSpecial n (s.src.sreg a.val)) 1 h.e

/-- `exsave` (R111). -/
def execExsave (h : Hdr) (d : Pair) (live : Bool) (s : State) : Res :=
  s.done (s.me.setPair (2 * d.val) (if live then s.src.live else s.src.exec)) 1 h.e

/-- `exload` (R111). -/
def execExload (h : Hdr) (a : Pair) (s : State) : Res :=
  s.done { s.me with exec := s.src.pair (2 * a.val) &&& s.src.live } 1 h.e

/-- `exand` (R111). -/
def execExand (h : Hdr) (p : Pred) (s : State) : Res :=
  s.done { s.me with exec := s.src.exec &&& s.src.preg p.val } 1 h.e

/-- `exandn` (R111). -/
def execExandn (h : Hdr) (p : Pred) (s : State) : Res :=
  s.done { s.me with exec := s.src.exec &&& ~~~ s.src.preg p.val } 1 h.e

/-- `exif` (R111). -/
def execExif (h : Hdr) (d : Pair) (p : Pred) (s : State) : Res :=
  s.done { s.me.setPair (2 * d.val) s.src.exec with exec := s.src.exec &&& s.src.preg p.val } 1 h.e

/-- `exelse` (R111). -/
def execExelse (h : Hdr) (a : Pair) (s : State) : Res :=
  s.done { s.me with exec := s.src.pair (2 * a.val) &&& ~~~ s.src.exec &&& s.src.live } 1 h.e

/-- `excnt` (R111). -/
def execExcnt (h : Hdr) (d : Reg) (live : Bool) (s : State) : Res :=
  s.scalar d (w64 (popMask (if live then s.src.live else s.src.exec))) 1 h.e

/-- A branch: to its target, which ends the run, or past its two words (R113, R114). -/
def State.branch (s : State) (taken : Bool) (target : W32) (e : Bool) : Res :=
  .next (if taken then s.jump target else s.advance 2 e)

/-- `br` (R114). -/
def execBr (e : Bool) (off : W32) (s : State) : Res := s.branch true (s.me.pc + off) e

/-- `bexz` (R114). -/
def execBexz (e : Bool) (off : W32) (s : State) : Res := s.branch (s.src.exec == 0) (s.me.pc + off) e

/-- `bexnz` (R114). -/
def execBexnz (e : Bool) (off : W32) (s : State) : Res := s.branch (s.src.exec != 0) (s.me.pc + off) e

/-- `bf` (R114). -/
def execBf (e : Bool) (f : Fin 8) (off : W32) (s : State) : Res := s.branch (s.src.flag f.val) (s.me.pc + off) e

/-- `bnf` (R114). -/
def execBnf (e : Bool) (f : Fin 8) (off : W32) (s : State) : Res := s.branch (!s.src.flag f.val) (s.me.pc + off) e

/-- `bri`: to s[A][31:0] + off (R113, R114). -/
def execBri (e : Bool) (a : Reg) (off : W32) (s : State) : Res :=
  s.branch true ((s.src.sreg a.val).setWidth 32 + off) e

/-- `call`: the link is the word behind the branch (R114). -/
def execCall (e : Bool) (d : Reg) (off : W32) (s : State) : Res :=
  (s.setMe (s.me.setS d.val ((s.me.pc + 2).setWidth 64))).branch true (s.me.pc + off) e

/-- `loop`: counts s[A] down and branches while it is not 0 (R114). -/
def execLoop (e : Bool) (a : Reg) (off : W32) (s : State) : Res :=
  let n := s.src.sreg a.val - 1
  (s.setMe (s.me.setS a.val n)).branch (n != 0) (s.me.pc + off) e

/-- `nop` (R123). -/
def execNop (h : Hdr) (s : State) : Res := .next (s.advance 1 h.e)

/-! ## Ensembles (R115 to R118) -/

/-- Every member of an ensemble has arrived, and it has members: its phase completes (R276). -/
def Ens.ready (x : Ens) : Bool := !x.members.isEmpty && x.members.all (fun m => x.arrived.any (fun a => a.1 == m))

/-- Let ENSEMBLE_PHASE_COMPLETE fall due when the phase is complete. -/
def State.checkEns (s : State) (e : Nat) : State :=
  if (s.ensemble e).ready then s.raiseEvent (.ensemblePhaseComplete e) else s

/-- A member leaves: its arrival and its echo are withdrawn, and the phase may complete (R117, R118, R276). -/
def State.leaveEns (s : State) (uid e : Nat) : State :=
  (s.modEns e fun x =>
    { x with members := x.members.filter (· != uid), arrived := x.arrived.filter (fun a => a.1 != uid)
             pending := x.pending.filter (fun a => a.1 != uid) }).checkEns e

/-- The number s[A] names an ensemble bound to the world (R116). -/
def State.ensOk (s : State) (t : Troupe) (x : W64) : Bool :=
  x.toNat < 4096 && (s.ensemble x.toNat).owner == t.world

/-- The check of R116, then what the instruction does; no rule gives the record's access type or address (log 12). -/
def State.onEns (s : State) (a : Reg) (go : Nat → Res) : Res :=
  let x := s.src.sreg a.val
  if s.ensOk s.src x then go x.toNat
  else
    let (n, s) := s.freeNat
    s.faultAll 4 0 (w64 n)

/-- `ens.join` (R117). That a member of a full ensemble has status 2, and not 3, is the model's order (DESIGN CHOICE,
log 82). -/
def execEnsJoin (e : Bool) (d a : Reg) (s : State) : Res :=
  s.onEns a fun n =>
    let t := s.me
    let x := s.ensemble n
    if !x.allocated then s.scalar d 1 1 e
    else if t.ctl.ens.contains n then s.scalar d 2 1 e
    else if 4095 ≤ x.members.length ∨ 8 ≤ t.ctl.ens.length then s.scalar d 3 1 e
    else
      let s := s.modEns n fun x => { x with members := x.members ++ [t.uid] }
      s.done ({ t with ctl := { t.ctl with ens := t.ctl.ens ++ [n] } }.setS d.val 0) 1 e

/-- `ens.leave` (R117). -/
def execEnsLeave (e : Bool) (d a : Reg) (s : State) : Res :=
  s.onEns a fun n =>
    let t := s.me
    if !(s.ensemble n).allocated then s.scalar d 1 1 e
    else if !t.ctl.ens.contains n then s.scalar d 2 1 e
    else (s.leaveEns t.uid n).done ({ t with ctl := { t.ctl with ens := t.ctl.ens.filter (· != n) } }.setS d.val 0) 1 e

/-- `ens.new`: the lowest free ensemble of the world, with phase 0, or all ones (R117, R276). -/
def execEnsNew (e : Bool) (d : Reg) (s : State) : Res :=
  let t := s.me
  match findBelow 4096 (fun n => (s.ensemble n).owner == t.world && !(s.ensemble n).allocated) with
  | none => s.scalar d ones64 1 e
  | some n =>
    (s.modEns n fun x => { x with allocated := true, members := [], phase := 0, arrived := [], pending := [] }).scalar
      d (w64 n) 1 e

/-- `ens.free` (R117). -/
def execEnsFree (e : Bool) (d a : Reg) (s : State) : Res :=
  s.onEns a fun n =>
    let x := s.ensemble n
    if !x.allocated then s.scalar d 1 1 e
    else if !x.members.isEmpty then s.scalar d 4 1 e
    else (s.modEns n fun x => { x with allocated := false }).scalar d 0 1 e

/-! ## Timer, time, yielding, retirement (R119 to R122, R373) -/

/-- `timerset` (R373). -/
def execTimerset (e : Bool) (a : Reg) (b : SSrc) (s : State) : Res :=
  let x := w64 s.cycle + s.src.sreg a.val
  let t := s.me
  s.done { t with sp := { t.sp with timer := if x = 0 then 1 else x, timerent := (sval b s.src).setWidth 32 } } (slen b) e

/-- `timerclr` (R373). -/
def execTimerclr (e : Bool) (s : State) : Res := s.done { s.me with sp := { s.me.sp with timer := 0 } } 1 e

/-- `tret`: to %trappc, out of the handler; the run ends whatever E holds (R373, R41). -/
def execTret (_e : Bool) (s : State) : Res := .next ((s.setMe { s.me with handler := false }).jump s.src.sp.trappc)

/-- `clock`: the copy of the Almanac of the issuing core (R119, R354). -/
def execClock (h : Hdr) (d : Reg) (s : State) : Res := s.scalar d (w64 (s.almOf s.src.core)) 1 h.e

/-- `cycles` (R119). -/
def execCycles (h : Hdr) (d : Reg) (s : State) : Res := s.scalar d (w64 s.src.ctl.cycles) 1 h.e

/-- `yield`: the run ends, and the next arbitration passes the troupe over if another is ready (R120). -/
def execYield (_e : Bool) (s : State) : Res :=
  .next ((s.setMe { s.me with ctl := { s.me.ctl with yielded := true } }).advance 1 true)

/-- `exit` (R121): a report point (R137). -/
def execExit (_e : Bool) (s : State) : Res := s.report fun s => .next (s.exitNow s.me)

/-- `lexit` (R122): retires the lanes of `exec`; when none remains it is as `exit`, and a report point. -/
def execLexit (e : Bool) (s : State) : Res :=
  let live := s.src.live &&& ~~~ s.src.exec
  if live = 0 then s.report fun s => .next (s.exitNow s.me)
  else s.done { s.me with live := live, exec := 0 } 1 e

end Sys2Proof.Machine
end

