-- ==== Sys2Proof/Machine/Translate.lean ====
section
/-! DEFINITION. Translation entries, the checks of memory accesses, and translation misses (R159, R160, R177 to R188,
R323, R325, R388). -/

namespace Sys2Proof.Machine

/-- A translation entry: ENTRY_LO and ENTRY_HI (R178). -/
abbrev Entry := W64 × W64

/-- V, SIZE, the page's virtual and physical base, and WORLD of an entry (R178). -/
def entryValid (e : Entry) : Bool := bit e.1 0
/-- SIZE. -/
def entrySize (e : Entry) : Nat := fld e.1 4 1
/-- VPAGE, as an address. -/
def entryVa (e : Entry) : Nat := fld e.1 55 12 * 4096
/-- PFRAME, as an address. -/
def entryPa (e : Entry) : Nat := fld e.2 47 12 * 4096
/-- WORLD. -/
def entryWorld (e : Entry) : Nat := fld e.2 11 6

/-- The page of the entry contains the address. -/
def entryCovers (e : Entry) (va : Nat) : Bool := va / pageSize (entrySize e) * pageSize (entrySize e) == entryVa e

/-- The set of the cluster buffer for an address, a size code and a world (R180). -/
def tlbSet (va code w : Nat) : Nat :=
  let x := va % 2 ^ 56 / 2 ^ (12 + 2 * code)
  let f (i : Nat) := x / 2 ^ (9 * i) % 512
  let h := Nat.xor (Nat.xor (Nat.xor (f 0) (f 1)) (Nat.xor (f 2) (f 3))) (x / 2 ^ 36 % 256)
  Nat.xor (Nat.xor h (code * 37)) (w * 11) % 512

/-- The entry at a set and way of a cluster; one not written is zero (R178). -/
def Cluster.entry (c : Cluster) (set way : Nat) : Entry := c.tlb.get (16 * set + way) (0, 0)

/-- The way of a set with a valid entry of a size and world for an address (R181). -/
def Cluster.probe (c : Cluster) (w va code : Nat) : Option (Nat × Nat) :=
  let set := tlbSet va code w
  (findBelow 16 fun way =>
    let e := c.entry set way
    entryValid e && entryWorld e == w && entrySize e == code && entryCovers e va).map fun way => (set, way)

/-- The set and way that an address of a world translates through: the smallest page wins (R181). -/
def Cluster.lookup (c : Cluster) (w va : Nat) : Option (Nat × Nat) :=
  (List.range 12).findSome? fun code => c.probe w va code

/-- The physical address behind an entry. -/
def entryTarget (e : Entry) (va : Nat) : Nat := entryPa e + va % pageSize (entrySize e)

/-- The entry was used by a core: its micro-buffer copy becomes the most recent, and a miss there is counted
(R182, R376). -/
def State.touchUtlb (s : State) (core w : Nat) (sw : Nat × Nat) : State :=
  let c := s.core core
  let s := if c.utlb.contains sw then s else s.count w 0x0C core 1
  s.modCore core fun c => { c with utlb := (sw :: c.utlb.filter (· != sw)).take 128 }

/-! ## Poison and ownership -/

/-- The 128-byte line of a physical address is poisoned in its slice. -/
def lineNo (pa : Nat) : Nat := pa / 128

/-- The slice that serves a module address (R166). -/
def sliceOf (pa : Nat) : Nat :=
  match regionOf pa with
  | .sram =>
    let f (i : Nat) := pa / 2 ^ (7 + 4 * i) % 16
    pa / 0x180000000 * 16 +
      Nat.xor (Nat.xor (Nat.xor (f 0) (f 1)) (Nat.xor (f 2) (f 3))) (Nat.xor (Nat.xor (f 4) (f 5)) (f 6))
  | _ =>
    let o := pa - 0x10000000000
    let f (i : Nat) := o / 2 ^ (7 + 6 * i) % 64
    Nat.xor (Nat.xor (Nat.xor (f 0) (f 1)) (Nat.xor (f 2) (f 3))) (Nat.xor (f 4) (o / 2 ^ 37 % 16))

/-- The nodes through which the lines of a frame of LPDDR-5X are verified: level and number, from level 0 up to the
counters on die (R426). -/
def treePath (frame : Nat) : List (Nat × Nat) :=
  let o := frame - 0x10000000000
  (List.range 8).map (fun i => (0, o / 512 + i)) ++ (List.range 10).map fun l => (l + 1, o / 2 ^ (3 * l + 12))

/-- Every node on the way from the lines of a frame up to the counters on die holds; a lost node of level 0 takes the
whole frame with it (R426, R430). -/
def State.verified (s : State) (frame : Nat) : Bool :=
  s.rebuild.isEmpty || frame < 0x10000000000 || (treePath frame).all fun n => !s.rebuild.contains n

/-- The slice holds a 128-byte line whose data it lost (R429). -/
def State.lineLost (s : State) (ln : Nat) : Bool :=
  match (s.slice (sliceOf (128 * ln))).lines.find ln with | some l => l.bad | none => false

/-- The multiples of a unit in which a range of addresses lies, divided by it. -/
def unitsOf (unit pa n : Nat) : List Nat := (List.range ((pa + n - 1) / unit - pa / unit + 1)).map (· + pa / unit)

/-- Bytes of a poisoned 64-byte line, or of a line whose data the slice lost, are in the range (R176, R428, R429), or
bytes that a lost node of the integrity tree leaves unverified (R426, R430). -/
def State.poisoned (s : State) (pa n : Nat) : Bool :=
  (unitsOf 64 pa n).any (fun l => s.poison.contains l) || (unitsOf 128 pa n).any s.lineLost ||
  (unitsOf 4096 pa n).any fun f => !s.verified (4096 * f)

/-- A working lane of the world reaches the peer (R436, R438): lane n is in port n / 32, and field 100 + port of the
configuration names the peer of a port plus one (R435, R416). -/
def State.reaches (s : State) (w p : Nat) : Bool :=
  (List.range 512).any fun n =>
    let l := s.lanes.get n {}
    l.owner == w && !l.failed && s.mgmt.config.get (100 + n / 32) 0 == p + 1

/-! ## Lane checks (R187) -/

/-- What an access needs of an entry, and what its instruction admits. -/
structure Need where
  bytes : Nat
  r : Bool := false
  w : Bool := false
  x : Bool := false
  /-- Only module memory (`amog`, R196). -/
  moduleOnly : Bool := false
  /-- A host address is refused, because the operation has no PCIe AtomicOp (R199). -/
  noHost : Bool := false
  /-- The kinds under which watchpoints look at it: as a load or the read half of an atomic, and as a store or the write
  half of an atomic or reduction (R385); neither for `valid` (R388). -/
  watchR : Bool := r
  watchW : Bool := w
  /-- Access type of records (R184). -/
  access : Nat
  deriving DecidableEq, Repr

/-- The outcome of the checks for one lane. -/
inductive LaneOut where
  | bad (step cause : Nat)
  | miss
  | ok (pa : Nat) (na : Bool)
  deriving DecidableEq, Repr

/-- The entry permits the access (R178, R187 step 5). -/
def Need.permits (n : Need) (e : Entry) : Bool := (!n.r || bit e.2 0) && (!n.w || bit e.2 1) && (!n.x || bit e.2 2)

/-- Steps 5 and 6 of R187 behind an entry; an interface in ERROR admits no access to the host (R423). -/
def State.checkEntry (s : State) (w : Nat) (n : Need) (e : Entry) (va : Nat) : LaneOut :=
  let pa := entryTarget e va
  if !n.permits e then .bad 5 3
  else match regionOf pa with
    | .host => if n.moduleOnly ∨ n.noHost ∨ (s.fn w).trust.tdisp = 3 ∨ (s.fn w).trust.barred then .bad 5 3 else .ok pa false
    | .peer p => if n.moduleOnly then .bad 5 3 else if s.reaches w p then .ok pa false else .bad 6 4
    | .hole => .bad 6 4
    | _ =>
      if s.frameOwner pa ≠ w then .bad 6 4
      else if s.poisoned pa n.bytes then .bad 6 0x14
      else .ok pa (bit e.2 3)

/-- The checks of R187 for one global address of a world on a core. -/
def State.checkVa (s : State) (core w : Nat) (n : Need) (va : W64) : LaneOut :=
  if va.toNat ≥ 2 ^ 56 then .bad 1 3
  else if va.toNat % n.bytes ≠ 0 then .bad 2 5
  else
    let c := s.cluster (clusterOf core)
    match c.lookup w va.toNat with
    | none => .miss
    | some (set, way) => s.checkEntry w n (c.entry set way) va.toNat

/-- A vector access after its checks: the precise fault of the earliest failing step, or the lanes that translated and
those that missed. -/
inductive Checked where
  | bad (cause : Nat) (lanes : List Nat) (va : W64)
  | go (ok : List LaneOp) (missed : List (Nat × W64))
  deriving DecidableEq, Repr

/-- Gather the lanes' outcomes (R187); among causes of one step, the lowest code is raised (R366). -/
def gatherLanes (outs : List (Nat × W64 × LaneOut)) : Checked :=
  let bads := outs.filterMap fun (l, va, o) => match o with | .bad st c => some (l, va, st, c) | _ => none
  match least (fun x => x.2.2.1) bads with
  | some (_, _, st, _) =>
    let here := bads.filter (fun x => x.2.2.1 == st)
    let cause := here.foldl (fun a x => min a x.2.2.2) 255
    .bad cause (here.map (·.1)) ((here.head?.map (·.2.1)).getD 0)
  | none =>
    .go (outs.filterMap fun (l, va, o) => match o with
          | .ok pa na => some { lane := l, va := va.toNat, pa := pa, na := na } | _ => none)
        (outs.filterMap fun (l, va, o) => match o with | .miss => some (l, va) | _ => none)

/-- The outcomes of lanes, in ascending order, of a troupe. -/
def State.laneOuts (s : State) (t : Troupe) (n : Need) (lanes : List (Nat × W64)) : List (Nat × W64 × LaneOut) :=
  lanes.map fun (l, va) => (l, va, s.checkVa t.core t.world n va)

/-- Check lanes, in ascending order, of a troupe. -/
def State.checkLanes (s : State) (t : Troupe) (n : Need) (lanes : List (Nat × W64)) : Checked :=
  gatherLanes (s.laneOuts t n lanes)

/-- Lanes as a mask; a scalar access stands for the whole troupe (R194). -/
def lanesMask (scalar : Bool) (t : Troupe) (ls : List Nat) : Mask :=
  if scalar then t.live else maskOf fun l => ls.contains l

/-- The micro-buffer copies that an access used. -/
def State.touchAll (s : State) (t : Troupe) (ok : List LaneOp) : State :=
  (nub ((ok.filterMap fun o => (s.cluster (clusterOf t.core)).lookup t.world o.va).map fun (a, b) => 16 * a + b)).foldl
    (fun s k => s.touchUtlb t.core t.world (k / 16, k % 16)) s

/-! ## Watchpoints (R388) -/

/-- The lane's bytes meet watchpoint i of the world for this kind of access. -/
def State.watched (s : State) (t : Troupe) (n : Need) (o : LaneOp) (i : Nat) : Bool :=
  match (s.world t.world).watch.find i with
  | none => false
  | some (w0, w1) =>
    let base := fld w0 55 0
    bit w1 6 && ((n.watchR && bit w1 4) || (n.watchW && bit w1 5)) && o.va < base + 2 ^ fld w1 3 0 && base < o.va + n.bytes

/-- The lanes that match a watchpoint: none outside debug launches and for an exempt instruction (R385, R386). -/
def State.watchHits (s : State) (t : Troupe) (n : Need) (ok : List LaneOp) : List LaneOp :=
  if (s.launch t.launch).debug ∧ ¬ t.ctl.exempt then ok.filter fun o => (List.range 4).any (s.watched t n o) else []

/-- No Procession operation and no matrix queue entry of the troupe is left: it may be halted for debugging
(R250, R318). -/
def State.haltReady (s : State) (t : Troupe) : Bool :=
  let c := s.core t.core
  !(t.ops.any fun o => match o.kind with | .ring _ => true | _ => false) &&
  !(c.mq.any fun m => m.uid == t.uid) && !c.array.any fun m => m.uid == t.uid

/-- Halt for debugging before an instruction, with a record (R387, R388). -/
def State.debugHalt (s : State) (t : Troupe) (cause access : Nat) (lanes : Mask) (va : W64) : State :=
  let r := s.recordOf t cause access true t.pc lanes va
  let s := s.modBook fun b => { b with chain := none }
  let s := (s.putTroupe { t with ctl := { t.ctl with debug := true, stalled := false } }).dropHold t.core t.tslot
  s.postFor { t with ctl := { t.ctl with debug := true, stalled := false } } r

/-! ## Misses (R183 to R186, R367) -/

/-- The virtual pages of missed lanes, ascending. -/
def missPages (missed : List (Nat × W64)) : List Nat := sortAsc (missed.map fun m => m.2.toNat / 4096)

/-- The troupe's world has no miss quota in its cluster and a page needs a new entry (R367). -/
def State.missBarred (s : State) (t : Troupe) (missed : List (Nat × W64)) : Bool :=
  let c := clusterOf t.core
  (s.world t.world).limits.missQuota.get c 0 == 0 &&
  (missPages missed).any fun g => !(s.cluster c).miss.any fun e => e.world == t.world && e.page == g

/-- A troupe whose lanes missed creates or joins some entry (R183). -/
def State.missServed (s : State) (t : Troupe) (missed : List (Nat × W64)) : Bool :=
  let c := clusterOf t.core
  let mt := (s.cluster c).miss
  let room : Bool := decide (mt.length < 256) &&
    decide ((mt.filter fun e => e.world == t.world).length < (s.world t.world).limits.missQuota.get c 0)
  (missPages missed).any fun g => room || mt.any fun e => e.world == t.world && e.page == g

/-- Serve one page: join its entry, or create one within the quota and post its record (R183). The list gathers the
pages the troupe is parked on. -/
def State.missPage (s : State) (t : Troupe) (access : Nat) (scalar : Bool) (missed : List (Nat × W64))
    (acc : State × List Nat) (g : Nat) : State × List Nat :=
  let (s', parked) := acc
  let c := clusterOf t.core
  let mt := (s'.cluster c).miss
  let mine := missed.filter fun m => m.2.toNat / 4096 == g
  if mt.any (fun e => e.world == t.world && e.page == g) then
    (s'.modCluster c fun cl => { cl with miss := cl.miss.map fun e =>
      if e.world == t.world && e.page == g then { e with parked := e.parked ++ [t.key] } else e }, parked ++ [g])
  else if mt.length < 256 ∧ (mt.filter (fun e => e.world == t.world)).length < (s.world t.world).limits.missQuota.get c 0 then
    let s' := s'.modCluster c fun cl => { cl with miss := cl.miss ++ [⟨t.world, g, [t.key]⟩] }
    let s' := s'.count t.world 0x0B t.core 1
    let r := s.recordOf t 2 access false t.pc (lanesMask scalar t (mine.map (·.1))) ((mine.head?.map (·.2)).getD 0)
    (s'.postFor ((s'.troupe t.key).getD t) r, parked ++ [g])
  else (s', parked)

/-- A miss of the troupe t, as it stood before the chain: parked on the entries it created or joined, or waiting for
room; `perform` is what a store or atomic still does with the lanes that translated, when an entry was got
(R183, R187). A troupe of the runtime launch that gets no entry, and posts no record, waits like any other: R183 and
R186 do not say whether its world halts (log 60). -/
def State.miss (s : State) (t : Troupe) (access : Nat) (scalar : Bool) (missed : List (Nat × W64))
    (perform : State → State) : Res :=
  let barred := s.missBarred t missed
  let s := (s.modBook fun b => { b with chain := none }).count t.world 0x0C t.core (missPages missed).length
  if barred then
    .next (s.faultAt t 0x13 (if access = 3 then 3 else 0) (lanesMask scalar t (missed.map (·.1)))
      ((missed.head?.map (·.2)).getD 0))
  else
    let s := (s.putTroupe t).dropHold t.core t.tslot
    let (s, parked) := (missPages missed).foldl (fun a g => s.missPage t access scalar missed a g) (s, [])
    if parked.isEmpty then
      .next (s.modTroupe t.key fun t => { t with ctl := { t.ctl with wait := .missRoom, stalled := false } })
    else
      let s := s.modTroupe t.key fun t =>
        { t with ctl := { t.ctl with wait := .parked parked, replayPc := some t.pc, stalled := false, stepReq := none } }
      let s := perform s
      .next (if s.isRuntime t then s.haltWorld t.world else s)

/-- Troupes of a cluster that a change of its miss table lets issue again: those parked on no entry any more, and those
that wait for room (R183). -/
def State.wakeMisses (s : State) (c : Nat) : State :=
  let mt := (s.cluster c).miss
  let ks := (s.troupes.filter fun x => clusterOf x.2.core == c &&
    (match x.2.ctl.wait with
     | .parked _ => !mt.any fun e => e.parked.contains x.1
     | .missRoom => true
     | _ => false)).map (·.2)
  ks.foldl (fun s t => s.raiseEvent (.missRetry t.core t.tslot)) s

/-- A troupe leaves the miss entries it is parked on; an entry without troupes is released (R185). -/
def State.leaveMisses (s : State) (t : Troupe) : State :=
  let c := clusterOf t.core
  let before := (s.cluster c).miss.length
  let s := s.modCluster c fun cl =>
    { cl with miss := (cl.miss.map fun e => { e with parked := e.parked.filter (· != t.key) }).filter
                (fun e => !e.parked.isEmpty) }
  if (s.cluster c).miss.length < before then s.wakeMisses c else s

/-! ## The front-end table (R394, R444) -/

/-- The entry of a function's front-end table for an address: the smallest page wins (R394, R181). -/
def Fn.lookup (f : Fn) (va : Nat) : Option Entry :=
  (List.range 12).findSome? fun code =>
    (f.fe.find? fun e => entryValid e.2 && entrySize e.2 == code && entryCovers e.2 va).map (·.2)

/-- Translate n bytes, within one page, through a world's front-end table: the physical address, or the cause of the
failed step (R394, R444). -/
def State.feTranslate (s : State) (w va n : Nat) (r wr x : Bool) : Except Nat Nat :=
  if va ≥ 2 ^ 56 then .error 3
  else match (s.fn w).lookup va with
    | none => .error 2
    | some e =>
      match s.checkEntry w { bytes := n, r := r, w := wr, x := x, access := 0 } e va with
      | .bad _ c => .error c
      | .miss => .error 2
      | .ok pa _ => .ok pa

end Sys2Proof.Machine
end

