-- ==== Sys2Proof/Machine/Flits.lean ====
section
/-! DEFINITION. Flits of the Wowen ports, and the lanes that carry a world's requests (R435 to R437). -/

namespace Sys2Proof.Machine

/-- One bit of the CRC-32. -/
def crcBits (c : W32) : Nat → W32
  | 0 => c
  | n + 1 => crcBits (if c.getLsbD 0 then (c >>> 1) ^^^ 0xEDB88320#32 else c >>> 1) n

/-- The CRC-32 of IEEE 802.3 (PRESUMED: R436 names a CRC-32 and no polynomial; log 29). -/
def crc32 (bs : List Byte) : W32 :=
  ~~~ (bs.foldl (fun c b => crcBits (c ^^^ b.setWidth 32) 8) (BitVec.allOnes 32))

/-- Exactly n bytes: cut, or filled with zeros. -/
def exactly (n : Nat) (bs : List Byte) : List Byte := bs.take n ++ List.replicate (n - bs.length) 0

/-- A flit (R436). -/
def flitOf (seq kind src dst module : Nat) (body : List Byte) : List Byte :=
  let bs := leBytes 8 (seq % 2 ^ 16 + kind % 16 * 2 ^ 16 + src % 64 * 2 ^ 20 + dst % 64 * 2 ^ 26 + module % 256 * 2 ^ 32) ++
    exactly 52 body
  bs ++ leBytes 4 (crc32 bs).toNat

/-- The CRC of a received flit is right (R437). -/
def flitOk (bs : List Byte) : Bool := bs.length == 64 && leNat (bs.drop 60) == (crc32 (bs.take 60)).toNat

/-- The lanes that carry a world's flits to a peer: bound to the world, working, in ports assigned to that peer
(R436). -/
def State.lanesTo (s : State) (w p : Nat) : List Nat :=
  (List.range 512).filter fun n =>
    let l := s.lanes.get n {}
    l.owner == w && !l.failed && s.mgmt.config.get (100 + n / 32) 0 == p + 1

/-- Send a flit on a lane, and keep it until it is acknowledged (R437); it is counted (R376). -/
def State.sendOn (s : State) (n : Nat) (flit : List Byte) : State :=
  let l := s.lanes.get n {}
  let s := s.count 0 0x22 0 1
  { s with
    lanes := s.lanes.put n { l with sendSeq := (l.sendSeq + 1) % 2 ^ 16, unacked := l.unacked ++ [(s.alm, flit)] }
    out := s.out ++ [.flit n flit] }

/-- A flit of a kind between a world and a world at the other end, on a lane. -/
def State.sendKind (s : State) (n kind w dst : Nat) (body : List Byte) : State :=
  s.sendOn n (flitOf (s.lanes.get n {}).sendSeq kind w dst (s.mgmt.config.get 300 0) body)

/-- Bytes of a range that lie in a 128-byte line. -/
def bytesIn (ln addr n : Nat) : Nat := min (addr + n) (128 * ln + 128) - max addr (128 * ln)

/-- A transfer between a world and a peer is spread by line address across the world's lanes to it, 52 bytes to a flit.
Which lane serves a line, the kind, which is not 15, the other world and the payload are not given (R436; log 29). -/
def State.sendFlits (s : State) (w p id addr n : Nat) : State :=
  let ls := s.lanesTo w p
  if ls.isEmpty then s
  else
    let (kind, s) := s.freeNat
    let (dst, s) := s.freeNat
    let parts := (unitsOf 128 addr (max 1 n)).flatMap fun ln => List.replicate (max 1 ((bytesIn ln addr n + 51) / 52)) ln
    parts.zipIdx.foldl (fun s x =>
      s.sendKind (ls.getD (Config.flitLane x.1 % ls.length) 0) (kind % 15) w dst (Config.flitBody id x.2)) s

/-! ## The time lane (R439) -/

/-- The number of the lane that the configuration record reserves to the time source, if it names one: field 2 is that
lane plus one. -/
def State.timeLane (s : State) : Option Nat :=
  match s.mgmt.config.get 2 0 with | 0 => none | n + 1 => some n

/-- The client's message of an exchange with a Wowen source goes out on the time lane, as a flit of kind 15 of world
0. -/
def State.sendTime (s : State) : State :=
  match s.timeLane with
  | none => s
  | some n =>
    if s.mgmt.timeSrc ≠ 1 ∨ (s.lanes.get n {}).failed then s
    else
      let (id, s) := s.freshId
      s.sendKind n 15 0 0 (Config.flitBody id 0)

/-- The correction of the fibre asymmetry of the time lane's port, as the configuration record sets it. -/
def State.asymmetry (s : State) : Nat := match s.timeLane with | none => 0 | some n => s.mgmt.config.get (200 + n / 32) 0

end Sys2Proof.Machine
end

