-- ==== Sys2Proof/Machine/Cache.lean ====
section
/-! DEFINITION. L1 and L2: encodings, allocation and eviction, timestamps and leases, and the accesses of the single
order S to module memory (R165 to R174, R201 to R206). -/

namespace Sys2Proof.Machine

/-- The 128 bytes of a line of module memory. -/
def State.lineBytes (s : State) (ln : Nat) : List Byte := s.memRead (ln * 128) 128

/-! ## Encodings (R168) -/

/-- The line as little-endian elements of k bytes. -/
def elements (k : Nat) : Nat → List Byte → List Nat
  | 0, _ => []
  | n + 1, bs => leNat (bs.take k) :: elements k n (bs.drop k)

/-- x is the sign extension of d bytes to k bytes. -/
def smallDelta (k d x : Nat) : Bool := x < 2 ^ (8 * d - 1) || 2 ^ (8 * k) - 2 ^ (8 * d - 1) ≤ x

/-- The base-and-delta encoding of element size k and delta d holds the line exactly (R168). -/
def deltaFits (k d : Nat) (bs : List Byte) : Bool :=
  let es := elements k (128 / k) bs
  let base := (es.find? fun e => !smallDelta k d e).getD 0
  es.all fun e => smallDelta k d e || smallDelta k d ((e + 2 ^ (8 * k) - base) % 2 ^ (8 * k))

/-- The first encoding that represents the line (R168). -/
def encodingOf (bs : List Byte) : Nat :=
  if bs.all (· == 0) then 0
  else if (elements 8 16 bs).all (· == leNat (bs.take 8)) then 1
  else if deltaFits 8 1 bs then 2
  else if deltaFits 4 1 bs then 3
  else if deltaFits 8 2 bs then 4
  else 5

/-! ## Allocation (R167, R169, R170) -/

/-- The set of a line within its slice (R167). -/
def setOf (ln : Nat) : Nat := Nat.xor (ln % 2048) (ln / 2 ^ 11 % 2048)

/-- The lines of a set. -/
def Slice.inSet (sl : Slice) (set : Nat) : List (Nat × L2Line) := sl.lines.filter fun e => setOf e.1 == set

/-- The lines that occupy a data way; `way` of a line is twice its data way, plus its half (R167). -/
def inWay (ls : List (Nat × L2Line)) (way : Nat) : List (Nat × L2Line) :=
  ls.filter fun e => match e.2.way with | some h => h / 2 == way | none => false

/-- A free place for a line of a world and an encoding in the ways of its mask: no data, a half, or a whole way
(R167, R169). The lowest-numbered place is taken (log 13). -/
def freePlace (ls : List (Nat × L2Line)) (dways w code : Nat) : Option (Option Nat) :=
  if 32 ≤ ls.length then none
  else if code = 0 then some none
  else if code = 5 then
    (findBelow 16 fun y => dways / 2 ^ y % 2 == 1 && (inWay ls y).isEmpty).map fun y => some (2 * y)
  else
    (findBelow 32 fun h => dways / 2 ^ (h / 2) % 2 == 1 &&
      (inWay ls (h / 2)).all fun e => e.2.world == w && e.2.code != 5 && e.2.way != some h).map some

/-- The victim: the least recently used unpinned line of the world in those ways, or of a world whose mask has lost the
way (`gone`, R170); a code 5 line takes the partner half with it, so that a pinned partner protects it too
(R169, R173). -/
def victim (ls : List (Nat × L2Line)) (dways w code : Nat) (gone : L2Line → Bool) : Option (Nat × L2Line) :=
  least (fun e => e.2.used) <| ls.filter fun e =>
    (e.2.world == w || gone e.2) && e.2.pinned.isNone &&
    (match e.2.way with
     | some h => dways / 2 ^ (h / 2) % 2 == 1 && (code != 5 || (inWay ls (h / 2)).all fun p => p.2.pinned.isNone)
     | none => false)

/-- Steps of a 56-bit counter (R425, R426). -/
def stepCtr (t : Table Nat) (k n : Nat) : Table Nat := t.put k ((t.get k 0 + n) % 2 ^ 56)

/-- The counters of n lines from line a have stepped (R425). -/
def stepLines (t : Table Nat) (a n : Nat) : Table Nat :=
  t.filter (fun x => x.1 < a) ++ (List.range n).map (fun i => (a + i, (t.get (a + i) 0 + 1) % 2 ^ 56)) ++
  t.filter fun x => a + n ≤ x.1

/-- Each node of a level above n lines, the first of which is line a of LPDDR-5X, has stepped for every one of them that
is under it (R426). -/
def stepNodes (t : Table Nat) (a n level : Nat) : Table Nat :=
  let span := 8 ^ (level + 1)
  (List.range ((a + n - 1) / span - a / span + 1)).foldl (fun t i =>
    let j := a / span + i
    stepCtr t (16 * j + level) (min (a + n) ((j + 1) * span) - max a (j * span))) t

/-- Whole 64-byte lines are written to LPDDR-5X, each under its next counter; the counters of the nodes above them step
with them (R425, R426; log 61). Stacked SRAM has none (R427). -/
def State.wroteLines (s : State) (pa n : Nat) : State :=
  match regionOf pa with
  | .lpddr | .firmware =>
    { s with
      lineCtr := stepLines s.lineCtr (pa / 64) (n / 64)
      nodeCtr := (List.range 11).foldl (fun t l => stepNodes t (pa / 64 - 0x10000000000 / 64) (n / 64) l) s.nodeCtr }
  | _ => s

/-- A line leaves its slice: a dirty one is written back, the slice's floor rises, and a line whose data was lost
poisons what it is written back to (R171, R176, R205). -/
def State.evictLine (s : State) (ln : Nat) : State :=
  let i := sliceOf (ln * 128)
  match (s.slice i).lines.find ln with
  | none => s
  | some l =>
    let s := s.modSlice i fun sl => { sl with lines := sl.lines.del ln, floor := max sl.floor l.rts }
    let s := if l.dirty then s.wroteLines (ln * 128) 128 else s
    if l.bad then { s with poison := sortAsc (s.poison ++ [2 * ln, 2 * ln + 1]) } else s

/-- Evict until there is a place for the line, or no victim is left. -/
def State.makePlace (s : State) (w ln code : Nat) : Nat → State × Option (Option Nat)
  | 0 => (s, none)
  | n + 1 =>
    let i := sliceOf (ln * 128)
    let dways := (s.world w).limits.dways.get i 0
    let ls := (s.slice i).inSet (setOf ln)
    match freePlace ls dways w code with
    | some p => (s, some p)
    | none =>
      let gone (l : L2Line) : Bool := match l.way with
        | some h => (s.world l.world).limits.dways.get i 0 / 2 ^ (h / 2) % 2 == 0
        | none => false
      match victim ls dways w code gone with
      | none => (s, none)
      | some (v, x) =>
        let out := if code = 5 then (inWay ls (x.way.getD 0 / 2)).map (·.1) else [v]
        (out.foldl (fun s e => s.evictLine e) s).makePlace w ln code n

/-- The timestamps of a line at its slice: those of a line just brought in, if it is not present (R204, R205). -/
def State.lineTs (s : State) (ln : Nat) : Nat × Nat :=
  let sl := s.slice (sliceOf (ln * 128))
  match sl.lines.find ln with
  | some l => (l.wts, l.rts)
  | none => (sl.floor, sl.floor)

/-- Put a line with its timestamps and contents into its slice if there is a place; otherwise the access streams and
the floor keeps its lease (R169, R170, R205). -/
def State.install (s : State) (w core ln : Nat) (stream dirty : Bool) (back : List Byte) (pinned : Option Nat)
    (wts rts : Nat) : State :=
  let i := sliceOf (ln * 128)
  let code := encodingOf (s.lineBytes ln)
  let dways := (s.world w).limits.dways.get i 0
  let (s, place) := if stream ∨ dways = 0 then (s, none) else s.makePlace w ln code 33
  match place with
  | none => (if dirty then s.wroteLines (ln * 128) 128 else s).modSlice i fun sl => { sl with floor := max sl.floor rts }
  | some p =>
    let (u, s) := s.freshId
    let s := if code < 5 then s.count w 0x0A core 1 else s
    let x : L2Line :=
      { world := w, dirty := dirty, back := back, code := code, way := p, wts := wts, rts := rts, pinned := pinned
        used := u }
    s.modSlice i fun sl => { sl with lines := sl.lines.put ln x }

/-- The place of a present line whose new encoding takes another amount of data. It shrinks where it stands, and a half
that grows takes its whole data way; only a line without data, or beside a pinned half, looks for a place in the mask
(log 62). -/
def State.newPlace (s : State) (ln : Nat) (l : L2Line) (code : Nat) : State × Option (Option Nat) :=
  if code = 0 then (s, some none)
  else match l.way with
    | some h =>
      if code < 5 then (s, some (some h))
      else
        let ps := inWay ((s.slice (sliceOf (ln * 128))).inSet (setOf ln)) (h / 2)
        if ps.all fun p => p.2.pinned.isNone then (ps.foldl (fun s p => s.evictLine p.1) s, some (some (2 * (h / 2))))
        else s.makePlace l.world ln code 33
    | none => s.makePlace l.world ln code 33

/-- A present line takes another encoding. One that finds no place is evicted, unless it is pinned: a pinned line stays,
whatever place its data then has (R168, R170, R174; log 62). -/
def State.recode (s : State) (ln : Nat) (l : L2Line) (code : Nat) : State :=
  let i := sliceOf (ln * 128)
  let put (s : State) (w : Option Nat) : State :=
    s.modSlice i fun sl => { sl with lines := sl.lines.put ln { l with code := code, way := w } }
  let (s, place) := (s.modSlice i fun sl => { sl with lines := sl.lines.del ln }).newPlace ln l code
  match place with
  | some p => put s p
  | none => if l.pinned.isSome then put s none else (put s none).evictLine ln

/-- Events of the crossbar, counted for the fabric alone: how many beats an access sends and how long it waits for an
optical token is not given (R22, R376, R377; log 63). -/
def State.countFabric (s : State) (core : Nat) : State :=
  let c := core / 8 * 8
  let one (s : State) (event : Nat) : State :=
    if (List.range 8).any fun i => ((s.world 0).counter i).takes 0 event c then
      let (n, s) := s.freeNat
      s.count 0 event c n
    else s
  if core < 192 then one (one s 0x20) 0x21 else s

/-- An access reaches a line at its slice and leaves it with new timestamps; `wrote` says that its bytes changed, from
what they were before (R165, R171, R204, R376). -/
def State.reachLine (s : State) (w core ln : Nat) (na : Bool) (wrote : Option (List Byte)) (wts rts : Nat) : State :=
  let i := sliceOf (ln * 128)
  let s := ((s.count w 8 core 1).countFabric core).noteTs rts
  match (s.slice i).lines.find ln with
  | none => (s.count w 9 core 1).install w core ln na wrote.isSome (wrote.getD []) none wts rts
  | some l =>
    let (u, s) := s.freshId
    match wrote with
    | none => s.modSlice i fun sl => { sl with lines := sl.lines.put ln { l with wts := wts, rts := rts, used := u } }
    | some old =>
      let code := encodingOf (s.lineBytes ln)
      let x := { l with dirty := true, back := if l.dirty then l.back else old, wts := wts, rts := rts, used := u }
      if code = l.code ∨ (1 ≤ code ∧ code < 5 ∧ 1 ≤ l.code ∧ l.code < 5) then
        s.modSlice i fun sl => { sl with lines := sl.lines.put ln { x with code := code } }
      else s.recode ln x code

/-! ## L1 (R165, R204, R206) -/

/-- A line of L1 that a troupe may use at its logical time: of its world, within its lease, and younger than 2,048
cycles (R204, R206). -/
def State.l1Hit (s : State) (core w ln pts : Nat) : Option L1Line :=
  match (s.core core).l1.find ln with
  | some l => if l.world = w ∧ pts ≤ l.rts ∧ s.cycle < l.born + 2048 then some l else none
  | none => none

/-- Hold a line in L1, dropping the oldest when 2,048 lines are held (log 13). -/
def State.fillL1 (s : State) (core ln : Nat) (l : L1Line) : State :=
  s.modCore core fun c =>
    let t := c.l1.del ln
    let t := if t.length < 2048 then t else
      match least (fun e => e.2.born) t with | some e => t.del e.1 | none => t
    { c with l1 := t.put ln l }

/-- A load of one line at a logical time: from L1, or renewed at its slice and held in L1 (R204). The wts seen and
the bytes are the result; a hit counts when the line is first looked up. A line brought in has the slice's floor from
before another is evicted to make room for it (DESIGN CHOICE, log 87). -/
def State.loadLine (s : State) (w core ln pts : Nat) (na first : Bool) : State × Nat × List Byte :=
  match s.l1Hit core w ln pts with
  | some l => (if first then s.count w 7 core 1 else s, l.wts, l.bytes)
  | none =>
    let (wts, rts) := s.lineTs ln
    let rts := max rts (pts + 16)
    let s := s.reachLine w core ln na none wts rts
    let bytes := s.lineBytes ln
    (s.fillL1 core ln { world := w, bytes := bytes, wts := wts, rts := rts, born := s.cycle }, wts, bytes)

/-- Load several lines, each once, at a logical time: the largest wts seen, and the bytes. -/
def State.loadRound (s : State) (w core : Nat) (lns : List (Nat × Bool)) (pts : Nat) (first : Bool) :
    State × Nat × List (Nat × List Byte) :=
  lns.foldl (fun (a : State × Nat × List (Nat × List Byte)) (x : Nat × Bool) =>
    let (s, wts, bs) := a.1.loadLine w core x.1 pts x.2 first
    (s, max a.2.1 wts, a.2.2 ++ [(x.1, bs)])) (s, pts, [])

/-- Load several lines; each is renewed until every lease covers the final time (R204). The last round is taken as it
is: lines that evict one another from their slice could move the time on for ever (log 13). -/
def State.loadLines (s : State) (w core : Nat) (lns : List (Nat × Bool)) (pts : Nat) (first : Bool) :
    Nat → State × Nat × List (Nat × List Byte)
  | 0 => s.loadRound w core lns pts first
  | n + 1 =>
    let (s, p, got) := s.loadRound w core lns pts first
    if p = pts then (s, p, got) else s.loadLines w core lns p false n

/-- The lines of lanes, each once, with the NA bit of the first lane on it. -/
def linesOf (os : List LaneOp) : List (Nat × Bool) :=
  (sortAsc (os.map fun o => lineNo o.pa)).map fun ln =>
    (ln, ((os.find? fun o => lineNo o.pa == ln).map (·.na)).getD false)

/-- The bytes of a lane from the lines loaded. -/
def laneOf (got : List (Nat × List Byte)) (pa n : Nat) : List Byte :=
  (((got.find? fun g => g.1 == lineNo pa).map (·.2)).getD []).drop (pa % 128) |>.take n

/-- A load of lanes of module memory by a troupe at one logical time: its new pts, and each lane's bytes (R194, R204).
-/
def State.loadAt (s : State) (w core pts : Nat) (os : List LaneOp) (n : Nat) : State × Nat × List (LaneOp × List Byte) :=
  let lns := linesOf os
  let (s, p, got) := s.loadLines w core lns pts true (lns.length + 2)
  (s, p, os.map fun o => (o, laneOf got o.pa n))

/-- Write bytes of module memory. -/
def State.memWrite (s : State) (pa : Nat) (bs : List Byte) : State := { s with mem := s.mem.write pa bs }

/-- A packet of type 5 has a signal that translates through its world's front-end table to one of some lines (R408). -/
def State.watches (s : State) (p : Packet) (lns : List Nat) : Bool :=
  (p.words.headD 0).toNat % 256 == 5 && ((p.words.drop 1).take 6).any fun sig => sig != 0 &&
    (match s.feTranslate p.world sig.toNat 8 true false false with
     | .ok pa => inModule pa && lns.contains (lineNo pa)
     | .error _ => false)

/-- Waiting barrier packets with a signal on a written line are evaluated again (R408); those of a queue that is not
mapped once it is mapped again (R391). -/
def State.pokeBarriers (s : State) (lns : List Nat) : State :=
  s.queues.foldl (fun s0 q => q.2.started.foldl (fun s0 p =>
    if !s.watches p lns then s0
    else if q.2.qmap.isSome then s0.raiseEvent (.qbarrierEvaluation q.1 p.slot)
    else s0.modPacket q.1 p.id fun x => { x with poked := true }) s0) s

/-- A store of bytes by any agent at one logical time, not before `pts`: the time, and every line written has it as
both timestamps (R204). -/
def State.storeAt (s : State) (w core pts : Nat) (ws : List (LaneOp × List Byte)) : State × Nat :=
  let lns := linesOf (ws.map (·.1))
  let ts := lns.foldl (fun p x => max p ((s.lineTs x.1).2 + 1)) pts
  let olds := lns.map fun x => (x.1, x.2, s.lineBytes x.1)
  let s := ws.foldl (fun s x => s.memWrite x.1.pa x.2) s
  ((olds.foldl (fun s x => s.reachLine w core x.1 x.2.1 (some x.2.2) ts ts) s).pokeBarriers (lns.map (·.1)), ts)

/-- The issuing core's L1 copies of the lines take what a store wrote (R165, R204). -/
def State.refreshL1 (s : State) (core ts : Nat) (lns : List Nat) : State :=
  lns.foldl (fun s ln =>
    match (s.core core).l1.find ln with
    | none => s
    | some l =>
      let bs := s.lineBytes ln
      s.modCore core fun c => { c with l1 := c.l1.put ln { l with bytes := bs, wts := ts, rts := ts } }) s

/-- Bytes written by an agent outside the troupes, line by line, each an element of S not before a logical time (R223):
the owner of the frame stands for the requester. The last line's time is the result. -/
def State.storeFrom (s : State) (pts pa : Nat) (bs : List Byte) : State × Nat :=
  let w := s.frameOwner pa
  let rec go (s : State) (ts pa : Nat) (bs : List Byte) : Nat → State × Nat
    | 0 => (s, ts)
    | n + 1 =>
      let k := min bs.length (128 - pa % 128)
      if k = 0 then (s, ts)
      else
        let (s, ts) := s.storeAt w 255 ts [({ lane := 0, va := 0, pa := pa }, bs.take k)]
        go s ts (pa + k) (bs.drop k) n
  go s pts pa bs (bs.length / 128 + 2)

/-- What the NX4 writes itself follows everything it reports: it is a release (R98, R211). -/
def State.storeBytes (s : State) (pa : Nat) (bs : List Byte) : State := (s.storeFrom s.maxTs pa bs).1

/-- A write that a link delivers follows in S those that it delivered before: 0 is the host's link, n + 1 that of peer n
(R223). -/
def State.linkStore (s : State) (link pa : Nat) (bs : List Byte) : State :=
  let (s, ts) := s.storeFrom (s.linkTs.get link 0) pa bs
  { s with linkTs := s.linkTs.put link ts }

/-- Bytes read by an agent outside the troupes: a load element of S, which leases every line (R223). -/
def State.loadBytes (s : State) (pa n : Nat) : State × List Byte :=
  let w := s.frameOwner pa
  let lns := (List.range ((pa + n - 1) / 128 - pa / 128 + 1)).map (· + pa / 128)
  (lns.foldl (fun s ln =>
    let (wts, rts) := s.lineTs ln
    s.reachLine w 255 ln false none wts (max rts (wts + 16))) s, s.memRead pa n)

/-- Write back and invalidate every line of a range of physical memory, unpinning it; the pins dropped are the result
(R171, R174, R340). -/
def State.flushRange (s : State) (pa n : Nat) : State × List Nat :=
  let lns := s.slices.flatMap fun sl => (sl.2.lines.filter fun e => pa ≤ e.1 * 128 && e.1 * 128 < pa + n)
  (lns.foldl (fun s e => s.evictLine e.1) s, (lns.filter fun e => e.2.pinned.isSome).map (·.1))

end Sys2Proof.Machine
end

