-- ==== Sys2Proof/Machine/Float.lean ====
section
/-! DEFINITION. Floating-point formats, exact values, rounding with its exceptions, and the functions of the vector
pipe on single values (R124 to R135, R142 to R150). Exceptions are five bits in the order of %fstat (R105). -/

namespace Sys2Proof.Machine

/-- A floating-point format (R124). -/
structure Fmt where
  ebits : Nat
  mbits : Nat
  bias : Nat
  /-- The code of the largest finite value. -/
  top : Nat
  /-- The format has infinities; every code of the reserved exponent but them is NaN. -/
  infs : Bool
  /-- Every NaN is quiet (R125). -/
  quiet : Bool
  /-- The canonical NaN (R126). -/
  nan : Nat

/-- FP32 (R124). -/
def fp32 : Fmt := ⟨8, 23, 127, 0x7F7FFFFF, true, false, 0x7FC00000⟩
/-- FP16 (R124). -/
def fp16 : Fmt := ⟨5, 10, 15, 0x7BFF, true, false, 0x7E00⟩
/-- BF16 (R124). -/
def bf16 : Fmt := ⟨8, 7, 127, 0x7F7F, true, false, 0x7FC0⟩
/-- FP8 E4M3 (R124). -/
def e4m3 : Fmt := ⟨4, 3, 7, 0x7E, false, true, 0x7F⟩
/-- FP8 E5M2 (R124). -/
def e5m2 : Fmt := ⟨5, 2, 15, 0x7B, true, true, 0x7E⟩

/-- A floating-point value: a NaN, signalling or quiet; an infinity; or ± m × 2^e, zeros with m = 0 included. -/
inductive Fp where
  | nan (signalling : Bool)
  | inf (neg : Bool)
  | num (neg : Bool) (m : Nat) (e : Int)
  deriving DecidableEq

/-- Exceptions of one operation. -/
abbrev Exc := BitVec 5

/-- Invalid operation. -/
def excInv : Exc := 1
/-- Division by zero. -/
def excDz : Exc := 2
/-- Overflow and inexact. -/
def excOf : Exc := 4 + 16
/-- Underflow and inexact. -/
def excUf : Exc := 8 + 16
/-- Inexact. -/
def excNx : Exc := 16

/-- The value of a code (R124, R125). -/
def Fmt.value (f : Fmt) (x : Nat) : Fp :=
  let neg := x / 2 ^ (f.ebits + f.mbits) % 2 == 1
  let be := x / 2 ^ f.mbits % 2 ^ f.ebits
  let fr := x % 2 ^ f.mbits
  if be + 1 = 2 ^ f.ebits ∧ f.infs then
    if fr = 0 then .inf neg else .nan (!f.quiet && fr / 2 ^ (f.mbits - 1) == 0)
  else if be + 1 = 2 ^ f.ebits ∧ fr + 1 = 2 ^ f.mbits then .nan false
  else if be = 0 then .num neg fr (1 - (f.bias : Int) - f.mbits)
  else .num neg (2 ^ f.mbits + fr) ((be : Int) - f.bias - f.mbits)

/-- The sign bit of a format, placed. -/
def Fmt.sign (f : Fmt) (neg : Bool) : Nat := if neg then 2 ^ (f.ebits + f.mbits) else 0

/-- The code of an infinity. -/
def Fmt.infCode (f : Fmt) (neg : Bool) : Nat := f.sign neg + f.top + 1

/-- Rounding modes (R105, R129). -/
inductive Rm where
  | rne | rz | ru | rd
  deriving DecidableEq

/-- RM of %fpctl (R105). -/
def Rm.of (x : BitVec 8) : Rm :=
  match x.toNat % 4 with | 0 => .rne | 1 => .rz | 2 => .ru | _ => .rd

/-- The magnitude n + r / 2^s, with r < 2^s and s > 0, is rounded up to n + 1 (R129). -/
def Rm.up (rm : Rm) (neg : Bool) (n r s : Nat) : Bool :=
  match rm with
  | .rne => 2 ^ s < 2 * r || (2 * r == 2 ^ s && n % 2 == 1)
  | .rz => false
  | .ru => !neg && r != 0
  | .rd => neg && r != 0

/-- An overflow delivers the largest finite value in place of the infinity (R131). -/
def Rm.toFinite (rm : Rm) (neg : Bool) : Bool :=
  match rm with
  | .rne => false
  | .rz => true
  | .ru => neg
  | .rd => !neg

/-- Round ± m × 2^e to a format: the code and the exceptions. With `more` the magnitude lies strictly between m and
m + 1 times 2^e, and m has more bits than the format keeps. `sat` is a saturating code (R129 to R132, R150; tininess
is judged on the delivered value: log 16). -/
def Fmt.round (f : Fmt) (rm : Rm) (neg : Bool) (m : Nat) (e : Int) (more sat : Bool) : Nat × Exc :=
  if m = 0 ∧ more = false then (f.sign neg, 0)
  else
    let m' := if more then 2 * m + 1 else m
    let e' := if more then e - 1 else e
    let q := max ((Nat.log2 m' : Int) + e') (1 - (f.bias : Int)) - f.mbits
    let s := (q - e').toNat
    let n := if q ≤ e' then m' * 2 ^ (e' - q).toNat else m' / 2 ^ s
    let r := if q ≤ e' then 0 else m' % 2 ^ s
    let n := if r ≠ 0 ∧ rm.up neg n r s then n + 1 else n
    let wide := n == 2 ^ (f.mbits + 1)
    let n := if wide then n / 2 else n
    let q := if wide then q + 1 else q
    let code := if 2 ^ f.mbits ≤ n then (q + f.mbits + f.bias).toNat * 2 ^ f.mbits + (n - 2 ^ f.mbits) else n
    if f.top < code then
      (if !f.infs || sat || rm.toFinite neg then f.sign neg + f.top else f.infCode neg, excOf)
    else (f.sign neg + code, if r = 0 then 0 else if n < 2 ^ f.mbits then excUf else excNx)

/-- Some operand is a signalling NaN. -/
def invOf (xs : List Fp) : Exc := if xs.any (· == .nan true) then excInv else 0

/-- The value is a NaN. -/
def Fp.isNan : Fp → Bool
  | .nan _ => true
  | _ => false

/-- The value with its sign changed. -/
def Fp.neg : Fp → Fp
  | .nan s => .nan s
  | .inf n => .inf (!n)
  | .num n m e => .num (!n) m e

/-- Round a signed integer times 2^e; an exact zero has the sign of R133. -/
def Fmt.roundInt (f : Fmt) (rm : Rm) (m e : Int) : Nat × Exc :=
  if m = 0 then (f.sign (rm == .rd), 0) else f.round rm (m < 0) m.natAbs e false false

/-- A signed significand. -/
def signed (neg : Bool) (m : Nat) : Int := if neg then -(m : Int) else m

/-- Sum of two values, rounded once (R142, R133). -/
def Fmt.add (f : Fmt) (rm : Rm) (x y : Fp) : Nat × Exc :=
  match x, y with
  | .nan _, _ => (f.nan, invOf [x, y])
  | _, .nan _ => (f.nan, invOf [x, y])
  | .inf a, .inf b => if a = b then (f.infCode a, 0) else (f.nan, excInv)
  | .inf a, .num _ _ _ => (f.infCode a, 0)
  | .num _ _ _, .inf b => (f.infCode b, 0)
  | .num a m d, .num b n e =>
    if m = 0 ∧ n = 0 ∧ a = b then (f.sign a, 0)
    else
      let k := min d e
      f.roundInt rm (signed a m * 2 ^ (d - k).toNat + signed b n * 2 ^ (e - k).toNat) k

/-- The exact product of two values, when it is no special case; 0 × ∞ is none. -/
def mulExact (x y : Fp) : Option Fp :=
  match x, y with
  | .nan s, .nan t => some (.nan (s || t))
  | .nan s, _ => some (.nan s)
  | _, .nan s => some (.nan s)
  | .inf a, .inf b => some (.inf (a != b))
  | .inf a, .num b n _ => if n = 0 then none else some (.inf (a != b))
  | .num a m _, .inf b => if m = 0 then none else some (.inf (a != b))
  | .num a m d, .num b n e => some (.num (a != b) (m * n) (d + e))

/-- Product of two values, rounded once (R142). -/
def Fmt.mul (f : Fmt) (rm : Rm) (x y : Fp) : Nat × Exc :=
  match mulExact x y with
  | none => (f.nan, excInv)
  | some (.nan s) => (f.nan, if s then excInv else 0)
  | some (.inf a) => (f.infCode a, 0)
  | some (.num a m e) => f.round rm a m e false false

/-- x × y + z with one rounding (R142). -/
def Fmt.fma (f : Fmt) (rm : Rm) (x y z : Fp) : Nat × Exc :=
  match mulExact x y with
  | none => (f.nan, excInv)
  | some p => if x.isNan || y.isNan || z.isNan then (f.nan, invOf [x, y, z]) else f.add rm p z

/-- The order of FP32 codes that are no NaN, −0 below +0 (R143). -/
def orderKey (x : W32) : Int := if x.getLsbD 31 then -(x.toNat % 2 ^ 31 : Nat) - 1 else x.toNat

/-- `fmin` and `fmax` on codes (R143). -/
def minMax (greater : Bool) (a b : W32) : W32 × Exc :=
  let x := fp32.value a.toNat
  let y := fp32.value b.toNat
  let inv := invOf [x, y]
  if x.isNan && y.isNan then (0x7FC00000, inv)
  else if x.isNan then (b, inv)
  else if y.isNan then (a, inv)
  else if decide (orderKey a ≤ orderKey b) != greater then (a, inv) else (b, inv)

/-- Outcomes of a comparison (R146). -/
inductive Rel where
  | lt | eq | gt | un
  deriving DecidableEq

/-- Compare two FP32 codes; −0 and +0 are equal (R146). -/
def compareFp (a b : W32) : Rel :=
  let key (x : W32) : Int := if x.getLsbD 31 then -(x.toNat % 2 ^ 31 : Nat) else x.toNat
  if (fp32.value a.toNat).isNan || (fp32.value b.toNat).isNan then .un
  else if key a < key b then .lt else if key a = key b then .eq else .gt

/-! ## Functions (R145) -/

/-- The integer square root by bits, from bit n − 1 down. -/
def sqrtBits (x : Nat) : Nat → Nat → Nat
  | 0, r => r
  | n + 1, r => if (r + 2 ^ n) * (r + 2 ^ n) ≤ x then sqrtBits x n (r + 2 ^ n) else sqrtBits x n r

/-- Fractional bits of the fixed-point evaluations. -/
def fixBits : Nat := 192

/-- One in fixed point. -/
def fixOne : Nat := 2 ^ fixBits

/-- Bound of the error of an evaluation, in units of its last place (log 17). -/
def fixErr : Nat := 2 ^ 40

/-- The sum of t^(2k+1) / (2k+1) from k up, with p = t^(2k+1): half of ln((1+t)/(1−t)). -/
def atanhSum (sq : Nat) : Nat → Nat → Nat → Nat
  | 0, _, _ => 0
  | n + 1, k, p => p / (2 * k + 1) + atanhSum sq n (k + 1) (p * sq / fixOne)

/-- ln((1 + t) / (1 − t)) for t up to 1/3. -/
def lnRatio (t : Nat) : Nat := 2 * atanhSum (t * t / fixOne) 64 0 t

/-- ln 2. -/
def ln2 : Nat := lnRatio (fixOne / 3)

/-- The sum of y^k / k! from k up, with p = y^k / k!. -/
def expSum (y : Nat) : Nat → Nat → Nat → Nat
  | 0, _, _ => 0
  | n + 1, k, p => p + expSum y n (k + 1) (p * y / (fixOne * (k + 1)))

/-- e^y for y below 1. -/
def expFix (y : Nat) : Nat := expSum y 60 0 fixOne

/-- 1 / a (R145). -/
def fpRcp (rm : Rm) (x : Fp) : Nat × Exc :=
  match x with
  | .nan s => (fp32.nan, if s then excInv else 0)
  | .inf a => (fp32.sign a, 0)
  | .num a m e =>
    if m = 0 then (fp32.infCode a, excDz)
    else
      let k := Nat.log2 m + 40
      fp32.round rm a (2 ^ k / m) (-e - k) (2 ^ k % m != 0) false

/-- 1 / √a (R145). -/
def fpRsq (rm : Rm) (x : Fp) : Nat × Exc :=
  match x with
  | .nan s => (fp32.nan, if s then excInv else 0)
  | .inf a => if a then (fp32.nan, excInv) else (0, 0)
  | .num a m e =>
    if m = 0 then (fp32.infCode a, excDz)
    else if a then (fp32.nan, excInv)
    else
      let m := if e % 2 = 0 then m else 2 * m
      let e := if e % 2 = 0 then e else e - 1
      let k := Nat.log2 m / 2 + 40
      let r := sqrtBits (2 ^ (2 * k) / m) 53 0
      fp32.round rm false r (-(e / 2) - k) (r * r * m != 2 ^ (2 * k)) false

/-- 2^a (R145). -/
def fpEx2 (rm : Rm) (x : Fp) : Nat × Exc :=
  match x with
  | .nan s => (fp32.nan, if s then excInv else 0)
  | .inf a => if a then (0, 0) else (fp32.infCode false, 0)
  | .num a m e =>
    if m = 0 then (0x3F800000, 0)
    else if (Nat.log2 m : Int) + e < -30 then
      fp32.round rm false (if a then 2 ^ 60 - 1 else 2 ^ 60) (-60) true false
    else if 8 ≤ (Nat.log2 m : Int) + e then
      if a then fp32.round rm false (2 ^ 60) (-400) true false else fp32.round rm false 1 400 false false
    else
      let y := signed a (if 0 ≤ e then m * 2 ^ e.toNat * fixOne else m * 2 ^ (fixBits - (-e).toNat))
      let n := y / (fixOne : Int)
      let f := (y % (fixOne : Int)).toNat
      if f = 0 then fp32.round rm false 1 n false false
      else fp32.round rm false (expFix (f * ln2 / fixOne) - fixErr) (n - fixBits) true false

/-- log2 a (R145). -/
def fpLg2 (rm : Rm) (x : Fp) : Nat × Exc :=
  match x with
  | .nan s => (fp32.nan, if s then excInv else 0)
  | .inf a => if a then (fp32.nan, excInv) else (fp32.infCode false, 0)
  | .num a m e =>
    if m = 0 then (fp32.infCode true, excDz)
    else if a then (fp32.nan, excInv)
    else
      let l := Nat.log2 m
      let n : Int := e + l
      if m = 2 ^ l then
        if n = 0 then (0, 0) else fp32.round rm (n < 0) n.natAbs 0 false false
      else
        let g := lnRatio ((m - 2 ^ l) * fixOne / (m + 2 ^ l)) * fixOne / ln2
        let v := n * (fixOne : Int) + g
        fp32.round rm (v < 0) (v.natAbs - fixErr) (-fixBits) true false

/-- tanh a (R145). -/
def fpTanh (rm : Rm) (x : Fp) : Nat × Exc :=
  match x with
  | .nan s => (fp32.nan, if s then excInv else 0)
  | .inf a => (fp32.sign a + 0x3F800000, 0)
  | .num a m e =>
    let t := (Nat.log2 m : Int) + e
    if m = 0 then (fp32.sign a, 0)
    else if t < -13 then fp32.round rm a (m * 2 ^ 40 - 1) (e - 40) true false
    else if 5 ≤ t then fp32.round rm a (2 ^ 60 - 1) (-60) true false
    else
      let y := if 0 ≤ e then 2 * m * 2 ^ e.toNat * fixOne else 2 * m * 2 ^ (fixBits - (-e).toNat)
      let n := y / ln2
      let ex := expFix (y - n * ln2) * 2 ^ n
      fp32.round rm a ((ex - fixOne) * fixOne / (ex + fixOne) - fixErr) (-fixBits) true false

/-! ## Conversions to integers (R150) -/

/-- A magnitude rounded to an integer, and whether it was one. -/
def toInteger (rm : Rm) (neg : Bool) (m : Nat) (e : Int) : Nat × Bool :=
  if 0 ≤ e then (m * 2 ^ (min e.toNat 64), true)
  else
    let s := (-e).toNat
    let r := m % 2 ^ s
    (if r ≠ 0 ∧ rm.up neg (m / 2 ^ s) r s then m / 2 ^ s + 1 else m / 2 ^ s, r == 0)

/-- FP32 to an integer of a range, saturating (R150). -/
def fpToInt (rm : Rm) (lo hi : Int) (x : Fp) : Int × Exc :=
  match x with
  | .nan _ => (0, excInv)
  | .inf a => (if a then lo else hi, excInv)
  | .num a m e =>
    let (n, exact) := toInteger rm a m e
    let v := signed a n
    if v < lo then (lo, excInv) else if hi < v then (hi, excInv) else (v, if exact then 0 else excNx)

/-! ## Operations of the service troupes (R197, R198) -/

/-- FP32 sum under RNE. -/
def Float32.addRne (a b : W32) : W32 := w32 (fp32.add .rne (fp32.value a.toNat) (fp32.value b.toNat)).1

/-- `fmin` on codes. -/
def Float32.minValue (a b : W32) : W32 := (minMax false a b).1

/-- `fmax` on codes. -/
def Float32.maxValue (a b : W32) : W32 := (minMax true a b).1

/-- Half h of a packed pair, as a value (R128). -/
def bfHalf (a : W32) (h : Nat) : Fp := bf16.value (a.toNat / 2 ^ (16 * h) % 2 ^ 16)

/-- Sum of packed BF16 pairs under RNE. -/
def Float32.addPairRne (a b : W32) : W32 :=
  w32 ((bf16.add .rne (bfHalf a 0) (bfHalf b 0)).1 + 2 ^ 16 * (bf16.add .rne (bfHalf a 1) (bfHalf b 1)).1)

end Sys2Proof.Machine
end

