-- ==== Sys2Proof/Machine/Memory.lean ====
section
/-! DEFINITION. Class 2 loads, stores, atomics and fences, and the events of slices, service troupes, return slots, the
miss table and the host link (R187 to R200, R208 to R229). -/

namespace Sys2Proof.Machine

/-! ## The host and the peers (R172, R222) -/

/-- The lane lies in a peer window. -/
def LaneOp.atPeer (o : LaneOp) : Bool := match regionOf o.pa with | .peer _ => true | _ => false

/-- The lane lies in the host window. -/
def LaneOp.atHost (o : LaneOp) : Bool := match regionOf o.pa with | .host => true | _ => false

/-- A request leaves for the host, or in a flit for a peer. -/
def State.sendExt (s : State) (x : Ext) : State :=
  x.lanes.foldl (fun s o =>
    let addr := if x.peer.isSome then o.pa % 0x40000000000 else o.pa
    let s := { s with out := s.out ++ [.request x.id x.peer x.tag addr (o.data ++ wordBytes o.x ++ wordBytes o.c)] }
    match x.peer with
    | some p => s.sendFlits x.world p x.id addr o.data.length
    | none => s) s

/-- Requests to the host or a peer, one for each lane; `tag` says what is asked. -/
def State.ask (s : State) (t : Troupe) (opId tag : Nat) (sync : Bool) (os : List LaneOp)
    (errand : Errand := .plain) : State :=
  os.foldl (fun s o =>
    let peer := match regionOf o.pa with | .peer p => some p | _ => none
    let (id, s) := s.freshId
    let x : Ext := { id := id, tkey := t.key, uid := t.uid, opId := opId, world := t.world, peer := peer
                     tag := tag, lanes := [o], sync := sync, errand := errand }
    ({ s with ext := s.ext ++ [x] }).sendExt x) s

/-- A reduction at the host is between its read and its write of a place (R198, R199). -/
def Ext.reduces (x : Ext) : Bool := match x.errand with | .reduceRead _ _ _ | .reduceWrite _ _ _ => true | _ => false

/-- The request belongs to a copy, which the issuer's own accesses are not ordered with (R214). -/
def State.ofCopy (s : State) (x : Ext) : Bool :=
  s.copies.any (fun c => c.id == x.opId) || (match x.errand with | .word _ _ _ _ => true | _ => false)

/-- An earlier access of a troupe to a target outside the module is not yet there: a load or a store is still to be
sent, a request waits in a queue, a reduction is in progress, or a peer, which may hold it off, has not answered
(R222). -/
def State.farBehind (s : State) (uid id g : Nat) : Bool :=
  s.troupes.any (fun x => x.2.uid == uid && x.2.ops.any fun o => decide (o.id < id) && o.unsent.contains g) ||
  s.clusters.any (fun c => c.2.reqQ.any fun r => r.uid == uid && decide (r.opId < id) &&
    r.lanes.any fun o => farOf o.pa == some g) ||
  s.ext.any fun x => x.uid == uid && decide (x.opId < id) && x.errand != Errand.query && (g != 0 || x.reduces) &&
    x.lanes.any (fun o => farOf o.pa == some g) && !s.ofCopy x

/-- The same for some target of an operation's lanes. -/
def State.farBusy (s : State) (uid id : Nat) (lanes : List LaneOp) : Bool :=
  (lanes.filterMap fun o => farOf o.pa).any (s.farBehind uid id)

/-! ## Admission by a peer (R172, R187 step 6) -/

/-- The lanes of an access for which a peer is to be asked: none when another lane fails an earlier step. -/
def farLanes (outs : List (Nat × W64 × LaneOut)) : List LaneOp :=
  if outs.any fun x => match x.2.2 with | .bad st _ => decide (st < 6) | _ => false then []
  else outs.filterMap fun (l, va, o) =>
    match o with
    | .ok pa na =>
      let p : LaneOp := { lane := l, va := va.toNat, pa := pa, na := na }
      if p.atPeer then some p else none
    | _ => none

/-- Step 6 of R187 for lanes in a peer window. The peer is asked whether it admits the access before any lane is
performed, which changes nothing there (log 64); the instruction stalls until it has answered for every lane, and a
lane whose binding is moving is asked for again (R172). `go` receives the outcomes, with the refused lanes among them.
-/
def State.admitPeers (s : State) (t : Troupe) (n : Need) (outs : List (Nat × W64 × LaneOut))
    (go : Checked → State → Res) : Res :=
  let far := farLanes outs
  if far.isEmpty then go (gatherLanes outs) s
  else
    let mine := s.ext.filter fun x => x.uid == t.uid && x.errand == Errand.query && x.reply != some .retry &&
      x.lanes.any fun o => far.any fun p => p.lane == o.lane && p.pa == o.pa
    let fresh := far.filter fun p => !mine.any fun x => x.lanes.any fun o => o.lane == p.lane
    if !fresh.isEmpty then
      let s := { s with ext := s.ext.filter fun x => !(x.uid == t.uid && x.errand == Errand.query) || mine.contains x }
      (s.ask t 0 (if n.w then 5 else 4) true fresh .query).stall
    else if mine.any fun x => x.reply.isNone then s.stall
    else
      let bad := (mine.filter fun x => x.reply == some .refused).flatMap fun x => x.lanes.map (·.lane)
      go (gatherLanes (outs.map fun x => if bad.contains x.1 then (x.1, x.2.1, .bad 6 4) else x)) s

/-- The miss that set %replay is over once the instruction that took it completes (R188). -/
def Troupe.replayed (t : Troupe) : Troupe :=
  { t with sp := { t.sp with replay := 0 }, ctl := { t.ctl with replayPc := none } }

/-- Append an issued operation of the troupe in a slot. -/
def State.pushOp (s : State) (k : Nat) (o : Op) : State := s.modTroupe k fun t => { t with ops := t.ops ++ [o] }

/-- A global access of lanes: checks, watchpoints, then either all lanes, or a miss with the lanes that translated
(R187, R388). `gate` goes on once nothing else holds the lanes back; `issue` receives all of them; `split` is what is
still performed of an access that missed, where it gets an entry. -/
def State.access (s : State) (n : Need) (scalar : Bool) (lanes : List (Nat × W64)) (fill : LaneOp → LaneOp)
    (gate : List LaneOp → (State → Res) → State → Res) (issue : List LaneOp → State → Res)
    (split : List LaneOp → State → State) : Res :=
  let t := s.src
  s.admitPeers t n (s.laneOuts t n lanes) fun checked s =>
    match checked with
    | .bad cause ls va => s.fault cause n.access (lanesMask scalar t ls) va
    | .go ok missed =>
      let hits := s.watchHits t n ok
      if !hits.isEmpty ∧ !s.haltReady t then s.stall
      else if !hits.isEmpty then
        .next (s.debugHalt t 0x10 n.access (lanesMask scalar t (hits.map (·.lane)))
          (w64 ((hits.head?.map (·.va)).getD 0)))
      else
        let ok := ok.map fill
        if missed.isEmpty then gate ok (fun s => issue ok (s.touchAll t ok)) s
        else if s.missBarred t missed ∨ !s.missServed t missed then
          (s.touchAll t ok).miss t n.access scalar missed id
        else gate ok (fun s => (s.touchAll t ok).miss t n.access scalar missed (split ok)) s

/-- Nothing further holds the lanes back. -/
def openGate (_ : List LaneOp) (go : State → Res) (s : State) : Res := go s

/-- The lanes in which a vector memory instruction acts: m of R187. -/
def State.memLanes (s : State) (g : Guard) : List Nat := lanesOf (s.effective g &&& ~~~ s.src.sp.replay)

/-- Queue an access of the issuing troupe and go on behind it. -/
def State.issueOp (s : State) (kind : OpKind) (lanes : List LaneOp) (la len : Nat) (e : Bool) : Res :=
  let (id, s) := s.freshId
  let o : Op := { id := id, kind := kind, lanes := lanes, la := la }
  let t := s.me.replayed
  s.done { t with ops := t.ops ++ [o] } len e

/-- A load of `n` bytes for each lane into registers from D (R193, R194). A load that misses performs no lane. -/
def State.loadVector (s : State) (n : Nat) (sext : Bool) (e : Bool) (g : Guard) (d : Nat) (m : MAddr) (la : Fin 16) :
    Res :=
  let ls := s.memLanes g
  if ls.isEmpty then .next (s.advance 2 e)
  else
    s.access { bytes := n, r := true, access := 1 } false (ls.map fun l => (l, laneAddr s.src m l)) id openGate
      (fun ok s => s.issueOp (.load n sext d) ok la.val 2 e) (fun _ s => s)

/-- %replay takes the lanes performed before a miss, and their access, if there are any, is queued (R187). -/
def State.splitOp (s : State) (k : Nat) (mk : Nat → Op) (ok : List LaneOp) : State :=
  if ok.isEmpty then s else
  let (id, s) := s.freshId
  s.modTroupe k fun t =>
    { t with ops := t.ops ++ [mk id]
             sp := { t.sp with replay := t.sp.replay ||| maskOf fun l => ok.any fun o => o.lane == l } }

/-- A store of `n` bytes for each lane from registers from D (R193, R194). -/
def State.storeVector (s : State) (n : Nat) (e : Bool) (g : Guard) (d : Nat) (m : MAddr) (la : Fin 16) : Res :=
  let ls := s.memLanes g
  let t := s.src
  if ls.isEmpty then .next (s.advance 2 e)
  else
    s.access { bytes := n, w := true, access := 2 } false (ls.map fun l => (l, laneAddr t m l))
      (fun o => { o with data := (laneBytes t d o.lane ((n + 3) / 4)).take n }) openGate
      (fun ok s => s.issueOp (.store n) ok la.val 2 e)
      (fun ok s => s.splitOp t.key (fun id => { id := id, kind := .store n, lanes := ok }) ok)

/-- `ldg.8z` (R193, R194). -/
def execLdg8z (e : Bool) (g : Guard) (d : Reg) (m : MAddr) (la : Fin 16) (s : State) : Res :=
  s.loadVector 1 false e g d.val m la

/-- `ldg.8s` (R193, R194). -/
def execLdg8s (e : Bool) (g : Guard) (d : Reg) (m : MAddr) (la : Fin 16) (s : State) : Res :=
  s.loadVector 1 true e g d.val m la

/-- `ldg.16z` (R193, R194). -/
def execLdg16z (e : Bool) (g : Guard) (d : Reg) (m : MAddr) (la : Fin 16) (s : State) : Res :=
  s.loadVector 2 false e g d.val m la

/-- `ldg.16s` (R193, R194). -/
def execLdg16s (e : Bool) (g : Guard) (d : Reg) (m : MAddr) (la : Fin 16) (s : State) : Res :=
  s.loadVector 2 true e g d.val m la

/-- `ldg.32` (R193, R194). -/
def execLdg32 (e : Bool) (g : Guard) (d : Reg) (m : MAddr) (la : Fin 16) (s : State) : Res :=
  s.loadVector 4 false e g d.val m la

/-- `ldg.64` (R193, R194). -/
def execLdg64 (e : Bool) (g : Guard) (d : Pair) (m : MAddr) (la : Fin 16) (s : State) : Res :=
  s.loadVector 8 false e g (2 * d.val) m la

/-- `ldg.128` (R193, R194). -/
def execLdg128 (e : Bool) (g : Guard) (d : Quad) (m : MAddr) (la : Fin 16) (s : State) : Res :=
  s.loadVector 16 false e g (4 * d.val) m la

/-- `stg.8` (R193, R194). -/
def execStg8 (e : Bool) (g : Guard) (d : Reg) (m : MAddr) (la : Fin 16) (s : State) : Res :=
  s.storeVector 1 e g d.val m la

/-- `stg.16` (R193, R194). -/
def execStg16 (e : Bool) (g : Guard) (d : Reg) (m : MAddr) (la : Fin 16) (s : State) : Res :=
  s.storeVector 2 e g d.val m la

/-- `stg.32` (R193, R194). -/
def execStg32 (e : Bool) (g : Guard) (d : Reg) (m : MAddr) (la : Fin 16) (s : State) : Res :=
  s.storeVector 4 e g d.val m la

/-- `stg.64` (R193, R194). -/
def execStg64 (e : Bool) (g : Guard) (d : Pair) (m : MAddr) (la : Fin 16) (s : State) : Res :=
  s.storeVector 8 e g (2 * d.val) m la

/-- `stg.128` (R193, R194). -/
def execStg128 (e : Bool) (g : Guard) (d : Quad) (m : MAddr) (la : Fin 16) (s : State) : Res :=
  s.storeVector 16 e g (4 * d.val) m la

/-- `sld`: acts once whatever `exec` holds (R193, R194). -/
def execSld (e : Bool) (d : Reg) (m : SAddr) (la : Fin 16) (s : State) : Res :=
  s.access { bytes := 8, r := true, access := 1 } true [(0, scalarAddr s.src m)] id openGate
    (fun ok s => s.issueOp (.sload d.val) ok la.val 2 e) (fun _ s => s)

/-- `sst` (R193, R194). -/
def execSst (e : Bool) (d : Reg) (m : SAddr) (la : Fin 16) (s : State) : Res :=
  let t := s.src
  s.access { bytes := 8, w := true, access := 2 } true [(0, scalarAddr t m)]
    (fun o => { o with data := wordBytes (t.sreg d.val) }) openGate
    (fun ok s => s.issueOp (.store 8) ok la.val 2 e) (fun _ s => s)

/-! ## Scratchpad (R161 to R164, R193, R207) -/

/-- The checks of R187 for one scratchpad address of a world on a core: range, alignment, plot, poison. -/
def State.checkPlace (s : State) (core w n : Nat) (a : W64) : LaneOut :=
  if a.toNat ≥ 2 ^ 21 then .bad 1 3
  else if a.toNat % n ≠ 0 then .bad 2 5
  else if !(s.core core).plotOk w a.toNat then .bad 3 4
  else if (s.core core).spadBad.contains ((s.core core).phys a.toNat / 16) then .bad 6 0x14
  else .ok a.toNat false

/-- The checks of R187 for scratchpad lanes. -/
def State.checkSpad (s : State) (t : Troupe) (n : Nat) (lanes : List (Nat × W64)) : Checked :=
  gatherLanes (lanes.map fun (l, a) => (l, a, s.checkPlace t.core t.world n a))

/-- A scratchpad access after its checks; it waits for the troupe's earlier accesses (R201, R221). -/
def State.onSpad (s : State) (access n : Nat) (scalar : Bool) (lanes : List (Nat × W64)) (go : List LaneOp → Res) : Res :=
  let t := s.src
  match s.checkSpad t n lanes with
  | .bad cause ls va => s.fault cause access (lanesMask scalar t ls) va
  | .go ok _ => if t.busyOps then s.stall else go ok

/-- Write a lane's bytes to consecutive registers from d, extended to 32 bits (R193). -/
def Troupe.putLane (t : Troupe) (d l : Nat) (sext : Bool) (bs : List Byte) : Nat → Troupe
  | 0 => t
  | n + 1 =>
    let k := bs.take 4
    let x : W32 :=
      if sext then (if k.length = 1 then (BitVec.ofNat 8 (leNat k)).signExtend 32 else (BitVec.ofNat 16 (leNat k)).signExtend 32)
      else w32 (leNat k)
    (t.setV d ((t.vreg d).setLane l x)).putLane (d + 1) l sext (bs.drop 4) n

/-- Write the loaded lanes to the registers of a load of n bytes. -/
def Troupe.putLoad (t : Troupe) (n : Nat) (sext : Bool) (d : Nat) (got : List (Nat × List Byte)) : Troupe :=
  got.foldl (fun t x => t.putLane d x.1 sext x.2 ((n + 3) / 4)) t

/-- `lds` of n bytes. -/
def State.spadLoad (s : State) (n : Nat) (e : Bool) (g : Guard) (d : Nat) (m : MAddr) : Res :=
  let ls := s.memLanes g
  if ls.isEmpty then .next (s.advance 2 e)
  else s.onSpad 1 n false (ls.map fun l => (l, laneAddr s.src m l)) fun ok =>
    let (s, p) := s.spadReadTs s.me.core s.me.pts
    let c := s.core s.me.core
    s.done { s.me.putLoad n false d (ok.map fun o => (o.lane, c.spadRead o.pa n)) with pts := p } 2 e

/-- `sts` of n bytes. -/
def State.spadStore (s : State) (n : Nat) (e : Bool) (g : Guard) (d : Nat) (m : MAddr) : Res :=
  let ls := s.memLanes g
  let t := s.src
  if ls.isEmpty then .next (s.advance 2 e)
  else s.onSpad 2 n false (ls.map fun l => (l, laneAddr t m l)) fun ok =>
    let (s, p) := s.spadWriteTs t.core s.me.pts
    let s := s.modCore t.core fun c =>
      (ok.foldl (fun c o => c.spadWrite o.pa (laneBytes t d o.lane (n / 4))) c).healRows (ok.map fun o => (c.phys o.pa, n))
    s.done { s.me with pts := p } 2 e

/-- `lds.32` (R193, R194); complete when it issues. -/
def execLds32 (e : Bool) (g : Guard) (d : Reg) (m : MAddr) (_la : Fin 16) (s : State) : Res := s.spadLoad 4 e g d.val m

/-- `lds.64` (R193, R194); complete when it issues. -/
def execLds64 (e : Bool) (g : Guard) (d : Pair) (m : MAddr) (_la : Fin 16) (s : State) : Res := s.spadLoad 8 e g (2 * d.val) m

/-- `lds.128` (R193, R194); complete when it issues. -/
def execLds128 (e : Bool) (g : Guard) (d : Quad) (m : MAddr) (_la : Fin 16) (s : State) : Res := s.spadLoad 16 e g (4 * d.val) m

/-- `sts.32` (R193, R194); complete when it issues. -/
def execSts32 (e : Bool) (g : Guard) (d : Reg) (m : MAddr) (_la : Fin 16) (s : State) : Res := s.spadStore 4 e g d.val m

/-- `sts.64` (R193, R194); complete when it issues. -/
def execSts64 (e : Bool) (g : Guard) (d : Pair) (m : MAddr) (_la : Fin 16) (s : State) : Res := s.spadStore 8 e g (2 * d.val) m

/-- `sts.128` (R193, R194); complete when it issues. -/
def execSts128 (e : Bool) (g : Guard) (d : Quad) (m : MAddr) (_la : Fin 16) (s : State) : Res := s.spadStore 16 e g (4 * d.val) m

/-- `slds` (R193, R194). -/
def execSlds (e : Bool) (d : Reg) (m : SAddr) (_la : Fin 16) (s : State) : Res :=
  s.onSpad 1 8 true [(0, scalarAddr s.src m)] fun ok =>
    let (s, p) := s.spadReadTs s.me.core s.me.pts
    let a := (ok.head?.map (·.pa)).getD 0
    s.done { s.me.setS d.val (w64 (leNat ((s.core s.me.core).spadRead a 8))) with pts := p } 2 e

/-- `ssts` (R193, R194). -/
def execSsts (e : Bool) (d : Reg) (m : SAddr) (_la : Fin 16) (s : State) : Res :=
  let t := s.src
  s.onSpad 2 8 true [(0, scalarAddr t m)] fun ok =>
    let (s, p) := s.spadWriteTs t.core s.me.pts
    let a := (ok.head?.map (·.pa)).getD 0
    let s := s.modCore t.core fun c => c.spadWrite a (wordBytes (t.sreg d.val))
    s.done { s.me with pts := p } 2 e

/-! ## Atomics and reductions (R189 to R192, R196 to R200, R353) -/

/-- The function of an atomic operation on n-bit values (R197). -/
def atomicFn (op : AOp) {n : Nat} (old x c : BitVec n) : BitVec n :=
  match op with
  | .add => old + x
  | .minS => if x.slt old then x else old
  | .maxS => if old.slt x then x else old
  | .minZ => if x.ult old then x else old
  | .maxZ => if old.ult x then x else old
  | .and => old &&& x
  | .or => old ||| x
  | .xor => old ^^^ x
  | .swap => x
  | .cas => if old = c then x else old
  | .inc => if x.ule old then 0 else old + 1
  | .dec => if old = 0 ∨ x.ult old then x else old - 1
  | .fadd => (Float32.addRne (old.setWidth 32) (x.setWidth 32)).setWidth n
  | .fmin => (Float32.minValue (old.setWidth 32) (x.setWidth 32)).setWidth n
  | .fmax => (Float32.maxValue (old.setWidth 32) (x.setWidth 32)).setWidth n
  | .badd => (Float32.addPairRne (old.setWidth 32) (x.setWidth 32)).setWidth n

/-- The new bytes of a location under an operation of 4 or 8 bytes. -/
def atomicBytes (op : AOp) (wide : Bool) (old : List Byte) (x c : W64) : List Byte :=
  if wide then wordBytes (atomicFn op (w64 (leNat old)) x c)
  else leBytes 4 (atomicFn op (w32 (leNat old)) (x.setWidth 32) (c.setWidth 32)).toNat

/-- The clusters that hold a world's troupe slots, ascending (R353). -/
def State.clustersOf (s : State) (w : Nat) : List Nat :=
  sortAsc ((s.cores.filter fun c => c.2.tslotOwner.any fun o => o.2 == w).map fun c => clusterOf c.1)

/-- The worlds with a timing fence (R353). -/
def State.fencedWorlds (s : State) : List Nat := (s.worlds.filter fun w => w.2.limits.fenced).map (·.1)

/-- The cluster whose service troupe performs a lane for a requester in `mine`; a lane that would go to a cluster of a
fenced world and is not in its frames goes elsewhere (R189, R353). -/
def State.serviceCluster (s : State) (mine pa : Nat) : Nat :=
  let x := pa / 128
  let h := Nat.xor (Nat.xor (x % 2 ^ 16) (x / 2 ^ 16 % 2 ^ 16)) (x / 2 ^ 32 % 2 ^ 9)
  let owner := s.frameOwner pa
  let fenced := s.fencedWorlds
  let cs := s.clustersOf owner
  if inModule pa ∧ fenced.contains owner ∧ cs ≠ [] then cs.getD (h % cs.length) 0
  else
    let base := if inModule pa then h % 24 else mine
    let closed := fenced.flatMap s.clustersOf
    let us := (List.range 24).filter fun c => !closed.contains c
    if closed.contains base ∧ us ≠ [] then us.getD (h % us.length) 0 else base

/-- The requests of an instruction's lanes, one for each service cluster and line (R190): cluster and lanes. -/
def State.splitRequests (s : State) (mine : Nat) (os : List LaneOp) : List (Nat × List LaneOp) :=
  (sortAsc (os.map fun o => lineNo o.pa)).map fun ln =>
    let ls := os.filter fun o => lineNo o.pa == ln
    (s.serviceCluster mine (ln * 128), ls)

/-- A change of a timing fence waits for every request queue to drain, and atomics wait for it (R353). -/
def State.fenceChanging (s : State) : Bool :=
  s.mgmt.begun && (s.mgmt.running.getD 0 0).toNat % 256 == 5 && (s.mgmt.running.getD 1 0).toNat % 16 == 6

/-- The quota of a world in a cluster's request queue (R190, R445). -/
def State.reqQuota (s : State) (w c : Nat) : Nat := (s.world w).limits.reqQuota.get c 1

/-- Some cluster would take more requests of the instruction than the world's whole quota (R367). -/
def State.overQuota (s : State) (w : Nat) (rs : List (Nat × List LaneOp)) : Bool :=
  rs.any fun r => s.reqQuota w r.1 < (rs.filter fun x => x.1 == r.1).length

/-- The requests fit into their queues now (R190). -/
def State.requestsFit (s : State) (w : Nat) (rs : List (Nat × List LaneOp)) : Bool :=
  rs.all fun r =>
    let q := (s.cluster r.1).reqQ
    let n := (rs.filter fun x => x.1 == r.1).length
    (q.filter fun x => x.world == w).length + n ≤ s.reqQuota w r.1 && q.length + n ≤ 256

/-- Put the requests of one atomic instruction into their queues. Those in module memory follow the earlier ordinary
accesses of the troupe, those outside the module do not (R201, R209, R222). -/
def State.sendRequests (s : State) (t : Troupe) (mk : Request → Request) (rs : List (Nat × List LaneOp)) : State :=
  let after := (t.ops.filter Op.ordinary).map (·.id)
  rs.foldl (fun s r =>
    let q : Request := { opId := 0, tkey := t.key, uid := t.uid, world := t.world, core := t.core, aop := .or
                         wide := true, returns := false, reduces := false, pts := t.pts, lanes := r.2
                         after := if r.2.any fun o => inModule o.pa then after else [] }
    s.modCluster r.1 fun c => { c with reqQ := c.reqQ ++ [mk q] }) s

/-- The lanes of an atomic instruction go to their service troupes; `amog` and `amos` stay an operation of the troupe
until they are performed, a reduction does not (R200, R209). `part` says that other lanes have missed; `got` is what
earlier parts of the instruction have returned. Without a lane nothing is asked. -/
def State.issueAtomic (s : State) (t : Troupe) (x : AArgs) (reduces part : Bool) (got : List (Nat × List Byte))
    (os : List LaneOp) : State :=
  if os.isEmpty then s else
  let (id, s) := s.freshId
  let ret := if x.d.val = 63 then none else some x.d.val
  let s := s.sendRequests t
    (fun q => { q with opId := id, aop := x.aop, wide := x.wide, returns := ret.isSome, reduces := reduces })
    (s.splitRequests (clusterOf t.core) os)
  if reduces then s
  else s.pushOp t.key { id := id, kind := .atomic x.aop x.wide ret, lanes := os, la := x.la.val
                        external := os.filter LaneOp.atPeer, results := got, part := part && ret.isSome }

/-- A request's requirement on its queues: one that could never fit is a fault, and one that does not fit now waits
(R190, R367). -/
def State.queueGate (s : State) (t : Troupe) (scalar : Bool) (ok : List LaneOp) (go : State → Res) : Res :=
  let rs := s.splitRequests (clusterOf t.core) ok
  if s.overQuota t.world rs then
    s.fault 0x13 3 (lanesMask scalar t (ok.map (·.lane))) (w64 ((ok.head?.map (·.va)).getD 0))
  else if !s.requestsFit t.world rs then s.stall
  else go s

/-! ### AtomicOps at the host, whose outcome the instruction waits for (R199, R365) -/

/-- An AtomicOp of the troupe waits in a queue, or for the host. -/
def State.hostPending (s : State) (t : Troupe) : Bool :=
  s.clusters.any (fun c => c.2.reqQ.any fun r => r.uid == t.uid && r.sync) ||
  s.ext.any fun x => x.uid == t.uid && x.sync && x.errand != Errand.query && x.reply.isNone && !s.ofCopy x

/-- The troupe's AtomicOps that the host has answered. -/
def State.hostAnswers (s : State) (t : Troupe) : List Ext :=
  s.ext.filter fun x => x.uid == t.uid && x.sync && x.errand != Errand.query && !s.ofCopy x

/-- The answered AtomicOps are no longer kept. -/
def State.dropAnswers (s : State) (xs : List Ext) : State := { s with ext := s.ext.filter fun x => !xs.contains x }

/-- An instruction waits for what it has put to the host: it stalls, and its chain head is recorded, so that what it has
asked is dropped if another instruction issues instead (R188, R199). -/
def State.awaitHost (s : State) : Res :=
  let t := s.src
  .next ((s.modBook fun b => { b with chain := none }).setMe
    { t with ctl := { t.ctl with stalled := true, replayPc := some t.pc } })

/-- The lanes that the host has performed are recorded in %replay, like those performed before a miss, and their results
are kept until the instruction completes; it issues again for the others, or faults where the host did not complete a
lane, and then writes no register (R40, R199; log 65). -/
def State.takeHostOps (s : State) (x : AArgs) : Res :=
  let t := s.src
  let xs := s.hostAnswers t
  let s := (s.dropAnswers xs).modBook fun b => { b with chain := none }
  let good := xs.flatMap fun y => match y.reply with
    | some (.data bs) => y.lanes.map fun o => (o.lane, bs)
    | _ => []
  let bad := (xs.flatMap (·.lanes)).filter fun o => !good.any fun g => g.1 == o.lane
  let t := { t with
    sp := { t.sp with replay := t.sp.replay ||| maskOf fun l => good.any fun g => g.1 == l }
    ctl := { t.ctl with replayPc := some t.pc, stalled := true
                        gathered := if x.d.val = 63 then [] else t.ctl.gathered ++ good } }
  match least (·.lane) bad with
  | none => .next (s.setMe t)
  | some o => .next (s.faultAt t 3 3 (lanesMask false t (bad.map (·.lane))) (w64 o.va))

/-- Data and compare values of a lane (R197). -/
def atomicData (t : Troupe) (x : AArgs) (o : LaneOp) : LaneOp :=
  let v := x.v.val
  let narrow (n : Nat) : W64 := ((t.vreg n).lane o.lane).setWidth 64
  if x.aop = .cas then
    if x.wide then { o with c := lanePair t v o.lane, x := lanePair t (v + 2) o.lane }
    else { o with c := narrow v, x := narrow (v + 1) }
  else { o with x := if x.wide then lanePair t v o.lane else narrow v }

/-- The host completes this operation as a PCIe AtomicOp (R199). -/
def hostOp : AOp → Bool
  | .add | .swap | .cas => true
  | _ => false

/-- An atomic instruction whose lanes are all performed already, or that acts in none, completes: what its lanes have
returned goes to the return slot (R112, R187, R200). Issued anew with no lane left of it, it is complete, and %replay is
cleared (R188; DESIGN CHOICE, log 78). -/
def State.atomicOver (s : State) (x : AArgs) (e : Bool) : Res :=
  let t := s.src
  if t.ctl.gathered.isEmpty then .next ((if t.sp.replay = 0 then s else s.setMe s.me.replayed).advance 2 e)
  else
    let (id, s) := s.freshId
    let u := s.me.replayed
    let o : Op := { id := id, kind := .atomic x.aop x.wide (some x.d.val), la := x.la.val, performed := true
                    results := t.ctl.gathered }
    .next ((s.setMe { u with ctl := { u.ctl with gathered := [] }, ops := u.ops ++ [o] }).advance 2 e)

/-- An atomic or reduction instruction (R196 to R198). The lanes of an `amos` at the host go first, and alone. -/
def State.atomic (s : State) (e : Bool) (g : Guard) (x : AArgs) (moduleOnly reduces : Bool) : Res :=
  let t := s.src
  let ls := s.memLanes g
  let n : Need := { bytes := if x.wide then 8 else 4, r := true, w := true, moduleOnly := moduleOnly
                    noHost := !reduces && !hostOp x.aop, watchR := !reduces, access := 3 }
  if s.hostPending t then s.stall
  else if !(s.hostAnswers t).isEmpty then s.takeHostOps x
  else if ls.isEmpty then s.atomicOver x e
  else if x.d.val ≠ 63 ∧ t.ops.any (fun o => match o.kind with | .atomic _ _ (some _) => true | _ => false) then s.stall
  else if s.fenceChanging then s.stall
  else
    s.access n false (ls.map fun l => (l, atomicAddr t x l)) (atomicData t x)
      (fun ok go s => s.queueGate t false ok fun s =>
        let host := if reduces then [] else ok.filter LaneOp.atHost
        if host.isEmpty then go s
        else
          let (id, s) := s.freshId
          (s.sendRequests t (fun q => { q with opId := id, aop := x.aop, wide := x.wide, sync := true })
            (s.splitRequests (clusterOf t.core) host)).awaitHost)
      (fun ok s =>
        let u := { s.me.replayed with ctl := { s.me.replayed.ctl with gathered := [] } }
        .next (((s.setMe u).issueAtomic u x reduces false t.ctl.gathered ok).advance 2 e))
      (fun ok s =>
        let s := s.modTroupe t.key fun t =>
          { t with sp := { t.sp with replay := t.sp.replay ||| maskOf fun l => ok.any fun o => o.lane == l } }
        s.issueAtomic t x reduces true [] ok)

/-- `amog`: module memory only (R196). -/
def execAmog (e : Bool) (g : Guard) (x : AArgs) (s : State) : Res := s.atomic e g x true false

/-- `amos` (R196, R199). -/
def execAmos (e : Bool) (g : Guard) (x : AArgs) (s : State) : Res := s.atomic e g x false false

/-- `redg` (R196, R209). -/
def execRedg (e : Bool) (g : Guard) (x : AArgs) (s : State) : Res := s.atomic e g x false true

/-! ## Performing accesses -/

/-- The troupe with a name: in the slot from which it made a request, or where it stands since. -/
def State.requester (s : State) (k uid : Nat) : Option Troupe :=
  match s.troupes.find k with
  | some t => if t.uid = uid then some t else (s.troupes.find? fun x => x.2.uid == uid).map (·.2)
  | none => (s.troupes.find? fun x => x.2.uid == uid).map (·.2)

/-- Replace the troupe with a name, if it is resident. -/
def State.modRequester (s : State) (k uid : Nat) (f : Troupe → Troupe) : State :=
  match s.requester k uid with
  | some t => s.putTroupe (f t)
  | none => s

/-- The logical time of an access that was performed for a troupe: an ordinary one orders the troupe's later accesses, a
reduction those behind its next fence or release (R204, R209). It follows a troupe that has left (R201). -/
def State.noteTime (s : State) (k uid ts : Nat) (red : Bool) : State :=
  let s := s.modRequester k uid fun t =>
    if red then { t with ctl := { t.ctl with redTs := max t.ctl.redTs ts } } else { t with pts := max t.pts ts }
  { s with away := s.away.map fun a =>
      if a.uid != uid then a else if red then { a with redTs := max a.redTs ts } else { a with pts := max a.pts ts } }

/-- Remove an operation of a troupe that is complete; a troupe that only waited for it retires. -/
def State.dropOp (s : State) (k id : Nat) : State :=
  (s.modTroupe k fun t => { t with ops := t.ops.filter fun o => o.id != id }).tryRetire k

/-- A troupe that only waited for something of its own retires. -/
def State.retireNamed (s : State) (k uid : Nat) : State :=
  match s.requester k uid with
  | some t => s.tryRetire t.key
  | none => s

/-- Write the results of an operation that is complete. -/
def Troupe.putResults (t : Troupe) (o : Op) : Troupe :=
  match o.kind with
  | .load n sext d => t.putLoad n sext d o.results
  | .sload d => t.setS d (w64 (leNat ((o.results.head?.map (·.2)).getD [])))
  | .atomic _ wide (some d) => t.putLoad (if wide then 8 else 4) false d o.results
  | .post d => t.setS d (w64 (leNat ((o.results.head?.map (·.2)).getD [])))
  | _ => t

/-- Replace an operation of a troupe. -/
def Troupe.setOp (t : Troupe) (o : Op) : Troupe := { t with ops := t.ops.map fun x => if x.id == o.id then o else x }

/-- An operation of a troupe has come further: it is complete once its lanes in module memory are performed, those
outside are sent and nothing is awaited of the outside; else it stays as it now is. -/
def State.putOp (s : State) (t : Troupe) (o : Op) : State :=
  if !o.ordinary ∧ o.unsent.isEmpty ∧ o.external.isEmpty then (s.putMixed o.clash t (t.putResults o)).dropOp t.key o.id
  else s.putTroupe (t.setOp o)

/-- Perform a load of a troupe in module memory at one logical time (R194, R204). -/
def State.performLoad (s : State) (t : Troupe) (o : Op) (n : Nat) : State :=
  let (s, p, got) := s.loadAt t.world t.core t.pts (o.lanes.filter fun l => inModule l.pa) n
  s.putOp { (s.troupe t.key).getD t with pts := p }
    { o with performed := true, results := o.results ++ got.map fun x => (x.1.lane, x.2) }

/-- Perform a store of a troupe in module memory at one logical time, the highest lane last (R194, R204). -/
def State.performStore (s : State) (t : Troupe) (o : Op) : State :=
  let ws := (o.lanes.filter fun l => inModule l.pa).map fun l => (l, l.data)
  let (s, ts) := if ws.isEmpty then (s, t.pts) else s.storeAt t.world t.core t.pts ws
  let s := s.refreshL1 t.core ts ((linesOf (ws.map (·.1))).map (·.1))
  s.putOp { (s.troupe t.key).getD t with pts := ts } { o with performed := true }

/-- The lanes of a load or a store at one target outside the module are sent there: a load awaits its answers, a store
none (R172, R222, R229). -/
def State.sendFar (s : State) (t : Troupe) (o : Op) (g : Nat) : State :=
  let ls := o.lanes.filter fun l => farOf l.pa == some g
  let store := match o.kind with | .store _ => true | _ => false
  let o := { o with gone := o.gone ++ [g], external := if store then [] else o.external ++ ls }
  (s.ask t o.id (if store then 2 else 1) false ls).putOp t o

/-- One lane of a request performed at a line: old bytes for the return, new bytes into memory (R198). -/
def serviceLane (r : Request) (acc : State × List (Nat × List Byte)) (o : LaneOp) : State × List (Nat × List Byte) :=
  let old := acc.1.memRead o.pa (if r.wide then 8 else 4)
  (acc.1.memWrite o.pa (atomicBytes r.aop r.wide old o.x o.c), acc.2 ++ [(o.lane, old)])

/-- No earlier ordinary access of the troupe is outstanding, in its slot or in a queue (R201, R209), no other
reduction is at work on the same line of the host (R198), and earlier accesses to the same target outside are there
(R222). -/
def State.requestReady (s : State) (r : Request) : Bool :=
  !(s.ext.any fun x => x.reduces && x.lanes.any fun o => r.lanes.any fun p => lineNo o.pa == lineNo p.pa) &&
  !s.farBusy r.uid r.opId r.lanes &&
  !s.clusters.any (fun c => c.2.reqQ.any fun q => q.uid == r.uid && r.after.contains q.opId &&
    q.lanes.any fun o => inModule o.pa) &&
  match s.requester r.tkey r.uid with
  | some t => !t.ops.any fun o => o.ordinary && r.after.contains o.id
  | none => true

/-- The logical time before which no request of a troupe is performed: its own (R204, R209). -/
def State.issuerPts (s : State) (r : Request) : Nat :=
  match s.requester r.tkey r.uid with
  | some t => max r.pts t.pts
  | none => max r.pts (((s.away.find? fun a => a.uid == r.uid).map (·.pts)).getD 0)

/-- Old values go to the operation of the troupe that awaits them. -/
def State.addResults (s : State) (r : Request) (got : List (Nat × List Byte)) : State :=
  s.modRequester r.tkey r.uid fun t =>
    { t with ops := t.ops.map fun o => if o.id == r.opId then { o with results := o.results ++ got } else o }

/-- Perform a request on module memory at a timestamp (R192). -/
def State.serveLine (s : State) (ts : Nat) (r : Request) : State :=
  let ln := lineNo ((r.lanes.head?.map (·.pa)).getD 0)
  let na := (r.lanes.head?.map (·.na)).getD false
  let old := s.lineBytes ln
  let (s, got) := r.lanes.foldl (serviceLane r) (s, [])
  let s := (s.reachLine r.world r.core ln na (some old) ts ts).pokeBarriers [ln]
  (s.count r.world 0x0F r.core r.lanes.length).addResults r got

/-- Perform requests on module memory together: all lanes at one timestamp, after every lease on their lines and every
earlier access of the troupe (R187, R192, R202, R204, R209). -/
def State.serveModule (s : State) (rs : List Request) : State :=
  match rs with
  | [] => s
  | r :: _ =>
    let ts := rs.foldl (fun ts r => max ts ((s.lineTs (lineNo ((r.lanes.head?.map (·.pa)).getD 0))).2 + 1)) (s.issuerPts r)
    (rs.foldl (fun s r => s.serveLine ts r) s).noteTime r.tkey r.uid ts (r.reduces || r.commit)

/-- Every request of the operation on module memory has been performed: a result awaits its return slot and what the
outside still owes, and an operation without either is complete (R200). -/
def State.settleAtomic (s : State) (r : Request) : State :=
  if s.clusters.any fun c => c.2.reqQ.any fun q => q.opId == r.opId && q.lanes.any fun o => inModule o.pa then s
  else match s.requester r.tkey r.uid with
    | none => s
    | some t =>
      match t.ops.find? fun o => o.id == r.opId with
      | none => s.tryRetire t.key
      | some o =>
        if r.returns ∨ !o.external.isEmpty then s.putTroupe (t.setOp { o with performed := true })
        else s.dropOp t.key o.id

/-- A reduction at the host takes its lanes in turn: the service troupe reads the first (R198, R199). -/
def State.reduceAtHost (s : State) (t : Troupe) (opId : Nat) (aop : AOp) (wide : Bool) (lanes : List LaneOp) : State :=
  match lanes with
  | [] => s
  | o :: _ =>
    s.ask t opId 1 false [{ lane := o.lane, va := o.va, pa := o.pa, x := if wide then 8 else 4 }] (.reduceRead aop wide lanes)

/-- A request at the host or a peer is sent there by the service troupe: a reduction at the host begins with a read, the
OR of `valid` with a read as well, and everything else is one operation of the target (R199, R365). -/
def State.serveFar (s : State) (r : Request) : State :=
  let t := (s.requester r.tkey r.uid).getD { Troupe.blank with uid := r.uid, world := r.world, core := r.core }
  let tag := 16 + 2 * r.aop.ctorIdx + b2n r.wide
  if r.lanes.all LaneOp.atHost then
    if r.reduces then s.reduceAtHost t r.opId r.aop r.wide r.lanes
    else if r.commit then r.lanes.foldl (fun s o => s.ask t r.opId 1 true [{ o with x := 8 }] (.swapRead o.x)) s
    else s.ask t r.opId tag true r.lanes
  else s.ask t r.opId (if r.reduces then 48 + tag else tag) false r.lanes

/-- The requests that are performed with one at a place of a queue: those of the same instruction on module memory, but
of a reduction each for itself (R187, R202, R209). -/
def State.together (s : State) (r : Request) : List Request :=
  if r.reduces then [r]
  else s.clusters.flatMap fun c => c.2.reqQ.filter fun q => q.opId == r.opId && q.lanes.all fun o => inModule o.pa

/-- SERVICE_REQUEST: the service troupe of a cluster performs the request at a place of its queue, once the earlier
accesses of its troupe are performed (R189 to R192, R198, R199). -/
def execServiceRequest (cluster i : Nat) (s : State) : Res :=
  match ((s.cluster cluster).reqQ)[i]? with
  | none => .next s
  | some r =>
    if !s.requestReady r then .next s
    else if (r.lanes.all fun o => inModule o.pa) ∧ !r.reduces then
      let rs := s.together r
      let s := { s with clusters := s.clusters.mapVals fun _ c =>
        { c with reqQ := c.reqQ.filter fun q => !(q.opId == r.opId && q.lanes.all fun o => inModule o.pa) } }
      .next ((s.serveModule rs).settleAtomic r)
    else
      let s := s.modCluster cluster fun c => { c with reqQ := c.reqQ.take i ++ c.reqQ.drop (i + 1) }
      let s := if r.lanes.all fun o => inModule o.pa then s.serveModule [r] else s.serveFar r
      .next (s.settleAtomic r)

/-- ATOMIC_RETURN: the return slot's values are written to the destination lanes (R191, R200). Those of a part of an
instruction wait for its other lanes; they are written to no register if the instruction is never completed (R40, R187,
R357). -/
def execAtomicReturn (core tslot : Nat) (s : State) : Res :=
  match s.troupe (keyOf core tslot) with
  | none => .next s
  | some t =>
    match t.ops.find? (fun o => o.performed && o.external.isEmpty &&
        (match o.kind with | .atomic _ _ (some _) => true | _ => false)) with
    | none => .next s
    | some o =>
      if o.part then
        let u := if t.ctl.replayPc = some t.pc then
            { t with ctl := { t.ctl with gathered := t.ctl.gathered ++ o.results } } else t
        .next ((s.putTroupe u).dropOp t.key o.id)
      else .next ((s.putMixed o.clash t (t.putResults o)).dropOp t.key o.id)

/-- An answer of the outside, with its bytes if it brings any, reaches the operation that waits for it. -/
def State.answer (s : State) (x : Ext) (bytes : Option (List Byte)) : State :=
  match s.requester x.tkey x.uid with
  | none => s
  | some t =>
    match t.ops.find? fun o => o.id == x.opId with
    | none => s.tryRetire t.key
    | some o =>
      let ls := x.lanes.map (·.lane)
      let o := { o with external := o.external.filter (fun l => !ls.contains l.lane)
                        results := o.results ++ (match bytes with | some bs => ls.map fun l => (l, bs) | none => []) }
      match o.kind with
      | .atomic _ _ ret =>
        if o.external.isEmpty ∧ o.performed ∧ ret.isNone then s.dropOp t.key o.id else s.putTroupe (t.setOp o)
      | _ => s.putOp t o

/-- MISS_RETRY: a troupe whose entries are released, or that waited for room and finds some, issues its instruction
again; a divert that waited for this takes effect instead (R183, R185, R356). -/
def execMissRetry (core tslot : Nat) (s : State) : Res :=
  match s.troupe (keyOf core tslot) with
  | none => .next s
  | some t =>
    let mt := (s.cluster (clusterOf core)).miss
    let free := match t.ctl.wait with
      | .parked _ => !mt.any fun e => e.parked.contains t.key
      | .missRoom => true
      | _ => false
    if free then .next ((s.putTroupe { t with ctl := { t.ctl with wait := .no } }).boundary t.key) else .next s

/-! ## fence (R226 to R229) -/

/-- A request to the outside is an access that the troupe issued, of those that system scope covers: neither a copy's,
nor a question of admission, nor a post to a peer (R208). -/
def State.ownExt (s : State) (t : Troupe) (x : Ext) : Bool :=
  x.uid == t.uid && x.errand != Errand.query && !s.ofCopy x &&
  !t.ops.any fun o => o.id == x.opId && (match o.kind with | .post _ => true | _ => false)

/-- Operations of a troupe that a scope covers and that are not performed (R208). -/
def State.covered (s : State) (t : Troupe) (sc : Scope) : Bool :=
  let inQ (c : Nat) := (s.cluster c).reqQ.any fun r => r.uid == t.uid && r.reduces && r.lanes.all fun o => inModule o.pa
  let mine := clusterOf t.core
  t.busyOps || s.clusters.any (fun c => c.2.reqQ.any fun r => r.uid == t.uid && r.commit && r.lanes.all fun o => inModule o.pa) ||
  (match sc with
   | .core => false
   | .cluster => inQ mine
   | .die => (List.range 6).any fun i => inQ (mine / 6 * 6 + i)
   | .module => (List.range 24).any inQ
   | .system => t.ops.any (fun o => !o.unsent.isEmpty) ||
      (List.range 24).any (fun c => (s.cluster c).reqQ.any fun r => r.uid == t.uid) || s.ext.any (s.ownExt t))

/-- Everything of the troupe that has been performed, its reductions too, precedes what follows (R209, R227). -/
def Troupe.fenced (t : Troupe) : Troupe := { t with pts := max t.pts t.ctl.redTs }

/-- `fence` (R227): a troupe with covered operations outstanding stalls. -/
def execFence (e : Bool) (sc : Scope) (s : State) : Res :=
  if s.covered s.src sc then s.stall else .next ((s.setMe s.me.fenced).advance 1 e)

end Sys2Proof.Machine
end

