-- ==== Sys2Proof/Machine/Async.lean ====
section
/-! DEFINITION. Barrier instructions, mailboxes, exchange stores and ensemble barriers, line prefetch and pins, `mwait`
(R253 to R262, R273 to R285), and the events of exchange and ensembles. -/

namespace Sys2Proof.Machine

/-! ## Barrier instructions (R258 to R262) -/

/-- The cause of R259 for a barrier address, the lowest of those that apply (R366); none when it may be used. -/
def State.barCause (s : State) (t : Troupe) (a : W64) : Option Nat :=
  if a.toNat ≥ 2 ^ 21 then some 3
  else if !(s.core t.core).plotOk t.world a.toNat then some 4
  else if a.toNat % 16 ≠ 0 then some 5
  else none

/-- The checks of R259 behind `inRange`, the operand's range; then, in program order among the troupe's accesses, what
the instruction does (R261). -/
def State.onBar (s : State) (a : Reg) (inRange : Bool) (go : Nat → Res) : Res :=
  let x := s.src.sreg a.val
  match s.barCause s.src x with
  | some c => s.faultAll c 6 x
  | none => if !inRange then s.faultAll 9 6 x else if s.src.busyOps then s.stall else go x.toNat

/-- The issuing troupe's time after an operation of its core's barrier unit (R254, R207). -/
def State.barStamp (s : State) : State :=
  s.setMe { s.me with pts := max s.me.pts (s.core s.me.core).swts }

/-- An operation of the barrier unit for the issuing troupe, at its logical time. -/
def State.barMine (s : State) (a : Nat) (op : BarOp) : State :=
  let s := s.modCore s.me.core fun c => { c with srts := max c.srts s.me.pts }
  (s.barDo s.me.core a op).barStamp

/-- `bar.init` (R260): PHASE is kept. -/
def execBarInit (e : Bool) (a : Reg) (b : SSrc) (s : State) : Res :=
  let x := sval b s.src
  let ok := fld x 11 0 ≥ 1 && (x &&& ~~~ (0x1000FFF : W64)) == 0
  s.onBar a ok fun n => .next ((s.barMine n (.init (fld x 11 0) (bit x 24))).advance (slen b) e)

/-- Reductions of a troupe to module memory, and the OR of its `valid`, that wait in request queues (R209, R365). -/
def State.redIds (s : State) (t : Troupe) : List Nat :=
  s.clusters.flatMap fun c => (c.2.reqQ.filter fun r =>
    r.uid == t.uid && (r.reduces || r.commit) && r.lanes.all fun o => inModule o.pa).map (·.opId)

/-- A release that has to wait for earlier operations becomes an operation of the troupe, which goes on (R211). -/
def State.release (s : State) (kind : OpKind) (lanes : List LaneOp) (len : Nat) (e : Bool) : Res :=
  let (id, s) := s.freshId
  let t := s.me
  s.done { t with ops := t.ops ++ [{ id := id, kind := kind, lanes := lanes, after := s.redIds t }] } len e

/-- `bar.arrive`: s[D] gets the phase that this arrival belongs to. It is performed once everything of the troupe before
it is, and the troupe goes on meanwhile (R260, R211). -/
def execBarArrive (e : Bool) (d a : Reg) (b : SSrc) (s : State) : Res :=
  let x := sval b s.src
  let addr := s.src.sreg a.val
  match s.barCause s.src addr with
  | some c => s.faultAll c 6 addr
  | none =>
    if !(1 ≤ x.toNat && x.toNat ≤ 4095) then s.faultAll 9 6 addr
    else if s.src.busyOps || !(s.redIds s.src).isEmpty then s.release (.arrive addr.toNat x.toNat d.val) [] (slen b) e
    else
      let phase := ((s.core s.me.core).bar addr.toNat).phase
      let s := s.setMe (s.me.fenced.setS d.val (phase.setWidth 64))
      .next ((s.barMine addr.toNat (.arrive x.toNat)).advance (slen b) e)

/-- `bar.expect` (R260). -/
def execBarExpect (e : Bool) (a : Reg) (b : SSrc) (s : State) : Res :=
  let x := (sval b s.src).toInt
  s.onBar a (-(2 ^ 27) ≤ x && x < 2 ^ 27) fun n => .next ((s.barMine n (.expect x)).advance (slen b) e)

/-- The acquire of a barrier by the issuing troupe (R212). -/
def State.acquireBar (s : State) : State :=
  let (s, p) := s.spadReadTs s.me.core s.me.pts
  s.setMe { s.me with pts := p }

/-- The object at an address as the barrier unit finds it: one in a poisoned row has failed (R256, R429). -/
def State.barFound (s : State) (core a : Nat) : Bar :=
  let o := (s.core core).bar a
  if (s.core core).spadBad.contains ((s.core core).phys a / 16) then { o with error := true } else o

/-- `bar.wait` (R260, R262): a report point, once its checks have passed; it always ends the run. A failed object faults
after its acquire, and as one of the checks before any report, for which R137 and R259 give no order (R259; DESIGN
CHOICE, log 79). The unit's completion test follows, which may end the wait at once (R254). -/
def execBarWait (_e : Bool) (a : Reg) (b : SSrc) (s : State) : Res :=
  s.onBar a true fun n =>
    if (s.barFound s.me.core n).error then
      let s := s.barMine n .test
      let t := { s.src with pts := s.me.pts }
      .next ((s.modBook fun k => { k with chain := none }).faultAt t 8 6 t.live (w64 n))
    else s.report fun s =>
    let o := s.barFound s.me.core n
    let q : W32 := (sval b s.src).setWidth 32
    if o.passed q then .next (((s.barMine n .test).advance (slen b) true).modTroupe s.book.cur fun t =>
      { t with ctl := { t.ctl with readyAt := s.cycle + 8 } })
    else
      let t := s.me
      let head := if s.src.pc = t.pc then none else some s.src.saved
      let s := s.setMe { t with
        ctl := { t.ctl with wait := .bar n q (s.almOf t.core) (t.pc + w32 (slen b)), head := head, stalled := false } }
      .next (s.barDo t.core n .test).endInWait

/-- `bar.test` (R260): 2 for a failed object, 1 when the phase has passed, else 0; the completion test follows (R254).
-/
def execBarTest (e : Bool) (d a : Reg) (b : SSrc) (s : State) : Res :=
  s.onBar a true fun n =>
    let o := s.barFound s.me.core n
    let x : W64 := if o.error then 2 else if o.passed ((sval b s.src).setWidth 32) then 1 else 0
    (s.barMine n .test).scalar d x (slen b) e

/-! ## Exchange (R273 to R277) -/

/-- Where an exchange write goes: core, pair and offset in the pair's plots (R274). -/
def xTarget (a : Nat) : Nat × Nat × Nat := (a / 2 ^ 21 % 256, a % 2 ^ 21 / 32768, a % 16384)

/-- The pair that an exchange address names, when plot 2j of it is meant and it is bound to the world (R273, R274). -/
def State.xPair (s : State) (w a : Nat) : Option XPair :=
  let (core, j, _) := xTarget a
  if a / 16384 % 2 = 1 ∨ (s.core core).plotOwner.get (2 * j) 0 ≠ w then none else (s.core core).xtab.find j

/-- Write bytes into the incoming bank of a pair (R273), as an engine's scratchpad write (R207). -/
def State.landExchange (s : State) (core pair off : Nat) (bs : List Byte) : State :=
  match (s.core core).xtab.find pair with
  | none => s
  | some x =>
    let p := (2 * pair + (if x.side then 0 else 1)) * 16384 + off
    s.modCore core fun c =>
      { c with spad := c.spad.write p bs
               spadBad := c.spadBad.filter fun r => !(p ≤ 16 * r && 16 * r + 16 ≤ p + bs.length) }

/-- The phase that an exchange write of a troupe belongs to: after its last arrival for a member, else the phase open
when it lands (R275). -/
def State.xPhase (s : State) (uid e : Nat) : Option W32 :=
  let x := s.ensemble e
  if x.members.contains uid then
    some (if x.arrived.any (fun a => a.1 == uid) || x.pending.any (fun a => a.1 == uid) then x.phase + 1 else x.phase)
  else none

/-- Bytes of exchange writes of its troupes that a core holds for later phases (R275). -/
def State.heldBytes (s : State) (core : Nat) : Nat :=
  ((s.held.filter fun h => h.tkey / 32 == core && h.copy.isNone &&
    (match h.phase with | some p => p != (s.ensemble h.ens).phase | none => false)).map fun h => h.bytes.length).foldl (· + ·) 0

/-- `xst` of n bytes (R274, R275): its lanes are on their way until they land; of lanes at one place only the highest
writes (R194). Writes for a later phase are held in their core, and the troupe waits when they would exceed 32 KiB. -/
def State.exchange (s : State) (n : Nat) (e : Bool) (g : Guard) (d : Nat) (m : MAddr) : Res :=
  let t := s.src
  let ls := (s.memLanes g).map fun l => (l, laneAddr t m l)
  if ls.isEmpty then .next (s.advance 2 e)
  else
    match gatherLanes (ls.map fun (l, a) => (l, a,
        if a.toNat ≥ 2 ^ 29 ∨ 192 ≤ (xTarget a.toNat).1 then .bad 1 3
        else if a.toNat % n ≠ 0 then .bad 2 5
        else if (s.xPair t.world a.toNat).isNone then .bad 3 4
        else .ok a.toNat false)) with
    | .bad cause xs va => s.fault cause 2 (lanesMask false t xs) va
    | .go ok _ =>
      let ws := (ok.filter fun o => !ok.any fun p => p.pa == o.pa && decide (o.lane < p.lane)).map fun o =>
        let (core, j, off) := xTarget o.pa
        let ens := ((s.xPair t.world o.pa).map (·.ens)).getD 0
        (core, j, off, ens, s.xPhase t.uid ens, (laneBytes t d o.lane ((n + 3) / 4)).take n)
      let later := ws.filter fun (_, _, _, ens, ph, _) => ph.any (· != (s.ensemble ens).phase)
      let full := if 2 ^ 15 < s.heldBytes t.core + n * later.length then later.head? else none
      match full with
      | some (_, _, _, ens, _, _) =>
        let s := s.modBook fun b => { b with chain := none }
        .next ((s.putTroupe { t with ctl := { t.ctl with wait := .exchange ens, stalled := false } }).dropHold t.core t.tslot)
      | none =>
        let s := ws.foldl (fun s (core, j, off, ens, ph, bs) =>
          let (id, s) := s.freshId
          let h : Held := { id := id, core := core, pair := j, off := off, bytes := bs, ens := ens, phase := ph
                            world := t.world, tkey := t.key, uid := t.uid }
          { s with held := s.held ++ [h] }) s
        .next (s.advance 2 e)

/-- `xst.32` (R274). -/
def execXst32 (e : Bool) (g : Guard) (d : Reg) (m : MAddr) (_la : Fin 16) (s : State) : Res :=
  s.exchange 4 e g d.val m

/-- `xst.128` (R274). -/
def execXst128 (e : Bool) (g : Guard) (d : Quad) (m : MAddr) (_la : Fin 16) (s : State) : Res :=
  s.exchange 16 e g (4 * d.val) m

/-- An exchange write or the payload of a copy has not landed, or an access is not performed. -/
def State.unlanded (s : State) (i : Nat) : Bool :=
  s.held.any (fun h => h.id == i) || s.copies.any (fun c => c.id == i && !(c.todo.isEmpty && c.waiting.isEmpty)) ||
  s.clusters.any (fun c => c.2.reqQ.any fun r => r.opId == i) ||
  s.troupes.any fun t => t.2.ops.any fun o => o.id == i && o.ordinary

/-- Some arrival need wait for writes no longer (R277). -/
def State.arrivalDue (s : State) (x : Ens) : Bool := x.pending.any fun p => !p.2.2.2.any s.unlanded

/-- Arrivals that waited for writes that have landed are recorded (R277). -/
def State.settleArrivals (s : State) (e : Nat) : State :=
  let x := s.ensemble e
  let now := x.pending.filter fun p => !p.2.2.2.any s.unlanded
  if now.isEmpty then s
  else
    (s.modEns e fun y =>
      { y with arrived := y.arrived ++ now.map (fun p => (p.1, p.2.1, p.2.2.1))
               pending := x.pending.filter fun p => p.2.2.2.any s.unlanded }).checkEns e

/-- Replace a copy. -/
def State.setCopy (s : State) (c : Copy) : State := { s with copies := s.copies.map fun x => if x.id == c.id then c else x }

/-- A copy has one write fewer to wait for. -/
def State.copyLanded (s : State) (cid id n : Nat) : State :=
  match s.copies.find? fun c => c.id == cid with
  | none => s
  | some c =>
    let s := s.count c.world 0x10 (if c.queue.isSome then 8 * c.cluster else c.core) n
    s.setCopy { c with landed := c.landed + n, waiting := c.waiting.filter (· != id) }

/-- A chunk fails the copy: a record that names no troupe, and no further chunk (R272). -/
def State.failCopy (s : State) (c : Copy) (cause access : Nat) (va : Nat) : State :=
  let s := s.setCopy { c with cause := some (c.cause.getD cause), todo := [], taking := none, plan := [], started := true }
  s.postPlain c.world cause access c.pc 0 (w64 va) (if c.queue.isSome then none else some c.launch)

/-- EXCHANGE_WRITE_LANDS: a write of the open phase lands in the incoming bank (R275, R276). Payload whose pair is no
longer bound to the world is discarded; a copy then fails, with an address that no rule states (R275, log 12). While the
pair is drained, writes of the open phase still land (R340); while its world is switched out there, they wait (R349). -/
def execExchangeWriteLands (i : Nat) (s : State) : Res :=
  match s.held.find? fun h => h.id == i with
  | none => .next s
  | some h =>
    let isOpen := !(h.phase.any (· == (s.ensemble h.ens).phase + 1))
    let owner := (s.core h.core).plotOwner.get (2 * h.pair) 0
    let bound := (owner == h.world || (owner == h.world + 64 && isOpen)) && ((s.core h.core).xtab.find h.pair).isSome
    let away := owner != h.world && owner != h.world + 64 && (s.world h.world).outCores.contains h.core
    let rest := { s with held := s.held.filter fun x => x.id != i }
    if away then .next s
    else if !bound then
      let s := rest.settleArrivals h.ens
      match h.copy with
      | none => .next (s.retireNamed h.tkey h.uid)
      | some c =>
        match s.copies.find? fun x => x.id == c with
        | none => .next s
        | some x =>
          let (v, s) := s.freeNat
          let x := { x with waiting := x.waiting.filter (· != i) }
          .next (if x.cause.isSome then s.setCopy x else s.failCopy x 4 2 v)
    else if !isOpen then .next s
    else
      let s := (rest.landExchange h.core h.pair h.off h.bytes).settleArrivals h.ens
      match h.copy with
      | none => .next (s.retireNamed h.tkey h.uid)
      | some c => .next (s.copyLanded c i h.bytes.length)

/-- The payload of a copy goes into incoming banks: SPACE 3 or 4 of its destination record (R266, R273). -/
def Copy.toExchange (c : Copy) : Bool := let x := fld (c.dst.getD 1 0) 2 0; x == 3 || x == 4

/-- `ebar.arrive` (R277). Of the causes of its two checks the lowest is raised (R366). The fault on the ensemble number
has access type 6 and that number as its virtual address, and a second arrival has the echo address (log 69). The
arrival waits for the troupe's exchange writes and, as a release, for what module scope covers (R211). -/
def execEbarArrive (e : Bool) (d a : Reg) (b : SSrc) (s : State) : Res :=
  let n := s.src.sreg a.val
  let echo := sval b s.src
  let cause := s.barCause s.src echo
  if !s.ensOk s.src n ∧ cause ≠ some 3 then s.faultAll 4 6 n
  else match cause with
  | some c => s.faultAll c 6 echo
  | none =>
    let t := s.me
    let x := s.ensemble n.toNat
    if !(x.allocated && x.members.contains t.uid) then s.scalar d ones64 (slen b) e
    else if x.arrived.any (fun y => y.1 == t.uid) || x.pending.any (fun y => y.1 == t.uid) then s.faultAll 8 6 echo
    else
      let s := s.setMe (t.setS d.val (x.phase.setWidth 64))
      let s := s.barMine echo.toNat .external
      let mine := (s.held.filter fun h => h.uid == t.uid && h.copy.isNone).map (·.id) ++
        (s.copies.filter fun c => c.uid == t.uid && c.queue.isNone && c.toExchange).map (·.id) ++
        s.redIds t ++ (t.ops.filter Op.ordinary).map (·.id)
      let s := s.modEns n.toNat fun x => { x with pending := x.pending ++ [(t.uid, t.core, echo.toNat, mine)] }
      .next ((s.settleArrivals n.toNat).advance (slen b) e)

/-- Flip SIDE of every exchange pair bound to an ensemble: one element of S, as a scratchpad write of each of those
cores at one time, after every arrival (R219, R276, R207). -/
def State.flipSides (s : State) (e : Nat) : State :=
  let cs := s.cores.filter fun c => c.2.xtab.any fun x => x.2.ens == e
  let ts := cs.foldl (fun m c => max m (c.2.srts + 1)) (s.maxTs + 1)
  let flip (_ : Nat) (x : XPair) : XPair := if x.ens == e then { x with side := !x.side } else x
  (cs.foldl (fun s c =>
    s.modCore c.1 fun c => { c with xtab := c.xtab.mapVals flip, swts := ts, srts := ts }) s).noteTs ts

/-- ENSEMBLE_PHASE_COMPLETE: the banks swap, the echoes arrive, PHASE advances; writes held for the new phase may land,
and troupes that waited for it are ready (R275, R276). -/
def execEnsemblePhaseComplete (e : Nat) (s : State) : Res :=
  let x := s.ensemble e
  if !x.ready then .next s
  else
    let s := s.flipSides e
    let s := x.arrived.foldl (fun s (_, core, a) =>
      if (s.core core).plotOk x.owner a then (s.bumpSpad core).barDo core a (.arrive 1) else s) s
    let s := s.modEns e fun y => { y with phase := x.phase + 1, arrived := [] }
    let s := (s.held.filter fun h => h.ens == e && h.phase.any (· == x.phase + 1)).foldl
      (fun s h => s.raiseEvent (.exchangeWriteLands h.id)) s
    let ks := (s.troupes.filter fun t => t.2.ctl.wait == .exchange e).map (·.1)
    .next (ks.foldl (fun s k =>
      (s.modTroupe k fun t => { t with ctl := { t.ctl with wait := .no } }).boundary k) s)

/-! ## Prefetch and pins (R278, R279, R173, R174) -/

/-- `pref` (R278): an access that would fail a check does nothing; nothing is an element of S. -/
def execPref (e : Bool) (l1 : Bool) (m : SAddr) (_la : Fin 16) (s : State) : Res :=
  let t := s.src
  let a := scalarAddr t m
  match s.checkVa t.core t.world { bytes := 1, r := true, access := 1 } a with
  | .ok pa na =>
    if !inModule pa then .next (s.advance 2 e)
    else
      let ln := lineNo pa
      let (wts, rts) := s.lineTs ln
      let held : Bool := if l1 then (s.l1Hit t.core t.world ln t.pts).isSome
        else ((s.slice (sliceOf pa)).lines.find ln).isSome
      let s := if held then s else s.reachLine t.world t.core ln na none wts rts
      let s := if l1 && !held then s.fillL1 t.core ln
          { world := t.world, bytes := s.lineBytes ln, wts := wts, rts := rts, born := s.cycle } else s
      .next (s.advance 2 e)
  | _ => .next (s.advance 2 e)

/-- Lines of a slice that a world has pinned (R173). -/
def Slice.pinsOf (sl : Slice) (w : Nat) : Nat := (sl.lines.filter fun l => l.2.pinned == some w).length

/-- Some data way of the mask other than `but` has no pinned line of the set (R173). -/
def freeWayLeft (ls : List (Nat × L2Line)) (dways : Nat) (but : Option Nat) : Bool :=
  (List.range 16).any fun y => dways / 2 ^ y % 2 == 1 && but != some y && (inWay ls y).all fun l => l.2.pinned.isNone

/-- Pin a line for a world: the status, and the module after it (R279). Where several statuses apply, the order is 1,
2, 4, 3 (DESIGN CHOICE, log 83). -/
def State.pinLine (s : State) (w core ln : Nat) (na : Bool) : Nat × State :=
  let i := sliceOf (ln * 128)
  let dways := (s.world w).limits.dways.get i 0
  match ((s.slice i).lines.find ln).bind (·.pinned) with
  | some _ => (1, s)
  | none =>
    if (s.world w).limits.pinQuota.get i 0 ≤ (s.slice i).pinsOf w then (2, s)
    else if dways = 0 then (4, s)
    else
      let (wts, rts) := s.lineTs ln
      let s' := s.reachLine w core ln na none wts rts
      match (s'.slice i).lines.find ln with
      | none => (3, s)
      | some l =>
        if !freeWayLeft ((s'.slice i).inSet (setOf ln)) dways (l.way.map (· / 2)) then (3, s)
        else (0, s'.modSlice i fun sl => { sl with lines := sl.lines.put ln { l with pinned := some w } })

/-- The checks of a load for a scalar access that is performed at once, among the troupe's accesses (R278). -/
def State.lineAccess (s : State) (m : SAddr) (go : Nat → Bool → State → Res) : Res :=
  let t := s.src
  let a := scalarAddr t m
  let n : Need := { bytes := 1, r := true, access := 1 }
  s.admitPeers t n (s.laneOuts t n [(0, a)]) fun checked s =>
    match checked with
    | .bad cause _ va => s.faultAll cause 1 va
    | .go (o :: _) _ => if t.busyOps then s.stall else go o.pa o.na s
    | .go [] missed => s.miss t 1 true missed id

/-- `pin` (R278, R279). -/
def execPin (e : Bool) (d : Reg) (m : SAddr) (_la : Fin 16) (s : State) : Res :=
  s.lineAccess m fun pa na s =>
    let s := s.setMe s.me.replayed
    if !inModule pa then s.scalar d 5 2 e
    else
      let (st, s) := s.pinLine s.me.world s.me.core (lineNo pa) na
      s.scalar d (w64 st) 2 e

/-- `unpin` (R278, R174). -/
def execUnpin (e : Bool) (m : SAddr) (_la : Fin 16) (s : State) : Res :=
  s.lineAccess m fun pa _ s =>
    let s := s.setMe s.me.replayed
    let w := s.me.world
    let free (k : Nat) (l : L2Line) : L2Line :=
      if k == lineNo pa && l.pinned == some w then { l with pinned := none } else l
    let s := s.modSlice (sliceOf pa) fun sl => { sl with lines := sl.lines.mapVals free }
    .next (s.advance 2 e)

/-! ## Mailboxes (R280 to R283) -/

/-- A mailbox address: its number and the peer, if it names one; none for a stray bit (R282). -/
def mbxAddr (x : W64) : Option (Nat × Option Nat) :=
  if x.toNat ≥ 2 ^ 21 ∨ fld x 15 10 ≠ 0 ∨ (bit x 16 = false ∧ fld x 20 17 ≠ 0) then none
  else some (fld x 9 0, if bit x 16 then some (fld x 20 17) else none)

/-- The entry of a troupe post (R281). -/
def postEntry (t : Troupe) (payload : List W64) : List W64 :=
  w64 (1 + t.world * 2 ^ 8 + t.core * 2 ^ 16 + t.tslot * 2 ^ 24 + t.launch * 2 ^ 32) :: payload

/-- `mbx.post` (R282, R283): a release, performed once everything of the troupe before it is, while the troupe goes on
(R211); a post to a peer has the peer's status. The fault of a mailbox number has that number as its address (DESIGN
CHOICE, log 84). -/
def execMbxPost (e : Bool) (d a : Reg) (b : Oct) (s : State) : Res :=
  let t := s.src
  let x := t.sreg a.val
  let entry := postEntry t ((List.range 7).map fun i => t.sreg (8 * b.val + i))
  match mbxAddr x with
  | none => s.faultAll 4 6 x
  | some (m, none) =>
    if (s.mailbox m).owner ≠ t.world then s.faultAll 4 6 x
    else if t.busyOps || !(s.redIds t).isEmpty then s.release (.mpost m entry d.val) [] 1 e
    else if 64 ≤ (s.mailbox m).entries.length then s.scalar d 1 1 e
    else
      let s := s.setMe (s.me.fenced.setS d.val 0)
      .next ((s.mbxPut m entry).advance 1 e)
  | some (m, some p) =>
    let o : LaneOp := { lane := 0, va := 0, pa := 0x600000000000 + p * 0x40000000000 + m, data := entry.flatMap wordBytes }
    if !s.reaches t.world p then s.scalar d 3 1 e
    else if t.busyOps || !(s.redIds t).isEmpty then s.release (.post d.val) [o] 1 e
    else
      let (id, s) := s.freshId
      let op : Op := { id := id, kind := .post d.val, performed := true, external := [o] }
      let s := s.setMe { s.me.fenced with ops := s.me.ops ++ [op] }
      .next ((s.ask t id 3 false [o]).advance 1 e)

/-- A release waits for reductions that precede it (R211). -/
def State.releaseWaits (s : State) (o : Op) : Bool :=
  o.after.any fun i => s.clusters.any fun c => c.2.reqQ.any fun r => r.opId == i

/-- Perform a release of a troupe whose turn it is. Its plot or mailbox stands until then: it is not taken away while an
operation that passed its checks is to be performed (R340; log 70). -/
def State.performRelease (s : State) (t : Troupe) (o : Op) : State :=
  let t := t.fenced
  let gone := { t with ops := t.ops.filter fun x => x.id != o.id }
  match o.kind with
    | .arrive a n d =>
      let s := s.putTroupe (gone.setS d (((s.core t.core).bar a).phase.setWidth 64))
      let s := s.modCore t.core fun c => { c with srts := max c.srts t.pts }
      let s := s.barDo t.core a (.arrive n)
      (s.modTroupe t.key fun t => { t with pts := max t.pts (s.core t.core).swts }).tryRetire t.key
    | .mpost m entry d =>
      if 64 ≤ (s.mailbox m).entries.length then (s.putTroupe (gone.setS d 1)).tryRetire t.key
      else ((s.putTroupe (gone.setS d 0)).mbxPut m entry).tryRetire t.key
    | .post _ => (s.putTroupe (t.setOp { o with performed := true, external := o.lanes })).ask t o.id 3 false o.lanes
    | _ => s

/-- The ordinary access or release that a troupe performs next: its first, when that is a load, a store or a release
that waits for no reduction (R195, R201, R211). -/
def State.nextOrdinary (s : State) (t : Troupe) : Option Op :=
  match t.ops.find? Op.ordinary with
  | none => none
  | some o => match o.kind with
    | .load _ _ _ | .sload _ | .store _ => some o
    | .arrive _ _ _ | .mpost _ _ _ => if s.releaseWaits o then none else some o
    | _ => none

/-- What of a troupe's operations may be performed now: its next ordinary access; a post to a peer behind all earlier
ordinary accesses and reductions (R211); and the lanes of a load or a store at a target outside the module behind its
earlier accesses there, which nothing else orders (R222). -/
def State.turns (s : State) (t : Troupe) : List (Op × Option Nat) :=
  let post (o : Op) : Bool := !o.performed && !s.releaseWaits o &&
    (match o.kind with | .post _ => true | _ => false) && !(t.ops.takeWhile fun x => x.id != o.id).any Op.ordinary
  (s.nextOrdinary t).toList.map (fun o => (o, none)) ++ (t.ops.filter post).map (fun o => (o, none)) ++
  t.ops.flatMap fun o => (o.unsent.filter fun g => !s.farBehind t.uid o.id g).map fun g => (o, some g)

/-- Perform one of a troupe's operations, or send its lanes at a target. -/
def State.performTurn (s : State) (t : Troupe) (x : Op × Option Nat) : State :=
  match x.2 with
  | some g => s.sendFar t x.1 g
  | none => match x.1.kind with
    | .load n _ _ => s.performLoad t x.1 n
    | .sload _ => s.performLoad t x.1 8
    | .store _ => s.performStore t x.1
    | _ => s.performRelease t x.1

/-- SLICE_ACCESS_PERFORMED: a troupe performs one of the operations whose turn it is. Where there are several, between
which no rule gives an order, it is some one of them (R195, R201, R204, R211, R222; log 10). -/
def execSliceAccessPerformed (core tslot : Nat) (s : State) : Res :=
  match s.troupe (keyOf core tslot) with
  | none => .next s
  | some t =>
    match s.turns t with
    | [] => .next s
    | [x] => .next (s.performTurn t x)
    | x :: y :: rest =>
      let (k, s) := s.freeNat
      .next (s.performTurn t ((x :: y :: rest).getD (k % (2 + rest.length)) x))

/-- `mbx.take` (R282, R283): an acquire when it returns an entry; on an empty mailbox it may arm a barrier. Of the
causes of its two checks the lowest is raised (R366), and the fault of a mailbox number has that number as its address
(DESIGN CHOICE, log 84). -/
def execMbxTake (e : Bool) (d : Oct) (a b : Reg) (s : State) : Res :=
  let t := s.src
  let x := t.sreg a.val
  let ba := t.sreg b.val
  match mbxAddr x with
  | some (m, none) =>
    let cause := if b.val = 63 then none else s.barCause t ba
    if (s.mailbox m).owner ≠ t.world ∧ cause ≠ some 3 then s.faultAll 4 6 x
    else match cause with
    | some c => s.faultAll c 6 ba
    | none =>
      if t.busyOps then s.stall
      else match (s.mailbox m).entries with
      | [] =>
        let s := s.setMe (s.me.setSs (8 * d.val) (List.replicate 8 0))
        if b.val = 63 then .next (s.advance 1 e)
        else
          let s := s.fireArming m
          let s := s.modMailbox m fun y => { y with arming := some (t.core, ba.toNat) }
          .next ((s.barMine ba.toNat .external).advance 1 e)
      | r :: rest =>
        let drops := (s.mailbox m).drops
        let w0 := w64 (fld (r.headD 0) 47 0 + drops * 2 ^ 48)
        let s := s.modMailbox m fun y => { y with entries := rest, drops := 0 }
        let s := if (s.world t.world).areas.noticeMbx = m then s.raiseEvent (.noticePost t.world) else s
        let s := s.setMe { s.me.setSs (8 * d.val) ((w0 :: r.drop 1).take 8) with pts := max s.me.pts s.maxTs }
        .next (s.advance 1 e)
  | _ => if b.val ≠ 63 ∧ s.barCause t ba = some 3 then s.faultAll 3 6 ba else s.faultAll 4 6 x

/-! ## mwait (R284, R285) -/

/-- Batch n has been closed (R285). -/
def batchClosed (batch n : W32) : Bool :=
  let d := (n - batch).toNat
  !(n == 0 || (1 ≤ d && d ≤ 2 ^ 31 - 1))

/-- DONE has reached batch n (R285). -/
def batchDone (done n : W32) : Bool := (done - n).toNat < 2 ^ 31

/-- `mwait`: ends the run; a batch that is closed and not complete is waited for (R285). -/
def execMwait (_e : Bool) (a : Reg) (s : State) : Res :=
  let n : W32 := (s.src.sreg a.val).setWidth 32
  let t := s.me
  if !batchClosed s.src.sp.batch n then .next (s.advance 1 true)
  else if batchDone s.src.done n then .next (s.acquireBar.advance 1 true)
  else
    .next (s.setMe { t with ctl := { t.ctl with wait := .batch n (t.pc + 1), stalled := false } }).endInWait

/-! ## Operand slots that a queued `mma` reads (R308) -/

/-- Slot i of a core, by byte of the slot: data, then the side-band from 8,192 (R286). -/
def Core.oslot (c : Core) (i : Nat) : Bytes := c.oslots.window (8448 * i) 8448

/-- A slot is about to be written: queued `mma` that read it remember what it holds (R308). -/
def Core.seeSlot (c : Core) (slot : Nat) : Core :=
  let now := c.oslot slot
  let f (m : MmaEntry) : MmaEntry :=
    if m.swap then m
    else { m with seen := m.seen ++ (if m.aslot = slot then [(false, now)] else []) ++
                    (if m.bslot = slot then [(true, now)] else []) }
  { c with mq := c.mq.map f, array := c.array.map f }

end Sys2Proof.Machine
end

