-- ==== Sys2Proof/Machine/Copy.lean ====
section
/-! DEFINITION. Layout records, copies, and the events of the copy unit (R213 to R218, R263 to R272). -/

namespace Sys2Proof.Machine

/-! ## Layout records (R265 to R267) -/

/-- A tensor layout record: twelve words (R265). -/
abbrev Rec := List W64

/-- Field [hi:lo] of word n. -/
def rfld (r : Rec) (n hi lo : Nat) : Nat := fld (r.getD n 0) hi lo
/-- SPACE. -/
def recSpace (r : Rec) : Nat := rfld r 1 2 0
/-- The element size in bytes. -/
def recSize (r : Rec) : Nat := 2 ^ rfld r 1 4 3
/-- RANK. -/
def recRank (r : Rec) : Nat := rfld r 1 7 5
/-- FILLMODE. -/
def recFill (r : Rec) : Nat := rfld r 1 9 8
/-- XMODE. -/
def recXmode (r : Rec) : Nat := rfld r 1 11 10
/-- DIM_k. -/
def recDim (r : Rec) (k : Nat) : Nat := rfld r (3 + k / 2) (32 * (k % 2) + 31) (32 * (k % 2))
/-- STRIDE_k, with the element size as the stride of dimension 0. -/
def recStride (r : Rec) (k : Nat) : Int := if k = 0 then recSize r else (r.getD (4 + k) 0).toInt
/-- ORIGIN_k. -/
def recOrigin (r : Rec) (k : Nat) : Int := (w32 (rfld r (8 + k / 2) (32 * (k % 2) + 31) (32 * (k % 2)))).toInt
/-- WIN_k. -/
def recWin (r : Rec) (k : Nat) : Nat := rfld r 10 (16 * k + 15) (16 * k)

/-- The number of the lowest set bit of a field of word n, if it is not zero. -/
def lowBit (r : Rec) (n hi lo : Nat) : List Nat :=
  if rfld r n hi lo = 0 then []
  else match findBelow (hi - lo + 1) (fun i => bit (r.getD n 0) (lo + i)) with | some i => [64 * n + lo + i] | none => []

/-- The offending bits of dimension k (R266, R271). -/
def dimFaults (r : Rec) (k : Nat) : List Nat :=
  let off := recRank r ≤ k
  let at32 (n : Nat) := 64 * (n + k / 2) + 32 * (k % 2)
  (if recDim r k = 0 ∨ (off ∧ recDim r k ≠ 1) then [at32 3] else []) ++
  (if recWin r k = 0 ∨ (off ∧ recWin r k ≠ 1) then [640 + 16 * k] else []) ++
  (if off then lowBit r (8 + k / 2) (32 * (k % 2) + 31) (32 * (k % 2)) else []) ++
  (if k = 0 then [] else if off then lowBit r (4 + k) 63 0
   else if recStride r k % (recSize r : Int) ≠ 0 then [64 * (4 + k)] else [])

/-- The range of coordinate k that the window reaches inside the tensor: with FILLMODE 2 the coordinates are clamped,
and a gathered coordinate may be any (R266, R268, R269). -/
def reach (r : Rec) (clamp gather : Bool) (k : Nat) : Option (Int × Int) :=
  let d : Int := recDim r k
  let lo := recOrigin r k
  let hi := lo + recWin r k - 1
  if gather ∧ k = 3 then some (0, d - 1)
  else if clamp then some (max 0 (min lo (d - 1)), max 0 (min hi (d - 1)))
  else if max lo 0 ≤ min hi (d - 1) then some (max lo 0, min hi (d - 1)) else none

/-- The lowest and highest byte address that the window reaches, the lowest modulo 2^64; none when it reaches no element
(R266, R267, R271). -/
def bounds (r : Rec) (clamp gather : Bool) : Option (Int × Int) :=
  ([0, 1, 2, 3].foldl (fun (a : Option (Int × Int)) k =>
    match a, reach r clamp gather k with
    | some (x, y), some (lo, hi) =>
      let st := recStride r k
      some (x + min (st * lo) (st * hi), y + max (st * lo) (st * hi))
    | _, _ => none) (some (((r.getD 0 0).toNat : Int), ((r.getD 0 0).toNat : Int)))).map
    fun (x, y) => (x % 2 ^ 64, x % 2 ^ 64 + (y - x) + recSize r - 1)

/-- The size of what the record's SPACE addresses, where it is limited (R266). -/
def spaceSize (r : Rec) : Option Int :=
  match recSpace r with
  | 1 | 3 | 4 => some (2 ^ 21)
  | 2 => some (if rfld r 1 12 12 = 1 then 256 else 8192)
  | _ => none

/-- The offending bits of a record (R266, R271 step 1). -/
def recFaults (r : Rec) (source gather : Bool) : List Nat :=
  let sp := recSpace r
  let unless' (used : Bool) (l : List Nat) := if used then [] else l
  lowBit r 1 63 39 ++ lowBit r 11 63 21 ++
  (if 5 ≤ sp then [64] else []) ++
  (if recRank r = 0 ∨ 4 < recRank r then [69] else []) ++
  unless' (sp == 1 || sp == 3 || sp == 4) (lowBit r 1 11 10) ++
  unless' (sp == 2) (lowBit r 1 12 12 ++ lowBit r 1 18 13) ++
  unless' (sp == 3) (lowBit r 1 26 19) ++
  (if sp = 3 ∧ 191 < rfld r 1 26 19 then [83] else []) ++
  unless' (sp == 4) (lowBit r 1 38 27) ++
  unless' source (lowBit r 1 9 8) ++
  unless' (source && recFill r == 1) (lowBit r 2 63 0) ++
  (if source ∧ recFill r = 1 ∧ recSize r < 8 then lowBit r 2 63 (8 * recSize r) else []) ++
  unless' (source && gather) (lowBit r 11 20 0) ++
  (if (r.getD 0 0).toNat % recSize r ≠ 0 then [0] else []) ++
  [0, 1, 2, 3].flatMap (dimFaults r) ++
  (match spaceSize r, bounds r (source && recFill r == 2) (source && gather) with
   | some n, some (lo, hi) => if lo < 0 ∨ n ≤ hi then [0] else []
   | _, _ => [])

/-- The lowest bit in which two records disagree on ESIZE or the window (R268, R271 step 2). -/
def recDiffer (a b : Rec) : Option Nat :=
  (findBelow 2 fun i => bit (a.getD 1 0) (3 + i) != bit (b.getD 1 0) (3 + i)).map (67 + ·)
  |>.or ((findBelow 64 fun i => bit (a.getD 10 0) i != bit (b.getD 10 0) i).map (640 + ·))

/-- The address of the element at coordinates (R267). -/
def elemAddr (r : Rec) (c : List Int) : Nat :=
  let x := [0, 1, 2, 3].foldl (fun a k => a + c.getD k 0 * recStride r k) ((r.getD 0 0).toNat : Int)
  let a := (x % 2 ^ 64).toNat
  let sp := recSpace r
  if (sp = 1 ∨ sp = 3 ∨ sp = 4) ∧ recXmode r ≠ 0 then
    let flip := ((c.getD 1 0) * 2 ^ (recXmode r - 1) % 32).toNat
    a - a / 16 % 32 * 16 + Nat.xor (a / 16 % 32) flip * 16
  else a

/-- Coordinates of window index n, dimension 0 innermost. -/
def winIndex (r : Rec) (n : Nat) : List Nat :=
  let a := recWin r 0
  let b := recWin r 1
  let c := recWin r 2
  [n % a, n / a % b, n / (a * b) % c, n / (a * b * c)]

/-- What a window index of the source gives: an address to read, a value, or nothing (R268). -/
inductive Source where
  | at (a : Nat)
  | value (x : Nat)
  | skip
  deriving DecidableEq, Repr

/-- The source of window index i (R268, R269). -/
def sourceOf (c : Copy) (i : List Nat) : Source :=
  let r := c.src
  let co : List Int := [0, 1, 2, 3].map fun k =>
    if c.gather ∧ k = 3 then ((c.index.getD (i.getD 3 0) 0).toNat : Int) else recOrigin r k + i.getD k 0
  if [0, 1, 2, 3].all fun k => 0 ≤ co.getD k 0 && co.getD k 0 < recDim r k then .at (elemAddr r co)
  else match recFill r with
    | 0 => .value 0
    | 1 => .value (fld (r.getD 2 0) (8 * recSize r - 1) 0)
    | 2 => .at (elemAddr r ([0, 1, 2, 3].map fun k => max 0 (min (co.getD k 0) ((recDim r k : Int) - 1))))
    | _ => .skip

/-- The destination address of window index i, when the destination tensor holds it (R268). -/
def destOf (c : Copy) (i : List Nat) : Option Nat :=
  let co : List Int := [0, 1, 2, 3].map fun k => recOrigin c.dst k + i.getD k 0
  if [0, 1, 2, 3].all fun k => 0 ≤ co.getD k 0 && co.getD k 0 < recDim c.dst k then some (elemAddr c.dst co) else none

/-- Elements of the window. -/
def winCount (r : Rec) : Nat := recWin r 0 * recWin r 1 * recWin r 2 * recWin r 3

/-- The numbers of the chunks of a copy, 512 bytes each (R264). -/
def chunksOf (r : Rec) : List Nat := List.range ((winCount r * recSize r + 511) / 512)

/-! ## Issue (R269, R271) -/

/-- Every plot that the window can reach is the world's (R271 step 6). -/
def State.plotsBound (s : State) (core w : Nat) (r : Rec) (clamp gather : Bool) : Bool :=
  match bounds r clamp gather with
  | none => true
  | some (lo, hi) =>
    (List.range (hi.toNat / 16384 - lo.toNat / 16384 + 1)).all fun i =>
      (s.core core).plotOk w ((lo.toNat / 16384 + i) * 16384)

/-- The exchange pair that a record of SPACE 3 or 4 names is the world's, and neither end of the window's range lies in
plot 2j + 1 (R271 step 7, R273). -/
def State.pairBound (s : State) (core w : Nat) (r : Rec) (source clamp gather : Bool) : Bool :=
  let pairAt (core : Nat) (ens : Option Nat) := match bounds r clamp gather with
    | none => true
    | some (lo, hi) =>
        lo.toNat / 16384 % 2 = 0 && hi.toNat / 16384 % 2 = 0 &&
        (List.range (hi.toNat / 32768 - lo.toNat / 32768 + 1)).all fun i =>
        let j := lo.toNat / 32768 + i
        (s.core core).plotOwner.get (2 * j) 0 == w &&
        (match (s.core core).xtab.find j with | some x => ens.all (· == x.ens) | none => false)
  match recSpace r with
  | 3 => pairAt (rfld r 1 26 19) none
  | 4 =>
    let e := rfld r 1 38 27
    let even (a : Int) : Bool := a.toNat / 16384 % 2 = 0
    (s.ensemble e).owner == w &&
    (if source then pairAt core (some e)
     else match bounds r clamp gather with | none => true | some (lo, hi) => even lo && even hi)
  | _ => true

/-- The name of what an operation does outside the module, beside its part in module memory (R208). -/
def farPart (id : Nat) : Nat := 2 ^ 192 + id

/-- The identities of the issuer's operations that a scope covers and that are not performed (R208, R214). -/
def State.coveredIds (s : State) (t : Troupe) (sc : Scope) : List Nat :=
  let q (c : Nat) (sys : Bool) := ((s.cluster c).reqQ.filter fun r =>
    r.uid == t.uid && (r.reduces || r.commit || sys) && (sys || r.lanes.all fun o => inModule o.pa)).map (·.opId)
  let mine := clusterOf t.core
  (t.ops.filter Op.ordinary).map (·.id) ++
  (match sc with
   | .core => []
   | .cluster => q mine false
   | .die => (List.range 6).flatMap fun i => q (mine / 6 * 6 + i) false
   | .module => (List.range 24).flatMap fun c => q c false
   | .system => (t.ops.filter fun o => !o.unsent.isEmpty).map (fun o => farPart o.id) ++
      ((List.range 24).flatMap fun c => q c true) ++ (s.ext.filter (s.ownExt t)).map fun x => farPart x.opId)

/-- What has this identity is still to be performed, or to be sent to the host or a peer and answered. -/
def State.idLive (s : State) (i : Nat) : Bool :=
  s.troupes.any (fun t => t.2.ops.any fun o => (o.id == i && o.ordinary) || (farPart o.id == i && !o.unsent.isEmpty)) ||
  s.clusters.any (fun c => c.2.reqQ.any fun r => r.opId == i || farPart r.opId == i) ||
  s.ext.any (fun x => farPart x.opId == i)

/-- Twelve scalars from s[4k] (R53, R265). -/
def scalarRec (t : Troupe) (q : Nat) : Rec := (List.range 12).map fun i => t.sreg (4 * q + i)

/-- The first failing check of R271: cause and address. R271 states the address for steps 1, 2 and 4; at step 3 it is
that of the index table, and at steps 5 to 7 a free value (log 12). -/
def State.copyChecks (s : State) (t : Troupe) (x : CArgs) (gather : Bool) : Option (Nat × W64) :=
  let src := scalarRec t x.srec.val
  let dst := scalarRec t x.drec.val
  let clamp := recFill src == 2
  let idx := rfld src 11 20 0
  let idxEnd := idx + 4 * recWin src 3
  let slotBad (r : Rec) := recSpace r == 2 && (s.core t.core).oslotOwner.get (rfld r 1 18 13) 0 != t.world
  match recFaults src true gather, recFaults dst false gather, recDiffer src dst with
  | b :: bs, _, _ => some (9, w64 (bs.foldl min b))
  | [], b :: bs, _ => some (9, w64 (0x10000 + bs.foldl min b))
  | [], [], some b => some (0x0A, w64 b)
  | [], [], none =>
    if gather ∧ 2 ^ 21 < idxEnd then some (3, w64 idx)
    else if gather ∧ idx % 4 ≠ 0 then some (5, w64 idx)
    else if gather ∧ ¬ (List.range ((idxEnd - 1) / 16384 - idx / 16384 + 1)).all
        (fun i => (s.core t.core).plotOk t.world ((idx / 16384 + i) * 16384)) then some (4, w64 idx)
    else if gather ∧ (List.range (idxEnd - idx)).any
        (fun i => (s.core t.core).spadBad.contains ((s.core t.core).phys (idx + i) / 16)) then some (0x14, w64 idx)
    else
      let bar := t.sreg x.bar.val
      match (if x.bar.val = 63 then none else s.barCause t bar) with
      | some c => some (c, bar)
      | none =>
        let cw := (x.cw.map fun r => t.sreg r.val).getD 0
        if cw.toNat ≥ 2 ^ 56 then some (3, cw)
        else if cw.toNat % 8 ≠ 0 then some (5, cw)
        else if slotBad src || slotBad dst then some (0x0B, w64 (Config.freeNat s.book.fresh))
        else if (recSpace src = 1 ∧ ¬ s.plotsBound t.core t.world src clamp gather) ∨
                (recSpace dst = 1 ∧ ¬ s.plotsBound t.core t.world dst false false) then
          some (4, w64 (Config.freeNat s.book.fresh))
        else if ¬ s.pairBound t.core t.world src true clamp gather ∨ ¬ s.pairBound t.core t.world dst false false false then
          some (4, w64 (Config.freeNat s.book.fresh))
        else none

/-- A copy that passes its checks is accepted, one for each core and cycle; a full copy unit stalls it (R21, R263,
R271). -/
def State.copy (s : State) (e : Bool) (x : CArgs) (gather : Bool) : Res :=
  let t := s.src
  match s.copyChecks t x gather with
  | some (c, va) => (s.modBook fun b => { b with fresh := b.fresh + 1 }).faultAll c 6 va
  | none =>
    if gather ∧ t.busyOps then s.stall
    else if 16 ≤ (s.copies.filter fun c => c.core == t.core && c.queue.isNone).length then s.contend 1
    else s.enter 1 fun s =>
      let src := scalarRec t x.srec.val
      let (s, p) := if gather then s.spadReadTs t.core s.me.pts else (s, s.me.pts)
      let index := if gather then (List.range (recWin src 3)).map fun i =>
          w32 (leNat ((s.core t.core).spadRead (rfld src 11 20 0 + 4 * i) 4)) else []
      let (id, s) := s.freshId
      let ids := s.coveredIds s.me x.scope
      let c : Copy :=
        { id := id, tkey := t.key, uid := t.uid, world := t.world, launch := t.launch, core := t.core
          cluster := clusterOf t.core, pc := s.me.pc, gather := gather, src := src, dst := scalarRec t x.drec.val
          index := index, bar := if x.bar.val = 63 then none else some (t.sreg x.bar.val).toNat
          cw := x.cw.map fun r => (t.sreg r.val, t.sreg (r.val + 1))
          acq := x.acq, acqAfter := if x.acq then ids else [], relAfter := if x.rel then ids else [], todo := chunksOf src
          phases := t.ctl.ens.filterMap fun k => (s.xPhase t.uid k).map fun p => (k, p) }
      let s := { s with copies := s.copies ++ [c] }
      s.done { s.me with pts := p } 2 e

/-- `cpy` (R269, R271). -/
def execCpy (e : Bool) (x : CArgs) (s : State) : Res := s.copy e x false

/-- `cpyg`: gathers dimension 3 through its index table (R269). -/
def execCpyg (e : Bool) (x : CArgs) (s : State) : Res := s.copy e x true

/-! ## Chunks (R264, R268, R272) -/

/-- Translate an address of a copy: through the issuing core's cluster, or the front-end table for a `qcopy`
(R272, R403), with the entry's NA bit. The cause of a failing step otherwise. A chunk that waits for the host or a peer
keeps the translations it has made (R335). -/
def State.copyTarget (s : State) (c : Copy) (write : Bool) (a n : Nat) : Except Nat (Nat × Bool) :=
  match c.plan.find? fun p => p.1 == write && p.2.1 == a with
  | some (_, _, pa, na) => if inModule pa && s.poisoned pa n then .error 0x14 else .ok (pa, na)
  | none =>
  if c.queue.isSome then
    (s.feTranslate c.world a n (!write) write false).map fun pa =>
      (pa, ((s.fn c.world).lookup a).any fun e => bit e.2 3)
  else match s.checkVa c.core c.world { bytes := n, r := !write, w := write, access := if write then 2 else 1 } (w64 a) with
    | .ok pa na => .ok (pa, na)
    | .miss => .error 2
    | .bad _ k => .error k

/-- Byte address of an operand slot's element (R267, R286). -/
def slotAddr (r : Rec) (a : Nat) : Nat := 8448 * rfld r 1 18 13 + (if rfld r 1 12 12 = 1 then 8192 else 0) + a

/-- Bytes of scratchpad that a copy reads: a poisoned row fails the chunk, as does plot 2j + 1 of a pair (R272, R273,
R429). -/
def Core.copyBytes (c : Core) (a n : Nat) : Except Nat (List Byte) :=
  if c.spadBad.contains (c.phys a / 16) then .error 0x14 else .ok (c.spadRead a n)

/-- The bytes of a source element, as far as they are at hand, or the cause with which its chunk fails. -/
def State.readElem (s : State) (c : Copy) (a : Nat) : Except Nat (List Byte) :=
  let n := recSize c.src
  match recSpace c.src with
  | 0 => match s.copyTarget c false a n with
    | .error k => .error k
    | .ok (pa, _) =>
      if inModule pa then .ok (s.memRead pa n)
      else match s.ext.find? (fun x => x.opId == c.id && x.lanes.any (fun o => o.pa == pa)) with
        | some x => match x.reply with
          | some (.data bs) => .ok bs
          | _ => .error (if x.peer.isNone then 3 else 4)
        | none => .error 4
  | 1 => (s.core c.core).copyBytes a n
  | 2 =>
    let b := slotAddr c.src a
    if (s.core c.core).oslotBad.contains (b / 8448, b % 8448 / 64) then .error 0x14
    else .ok ((s.core c.core).oslots.read b n)
  | 3 => if a / 16384 % 2 = 1 then .error 4 else (s.core (rfld c.src 1 26 19)).copyBytes a n
  | _ => if a / 16384 % 2 = 1 then .error 4 else (s.core c.core).copyBytes a n

/-- A source element in module memory, as an access (R165). -/
def State.sourceLane (s : State) (c : Copy) (a : Nat) : Option LaneOp :=
  if recSpace c.src ≠ 0 then none
  else match s.copyTarget c false a (recSize c.src) with
    | .ok (pa, na) => if inModule pa then some { lane := 0, va := a, pa := pa, na := na } else none
    | .error _ => none

/-- How the elements of a chunk in memory translate, as far as they do: whether written, virtual and physical address,
NA (R272). -/
def State.planOf (s : State) (c : Copy) (is : List (List Nat)) : List (Bool × Nat × Nat × Bool) :=
  let one (write : Bool) (r : Rec) (a : Nat) : List (Bool × Nat × Nat × Bool) :=
    if recSpace r ≠ 0 then []
    else match s.copyTarget c write a (recSize r) with
      | .ok (pa, na) => [(write, a, pa, na)]
      | .error _ => []
  is.flatMap fun i => (match sourceOf c i with | .at a => one false c.src a | _ => []) ++
    ((destOf c i).map (one true c.dst)).getD []

/-- The address and the failing cause of a destination element (R272, R273). -/
def State.targetCause (s : State) (c : Copy) (a : Nat) : Option (Nat × Nat) :=
  if recSpace c.dst ≠ 0 then (if 3 ≤ recSpace c.dst ∧ a / 16384 % 2 = 1 then some (a, 4) else none)
  else match s.copyTarget c true a (recSize c.dst) with
    | .ok _ => none
    | .error k => some (a, k)

/-- Physical addresses of host or peer elements of a chunk that have not been answered. -/
def State.hostReads (s : State) (c : Copy) (is : List (List Nat)) : List LaneOp :=
  is.filterMap fun i => match sourceOf c i with
    | .at a => if recSpace c.src ≠ 0 then none else match s.copyTarget c false a (recSize c.src) with
      | .ok (pa, _) =>
        if inModule pa ∨ s.ext.any (fun x => x.opId == c.id && x.sync && x.reply.isSome && x.reply != some .retry && x.lanes.any (fun o => o.pa == pa))
        then none else some { lane := 0, va := a, pa := pa }
      | .error _ => none
    | _ => none

/-- The cores that an exchange destination reaches, and the pair's ensemble (R268, R273). -/
def State.exchangeCores (s : State) (c : Copy) (a : Nat) : List (Nat × Nat) :=
  if recSpace c.dst = 3 then
    let k := rfld c.dst 1 26 19
    match (s.core k).xtab.find (a / 32768) with | some x => [(k, x.ens)] | none => []
  else
    let e := rfld c.dst 1 38 27
    (s.cores.filter fun k => match k.2.xtab.find (a / 32768) with | some x => x.ens == e | none => false).map fun k => (k.1, e)

/-- The core whose scratchpad times a copy's source in scratchpad or in an operand slot follows. -/
def Copy.sourceCore (c : Copy) : Option Nat :=
  match recSpace c.src with
  | 0 => none
  | 3 => some (rfld c.src 1 26 19)
  | _ => some c.core

/-- A chunk's reads: they follow every write to what they read and, with ACQ, what the issuer had before; each line is
reached once at its slice and leased, like the scratchpad (R165, R204, R207, R213, R214, R376). Their time is the
result. -/
def State.reachSources (s : State) (c : Copy) (os : List LaneOp) : State × Nat :=
  let base := if c.acq then s.maxTs else 0
  let p := (linesOf os).foldl (fun p x => max p (s.lineTs x.1).1) base
  let s := (linesOf os).foldl (fun s x =>
    let (wts, rts) := s.lineTs x.1
    s.reachLine c.world c.core x.1 x.2 none wts (max rts p)) s
  match c.sourceCore with
  | some k => s.spadReadTs k p
  | none => (s, p)

/-- Payload of one chunk is written to memory: module memory line by line, each line at one timestamp; the host and the
peers acknowledge theirs. No line is written before the time `p` of the reads (R204, R213, R268). -/
def State.writePayload (s : State) (id p : Nat) (ws : List (LaneOp × List Byte)) : State :=
  let here := ws.filter fun x => inModule x.1.pa
  let s := (linesOf (here.map (·.1))).foldl (fun s ln =>
    match s.copies.find? fun c => c.id == id with
    | none => s
    | some c =>
      let mine := here.filter fun x => lineNo x.1.pa == ln.1
      let (s, ts) := s.storeAt c.world c.core p mine
      s.setCopy { c with landed := c.landed + (mine.map fun x => x.2.length).sum, ts := max c.ts ts }) s
  (ws.filter fun x => !inModule x.1.pa).foldl (fun s x =>
    match s.copies.find? fun c => c.id == id with
    | none => s
    | some c =>
      let n := s.book.nextId
      let t := { Troupe.blank with uid := c.uid, world := c.world, core := c.core }
      let s := s.ask t c.id 2 false [{ x.1 with data := x.2 }]
      s.setCopy { c with landed := c.landed + x.2.length, waiting := c.waiting ++ [n] }) s

/-- Write one element elsewhere than to memory, not before the time of the reads: what lands at once is counted; the
rest is awaited (R213, R268, R275, R308). -/
def State.writeElem (s : State) (id p : Nat) (a : Nat) (bs : List Byte) : State :=
  match s.copies.find? fun c => c.id == id with
  | none => s
  | some c =>
    if c.cause.isSome then s else
    let n := bs.length
    match recSpace c.dst with
    | 1 =>
      let (s, ts) := (s.modCore c.core fun k => k.spadWrite a bs).spadWriteTs c.core p
      s.setCopy { c with landed := c.landed + n, ts := max c.ts ts }
    | 2 =>
      let (s, ts) := (s.modCore c.core fun k => { k with oslots := k.oslots.write (slotAddr c.dst a) bs }).spadWriteTs c.core p
      s.setCopy { c with landed := c.landed + n, ts := max c.ts ts }
    | _ =>
      (s.exchangeCores c a).foldl (fun s (k, e) =>
        match s.copies.find? fun c => c.id == id with
        | none => s
        | some c =>
          let (h, s) := s.freshId
          let x : Held := { id := h, core := k, pair := a / 32768, off := a % 16384, bytes := bs, ens := e
                            phase := (c.phases.find? fun p => p.1 == e).map (·.2), world := c.world, tkey := c.tkey, uid := c.uid, copy := some c.id }
          ({ s with held := s.held ++ [x] }).setCopy { c with waiting := c.waiting ++ [h] }) s

/-- Turn a list so that any of its elements may be last. -/
def rotate {α : Type} (l : List α) (n : Nat) : List α := l.drop (n % max l.length 1) ++ l.take (n % max l.length 1)

/-- A copy may move payload: its acquired operations are performed, and the issuer's earlier copies have started
(R214, R264). -/
def State.copyReady (s : State) (c : Copy) : Bool :=
  !c.acqAfter.any s.idLive && s.copies.all fun x => x.uid != c.uid || c.id ≤ x.id || x.started || x.queue.isSome

/-- A copy waits for the host or a peer to answer reads of a chunk. -/
def State.copyPending (s : State) (c : Copy) : Bool :=
  s.ext.any fun x => x.opId == c.id && x.sync && x.reply.isNone

/-- A copy from scratchpad into an operand slot of its own core needs no engine (R263). -/
def Copy.usesEngine (c : Copy) : Bool := !(recSpace c.src == 1 && recSpace c.dst == 2)

/-- The place of a copy's unit in its cluster's turn: a core's, and behind them that of `qcopy`, which is no core's
(R263, R403; log 71). -/
def Copy.unit (c : Copy) : Nat := if c.queue.isSome then 8 else c.core % 8

/-- The copy whose chunk the next free engine of a cluster takes: of the next unit after the one last served with a
chunk to issue, its first in order of acceptance (R263). -/
def State.nextCopy (s : State) (cluster : Nat) : Option Copy :=
  least (fun c => (c.unit + 8 - (s.cluster cluster).engTurn % 9) % 9)
    (s.copies.filter fun c => c.cluster == cluster && c.usesEngine && !c.todo.isEmpty && s.copyReady c && !s.copyPending c)

/-- The copy may take an engine now, if it needs one. -/
def State.copyTurn (s : State) (c : Copy) : Bool := !c.usesEngine || (s.nextCopy c.cluster).any fun x => x.id == c.id

/-- The window indices of a chunk (R264). -/
def chunkWindow (r : Rec) (chunk : Nat) : List (List Nat) :=
  let per := 512 / recSize r
  (List.range per).filterMap fun i => if chunk * per + i < winCount r then some (winIndex r (chunk * per + i)) else none

/-- Payload of a chunk that waits to land is noted with the chunk's translations (R335). -/
def Copy.flown (c : Copy) (before : List Nat) (plan : List (Bool × Nat × Nat × Bool)) : Copy :=
  let mine := c.waiting.filter fun i => !before.contains i
  let left := c.flights.filter fun f => f.1.any c.waiting.contains
  { c with flights := if mine.isEmpty then left else left ++ [(mine, plan.map fun p => (p.2.1, p.2.2.1))] }

/-- The drain of a resource that the copy references has given up on it, and no chunk of it is in flight (R340). -/
def State.drainOver (s : State) (c : Copy) : Bool :=
  c.plan.isEmpty && c.cause.isNone && !c.todo.isEmpty && (match c.drainBy with | some y => decide (y ≤ s.cycle) | none => false)

/-- Such a copy fails at its next chunk with cause 0x04 (R340, R272). -/
def State.drainFail (s : State) (c : Copy) : State :=
  let a := match sourceOf c (winIndex c.src (c.todo.headD 0 * (512 / recSize c.src))) with | .at a => a | _ => 0
  s.failCopy { c with drainBy := none } 4 1 a

/-- COPY_CHUNK: an engine moves one chunk. Every byte is read before it is written; where two window indices write one
byte, no rule says which stays (R213, R263, R264, R268, R272). A record of a failing chunk has the address of the first
element that fails (log 72). -/
def execCopyChunk (id chunk : Nat) (s : State) : Res :=
  match s.copies.find? fun c => c.id == id with
  | none => .next s
  | some c =>
    if !c.todo.contains chunk || c.taking.any (· != chunk) || !s.copyReady c || s.copyPending c || !s.copyTurn c then .next s
    else if s.drainOver c then .next (s.drainFail c)
    else
      let s := if c.usesEngine then s.modCluster c.cluster fun k => { k with engTurn := c.unit } else s
      let is := chunkWindow c.src chunk
      let asks := s.hostReads c is
      if !asks.isEmpty then
        let t := { Troupe.blank with uid := c.uid, world := c.world, core := c.core }
        let s := { s with ext := s.ext.filter fun x => !(x.opId == c.id && x.sync && x.reply == some Reply.retry) }
        .next ((s.setCopy { c with started := true, taking := some chunk, plan := s.planOf c is }).ask t c.id 1 true asks)
      else
        let moves := is.filterMap fun i => match destOf c i, sourceOf c i with
          | some a, .at b => some (a, some b, s.readElem c b)
          | some a, .value v => some (a, none, .ok (leBytes (recSize c.src) v))
          | _, _ => none
        match moves.find? fun m => match m.2.2 with | .error _ => true | .ok _ => false with
        | some (_, b, .error k) => .next (s.failCopy c k 1 (b.getD 0))
        | _ =>
        match moves.findSome? fun m => s.targetCause c m.1 with
        | some (a, k) => .next (s.failCopy c k 2 a)
        | none =>
          let plan := s.planOf c is
          let d := { c with started := true, todo := c.todo.filter (· != chunk), taking := none, plan := [] }
          let before := c.landed
          let (f, s) := (s.setCopy d).freeNat
          let s := { s with ext := s.ext.filter fun x => !(x.opId == c.id && x.sync) }
          let (s, p) := s.reachSources c (moves.filterMap fun m => m.2.1.bind (s.sourceLane c))
          let s := if recSpace c.dst = 2 then s.modCore c.core fun k => k.seeSlot (rfld c.dst 1 18 13) else s
          let moves := rotate moves f
          let s := if recSpace c.dst = 0 then s.writePayload id p (moves.filterMap fun m =>
              match s.copyTarget c true m.1 (recSize c.dst), m.2.2 with
              | .ok (pa, na), .ok bs => some ({ lane := 0, va := m.1, pa := pa, na := na }, bs)
              | _, _ => none)
            else moves.foldl (fun s m =>
              match m.2.2 with
              | .ok bs => s.writeElem id p m.1 bs
              | .error _ => s) s
          let s := s.modCore c.core fun k => match recSpace c.dst with
            | 1 => k.healRows (moves.map fun m => (k.phys m.1, recSize c.dst))
            | 2 => k.healSlots (moves.map fun m => (slotAddr c.dst m.1, recSize c.dst))
            | _ => k
          let after := ((s.copies.find? fun c => c.id == id).map (·.landed)).getD before
          let s := { s with copies := s.copies.map fun (x : Copy) => if x.id == id then x.flown c.waiting plan else x }
          .next (s.count c.world 0x10 (if c.queue.isSome then 8 * c.cluster else c.core) (after - before))

/-- The completion word is stored, or its failure is recorded and sets ERROR at the barrier (R270). -/
def State.completionWord (s : State) (c : Copy) : State :=
  match c.cw with
  | none => s
  | some (a, v) =>
    match s.copyTarget c true a.toNat 8 with
    | .error k =>
      let s := s.postPlain c.world k 2 c.pc 0 a (some c.launch)
      match c.bar with
      | some b => if (s.core c.core).plotHeld c.world b then s.barDo c.core b (.land 0 (some k)) else s
      | none => s
    | .ok (pa, na) =>
      if inModule pa then
        (s.storeAt c.world c.core (max c.ts s.maxTs) [({ lane := 0, va := 0, pa := pa, na := na }, wordBytes v)]).1
      else s.ask { Troupe.blank with uid := c.uid, world := c.world, core := c.core } 0 2 false
        [{ lane := 0, va := a.toNat, pa := pa, data := wordBytes v }] (.word c.core c.pc c.launch c.bar)

/-- The plot of a copy's barrier is switched out with its world (R349, log 24). -/
def State.barAway (s : State) (c : Copy) : Bool :=
  c.bar.any (fun b => !(s.core c.core).plotHeld c.world b) && (s.world c.world).outCores.contains c.core

/-- COPY_COMPLETION: once every chunk has landed, the bytes are counted at the barrier and the completion word is
written; a failed copy counts and sets ERROR (R215, R216, R268, R270, R272). -/
def execCopyCompletion (id : Nat) (s : State) : Res :=
  match s.copies.find? fun c => c.id == id with
  | none => .next s
  | some c =>
    if !(c.todo.isEmpty && c.waiting.isEmpty) || c.relAfter.any s.idLive || s.barAway c then .next s
    else
      let s := { s with copies := s.copies.filter fun x => x.id != id, ext := s.ext.filter fun x => x.opId != id || !x.sync }
      let s := match c.bar with
        | some b =>
          if (s.core c.core).plotHeld c.world b then (s.bumpSpad c.core).barDo c.core b (.land c.landed c.cause) else s
        | none => s
      let s := if c.cause.isNone then s.completionWord c else s
      match c.queue with
      | some (q, id) =>
        .next ((s.modPacket q id fun p => { p with copy := none, failed := c.cause }).raisePacket .packetCompletion q id)
      | none => .next (s.retireNamed c.tkey c.uid)

/-- COPY_DRAIN_TIMEOUT: a copy that still runs when the drain of a resource gives up fails at its next chunk with cause
0x04; a chunk in flight lands first (R340, R272). -/
def execCopyDrainTimeout (id : Nat) (s : State) : Res :=
  match s.copies.find? fun c => c.id == id with
  | none => .next s
  | some c => .next (if s.drainOver c then s.drainFail c else s)

end Sys2Proof.Machine
end

