-- ==== Sys2Proof/Machine/Agents.lean ====
section
/-! DEFINITION. What the placer, the allocator and the harts of the front end share: reads of memory that may have to wait for the
host or a peer, and atomic operations on signals (R222, R395, R398). -/

namespace Sys2Proof.Machine

/-- The name under which an agent's questions to the outside are kept: queue q, 64 for the allocator, 65 for BAR2, the
placer, or a packet. -/
def agentOp (q : Nat) : Nat := 2 ^ 64 + q

/-- The agent number of a packet. -/
def packetKey (q id : Nat) : Nat := 128 + id * 64 + q

/-- The agent number of a hart that reads both slots of a `qlaunch`. -/
def pairKey (q : Nat) : Nat := 2 ^ 59 + q

/-- The agent number of the placer, for the packet that presented a launch. -/
def placerKey (packet : Option (Nat × Nat)) : Nat := match packet with | some (_, id) => 2 ^ 60 + id | none => 66

/-- The name under which a packet's writes to the outside are kept until they are acknowledged. -/
def actOp (q id : Nat) : Nat := 2 ^ 128 + packetKey q id

/-- The name under which a troupe's fetches from the host or a peer are kept. -/
def fetchOp (t : Troupe) : Nat := 2 ^ 160 + t.uid

/-- What an agent's read has given so far: a refused part is named by its place. -/
inductive Fetch where
  | wait
  | bad (part cause : Nat)
  | got (bs : List Byte)
  deriving DecidableEq, Repr

/-- The bytes that an answer brings. -/
def Ext.bytes (x : Ext) : List Byte := match x.reply with | some (.data bs) => bs | _ => []

/-- The physical address that a request is for. -/
def Ext.pa (x : Ext) : Nat := (x.lanes.head?.map (·.pa)).getD 0

/-- The address of a refused question, and the cause with which it fails (R187, R172). -/
def refusedCause (xs : List Ext) : Option (Nat × Nat) :=
  (xs.find? fun x => x.reply == some .refused).map fun x => (x.pa, if x.peer.isNone then 3 else 4)

/-- Put an agent's questions. -/
def State.askAgent (s : State) (q w tag : Nat) (os : List LaneOp) : State :=
  s.ask { Troupe.blank with world := w } (agentOp q) tag true os

/-- Wait for the answers to an agent's questions; one whose binding is moving is asked again (R172). -/
def State.answers (s : State) (q w tag : Nat) (os : List LaneOp) : State × Option (Except (Nat × Nat) (List Ext)) :=
  let mine := s.ext.filter fun x => x.opId == agentOp q
  let clear : State := { s with ext := s.ext.filter fun x => x.opId != agentOp q }
  let fits := os.all fun o => mine.any fun x => x.lanes.any fun y => y.pa == o.pa
  if os.isEmpty then (s, some (.ok []))
  else if !fits then (clear.askAgent q w tag os, none)
  else if mine.any fun x => x.reply.isNone then (s, none)
  else match refusedCause mine with
    | some c => (clear, some (.error c))
    | none =>
      let moving := mine.filter fun x => x.reply == some .retry
      if moving.isEmpty then (clear, some (.ok mine))
      else
        let s := { s with ext := s.ext.filter fun x => !moving.contains x }
        (s.askAgent q w tag (os.filter fun o => moving.any fun x => x.pa == o.pa), none)

/-- Read parts, each a physical address and a length: module memory as elements of S, the rest as it is answered. -/
def State.fetch (s : State) (q w : Nat) (parts : List (Nat × Nat)) : State × Fetch :=
  let far := parts.filterMap fun p =>
    if inModule p.1 then none else some ({ lane := 0, va := 0, pa := p.1, x := w64 p.2 } : LaneOp)
  match s.answers q w 1 far with
  | (s, none) => (s, .wait)
  | (s, some (.error (pa, c))) => (s, .bad (parts.findIdx fun p => p.1 == pa) c)
  | (s, some (.ok xs)) =>
    let (s, bs) := parts.foldl (fun (a : State × List Byte) p =>
      if inModule p.1 then
        let (s, b) := a.1.loadBytes p.1 p.2
        (s, a.2 ++ b)
      else
        let b := ((xs.find? fun x => x.lanes.any fun o => o.pa == p.1).map Ext.bytes).getD []
        (a.1, a.2 ++ exactly p.2 b)) (s, [])
    (s, .got bs)

/-- Cut a range of virtual addresses at 4 KiB boundaries. -/
def pageParts (va n : Nat) : Nat → List (Nat × Nat)
  | 0 => []
  | k + 1 =>
    let m := min n (4096 - va % 4096)
    if m = 0 then [] else (va, m) :: pageParts (va + m) (n - m) k

/-- Translate parts of a virtual range of a world through its front-end table: the physical parts, or the failing
address and cause (R394). -/
def State.feParts (s : State) (w va n : Nat) (r wr x : Bool) : Except (Nat × Nat) (List (Nat × Nat)) :=
  (pageParts va n 20).foldl (fun acc p =>
    match acc with
    | .error e => .error e
    | .ok ps =>
      match s.feTranslate w p.1 p.2 r wr x with
      | .error c => .error (p.1, c)
      | .ok pa => .ok (ps ++ [(pa, p.2)])) (.ok [])

/-- Translate several virtual ranges of a world, one after the other. -/
def State.feRanges (s : State) (w : Nat) (rs : List (Nat × Nat)) (r wr x : Bool) : Except (Nat × Nat) (List (Nat × Nat)) :=
  rs.foldl (fun acc p =>
    match acc with
    | .error e => .error e
    | .ok ps =>
      match s.feParts w p.1 p.2 r wr x with
      | .error e => .error e
      | .ok qs => .ok (ps ++ qs)) (.ok [])

/-- Read virtual ranges of a world for an agent: the failing address and cause, the bytes, or nothing yet. -/
def State.feReads (s : State) (q w : Nat) (rs : List (Nat × Nat)) (x : Bool) :
    State × Option (Except (Nat × Nat) (List Byte)) :=
  match s.feRanges w rs (!x) false x with
  | .error e => (s, some (.error e))
  | .ok ps =>
    match s.fetch q w ps with
    | (s, .wait) => (s, none)
    | (s, .bad i c) => (s, some (.error (((rs.flatMap fun p => pageParts p.1 p.2 20).getD i (0, 0)).1, c)))
    | (s, .got bs) => (s, some (.ok bs))

/-- Read one virtual range of a world. -/
def State.feRead (s : State) (q w va n : Nat) (x : Bool) : State × Option (Except (Nat × Nat) (List Byte)) :=
  s.feReads q w [(va, n)] x

/-- Questions of an agent that is not interested any more are dropped with their answers. -/
def State.dropQuestions (s : State) (q : Nat) : State := { s with ext := s.ext.filter fun x => x.opId != agentOp q }

/-- A write by an agent, at a virtual address and its physical one, under a name by which it may wait for the
acknowledgement. -/
def State.putBytes (s : State) (w op va pa : Nat) (bs : List Byte) (errand : Errand) : State :=
  if inModule pa then s.storeBytes pa bs
  else s.ask { Troupe.blank with world := w } op 2 false [{ lane := 0, va := va, pa := pa, data := bs }] errand

/-- Write a virtual range of a world; the failing address and cause (R394). -/
def State.feWrite (s : State) (w op va : Nat) (bs : List Byte) (errand : Errand := .plain) : Except (Nat × Nat) State :=
  match s.feParts w va bs.length false true false with
  | .error e => .error e
  | .ok ps =>
    .ok (ps.foldl (fun (a : State × List Byte) p =>
      (a.1.putBytes w op va p.1 (a.2.take p.2) errand, a.2.drop p.2)) (s, bs)).1

/-- An operation on a signal at system scope: at the host or a peer it is sent there (R395, R196, R199, R187). -/
def State.signal (s : State) (w name va : Nat) (op : AOp) (x : W64) (errand : Errand := .plain) : Except Nat State :=
  if va < 2 ^ 56 ∧ va % 8 ≠ 0 then .error 5
  else match s.feTranslate w va 8 true true false with
  | .error c => .error c
  | .ok pa =>
    if inModule pa then .ok (s.storeBytes pa (atomicBytes op true (s.memRead pa 8) x 0))
    else .ok (s.ask { Troupe.blank with world := w } name (17 + 2 * op.ctorIdx) false
      [{ lane := 0, va := va, pa := pa, x := x }] errand)

end Sys2Proof.Machine
end

