-- ==== Sys2Proof/Machine/Procession.lean ====
section
/-! DEFINITION. The Procession: the ring of 768 slots, its five instructions, their checks at issue, and what the stops
perform as slots pass (R231 to R252). -/

namespace Sys2Proof.Machine

/-! ## The ring -/

/-- Slot i (R233). -/
def State.ringSlot (s : State) (i : Nat) : RingSlot := s.ring.get i {}

/-- The stops' copy of the header of slot i (R234). -/
def State.ringTag (s : State) (i : Nat) : RingTag := s.ringTab.get i {}

/-- The slot that stands at the stop of a core at a step (R232). -/
def slotAt (core step : Nat) : Nat := (4 * core + (768 - step % 768)) % 768

/-- Write a slot, and its header's copies at the stops. R234 gives a copy 12 cycles to follow; here one table stands for
all stops and changes with the slot (log 66). -/
def State.putSlot (s : State) (i : Nat) (x : RingSlot) : State :=
  { s with ring := s.ring.put i x
           ringTab := s.ringTab.put i { owner := x.owner, boarded := x.boarded, poisoned := x.poisoned } }

/-- The binding table shows a free slot of the world (R245). -/
def State.freeSlotShown (s : State) (w : Nat) : Bool :=
  (List.range 768).any fun i =>
    let g := s.ringTag i
    g.owner == w && !g.boarded && !g.poisoned

/-- The world holds a slot (R235, R240). -/
def State.holdsSlot (s : State) (w : Nat) : Bool := (List.range 768).any fun i => (s.ringTag i).owner == w

/-- The function of a `prmw` op code (R239). -/
def qopFn (op : QOp) (old x y : W64) : W64 :=
  match op with
  | .add => old + x
  | .bnd =>
    let sum := old.toInt + x.toInt
    if (0 ≤ x.toInt ∧ sum ≤ y.toInt) ∨ (x.toInt < 0 ∧ y.toInt ≤ sum) then old + x else old
  | .minS => if x.slt old then x else old
  | .maxS => if old.slt x then x else old
  | .and => old &&& x
  | .or => old ||| x
  | .xor => old ^^^ x
  | .swap => x
  | .cas => if old = x then y else old
  | .inc => if x.ule old then 0 else old + 1

/-! ## Issue (R240, R241) -/

/-- An entry of the stop's queue for the issuing troupe, one for each core and cycle (R241); kinds 0 to 4 are `pboard`,
`palight`, `pread`, `pwrite` and `prmw`, in the order of R236. -/
def State.ringEnter (s : State) (e : Bool) (la : Fin 16) (x : RingOp) : Res :=
  let t := s.me
  if 16 ≤ (s.core t.core).stopQ.length then s.contend 2
  else s.enter 2 fun s =>
    let t := s.me
    let (id, s) := s.freshId
    let x := { x with id := id, tkey := t.key, uid := t.uid, world := t.world, issued := s.cycle }
    let s := s.modCore t.core fun c => { c with stopQ := c.stopQ ++ [x] }
    let o : Op := { id := id, kind := .ring (x.kind != 3), la := la.val }
    s.done { t with ops := t.ops ++ [o] } 2 e

/-- The blank entry that an instruction fills in. -/
def RingOp.blank (kind d sd : Nat) : RingOp :=
  { id := 0, tkey := 0, uid := 0, world := 0, kind := kind, slot := 0, d := d, sd := sd, issued := 0 }

/-- The checks of R240 on a named slot. -/
def State.onSlot (s : State) (slot : Reg) (go : Nat → Res) : Res :=
  let x := s.src.sreg slot.val
  let g := s.ringTag x.toNat
  if x.toNat > 767 ∨ g.owner ≠ s.src.world then s.faultAll 6 5 x
  else if g.poisoned then s.faultAll 0x14 5 x
  else if !g.boarded then s.faultAll 7 5 x
  else go x.toNat

/-- The four scalars of a D group. -/
def groupOf (t : Troupe) (d : Quad) : List W64 := (List.range 4).map fun i => t.sreg (4 * d.val + i)

/-- `pboard` (R240, R245): with no free slot shown it will return all ones. -/
def execPboard (e : Bool) (d : Quad) (slot : Reg) (la : Fin 16) (s : State) : Res :=
  if !s.holdsSlot s.src.world then s.faultAll 6 5 0
  else s.ringEnter e la { RingOp.blank 0 (4 * d.val) slot.val with
    payload := groupOf s.src d, vacated := !s.freeSlotShown s.src.world }

/-- `palight` (R240, R244). -/
def execPalight (e : Bool) (d : Quad) (slot : Reg) (la : Fin 16) (s : State) : Res :=
  s.onSlot slot fun n => s.ringEnter e la { RingOp.blank 1 (4 * d.val) slot.val with slot := n }

/-- `pread` (R240, R244). -/
def execPread (e : Bool) (d : Quad) (slot : Reg) (la : Fin 16) (s : State) : Res :=
  s.onSlot slot fun n => s.ringEnter e la { RingOp.blank 2 (4 * d.val) slot.val with slot := n }

/-- `pwrite` (R240, R244). -/
def execPwrite (e : Bool) (d : Quad) (slot : Reg) (la : Fin 16) (s : State) : Res :=
  let p := groupOf s.src d
  s.onSlot slot fun n => s.ringEnter e la { RingOp.blank 3 (4 * d.val) slot.val with slot := n, payload := p }

/-- `prmw` (R239, R240, R244): its operand scalars are read when it issues. -/
def execPrmw (e : Bool) (d : Quad) (slot opnd : Reg) (la : Fin 16) (op : QOp) (wsel : Fin 4) (s : State) : Res :=
  let x := s.src.sreg opnd.val
  let y := s.src.sreg (opnd.val + 1)
  s.onSlot slot fun n => s.ringEnter e la { RingOp.blank 4 (4 * d.val) slot.val with
    slot := n, qop := op, wsel := wsel.val, x := x, y := y }

/-! ## Passages (R242 to R246) -/

/-- An entry leaves the queue of a stop, and its operation is performed; a troupe that only waited for it retires. -/
def State.ringLeave (s : State) (core : Nat) (x : RingOp) : State :=
  (s.modCore core fun c => { c with stopQ := c.stopQ.filter fun y => y.id != x.id }).dropOp x.tkey x.id

/-- The registers an entry writes, given the words it read (R244, R246). -/
def RingOp.results (x : RingOp) (w : List W64) (t : Troupe) : Troupe :=
  match x.kind with
  | 1 | 2 => t.setSs x.d w
  | 4 => t.setS x.d (w.getD x.wsel 0)
  | _ => t

/-- Write an entry's results to its troupe, if that is still in its slot (R45). -/
def State.ringWrite (s : State) (x : RingOp) (f : Troupe → Troupe) : State :=
  match s.requester x.tkey x.uid with
  | none => s
  | some t => s.putMixed (t.ops.any fun o => o.id == x.id && o.clash) t (f t)

/-- Perform an entry as on a vacated slot: nothing changes on the ring (R246); a `pboard` returns all ones (R245). -/
def State.ringVacated (s : State) (core : Nat) (x : RingOp) : State :=
  ((s.count x.world 0x0D core 1).ringWrite x fun t =>
    if x.kind = 0 then t.setS x.sd ones64 else x.results [0, 0, 0, 0] t).ringLeave core x

/-- The payload an entry leaves in a slot, and whether the slot is boarded after it (R244, R245). -/
def RingOp.writes (x : RingOp) (w : List W64) : Option (List W64 × Bool) :=
  match x.kind with
  | 0 => some (x.payload, true)
  | 1 => some ([0, 0, 0, 0], false)
  | 2 => none
  | 3 => some (x.payload, true)
  | _ => some (setNth w x.wsel (qopFn x.qop (w.getD x.wsel 0) x.x x.y), true)

/-- Perform an entry on the slot that passes, at the troupe's logical time (R220, R244). One with both parts takes the
time of its write part, which its own read's lease does not raise (log 67). -/
def State.ringPerform (s : State) (core n : Nat) (x : RingOp) : State :=
  let r := s.ringSlot n
  let pts := match s.requester x.tkey x.uid with | some t => t.pts | none => 0
  let p := if x.kind = 3 then pts else max pts r.wts
  let (r', p) := match x.writes r.w with
    | none => ({ r with rts := max r.rts (p + 16) }, p)
    | some (w, b) => ({ r with w := w, boarded := b, wts := max p (r.rts + 1), rts := max p (r.rts + 1) }, max p (r.rts + 1))
  let s := ((s.putSlot n r').noteTs r'.rts).count x.world 0x0D core 1
  let s := s.ringWrite x fun t => { (if x.kind = 0 then t.setS x.sd (w64 n) else x.results r.w t) with pts := p }
  s.ringLeave core x

/-- The entry is eligible: the troupe's earlier Procession operations and ordinary accesses are performed, and its
earliest step has come (R242). -/
def State.ringEligible (s : State) (core step : Nat) (x : RingOp) : Bool :=
  2 * (x.issued + 2) ≤ step &&
  !(((s.core core).stopQ.takeWhile fun y => y.id != x.id).any fun y => y.uid == x.uid) &&
  (match s.requester x.tkey x.uid with
   | some t => !((t.ops.takeWhile fun o => o.id != x.id).any Op.ordinary)
   | none => true)

/-- A slot holds a boarded slot of the world, as its header and the stop's table show (R244, R249). -/
def State.slotBoarded (s : State) (n w : Nat) : Bool :=
  let r := s.ringSlot n
  r.owner == w && r.boarded && !r.poisoned && (s.ringTag n).owner == w

/-- A slot is a free slot of the world (R245, R249). -/
def State.slotFree (s : State) (n w : Nat) : Bool :=
  let r := s.ringSlot n
  r.owner == w && !r.boarded && !r.poisoned && (s.ringTag n).owner == w

/-- A `pboard` counts its steps from the first at which it is eligible (R245). -/
def State.ringSince (s : State) (core step : Nat) (x : RingOp) : State :=
  let f (y : RingOp) : RingOp := if y.id == x.id && y.from?.isNone then { y with from? := some step } else y
  s.modCore core fun c => { c with stopQ := c.stopQ.map f }

/-- One entry of the queue at a passage of slot n; a `pboard` boards within 768 steps (R245). -/
def passEntry (core step n : Nat) (s : State) (x : RingOp) : State :=
  let ready := s.ringEligible core step x
  if x.kind = 0 then
    if x.vacated ∨ !ready then s
    else
      let s := s.ringSince core step x
      let late := match x.from? with | some f => decide (f + 768 ≤ step) | none => false
      if !late ∧ s.slotFree n x.world then s.ringPerform core n x else s
  else if x.slot ≠ n then s
  else if x.vacated then s.ringVacated core x
  else if !ready then s
  else if s.slotBoarded n x.world then s.ringPerform core n x
  else s.ringVacated core x

/-- The worlds with an entry on the slot that is not eligible count its passage (R376). -/
def State.countWaits (s : State) (core step n : Nat) : State :=
  let late := (s.core core).stopQ.filter fun x => x.kind != 0 && x.slot == n && !s.ringEligible core step x
  (nub (late.map (·.world))).foldl (fun s w => s.count w 0x0E core 1) s

/-- PROCESSION_PASSAGE: at the step of the current cycle, the stop of a core performs every eligible entry on the slot
that passes, in the order they entered its queue (R243). -/
def execProcessionPassage (core : Nat) (half : Bool) (s : State) : Res :=
  let step := 2 * s.cycle + b2n half
  let n := slotAt core step
  let s := (s.core core).stopQ.foldl (passEntry core step n) s
  .next (s.countWaits core step n)

/-- PBOARD_EXHAUSTED: a `pboard` with no free slot shown, 2 cycles after it entered the queue, or one that has been
eligible for 768 steps, returns all ones (R245). -/
def execPboardExhausted (core i : Nat) (s : State) : Res :=
  match (s.core core).stopQ.find? fun x => x.id == i with
  | none => .next s
  | some x =>
    let lost : Bool := match x.from? with | some f => decide (f + 768 ≤ 2 * s.cycle) | none => false
    if x.kind = 0 ∧ ((x.vacated ∧ x.issued + 3 ≤ s.cycle) ∨ lost) then .next (s.ringVacated core x) else .next s

/-- PROCESSION_SLOT_POISON: the header and every table show the slot poisoned; its entries are performed as on a
vacated slot as they become eligible (R234, R252). -/
def execProcessionSlotPoison (slot : Nat) (s : State) : Res :=
  if slot > 767 then .next s
  else .next { s with ring := s.ring.put slot { s.ringSlot slot with poisoned := true }
                      ringTab := s.ringTab.put slot { s.ringTag slot with poisoned := true } }

/-- Cancel the entries of a troupe: they leave the queue unperformed (R251). -/
def State.ringCancel (s : State) (t : Troupe) : State :=
  (s.modCore t.core fun c => { c with stopQ := c.stopQ.filter fun x => x.uid != t.uid }).modTroupe t.key fun t =>
    { t with ops := t.ops.filter fun o => match o.kind with | .ring _ => false | _ => true }

/-- The first two steps of a change of OWNER (R249): every table shows the new owner, entries on the slot become
vacated, and the slot's arrival at stop 0 is awaited. -/
def State.ringRebind (s : State) (slot owner : Nat) (save : Bool) (notice : Nat) : State :=
  let g : RingTag := { s.ringTag slot with owner := owner, boarded := false }
  let s := { s with ringTab := s.ringTab.put slot g
                    ringMoves := s.ringMoves ++ [RingMove.mk slot owner save notice] }
  let f (x : RingOp) : RingOp := if x.kind != 0 && x.slot == slot then { x with vacated := true } else x
  let g (_ : Nat) (c : Core) : Core := { c with stopQ := c.stopQ.map f }
  { s with cores := s.cores.mapVals g }

/-- Every entry still pending on a slot, at any stop, is performed as on a vacated slot (R249 step 3). -/
def State.ringClear (s : State) (slot : Nat) : State :=
  s.cores.foldl (fun s c => (c.2.stopQ.filter fun x => x.kind != 0 && x.slot == slot).foldl
    (fun s x => s.ringVacated c.1 x) s) s

/-- A slot stands at stop 0 in one of the two steps of the current cycle (R232). -/
def State.atStopZero (s : State) (slot : Nat) : Bool :=
  slotAt 0 (2 * s.cycle) == slot || slotAt 0 (2 * s.cycle + 1) == slot

end Sys2Proof.Machine
end

