-- ==== Sys2Proof/Machine/Placer.lean ====
section
/-! DEFINITION. Issue arbitration, tokens and slack classes, the launch placer, and what follows the end of troupes and
launches: counter trees, events and result records (R72 to R98, R359, R444). -/

namespace Sys2Proof.Machine

/-! ## What the NX4 itself writes for a world (R444, R359) -/

/-- A write by the NX4 for a world, at a virtual address and its physical one. -/
def State.agentWrite (s : State) (w va pa : Nat) (bs : List Byte) (errand : Errand) : State :=
  if inModule pa then s.storeBytes pa bs
  else s.ask { Troupe.blank with world := w } 0 2 false [{ lane := 0, va := va, pa := pa, data := bs }] errand

/-- A record of the NX4's own that names no troupe; no rule gives its PC and its lanes (log 12). -/
def State.postOwn (s : State) (w cause access : Nat) (vaddr : W64) (launch : Option Nat) : State :=
  let (p, s) := s.freeNat
  let (l, s) := s.freeNat
  s.postPlain w cause access (w32 p) (BitVec.ofNat 128 l) vaddr launch

/-- Write words of a launch's result record; a write that fails leaves it, with one record (R444). Word 1 is not written
with the words around it, since `valid` may be at work on it (R359). -/
def State.writeResult (s : State) (n : Nat) (parts : List (Nat × List Byte)) : State :=
  let l := s.launch n
  if l.result = 0 then s
  else match s.feTranslate l.world l.result 64 true true false with
    | .error c => s.postOwn l.world c 2 (w64 l.result) (some n)
    | .ok pa =>
      let k := s.book.nextId
      parts.foldl (fun s x => s.agentWrite l.world l.result (pa + x.1) x.2 (.record n k)) s

/-- A write of a launch's result record is on its way to the host or a peer. -/
def State.recordPending (s : State) (n : Nat) : Bool :=
  s.ext.any fun x => match x.errand with | .record m _ => m == n | _ => false

/-- Add to a signal at a virtual address of a world, atomically and as a release (R97, R98, R444). -/
def State.addSignal (s : State) (w va : Nat) (x : W64) (launch : Option Nat) : State :=
  match s.feTranslate w va 8 true true false with
  | .error c => s.postOwn w c 3 (w64 va) launch
  | .ok pa =>
    if inModule pa then s.storeBytes pa (wordBytes (s.memWord pa + x))
    else s.ask { Troupe.blank with world := w } 0 17 false [{ lane := 0, va := va, pa := pa, x := x }] (.own 3 launch)

/-! ## Slack classes (R86, R87) -/

/-- A result of signed 64-bit arithmetic (R87). -/
def i64 (x : Int) : Int := (BitVec.ofInt 64 x).toInt

/-- The slack class of a deadline, a work estimate, the issue cycles used and the number of issue slots (R87, log 14).
-/
def slackClass (deadline work : W64) (used n alm : Nat) : Nat :=
  if deadline = 0 then 3
  else
    let remaining := max 0 (i64 (work.toInt - used))
    let time := -((-(i64 (remaining * 20))) / (21 * (max 1 n : Nat) : Int))
    let slack := i64 (deadline.toInt - alm - time)
    if slack < 0 then 0 else if slack < 100000 then 1 else if slack < 1000000 then 2 else 3

/-- The resident troupes of a launch. -/
def State.residents (s : State) (n : Nat) : List Troupe := (s.troupes.filter fun t => t.2.launch == n).map (·.2)

/-- The number of issue slots that hold a resident troupe of a launch (R87). -/
def State.issueSlotsOf (s : State) (n : Nat) : Nat :=
  (nub ((s.residents n).map fun t => 4 * t.core + t.tslot % 4)).length

/-- The slack class of a launch now. -/
def State.slackOf (s : State) (n : Nat) : Nat :=
  let l := s.launch n
  slackClass (l.word 7) (l.word 9) l.used (s.issueSlotsOf n) s.alm

/-- The slack class of an armed act now (R87). -/
def State.actSlack (s : State) (a : Act) : Nat := slackClass a.ad a.work a.used 1 s.alm

/-- Urgency: 0 in wrap-up, otherwise the slack class plus 1 (R89). -/
def State.urgency (s : State) (t : Troupe) : Nat := if t.wrap ≠ .no then 0 else s.classOf t + 1

/-- A placement opportunity falls due, unless one is due already or no launch waits (R79). -/
def State.opportunity (s : State) : State :=
  if s.book.due.contains .placementOpportunity || !s.launches.any (fun l => l.2.nextTid + l.2.removed < l.2.troupes) then s
  else s.raiseEvent .placementOpportunity

/-- A troupe that R27 kept from being ready before, and does no more, becomes ready now (R89). -/
def State.readmit (s before : State) : State :=
  let f (k : Nat) (t : Troupe) : Troupe :=
    match before.troupe k with
    | some o => if !before.coolFor o ∧ s.coolFor t then { t with ctl := { t.ctl with readyAt := max t.ctl.readyAt s.cycle } } else t
    | none => t
  { s with troupes := s.troupes.mapVals f }

/-- SLACK_RECOMPUTE: at each Almanac microsecond every class is computed anew (R87). -/
def execSlackRecompute (s : State) : Res :=
  let f (n : Nat) (l : Launch) : Launch := { l with slack := s.slackOf n }
  let g (_ : Nat) (t : Troupe) : Troupe := if t.act.armed then { t with act := { t.act with slack := s.actSlack t.act } } else t
  .next (({ s with launches := s.launches.mapVals f, troupes := s.troupes.mapVals g } : State).readmit s).opportunity

/-! ## Arbitration (R89 to R93) -/

/-- The world is live and not switched out on a core (R320, R349). -/
def State.runsOn (s : State) (w core : Nat) : Bool :=
  (s.world w).st == .live && !(s.world w).outCores.contains core

/-- The troupe is ready on its issue slot (R89, R27). -/
def State.ready (s : State) (t : Troupe) : Bool :=
  t.ctl.wait == .no && !t.ctl.halted && (!t.ctl.debug || t.ctl.stepReq.isSome) && !t.ctl.haltReq && !t.ctl.leaving && !t.ctl.exited &&
  !t.ctl.stopped && decide (t.ctl.readyAt ≤ s.cycle) && s.runsOn t.world t.core && s.coolFor t

/-- The troupes resident on an issue slot, by ascending troupe slot. -/
def State.onSlotOf (s : State) (core islot : Nat) : List Troupe :=
  (List.range 8).filterMap fun i => s.troupe (keyOf core (4 * i + islot))

/-- The balance of a world on a core (R90). -/
def State.balance (s : State) (w core : Nat) : Int := (s.world w).limits.balance.get core 0

/-- cand of R92: the ready troupes, those that have just yielded left out while another is ready (R120). -/
def State.cand (s : State) (core islot : Nat) : List Troupe :=
  let c := (s.onSlotOf core islot).filter s.ready
  let keen := c.filter fun t => !t.ctl.yielded
  if keen.isEmpty then c else keen

/-- The worlds from which R92 chooses, and whether the run is borrowed. -/
def State.pool (s : State) (core : Nat) (overdue : List Nat) (cand : List Troupe) : List Nat × Bool :=
  let ws := sortAsc (cand.map (·.world))
  let paid := ws.filter fun w => decide (0 < s.balance w core)
  if paid.isEmpty then (ws, true)
  else
    let late := paid.filter overdue.contains
    (if late.isEmpty then paid else late, false)

/-- The winner of an issue slot among cand (R92). -/
def State.winner (s : State) (last : Nat) (pool : List Nat) (cand : List Troupe) : Option Troupe :=
  let mine := cand.filter fun t => pool.contains t.world
  let u := mine.foldl (fun m t => min m (s.urgency t)) 5
  let tied := mine.filter fun t => s.urgency t == u
  match least (fun t => (t.world + 63 - last % 64) % 64) tied with
  | none => none
  | some f => least (fun t => t.ctl.readyAt) (tied.filter fun t => t.world == f.world)

/-- RUN_ARBITRATION: an issue slot that no troupe holds chooses one (R92). -/
def execRunArbitration (core islot : Nat) (s : State) : Res :=
  let sl := (s.core core).islots.get islot {}
  if sl.holder.isSome ∨ 4 ≤ islot then .next s
  else
    let cand := s.cand core islot
    let (pool, borrowed) := s.pool core sl.overdue cand
    match s.winner sl.last pool cand with
    | none => .next s
    | some t =>
      let sl := { sl with holder := some t.tslot, words := 0, last := t.world
                          overdue := sl.overdue.filter (· != t.world), won := sl.won.put t.world s.cycle }
      let s := s.modCore core fun c => { c with islots := c.islots.put islot sl }
      let s := (s.onSlotOf core islot).foldl (fun s x =>
        s.modTroupe x.key fun x => { x with ctl := { x.ctl with yielded := false } }) s
      let s := s.count t.world 3 core 1
      .next (if borrowed then s.count t.world 4 core 1 else s)

/-- A budget and balance refilled on every core that lists either (R90). -/
def Limits.refill (l : Limits) : Limits :=
  let b := l.nextBudget.foldl (fun t x => t.put x.1 x.2) l.budget
  let k := (b.keys ++ l.balance.keys).foldl (fun (t : Table Int) c =>
    t.put c (max 0 ((b.get c 0 : Nat) + min (l.balance.get c 0) 0))) []
  { l with budget := b, nextBudget := [], balance := k }

/-- The worlds that become overdue on an issue slot at a refill (R91). -/
def State.overdueOn (s : State) (core islot : Nat) (sl : Islot) : List Nat :=
  sortAsc (((s.onSlotOf core islot).filter fun t =>
    decide (0 < s.balance t.world core) && sl.holder != some t.tslot && s.ready t &&
    (match sl.won.find t.world with
     | none => true
     | some c => decide (c < min (s.cycle - 4096) t.ctl.readyAt))).map (·.world))

/-- TOKEN_REFILL: at the end of a period of 4,096 cycles (R90, R91). -/
def execTokenRefill (s : State) : Res :=
  if s.cycle % 4096 ≠ 0 then .next s
  else
    let f (_ : Nat) (w : World) : World := { w with limits := w.limits.refill }
    let s := { s with worlds := s.worlds.mapVals f }
    let cores := sortAsc (s.troupes.map fun t => t.2.core)
    .next (cores.foldl (fun s core => (List.range 4).foldl (fun s i =>
      let sl := (s.core core).islots.get i {}
      let late := s.overdueOn core i sl
      if late.isEmpty then s
      else s.modCore core fun c =>
        { c with islots := c.islots.put i { sl with overdue := sortAsc (sl.overdue ++ late) } }) s) s)

/-! ## Completion counters (R96 to R98, R359) -/

/-- The core nodes under a node. -/
def underNode (level node core : Nat) : Bool :=
  match level with
  | 0 => core == node
  | 1 => clusterOf core == node
  | 2 => dieOf core == node
  | _ => true

/-- The count of a core, cluster or die node (R96). -/
def Launch.nodeCount (l : Launch) (level node : Nat) : Nat :=
  ((l.coreCount.filter fun c => underNode level node c.1).map (·.2)).foldl (· + ·) 0

/-- Every troupe has been placed or removed (R96). -/
def Launch.allPlaced (l : Launch) : Bool := l.troupes ≤ l.nextTid + l.removed

/-- A node fires, once: its events are to be posted (R96, R98). -/
def State.fireNode (s : State) (n level node : Nat) : State :=
  let l := s.launch n
  if l.fired.contains (level, node) then s
  else
    let s := s.modLaunch n fun l => { l with fired := l.fired ++ [(level, node)], toPost := l.toPost ++ [(level, node)] }
    s.raiseEvent (.nodeEventPost n (256 * level + node))

/-- STATUS of a complete launch (R359). -/
def Launch.status (l : Launch) : Nat :=
  if l.faulted then 5 else if l.dogged then 4 else if l.stopped ≠ 0 then 3 else if l.reachedV then 2 else 1

/-- A packet has one launch fewer to wait for (R396). -/
def State.launchGone (s : State) (packet : Option (Nat × Nat)) (n : Nat) : State :=
  match packet with
  | none => s
  | some (q, id) =>
    (s.modPacket q id fun p => { p with launches := p.launches.filter (· != n) }).raisePacket .packetCompletion q id

/-- The launch is complete: the launch node fires once the record stands (R96, R97). -/
def State.endLaunch (s : State) (n : Nat) : State :=
  let l := s.launch n
  if !l.written ∨ l.fired.contains (3, 0) ∨ s.recordPending n then s
  else
    let s := s.modWorld l.world fun w => { w with runtime := if w.runtime = some n then none else w.runtime }
    (s.launchGone l.packet n).fireNode n 3 0

/-- The launch node's count has reached zero: the record is written, and its events follow (R96, R97, R359). -/
def State.completeLaunch (s : State) (n : Nat) : State :=
  let l := s.launch n
  if l.alive ≠ 0 ∨ l.written then s
  else
    let s := s.modLaunch n fun l => { l with written := true }
    (s.writeResult n [(0, wordBytes (w64 l.status)), (16, wordBytes (w64 s.alm) ++ wordBytes (w64 l.retired))]).endLaunch n

/-- Fire those of some nodes whose count is zero, once every troupe is placed or removed (R96). -/
def State.fireZero (s : State) (n : Nat) (nodes : List (Nat × Nat)) : State :=
  if !(s.launch n).allPlaced then s
  else nodes.foldl (fun s x => if (s.launch n).nodeCount x.1 x.2 = 0 then s.fireNode n x.1 x.2 else s) s

/-- The last troupe is placed or removed: every node that has held a troupe and whose count is zero fires (R96). -/
def State.fireAll (s : State) (n : Nat) : State :=
  let cs := (s.launch n).coreCount.keys
  s.fireZero n (cs.map (fun c => (0, c)) ++ (nub (cs.map clusterOf)).map (fun c => (1, c)) ++
    (nub (cs.map dieOf)).map (fun c => (2, c)))

/-- A troupe counted at a core node retires (R96). -/
def State.retireCount (s : State) (n core : Nat) : State :=
  let s := s.modLaunch n fun l =>
    { l with alive := l.alive - 1, coreCount := l.coreCount.put core (l.coreCount.get core 0 - 1) }
  (s.fireZero n [(0, core), (1, clusterOf core), (2, dieOf core)]).completeLaunch n

/-- The troupes of a launch that are not placed never are: the launch node counts them as retired (R88). -/
def State.removeUnplaced (s : State) (n : Nat) : State :=
  let l := s.launch n
  let k := l.troupes - l.nextTid - l.removed
  if k = 0 then s
  else
    let s := s.modLaunch n fun l => { l with removed := l.removed + k, alive := l.alive - k }
    (s.fireAll n).completeLaunch n

/-- NODE_EVENT_POST: the mailbox entry, the signal decrement and the interrupt that EVENTS selects for the node
`i` = 256 × level + node (R97, R98). A launch whose events are all posted gives its number up (R77). -/
def execNodeEventPost (launch i : Nat) (s : State) : Res :=
  let l := s.launch launch
  let level := i / 256
  let node := i % 256
  if !l.toPost.contains (level, node) then .next s
  else
    let sel (b : Nat) : Bool := l.events / 2 ^ (3 * level + b) % 2 == 1
    let m := fld (l.word 13) 25 16
    let s := s.modLaunch launch fun l => { l with toPost := l.toPost.filter (· != (level, node)) }
    let s :=
      if !sel 0 then s
      else if (s.mailbox m).owner = l.world then
        s.mbxPut m [w64 (3 + level * 2 ^ 8 + l.world * 2 ^ 16 + launch * 2 ^ 32), w64 node, w64 s.alm, 0, 0, 0, 0, 0]
      else if l.mbxFailed then s
      else
        let (v, s) := s.freeNat
        (s.modLaunch launch fun l => { l with mbxFailed := true }).postOwn l.world 4 6 (w64 v) (some launch)
    let s := if sel 1 ∧ l.signal ≠ 0 then s.addSignal l.world l.signal ones64 (some launch) else s
    let s := if sel 2 then s.irq l.world 0 else s
    let l := s.launch launch
    .next (if l.alive = 0 ∧ l.toPost.isEmpty ∧ l.fired.contains (3, 0) then
      { s with launches := s.launches.del launch }
      else s)

/-- TROUPE_RETIREMENT: a troupe that issues nothing further and whose operations are performed leaves its ensembles,
its slot and its blocks, and is counted (R73, R96, R118, R358). -/
def execTroupeRetirement (core tslot : Nat) (s : State) : Res :=
  match s.troupe (keyOf core tslot) with
  | none => .next s
  | some t =>
    if ¬ (t.ctl.exited ∨ t.ctl.stopped) ∨ s.outstanding t then .next s
    else
      let s := t.ctl.ens.foldl (fun s e => s.leaveEns t.uid e) s
      let s := s.dropHold core tslot
      let s := { s with troupes := s.troupes.del t.key }
      let s := s.modLaunch t.launch fun l =>
        { l with retired := if t.ctl.stopped then l.retired else l.retired + 1
                 faulted := l.faulted || t.ctl.resumeRetired }
      .next (s.retireCount t.launch core).opportunity

/-! ## Placement (R79 to R83) -/

/-- Register blocks of a core that troupes use. -/
def State.usedBlocks (s : State) (core : Nat) : List Nat :=
  (s.troupes.filter fun t => t.2.core == core).flatMap fun t => t.2.blocks

/-- Register blocks of a world on a core that no troupe uses, ascending. -/
def State.freeBlocks (s : State) (w core : Nat) : List Nat :=
  let used := s.usedBlocks core
  (List.range 128).filter fun b => (s.core core).blockOwner.get b 0 == w && !used.contains b

/-- Troupe slots of a world on a core that no troupe occupies, ascending. -/
def State.freeSlots (s : State) (w core : Nat) : List Nat :=
  (List.range 32).filter fun i => (s.core core).tslotOwner.get i 0 == w && (s.troupe (keyOf core i)).isNone

/-- A core has a slot and blocks for a troupe of the launch. -/
def State.canTake (s : State) (l : Launch) (core : Nat) : Bool :=
  core < 192 && l.mayUse core && !(s.world l.world).outCores.contains core && !(s.freeSlots l.world core).isEmpty && l.blocks ≤ (s.freeBlocks l.world core).length

/-- The cluster has taken a troupe within the last 4 cycles (R82). -/
def State.placedLately (s : State) (cluster : Nat) : Bool :=
  match (s.cluster cluster).lastPlace with | some c => s.cycle < c + 4 | none => false

/-- The core that takes the next troupe of a launch (R80, R82). -/
def State.chooseCore (s : State) (n : Nat) (l : Launch) : Option Nat :=
  if fld (l.word 1) 37 36 = 2 then
    let c := l.table.getD l.nextTid 255
    if s.canTake l c && !s.placedLately (clusterOf c) then some c else none
  else
    let cs := (List.range 192).filter (s.canTake l)
    let heat := cs.foldl (fun m c => min m (s.cluster (clusterOf c)).heatState) 4
    let cs := cs.filter fun c => (s.cluster (clusterOf c)).heatState == heat && !s.placedLately (clusterOf c)
    let here (c : Nat) : Nat := ((s.residents n).filter fun t => t.core == c).length
    if fld (l.word 1) 37 36 = 1 then least (fun c => 32 - here c) cs else least here cs

/-- The troupe slot on a core: its issue slot holds the fewest troupes of any world (R81). -/
def State.chooseSlot (s : State) (w core : Nat) : Option Nat :=
  least (fun i => (s.onSlotOf core (i % 4)).length) (s.freeSlots w core)

/-- The lanes of a troupe of a launch (R72). -/
def liveLanes (threads tid : Nat) : Mask := maskOf fun l => decide (128 * tid + l < threads)

/-- Place the next troupe of a launch on a core, at the module floor sampled at acceptance (R81 to R83, R96, R205). -/
def State.placeOn (s : State) (n core : Nat) : State :=
  let l := s.launch n
  match s.chooseSlot l.world core with
  | none => s
  | some slot =>
    let uid := s.book.nextUid
    let s := s.modBook fun b => { b with nextUid := b.nextUid + 1 }
    let lanes := liveLanes l.threads l.nextTid
    let t : Troupe :=
      { Troupe.blank with
        uid := uid, world := l.world, launch := n, tid := l.nextTid, core := core, tslot := slot
        blocks := (s.freeBlocks l.world core).take l.blocks
        exec := lanes, live := lanes, pc := w32 (fld (l.word 1) 31 0), pts := l.floor
        ctl := { readyAt := s.cycle + 32, debug := l.debug } }
    let s := s.putTroupe (t.setS 0 (l.word 10))
    let s := s.modCluster (clusterOf core) fun c => { c with lastPlace := some s.cycle }
    let s := s.modLaunch n fun l =>
      { l with nextTid := l.nextTid + 1, codeMem := if l.nextTid = 0 then s.mem else l.codeMem, coreCount := l.coreCount.put core (l.coreCount.get core 0 + 1) }
    if (s.launch n).allPlaced then s.fireAll n else s

/-- Place troupes of a launch in ascending number while a core can take the next, once its record is written to zero
(R79, R359). -/
def State.placeLaunch (s : State) (n : Nat) : Nat → State
  | 0 => s
  | k + 1 =>
    let l := s.launch n
    if l.allPlaced ∨ s.recordPending n then s
    else match s.chooseCore n l with
      | none => s
      | some c => (s.placeOn n c).placeLaunch n k

/-- Launch numbers in the order in which the placer considers them (R79). A runtime launch goes as class 0, the class of
its troupes, although its own D = 0 gives it class 3 (R87; log 68). -/
def State.placeOrder (s : State) : List Nat :=
  let key (x : Nat × Launch) : Nat × Nat := ((if (s.world x.2.world).runtime = some x.1 then 0 else x.2.slack), x.2.order)
  let before (a b : Nat × Nat) : Bool := a.1 < b.1 || (a.1 == b.1 && a.2 ≤ b.2)
  let rec ins (x : Nat × Launch) : List (Nat × Launch) → List (Nat × Launch)
    | [] => [x]
    | y :: t => if before (key x) (key y) then x :: y :: t else y :: ins x t
  (s.launches.foldl (fun l x => ins x l) []).map (·.1)

/-- PLACEMENT_OPPORTUNITY (R79): at most one troupe per cluster is placed (R82). -/
def execPlacementOpportunity (s : State) : Res := .next (s.placeOrder.foldl (fun s n => s.placeLaunch n 25) s)

/-! ## Acceptance (R74 to R78, R444) -/

/-- A descriptor as a launch, before it is accepted. -/
def describe (w : Nat) (d : List W64) : Launch := { Launch.blank with world := w, desc := d }

/-- The zero fields and ranges of R75. -/
def Launch.illFormed (l : Launch) (hasRuntime : Bool) : Bool :=
  let w := l.word
  let place := fld (w 1) 37 36
  fld (w 0) 11 0 ≠ 0 || fld (w 0) 63 56 ≠ 0 || fld (w 1) 63 41 ≠ 0 || fld (w 2) 63 32 ≠ 0 ||
  fld (w 13) 15 12 ≠ 0 || fld (w 13) 63 26 ≠ 0 || w 14 ≠ 0 || w 15 ≠ 0 ||
  l.blocks = 0 || 8 < l.blocks || place = 3 || l.threads = 0 ||
  (l.standing != decide (l.deadline = 0)) || (l.deadline = 0 && l.budget ≠ 0) ||
  (bit (w 1) 39 && (!l.standing || 128 < l.threads || hasRuntime)) ||
  (place = 2 && 6144 < l.troupes) || (place ≠ 2 && w 6 ≠ 0) || l.result % 64 ≠ 0 || l.signal % 8 ≠ 0

/-- The agent number under which the placer asks peers whether they admit it to a record and a signal. -/
def placeKey (packet : Option (Nat × Nat)) : Nat := 2 ^ 62 + placerKey packet

/-- The record and the signal of a launch as far as they lie at a peer, which is to be asked (R187, R444). -/
def State.peerPlaces (s : State) (l : Launch) : List LaneOp :=
  [(l.result, 64), (l.signal, 8)].filterMap fun (va, n) =>
    if va = 0 ∨ va % n ≠ 0 then none
    else match s.feTranslate l.world va n true true false with
      | .error _ => none
      | .ok pa => match regionOf pa with | .peer _ => some { lane := 0, va := va, pa := pa, x := w64 n } | _ => none

/-- Ask the peers about the record and the signal (log 64): whether they have answered. One whose binding is moving is
asked again (R172). -/
def State.askPlaces (s : State) (l : Launch) (packet : Option (Nat × Nat)) : State × Bool :=
  let key := agentOp (placeKey packet)
  let os := s.peerPlaces l
  let keep := s.ext.filter fun x => x.opId == key && x.reply != some .retry
  let fresh := os.filter fun o => !keep.any fun x => x.pa == o.pa
  if os.isEmpty then (s, true)
  else if fresh.isEmpty then (s, keep.all fun x => x.reply.isSome)
  else
    let s := { s with ext := s.ext.filter fun x => x.opId != key || keep.contains x }
    (s.ask { Troupe.blank with world := l.world } key 5 true fresh .query, false)

/-- The cause for which R444 refuses an aligned place of n bytes that the NX4 will read and write; none for address 0.
-/
def State.placeCause (s : State) (w va n : Nat) : Option Nat :=
  if va = 0 ∨ va % n ≠ 0 then none
  else match s.feTranslate w va n true true false with
    | .error c => some c
    | .ok pa =>
      if s.ext.any fun x => x.errand == .query && x.uid == 0 && x.pa == pa && x.reply == some .refused then some 4 else none

/-- The causes for which a descriptor is rejected (R75, R444). -/
def State.launchCauses (s : State) (l : Launch) (table : List (Except Nat Nat)) : List Nat :=
  let w := l.world
  (if l.illFormed (s.world w).runtime.isSome then [9] else []) ++
  (if (List.range 192).any fun c => l.mayUse c && (List.range 32).any fun i => (s.core c).tslotOwner.get i 0 == w
    then [] else [4]) ++
  table.filterMap (fun x => match x with
    | .error c => some c
    | .ok c => if 191 < c ∨ !l.mayUse c then some 9 else none) ++
  (s.placeCause w l.result 64).toList ++ (s.placeCause w l.signal 8).toList

/-- A descriptor may have a table (R75). -/
def Launch.hasTable (l : Launch) : Bool := fld (l.word 1) 37 36 == 2 && decide (l.troupes ≤ 6144)

/-- The placer reads a placement table, at the host or a peer as it is answered: nothing yet, or its bytes and the
causes of the steps that failed (R75, R76, R444). -/
def State.readTable (s : State) (l : Launch) (packet : Option (Nat × Nat)) : State × Option (List (Except Nat Nat)) :=
  if !l.hasTable then (s, some [])
  else
    let va := (l.word 6).toNat
    let bad := (pageParts va l.troupes 20).filterMap fun p =>
      match s.feTranslate l.world p.1 p.2 true false false with | .error c => some (.error c) | .ok _ => none
    if !bad.isEmpty then (s, some bad)
    else match s.feRead (placerKey packet) l.world va l.troupes false with
      | (s, none) => (s, none)
      | (s, some (.error (_, c))) => (s, some [.error c])
      | (s, some (.ok bs)) => (s, some (bs.map fun b => .ok b.toNat))

/-- What acceptance needs of the host and of peers is there: the table, or nothing yet (R75, R444). -/
def State.readyLaunch (s : State) (l : Launch) (packet : Option (Nat × Nat)) : State × Option (List (Except Nat Nat)) :=
  match s.askPlaces l packet with
  | (s, false) => (s, none)
  | (s, true) => s.readTable l packet

/-- The packet that presented a launch learns its number, or the cause of its rejection; a prologue that asked for it
runs again after an acceptance, 4,096 launches at most (R404, R406). -/
def State.tellPacket (s : State) (packet : Option (Nat × Nat)) (r : Except Nat Nat) : State :=
  match packet with
  | none => s
  | some (q, id) =>
    let f (p : Packet) : Packet :=
      match r with
      | .ok n => { p with presented := false, made := p.made + 1, launches := p.launches ++ [n] }
      | .error c => { p with presented := false, failed := some c }
    let again := (s.queue q).started.any fun p => p.id == id && p.again && p.made < 4095
    let s := s.modPacket q id f
    match r with
    | .ok _ => s.raisePacket (if again then .prologueRepeat else .packetCompletion) q id
    | .error _ => s.raisePacket .packetCompletion q id

/-- A rejected launch: one record, the signal at −1 and status 5, where their own checks passed (R75, R444, log 12). -/
def State.rejectLaunch (s : State) (l : Launch) (cause : Nat) (packet : Option (Nat × Nat)) : State :=
  let (v, s) := s.freeNat
  let s := s.postOwn l.world cause 0 (w64 v) none
  let write (s : State) (va n : Nat) (x : W64) : State :=
    if va = 0 ∨ va % n ≠ 0 ∨ (s.placeCause l.world va n).isSome then s
    else match s.feTranslate l.world va n true true false with
      | .error _ => s
      | .ok pa => s.agentWrite l.world va pa (wordBytes x) .plain
  (write (write s l.signal 8 ones64) l.result 64 5).tellPacket packet (.error cause)

/-- A launch reaches its divert time: its record says so, and troupes not yet placed never are; one that is complete,
its record on its way, is past it (R88, R359). -/
def State.reachV (s : State) (n : Nat) : State :=
  let s := s.modLaunch n fun l => { l with reachedV := true }
  if (s.launch n).written then s else
  (s.writeResult n [(32, wordBytes (w64 (s.launch n).divertTime))]).removeUnplaced n

/-- The number the placer gives: some free one (R77). -/
def State.freeLaunch (s : State) : Option Nat × State :=
  let (k, s) := s.freeNat
  ((findBelow 4096 fun i => (s.launches.find ((k + i) % 4096)).isNone).map fun i => (k + i) % 4096, s)

/-- Accept a launch whose descriptor passed, and sample the module floor (R75 to R78, R87, R205, R359). Its class
alone is computed anew, those of the other launches at the next microsecond (DESIGN CHOICE, log 86). -/
def State.acceptLaunch (s : State) (l : Launch) (table : List (Except Nat Nat)) (packet : Option (Nat × Nat)) : State :=
  match s.freeLaunch with
  | (none, s) => s
  | (some n, s) =>
    let order := s.book.nextOrder
    let s := s.modBook fun b => { b with nextOrder := b.nextOrder + 1 }
    let l : Launch := { l with order := order, alive := l.troupes, packet := packet, floor := s.maxTs
                               table := table.map fun x => match x with | .ok c => c | .error _ => 255
                               slack := slackClass (l.word 7) (l.word 9) 0 1 s.alm }
    let s := { s with launches := s.launches.put n l }
    let s := if bit (l.word 1) 39 then s.modWorld l.world fun w => { w with runtime := some n } else s
    let s := (s.writeResult n [(0, List.replicate 64 0)]).tellPacket packet (.ok n)
    if l.deadline ≠ 0 ∧ l.divertTime ≤ s.alm then s.reachV n else s.opportunity

/-- The placer may take a launch of the world up: it has room, and the world is not Halted (R77, R321). -/
def State.placerOpen (s : State) (w : Nat) : Bool := s.launches.length < 4096 && (s.world w).st != .halted

/-- LAUNCH_ACCEPTANCE: the placer takes up a presented launch and accepts or rejects it; while it may not, or its table
is being read, or peers are asked, the launch waits (R75 to R77, R321, R444). -/
def execLaunchAcceptance (i : Nat) (s : State) : Res :=
  match s.presented[i]? with
  | none => .next s
  | some p =>
    if !s.placerOpen p.world then .next s
    else
      let l := describe p.world p.desc
      match s.readyLaunch l p.packet with
      | (s, none) => .next s
      | (s, some table) =>
        let s := { s with presented := s.presented.take i ++ s.presented.drop (i + 1) }
        match least id (s.launchCauses l table) with
        | some c => .next ((s.rejectLaunch l c p.packet).dropQuestions (placeKey p.packet))
        | none => .next ((s.acceptLaunch l table p.packet).dropQuestions (placeKey p.packet))

end Sys2Proof.Machine
end

