-- ==== Sys2Proof/Machine/Deadlines.lean ====
section
/-! DEFINITION. Deadlines, acts, the commit of results, traps, fault records read back, the watchdog and the user timer
(R354 to R373). -/

namespace Sys2Proof.Machine

/-! ## Acts and the commit (R360 to R365) -/

/-- The precise fault of a deadline instruction; no rule gives its virtual-address field (R362, log 12). -/
def State.deadlineFault (s : State) : Res :=
  let (n, s) := s.freeNat
  s.faultAll 3 9 (w64 n)

/-- `wraparm` (R363). -/
def execWraparm (e : Bool) (a : Pair) (b : SSrc) (s : State) : Res :=
  let t := s.src
  let ad := t.sreg (2 * a.val)
  if !(s.launch t.launch).standing || t.wrap == .act then s.deadlineFault
  else if ad = 0 then s.done { s.me with act := { s.me.act with armed := false } } (slen b) e
  else
    let act : Act := { armed := true, ad := ad, aw := t.sreg (2 * a.val + 1), work := sval b t }
    s.done { s.me with act := { act with slack := s.actSlack act } } (slen b) e

/-- `wrapdone` (R364). -/
def execWrapdone (_e : Bool) (b : SSrc) (s : State) : Res :=
  let t := s.me
  if t.wrap = .act ∨ t.act.armed then
    .next ((s.setMe { t with act := { t.act with armed := false }, wrap := .no }).jump ((sval b s.src).setWidth 32))
  else s.deadlineFault

/-- `valid`: after a fence of system scope, word 1 of the record is ORed with the mask: by a service troupe in module
memory, by the peer as one request, and at the host by a read and CompareAndSwaps, whose outcome the instruction waits
for. It is complete when the OR is accepted, and the troupe's later accesses are not ordered after it (R365). -/
def execValid (e : Bool) (a : Reg) (b : SSrc) (s : State) : Res :=
  let t := s.src
  let x := t.sreg a.val
  let rec_ := if x = 0 then (s.launch t.launch).word 11 else x
  let va := rec_ + 8
  let n : Need := { bytes := 8, r := true, w := true, watchR := false, watchW := false, access := 3 }
  let send (sync : Bool) (ok : List LaneOp) (s : State) : State :=
    let (id, s) := s.freshId
    s.sendRequests t.fenced (fun q => { q with opId := id, sync := sync, commit := true })
      (s.splitRequests (clusterOf t.core) ok)
  let go (s : State) : Res := .next ((s.setMe s.me.replayed.fenced).advance (slen b) e)
  if rec_ = 0 then s.deadlineFault
  else if va.toNat < 2 ^ 56 ∧ rec_.toNat % 64 ≠ 0 then s.faultAll 5 3 va
  else if s.hostPending t then s.stall
  else if !(s.hostAnswers t).isEmpty then
    let xs := s.hostAnswers t
    let s := s.dropAnswers xs
    if xs.any fun x => x.reply == some Reply.refused then s.faultAll 3 3 va else go s
  else
    s.access n true [(0, va)] (fun o => { o with x := sval b t })
      (fun ok go s =>
        if ok.isEmpty then go s
        else if s.covered t .system || s.fenceChanging then s.stall
        else s.queueGate t true ok fun s => if ok.any LaneOp.atHost then (send true ok s).awaitHost else go s)
      (fun ok s => go (send false ok s)) (fun _ s => s)

/-! ## Traps and fault records (R366 to R371) -/

/-- `trap`: cause 0x0E (R370). -/
def execTrap (_e : Bool) (b : SSrc) (s : State) : Res := s.faultAll 0x0E 0 (sval b s.src)

/-- The troupe of a world at a locator (R345, R370). -/
def State.atLocator (s : State) (w : Nat) (x : W64) : Option Troupe :=
  if 2 ^ 13 ≤ x.toNat ∨ 192 ≤ fld x 7 0 then none
  else match s.troupe (keyOf (fld x 7 0) (fld x 12 8)) with
    | some t => if t.world = w then some t else none
    | none => none

/-- `faultrd` (R370). -/
def execFaultrd (e : Bool) (d : Oct) (a : Reg) (s : State) : Res :=
  let x := s.src.sreg a.val
  let t := if x = ones64 then some s.src else s.atLocator s.src.world x
  let r := match t with | some t => if t.ctl.record.isEmpty then List.replicate 8 0 else t.ctl.record
                        | none => List.replicate 8 0
  s.done (s.me.setSs (8 * d.val) r) 1 e

/-- `fstat` (R371). -/
def execFstat (e : Bool) (g : Guard) (d : Reg) (s : State) : Res :=
  let m := s.src.exec &&& guardMask g s.src
  let k := s.src.sticky
  let old := s.me.vreg d.val
  s.done (s.me.setV d.val (Lanes.ofFn fun l => if inMask m l then w32 (k.lane l) else old.lane l)) 1 e

/-! ## Diverts and stops (R356 to R358) -/

/-- The troupe holds its issue slot (R84). -/
def State.holding (s : State) (t : Troupe) : Bool := ((s.core t.core).islots.get (t.tslot % 4) {}).holder == some t.tslot

/-- A divert takes effect at once on a troupe that is ready between runs, or waits in `bar.wait` or `mwait`; on another
when its state lets it (R356). -/
def State.divertsNow (s : State) (t : Troupe) : Bool :=
  (match t.ctl.wait with
   | .no => !s.holding t
   | .bar _ _ _ _ | .batch _ _ => true
   | _ => false) && !t.ctl.halted && !t.ctl.debug

/-- A divert whose time has come (R356). -/
def State.applyDivert (s : State) (t : Troupe) (cause : Nat) : State :=
  if s.divertsNow t then s.divertNow t.key t cause
  else if cause = 1 then s.putTroupe { t with ctl := { t.ctl with divert := true } } else s

/-- The troupes of a launch to which its divert time is still to be applied: not stopped, not in wrap-up, on a core
whose copy of the Almanac has reached it. -/
def State.toDivert (s : State) (n : Nat) : List Troupe :=
  let l := s.launch n
  if l.deadline = 0 ∨ l.divertTime = l.deadline then []
  else (s.residents n).filter fun t =>
    decide (l.divertTime ≤ s.almOf t.core) && decide (s.almOf t.core < l.deadline) && !t.ctl.exited && !t.ctl.stopped &&
    (!t.ctl.divert || s.divertsNow t) && t.wrap != .launch

/-- LAUNCH_DIVERT (R88, R356, R359). -/
def execLaunchDivert (launch : Nat) (s : State) : Res :=
  let l := s.launch launch
  let s := if l.deadline ≠ 0 ∧ l.reachedV = false ∧ l.divertTime ≤ s.alm then s.reachV launch else s
  .next ((s.toDivert launch).foldl (fun s t => s.applyDivert t 1) s)

/-- ACT_DIVERT (R360). -/
def execActDivert (core tslot : Nat) (s : State) : Res :=
  match s.troupe (keyOf core tslot) with
  | none => .next s
  | some t =>
    if t.act.armed ∧ t.wrap = .no ∧ t.act.divertTime ≤ s.almOf core ∧ t.ctl.exited = false ∧ t.ctl.stopped = false then
      .next (s.applyDivert t 2)
    else .next s

/-- The matrix entries of a troupe that have not started are cancelled. They complete no batch: its count of them stays
(R317). -/
def State.mqCancel (s : State) (t : Troupe) : State :=
  s.modCore t.core fun c => { c with mq := c.mq.filter fun m => m.uid != t.uid }

/-- Copies of a troupe that have not started are cancelled (R272). -/
def State.dropCopies (s : State) (uid : Nat) : State :=
  { s with copies := s.copies.filter fun c => !(c.uid == uid && c.queue.isNone && !c.started) }

/-- What an instruction that never issues has asked of the outside is dropped: questions of admission, and AtomicOps
whose outcome it waited for (R199, R358). -/
def State.dropAsked (s : State) (uid : Nat) : State :=
  { s with ext := s.ext.filter fun x => !(x.uid == uid && x.sync && !s.ofCopy x)
           clusters := s.clusters.mapVals fun _ c => { c with reqQ := c.reqQ.filter fun r => !(r.uid == uid && r.sync) } }

/-- A troupe is stopped (R358): nothing further issues; entries, copies and matrix instructions that have not started
are cancelled; what it issued is performed, and then it retires. -/
def State.stopTroupe (s : State) (t : Troupe) : State :=
  let s := (((s.leaveMisses t).dropAsked t.uid).dropCopies t.uid).ringCancel t
  let s := (s.mqCancel t).dropHold t.core t.tslot
  let s := s.modTroupe t.key fun t =>
    { t with ctl := { t.ctl with stopped := true, wait := .no, halted := false, debug := false, divert := false
                                 stalled := false, head := none, since := none } }
  (s.modLaunch t.launch fun l => { l with stopped := l.stopped + 1 }).tryRetire t.key

/-- Operations of a troupe that is away are not yet performed (R73). -/
def State.awayBusy (s : State) (a : Away) : Bool :=
  s.copies.any (fun c => c.uid == a.uid && c.queue.isNone) || s.ext.any (fun x => x.uid == a.uid) ||
  s.clusters.any (fun c => c.2.reqQ.any fun r => r.uid == a.uid) || s.held.any fun h => h.uid == a.uid && h.copy.isNone

/-- Troupes that were stopped while away leave their ensembles and count as retired, once what they had issued is
performed (R73, R118, R358). -/
def State.retireAways (s : State) : State :=
  (s.away.filter fun a => a.stopped && !s.awayBusy a).foldl (fun s a =>
    let s := ((s.ens.filter fun e => e.2.members.contains a.uid).map (·.1)).foldl (fun s e => s.leaveEns a.uid e) s
    ({ s with away := s.away.filter fun x => x.uid != a.uid }).retireCount a.launch a.core) s

/-- A troupe that is away is stopped where it is, and its image is freed (R347, R358). -/
def State.stopAway (s : State) (a : Away) : State :=
  let s := s.dropCopies a.uid
  let s := { s with away := s.away.map fun (x : Away) => if x.uid == a.uid then { x with stopped := true, image := none } else x }
  s.modLaunch a.launch fun l => { l with stopped := l.stopped + 1 }

/-- Stop every troupe of a launch that has not retired and for which `sel` holds on its core, those that are away among
them. -/
def State.stopLaunch (s : State) (n : Nat) (sel : Nat → Bool) : State :=
  let ts := (s.residents n).filter fun t => !t.ctl.stopped && sel t.core
  let s := ts.foldl (fun s t => s.stopTroupe t) s
  ((s.away.filter fun a => a.launch == n && !a.stopped && sel a.core).foldl (fun s a => s.stopAway a) s).retireAways

/-- The core's copy of the Almanac that is furthest ahead (R354). -/
def State.almMost (s : State) : Nat := s.cores.foldl (fun m c => max m (s.alm + c.2.almSkew)) s.alm

/-- DEADLINE_STOP: on each core whose copy of the Almanac has reached D (R358); the record follows when every core has
stopped its troupes. A launch that the watchdog has ended has none left to stop (R372). -/
def execDeadlineStop (launch : Nat) (s : State) : Res :=
  let l := s.launch launch
  if l.deadline = 0 ∨ l.reachedD ∨ s.almMost < l.deadline then .next s
  else
    let s := if l.reachedV then s else s.reachV launch
    let s := s.stopLaunch launch fun c => decide (l.deadline ≤ s.almOf c)
    let left := (s.residents launch).any (fun t => !t.ctl.stopped) || s.away.any fun a => a.launch == launch && !a.stopped
    if left then .next s
    else
      let k := if l.dogged then 0 else (s.launch launch).stopped
      let s := s.modLaunch launch fun l => { l with reachedD := true }
      .next (if k = 0 then s else s.postOwn l.world 0x12 0 (w64 k) (some launch))

/-! ## The watchdog (R372) -/

/-- The troupe has waited in `bar.wait` on an object of its core alone for `tw` ms. -/
def State.stuck (s : State) (tw : Nat) (t : Troupe) : Bool :=
  match t.ctl.wait with
  | .bar a _ since _ =>
    !t.ctl.debug && !t.ctl.halted && !((s.core t.core).bar a).external && decide (since + tw * 1000000 ≤ s.almOf t.core)
  | _ => false

/-- A launch that the watchdog ends (R372). -/
def State.deadlocked (s : State) (n : Nat) (l : Launch) : Bool :=
  let tw := (s.world l.world).limits.tw
  let ts := s.residents n
  tw != 0 && l.nextTid == l.troupes && !ts.isEmpty && ts.all (s.stuck tw) && !s.away.any fun a => a.launch == n

/-- The Almanac one cycle ago (R7, R355). -/
def State.almBefore (s : State) : Nat :=
  let step := (20 * (1000000 + s.ppm)).toNat
  s.alm - ((s.almFrac + 21000000 * step - step) % 21000000 + step) / 21000000

/-- WATCHDOG: at an Almanac millisecond, every deadlocked launch is ended (R372). -/
def execWatchdog (s : State) : Res :=
  if s.alm / 1000000 = s.almBefore / 1000000 then .next s
  else .next ((s.launches.filter fun l => s.deadlocked l.1 l.2).foldl (fun s l =>
    let k := (s.residents l.1).length
    let s := s.modLaunch l.1 fun l => { l with dogged := true }
    (s.stopLaunch l.1 fun _ => true).postOwn l.2.world 0x16 0 (w64 k) (some l.1)) s)

/-! ## The user timer (R373) -/

/-- TIMER_TRAP: a due timer of a troupe that is ready, or has just ended its run. The lanes and the virtual address of
a record with cause 0x11 are stated by no rule (log 12). -/
def execTimerTrap (core tslot : Nat) (s : State) : Res :=
  match s.troupe (keyOf core tslot) with
  | none => .next s
  | some t =>
    let free := t.ctl.wait == .no && !t.ctl.halted && !t.ctl.debug && !t.ctl.leaving && !t.ctl.exited && !t.ctl.stopped &&
      !t.ctl.divert && !s.holding t && (s.ready t || t.ctl.readyAt == s.cycle)
    if t.sp.timer = 0 ∨ s.cycle < t.sp.timer.toNat ∨ free = false then .next s
    else if t.handler then
      let (n, s) := s.freeNat
      let (m, s) := s.freeNat
      let t := { t with sp := { t.sp with timer := 0 } }
      .next (s.postFor t (s.recordOf t 0x11 0 false t.pc (BitVec.ofNat 128 m) (w64 n)))
    else
      .next (s.putTroupe { t with
        pc := t.sp.timerent, handler := true, sp := { t.sp with trappc := t.pc, timer := 0 } })

end Sys2Proof.Machine
end

