-- ==== Sys2Proof/Machine/Matrix.lean ====
section
/-! DEFINITION. The matrix array: operand slots, accumulators, formats, the summation rule, the matrix queue, batches
and the class 3 instructions that drive it (R286 to R319). -/

namespace Sys2Proof.Machine

/-! ## Element values (R290 to R293, R297) -/

/-- An operand element: signed significand and exponent, or none for a NaN or an infinity. -/
abbrev Elem := Option (Int × Int)

/-- The NQ4 codebook, in units of 2^-10 (R290). -/
def codebook : List Int :=
  [-1024, -724, -556, -428, -320, -222, -130, -43, 43, 130, 222, 320, 428, 556, 724, 1024]

/-- A floating value as an element. -/
def Fp.elem : Fp → Elem
  | .num a m e => some (signed a m, e)
  | _ => none

/-- Fields of a word of the format block (R294). -/
def fbFmt (w : W64) : Nat := fld w 2 0
/-- SCM. -/
def fbScm (w : W64) : Nat := fld w 4 3
/-- BLEN. -/
def fbBlen (w : W64) : Nat := fld w 6 5
/-- SSBASE. -/
def fbBase (w : W64) : Nat := fld w 15 8
/-- SSADDR. -/
def fbAddr (w : W64) : Nat := fld w 36 16

/-- Products summed for each output element (R293). -/
def fbK (a b : W64) : Nat :=
  if fbFmt a = 5 ∧ fbFmt b = 5 then 128 else if fbFmt a ≤ 1 ∨ fbFmt b ≤ 1 then 32 else 64

/-- Blocks per row or column of an NQ4 operand (R292). -/
def fbNb (w : W64) (k : Nat) : Nat :=
  let len := if fbBlen w = 1 then 32 else 64
  (k + len - 1) / len

/-- The lowest set bit of the field [hi:lo] of a word, if it is not zero. -/
def lowestIn (w : W64) (hi lo : Nat) : List Nat :=
  ((findBelow (hi - lo + 1) fun i => bit w (lo + i)).map (lo + ·)).toList

/-- The offending bits of one word of a format block, counted in the word (R295). -/
def wordOffends (w : W64) : List Nat :=
  lowestIn w 7 7 ++ lowestIn w 63 37 ++ lowestIn w 17 16 ++ (if 6 ≤ fbFmt w then [0] else []) ++
  (if fbFmt w = 5 then
    (if 2 ≤ fbScm w then [3] else []) ++ (if 2 ≤ fbBlen w then [5] else []) ++
    (if fbScm w = 0 then lowestIn w 15 8 ++ lowestIn w 36 16 else [])
   else lowestIn w 4 3 ++ lowestIn w 6 5 ++ lowestIn w 15 8 ++ lowestIn w 36 16)

/-- The lowest offending bit of a format block (R295). -/
def fbOffends (a b : W64) : Option Nat :=
  let pair := if (fbFmt a == 4) != (fbFmt b == 4) then [64] else []
  let both := fbFmt a = 5 ∧ fbFmt b = 5
  let nb (w : W64) (base : Nat) : List Nat := if both ∧ fbBlen w = 1 then [base + 5] else []
  least id (wordOffends a ++ (wordOffends b).map (64 + ·) ++ pair ++ nb a 0 ++ nb b 64)

/-- The number of super-scales of an operand (R296). -/
def fbScales (w : W64) (k : Nat) : Nat :=
  if fbFmt w = 5 ∧ fbScm w = 1 then (fbBase w + 128 * fbNb w k - 1) / 256 + 1 else 0

/-- Element k of row or column i of an operand slot (R287, R291, R292, R297). -/
def element (w : W64) (kk : Nat) (slot : Bytes) (ss : List W32) (i k : Nat) : Elem :=
  let by_ (n : Nat) : Nat := (slot.byte (64 * i + n)).toNat
  match fbFmt w with
  | 0 => (bf16.value (by_ (2 * k) + 256 * by_ (2 * k + 1))).elem
  | 1 => (fp16.value (by_ (2 * k) + 256 * by_ (2 * k + 1))).elem
  | 2 => (e4m3.value (by_ k)).elem
  | 3 => (e5m2.value (by_ k)).elem
  | 4 => some ((BitVec.ofNat 8 (by_ k)).toInt, 0)
  | _ =>
    let q := by_ (k / 2) / 16 ^ (k % 2) % 16
    let nb := fbNb w kk
    let g := i * nb + k / (if fbBlen w = 1 then 32 else 64)
    let b := (slot.byte (8192 + g)).toNat
    let c := codebook.getD q 0 * b
    if b = 0 then some (0, 0)
    else if fbScm w = 1 then
      (fp32.value (ss.getD ((fbBase w + g) / 256) 0).toNat).elem.map fun x => (c * x.1, x.2 - 18)
    else some (c, -18)

/-- The detector flags row or column i: a NaN or infinity among its elements, or in the super-scale of one of its
blocks (R300). -/
def flagged (w : W64) (kk : Nat) (slot : Bytes) (ss : List W32) (i : Nat) : Bool :=
  fbFmt w != 4 && (((List.range kk).any fun k => (element w kk slot ss i k).isNone) ||
    (fbFmt w == 5 && fbScm w == 1 && (List.range (fbNb w kk)).any fun j =>
      (fp32.value (ss.getD ((fbBase w + i * fbNb w kk + j) / 256) 0).toNat).elem.isNone))

/-! ## The summation rule (R298, R299) -/

/-- floor(log2 |t|) of a term that is not zero. -/
def termLog (t : Int × Int) : Int := (Nat.log2 t.1.natAbs : Int) + t.2

/-- A term truncated toward zero to a multiple of 2^q, in units of 2^q. -/
def truncTo (q : Int) (t : Int × Int) : Int :=
  if q ≤ t.2 then t.1 * 2 ^ (t.2 - q).toNat else t.1.tdiv (2 ^ (q - t.2).toNat)

/-- The sum of terms, rounded once to FP32 (R298). -/
def sumTerms (ts : List (Int × Int)) : W32 :=
  let nz := ts.filter fun t => t.1 != 0
  match nz with
  | [] => 0
  | t :: rest =>
    let q := rest.foldl (fun e x => max e (termLog x)) (termLog t) - 47
    let sum := nz.foldl (fun a x => a + truncTo q x) (0 : Int)
    if sum = 0 then 0 else w32 (fp32.roundInt .rne sum q).1

/-- The new value of one element from its row and column and what it held (R298, R299). -/
def dotElement (int : Bool) (z : Bool) (row col : List Elem) (old : W32) : W32 :=
  let prods := (row.zip col).map fun x => match x with
    | (some a, some b) => (a.1 * b.1, a.2 + b.2)
    | _ => (0, 0)
  if int then
    let sum := prods.foldl (fun a x => a + x.1) (0 : Int)
    BitVec.ofInt 32 (if z then sum else sum + old.toInt)
  else if z then sumTerms prods
  else match (fp32.value old.toNat).elem with
    | none => old
    | some x => sumTerms (x :: prods)

/-! ## Banks -/

/-- Accumulator a of a core. -/
def Core.acc (c : Core) (a : Nat) : Acc := c.accs.get a Acc.zero

/-- Row r of a bank. -/
def bankRow (b : Vector Lanes 128) (r : Nat) : Lanes := if h : r < 128 then b[r] else Lanes.zero

/-- Replace a row of a bank. -/
def bankSet (b : Vector Lanes 128) (r : Nat) (x : Lanes) : Vector Lanes 128 := if h : r < 128 then b.set r x h else b

/-- The visible bank. -/
def Acc.visible (x : Acc) : Vector Lanes 128 := if x.visB then x.b else x.a

/-- The working bank. -/
def Acc.working (x : Acc) : Vector Lanes 128 := if x.visB then x.a else x.b

/-- Replace the visible bank. -/
def Acc.setVisible (x : Acc) (b : Vector Lanes 128) : Acc := if x.visB then { x with b := b } else { x with a := b }

/-- Replace the working bank. -/
def Acc.setWorking (x : Acc) (b : Vector Lanes 128) : Acc := if x.visB then { x with a := b } else { x with b := b }

/-! ## Checks at issue (R311) -/

/-- The precise fault of a matrix instruction. -/
def State.mxFault (s : State) (cause : Nat) (va : W64) : Res := s.faultAll cause 7 va

/-- The check of an accumulator number. -/
def State.accOk (s : State) (x : W64) : Bool :=
  x.toNat ≤ 3 && (s.core s.src.core).accOwner.get x.toNat 0 == s.src.world

/-- The check of an operand slot number. -/
def State.oslotOk (s : State) (x : W64) : Bool :=
  x.toNat ≤ 63 && (s.core s.src.core).oslotOwner.get x.toNat 0 == s.src.world

/-- An aswap of the accumulator is in the core's queue (R307). -/
def Core.swapping (c : Core) (a : Nat) : Bool := c.mq.any fun m => m.swap && m.acc == a

/-- A visible-bank instruction: its accumulator is checked, and it waits for the troupe's earlier accesses, for swaps
in the queue and for work on the bank (R307, R311). -/
def State.onVisible (s : State) (a : Reg) (go : Nat → Res) : Res :=
  let x := s.src.sreg a.val
  let c := s.core s.src.core
  if !s.accOk x then s.mxFault 0x0C x
  else if s.src.busyOps || c.swapping x.toNat || (c.visBusy.find x.toNat).isSome then s.stall
  else go x.toNat

/-- Lanes of a matrix instruction with guard kind Lane (R302, R313, R316). -/
def State.mxLanes (s : State) (g : Guard) : Mask := s.src.exec &&& guardMask g s.src

/-- A scratchpad-like read by the issuing troupe at its logical time (R207, R307, R308). -/
def State.mxRead (s : State) : State :=
  let (s, p) := s.spadReadTs s.me.core s.me.pts
  s.setMe { s.me with pts := p }

/-- A scratchpad-like write by the issuing troupe at its logical time (R207, R307, R308). -/
def State.mxWrite (s : State) : State :=
  let (s, p) := s.spadWriteTs s.me.core s.me.pts
  s.setMe { s.me with pts := p }

/-! ## Claims (R312) -/

/-- Operand slots that the queue or the array reads. -/
def Core.mxUses (c : Core) : List MmaEntry := c.mq ++ c.array.toList

/-- `oclaim` (R312). -/
def execOclaim (e : Bool) (d : Reg) (s : State) : Res :=
  let t := s.src
  let c := s.core t.core
  match findBelow 64 fun i => c.oslotOwner.get i 0 == t.world && !c.oClaimed.contains i with
  | none => s.scalar d ones64 1 e
  | some i => (s.modCore t.core fun c => { c with oClaimed := insertAsc i c.oClaimed }).scalar d (w64 i) 1 e

/-- `orelease` (R312). -/
def execOrelease (e : Bool) (d a : Reg) (s : State) : Res :=
  let x := s.src.sreg a.val
  let c := s.core s.src.core
  if !s.oslotOk x then s.mxFault 0x0B x
  else if c.mxUses.any fun m => !m.swap && (m.aslot == x.toNat || m.bslot == x.toNat) then s.stall
  else if !c.oClaimed.contains x.toNat then s.scalar d 1 1 e
  else (s.modCore s.src.core fun c => { c with oClaimed := c.oClaimed.filter (· != x.toNat) }).scalar d 0 1 e

/-- `aclaim` (R312). -/
def execAclaim (e : Bool) (d : Reg) (s : State) : Res :=
  let t := s.src
  let c := s.core t.core
  match findBelow 4 fun i => c.accOwner.get i 0 == t.world && !c.aClaimed.contains i with
  | none => s.scalar d ones64 1 e
  | some i => (s.modCore t.core fun c => { c with aClaimed := insertAsc i c.aClaimed }).scalar d (w64 i) 1 e

/-- `arelease` (R312). -/
def execArelease (e : Bool) (d a : Reg) (s : State) : Res :=
  let x := s.src.sreg a.val
  let c := s.core s.src.core
  if !s.accOk x then s.mxFault 0x0C x
  else if (c.mxUses.any fun m => m.acc == x.toNat) || (c.visBusy.find x.toNat).isSome then s.stall
  else if !c.aClaimed.contains x.toNat then s.scalar d 1 1 e
  else (s.modCore s.src.core fun c => { c with aClaimed := c.aClaimed.filter (· != x.toNat) }).scalar d 0 1 e

/-! ## Operand slots (R313) -/

/-- Where lane l's part of a slot stands, and its bytes (R313). -/
def selPlace (x : OSel) (l : Nat) : Nat × Nat :=
  match x with
  | .half hi _ => (64 * l + (if hi then 32 else 0), 32)
  | .side _ => (8192 + 2 * l, 2)

/-- The first vector register. -/
def selReg : OSel → Nat
  | .half _ g => 8 * g.val
  | .side v => v.val

/-- `owrite` (R313). -/
def execOwrite (e : Bool) (g : Guard) (slot : Reg) (x : OSel) (s : State) : Res :=
  let t := s.src
  let n := t.sreg slot.val
  let m := s.mxLanes g
  if !s.oslotOk n then s.mxFault 0x0B n
  else if m = 0 then .next (s.advance 1 e)
  else if t.busyOps then s.stall
  else
    let put (c : Core) (l : Nat) : Core :=
      let (a, k) := selPlace x l
      { c with oslots := c.oslots.write (8448 * n.toNat + a) ((laneBytes t (selReg x) l 8).take k) }
    let spans := (lanesOf m).map fun l => (8448 * n.toNat + (selPlace x l).1, (selPlace x l).2)
    .next ((s.mxWrite.modCore t.core fun c => ((lanesOf m).foldl put (c.seeSlot n.toNat)).healSlots spans).advance 1 e)

/-- `oread`: a poisoned unit faults the lanes that read it (R313, R429); the record's address is stated by no rule
(log 12). -/
def execOread (e : Bool) (g : Guard) (slot : Reg) (x : OSel) (s : State) : Res :=
  let t := s.src
  let n := t.sreg slot.val
  let m := s.mxLanes g
  let c := s.core t.core
  let bad := (lanesOf m).filter fun l => c.oslotBad.contains (n.toNat, (selPlace x l).1 / 64)
  if !s.oslotOk n then s.mxFault 0x0B n
  else if m = 0 then .next (s.advance 1 e)
  else if !bad.isEmpty then
    let (v, s) := s.freeNat
    s.fault 0x14 7 (maskOf fun l => bad.contains l) (w64 v)
  else if t.busyOps then s.stall
  else
    let s := s.mxRead
    let get (u : Troupe) (l : Nat) : Troupe :=
      let (a, k) := selPlace x l
      let bs := c.oslots.read (8448 * n.toNat + a) k
      u.putLane (selReg x) l false (if k = 2 then bs ++ [0, 0] else bs) ((k + 3) / 4)
    s.done ((lanesOf m).foldl get s.me) 1 e

/-! ## mma, batches, swaps (R296, R302 to R306, R314, R315) -/

/-- The number of the batch that the next `mfence` closes (R305). -/
def nextBatch (b : W32) : W32 := if b + 1 = 0 then 1 else b + 1

/-- The failure of a super-scale read (R296, R429). -/
def Core.scaleCause (c : Core) (w : Nat) (fb : W64) (k : Nat) : Option (Nat × W64) :=
  let n := fbScales fb k
  let a := fbAddr fb
  let rows := (List.range n).map fun i => a + 4 * i
  if n = 0 then none
  else if a + 4 * n - 1 > 0x1FFFFF then some (3, w64 a)
  else if rows.any fun x => !c.plotOk w x then some (4, w64 a)
  else if rows.any fun x => c.spadBad.contains (c.phys x / 16) then some (0x14, w64 a)
  else none

/-- The super-scales of an operand. -/
def Core.scales (c : Core) (fb : W64) (k : Nat) : List W32 :=
  (List.range (fbScales fb k)).map fun i => w32 (leNat (c.spadRead (fbAddr fb + 4 * i) 4))

/-- Count an `mma` in a batch. -/
def countBatch (n : W32) (l : List (W32 × Nat)) : List (W32 × Nat) :=
  if l.any fun b => b.1 == n then l.map fun b => if b.1 == n then (b.1, b.2 + 1) else b else l ++ [(n, 1)]

/-- `mma` (R314): checked, then queued with what it captures at issue; the queue takes one entry in a cycle (R21, R85).
Where two of its operands fail alike, the record names A's (R311; DESIGN CHOICE, log 89). -/
def execMma (e : Bool) (g : Guard) (x : MXArgs) (s : State) : Res :=
  let t := s.src
  let c := s.core t.core
  let acc := t.sreg x.acc.val
  let sa := t.sreg x.aslot.val
  let sb := t.sreg x.bslot.val
  let fa := t.sreg (2 * x.fb.val)
  let fb := t.sreg (2 * x.fb.val + 1)
  let k := fbK fa fb
  if !s.accOk acc then s.mxFault 0x0C acc
  else if !s.oslotOk sa then s.mxFault 0x0B sa
  else if !s.oslotOk sb then s.mxFault 0x0B sb
  else match fbOffends fa fb with
  | some b => s.mxFault 9 (w64 b)
  | none =>
    match least (fun (x : Nat × W64) => x.1) ((c.scaleCause t.world fa k).toList ++ (c.scaleCause t.world fb k).toList) with
    | some (cause, a) => s.mxFault cause a
    | none =>
      if t.busyOps then s.stall
      else if 32 ≤ c.mq.length then s.contend 0
      else s.enter 0 fun s =>
        let s := if fbScales fa k + fbScales fb k = 0 then s else s.mxRead
        let (id, s) := s.freshId
        let n := nextBatch t.sp.batch
        let m : MmaEntry :=
          { id := id, tkey := t.key, uid := t.uid, world := t.world, acc := acc.toNat, aslot := sa.toNat
            bslot := sb.toNat, fb := fb ++ fa, z := x.z, bd := x.bd, rows := s.mxLanes g, batch := n
            ops := [c.oslot sa.toNat, c.oslot sb.toNat], ss := [c.scales fa k, c.scales fb k] }
        let s := s.modCore t.core fun c => { c with mq := c.mq ++ [m] }
        let u := s.me
        s.done { u with ctl := { u.ctl with batches := countBatch n u.ctl.batches } } 2 e

/-- DONE: every closed batch before the first with an `mma` outstanding is complete (R285, R305). -/
def Troupe.settle (t : Troupe) : Troupe :=
  let bs := t.ctl.batches.filter fun b => b.2 != 0
  let d := match least (fun (b : W32 × Nat) => (b.1 - t.done).toNat) bs with
    | none => t.sp.batch
    | some b => if b.1 = 1 then (if t.done = 0 then 0 else BitVec.allOnes 32) else b.1 - 1
  { t with done := d, ctl := { t.ctl with batches := bs } }

/-- Settle the batches of a troupe; one that waits for a batch that is complete is ready (R285, R305). -/
def State.settleBatches (s : State) (k : Nat) : State :=
  let s := s.modTroupe k Troupe.settle
  match s.troupe k with
  | some t => match t.ctl.wait with
    | .batch n _ => if batchDone t.done n then s.wake k else s
    | _ => s
  | none => s

/-- `mfence` (R305). -/
def execMfence (e : Bool) (d : Reg) (s : State) : Res :=
  let t := s.me
  let n := nextBatch s.src.sp.batch
  let t := ({ t with sp := { t.sp with batch := n } } : Troupe).settle
  s.done (t.setS d.val (n.setWidth 64)) 1 e

/-- `aswap`: enters the matrix queue and ends the run (R21, R85, R306, R315). -/
def execAswap (_e : Bool) (a : Reg) (s : State) : Res :=
  let t := s.src
  let x := t.sreg a.val
  if !s.accOk x then s.mxFault 0x0C x
  else if t.busyOps then s.stall
  else if 32 ≤ (s.core t.core).mq.length then s.contend 0
  else s.enter 0 fun s =>
    let (id, s) := s.freshId
    let m : MmaEntry :=
      { id := id, tkey := t.key, uid := t.uid, world := t.world, swap := true, acc := x.toNat }
    .next ((s.modCore t.core fun c => { c with mq := c.mq ++ [m] }).advance 1 true)

/-! ## Visible banks (R307, R315, R316) -/

/-- The first poisoned element of the visible bank among some elements (R429). -/
def Core.badElement (c : Core) (a : Nat) (sel : Nat → Nat → Bool) : Option (Nat × Nat) :=
  let v := (c.acc a).visB
  let es := (c.accBad.filter fun x => x.1 == a && x.2.1 == v && sel x.2.2.1 x.2.2.2).map fun x => (x.2.2.1, x.2.2.2)
  least (fun x => 128 * x.1 + x.2) es

/-- The fault of a read of a poisoned element (R429). -/
def State.accPoison (s : State) (a : Nat) (x : Nat × Nat) : Res := s.mxFault 0x14 (w64 (a * 2 ^ 14 + x.1 * 128 + x.2))

/-- Elements of the visible bank that are written are no longer poisoned (R429). -/
def Core.healVisible (c : Core) (a : Nat) (sel : Nat → Nat → Bool) : Core :=
  let v := (c.acc a).visB
  { c with accBad := c.accBad.filter fun x => !(x.1 == a && x.2.1 == v && sel x.2.2.1 x.2.2.2) }

/-- `ard` (R316). -/
def execArd (e : Bool) (g : Guard) (d : Fin 4) (a : Reg) (grp : Fin 8) (s : State) : Res :=
  let m := s.mxLanes g
  let x := s.src.sreg a.val
  if m = 0 ∧ s.accOk x then .next (s.advance 1 e)
  else s.onVisible a fun n =>
    let c := s.core s.src.core
    match c.badElement n fun r col => inMask m r && col / 16 == grp.val with
    | some b => s.accPoison n b
    | none =>
      let s := s.mxRead
      let bank := (c.acc n).visible
      let get (u : Troupe) (i : Nat) : Troupe :=
        let old := u.vreg (16 * d.val + i)
        u.setV (16 * d.val + i) (Lanes.ofFn fun l =>
          if inMask m l then (bankRow bank l).lane (16 * grp.val + i) else old.lane l)
      s.done ((List.range 16).foldl get s.me) 1 e

/-- `awr` (R316). -/
def execAwr (e : Bool) (g : Guard) (acc : Reg) (v : Fin 4) (grp : Fin 8) (s : State) : Res :=
  let t := s.src
  let m := s.mxLanes g
  if m = 0 ∧ s.accOk (t.sreg acc.val) then .next (s.advance 1 e)
  else s.onVisible acc fun n =>
    let put (b : Vector Lanes 128) (l : Nat) : Vector Lanes 128 :=
      bankSet b l ((List.range 16).foldl (fun r i =>
        r.setLane (16 * grp.val + i) ((t.vreg (16 * v.val + i)).lane l)) (bankRow b l))
    let s := s.mxWrite.modCore t.core fun c =>
      let c := c.healVisible n fun r col => inMask m r && col / 16 == grp.val
      { c with accs := c.accs.put n ((c.acc n).setVisible ((lanesOf m).foldl put (c.acc n).visible)) }
    .next (s.advance 1 e)

/-- `azero`: the bank is zero at once, and busy for its cycles (R315). -/
def execAzero (e : Bool) (a : Reg) (s : State) : Res :=
  s.onVisible a fun n =>
    let s := s.mxWrite.modCore s.src.core fun c =>
      let c := c.healVisible n fun _ _ => true
      { c with accs := c.accs.put n ((c.acc n).setVisible zeroBank), visBusy := c.visBusy.put n .zero }
    .next (s.advance 1 e)

/-- The failure of the address of an `asts` (R311). -/
def Core.astsCause (c : Core) (w : Nat) (a : W64) : Option Nat :=
  if a.toNat ≥ 2 ^ 21 ∨ a.toNat + 65535 > 0x1FFFFF then some 3
  else if a.toNat % 16 ≠ 0 then some 5
  else if (List.range 5).any fun i => let x := min (a.toNat + 16384 * i) (a.toNat + 65535); !c.plotOk w x then some 4
  else none

/-- The bytes of a bank, row by row (R315, R341). -/
def bankBytes (b : Vector Lanes 128) : List Byte :=
  b.toList.flatMap fun r => r.toList.flatMap fun x => leBytes 4 x.toNat

/-- `asts`: one scratchpad write, then busy for its cycles (R315). -/
def execAsts (e : Bool) (a : Reg) (b : SSrc) (s : State) : Res :=
  let t := s.src
  let c := s.core t.core
  let x := t.sreg a.val
  let dst := match b with | .reg r => t.sreg r.val | .lit w => w.setWidth 64
  if !s.accOk x then s.mxFault 0x0C x
  else match c.astsCause t.world dst with
  | some cause => s.mxFault cause dst
  | none => s.onVisible a fun n =>
    match c.badElement n fun _ _ => true with
    | some k => s.accPoison n k
    | none =>
      let s := s.mxWrite.modCore t.core fun c =>
        { c.spadBlock dst.toNat (bankBytes (c.acc n).visible) 6 with visBusy := c.visBusy.put n (.store dst.toNat) }
      .next (s.advance (slen b) e)

/-- VISIBLE_BANK_COMPLETE: an `azero` or `asts` has spent its cycles (R315). -/
def execVisibleBankComplete (core acc : Nat) (s : State) : Res :=
  .next (s.modCore core fun c => { c with visBusy := c.visBusy.del acc })

/-! ## The array (R298 to R306, R308, R314) -/

/-- A slot as an `mma` reads it: each byte as it stood when the `mma` issued, or as any write since has left it
(R308). -/
def mixBytes (fresh : Nat) (old : Bytes) (later : List Bytes) : Bytes :=
  if later.all (· == old) then old
  else (sortAsc ((old :: later).flatMap fun b => b.map (·.1))).foldl (fun m a =>
    m.set a (((old :: later).getD (Config.freeNat (fresh + a) % (later.length + 1)) old).byte a)) []

/-- The entry with its operands as it has read them, from what the slots held between its issue and now. -/
def State.mixEntry (s : State) (core : Nat) (m : MmaEntry) : MmaEntry × State :=
  let c := s.core core
  let f := s.book.fresh
  let later (b : Bool) (slot : Nat) : List Bytes := (m.seen.filter fun x => x.1 == b).map (·.2) ++ [c.oslot slot]
  ({ m with ops := [mixBytes f (m.ops.getD 0 []) (later false m.aslot),
                    mixBytes (f + 8448) (m.ops.getD 1 []) (later true m.bslot)] },
   s.modBook fun b => { b with fresh := b.fresh + 16896 })

/-- MMA_EXECUTE: an `mma` at the head of the queue starts when the array is free (R304). -/
def execMmaExecute (core : Nat) (s : State) : Res :=
  match (s.core core).array, (s.core core).mq with
  | none, m :: rest =>
    if m.swap then .next s else .next (s.modCore core fun c => { c with mq := rest, array := some m })
  | _, _ => .next s

/-- The entry updates element (r, c) (R302, R303). -/
def MmaEntry.updates (m : MmaEntry) (r c : Nat) : Bool := inMask m.rows r && (!m.bd || r / 8 == c / 8)

/-- The rows (of A) or columns (of B) that poisoned units of a slot feed (R429). -/
def Core.badLines (c : Core) (slot : Nat) (fb : W64) (k : Nat) : List Nat :=
  (c.oslotBad.filter fun x => x.1 == slot).flatMap fun x =>
    if x.2 < 128 then [x.2]
    else if fbFmt fb = 5 then
      (List.range 128).filter fun i => (List.range (fbNb fb k)).any fun j => (i * fbNb fb k + j) / 64 == x.2 - 128
    else []

/-- The new working bank of an `mma`, whether it overwrote an element, and the elements it leaves poisoned
(R298 to R303, R429). -/
def MmaEntry.drain (m : MmaEntry) (bank : Vector Lanes 128) : Vector Lanes 128 × Bool :=
  let fa : W64 := m.fb.extractLsb' 0 64
  let fb : W64 := m.fb.extractLsb' 64 64
  let k := fbK fa fb
  let a := m.ops.getD 0 []
  let b := m.ops.getD 1 []
  let sa := m.ss.getD 0 []
  let sb := m.ss.getD 1 []
  let cols := (List.range 128).map fun c => ((List.range k).map fun i => element fb k b sb c i, flagged fb k b sb c)
  (lanesOf m.rows).foldl (fun (x : Vector Lanes 128 × Bool) r =>
    let row := (List.range k).map fun i => element fa k a sa r i
    let rf := flagged fa k a sa r
    let old := bankRow x.1 r
    let hit := (List.range 128).any fun c => m.updates r c && (rf || (cols.getD c ([], false)).2)
    (bankSet x.1 r (Lanes.ofFn fun c =>
      if !m.updates r c then old.lane c
      else if rf || (cols.getD c ([], false)).2 then 0x7FC00000
      else dotElement (fbFmt fa == 4) m.z row (cols.getD c ([], false)).1 (old.lane c)), x.2 || hit)) (bank, false)

/-- MMA_COMPLETE: the `mma` in the array writes the working bank, its special values are overwritten, and its batch
counts it (R301, R304, R305). -/
def execMmaComplete (core : Nat) (s : State) : Res :=
  match (s.core core).array with
  | none => .next s
  | some m0 =>
    let (m, s) := s.mixEntry core m0
    let c := s.core core
    let (bank, special) := m.drain (c.acc m.acc).working
    let fa : W64 := m.fb.extractLsb' 0 64
    let fb : W64 := m.fb.extractLsb' 64 64
    let k := fbK fa fb
    let rows := c.badLines m.aslot fa k
    let cols := c.badLines m.bslot fb k
    let w := !(c.acc m.acc).visB
    let kept := c.accBad.filter fun x => !(x.1 == m.acc && x.2.1 == w && m.z && m.updates x.2.2.1 x.2.2.2)
    let new := (rows.flatMap fun r => (List.range 128).map fun j => (r, j)) ++
      (cols.flatMap fun j => (List.range 128).map fun r => (r, j))
    let new := (new.filter fun x => m.updates x.1 x.2).map fun x => (m.acc, w, x.1, x.2)
    let s := s.modCore core fun c =>
      { c with array := none, accs := c.accs.put m.acc ((c.acc m.acc).setWorking bank)
               accBad := kept ++ new.filter fun x => !kept.contains x }
    let s := s.count m.world 0x11 core 1
    let s := s.modRequester m.tkey m.uid fun t =>
      { t with sp := { t.sp with special := t.sp.special || special }
               ctl := { t.ctl with batches := t.ctl.batches.map fun b => if b.1 == m.batch then (b.1, b.2 - 1) else b } }
    .next (match s.requester m.tkey m.uid with
      | some t => (s.settleBatches t.key).tryRetire t.key
      | none => s)

/-- ASWAP_EXECUTE: an `aswap` at the head of the queue exchanges the banks, once no work on its visible bank is left
(R306). It stands in the scratchpad's order after what is there, whatever the time of a troupe (DESIGN CHOICE, log 88).
-/
def execAswapExecute (core : Nat) (s : State) : Res :=
  match (s.core core).array, (s.core core).mq with
  | none, m :: rest =>
    if !m.swap || ((s.core core).visBusy.find m.acc).isSome then .next s
    else
      let s := s.modCore core fun c =>
        { c with mq := rest, accs := c.accs.put m.acc { c.acc m.acc with visB := !(c.acc m.acc).visB } }
      .next ((s.spadWriteTs core 0).1.retireNamed m.tkey m.uid)
  | _, _ => .next s

end Sys2Proof.Machine
end

