-- ==== Sys2Proof/Machine/Bindings.lean ====
section
/-! DEFINITION. Bindable resources and their owners, the checks and the writing of translation entries, `tlbw`, `tlbr`,
`tlbi`, `frameq`, loss records, `lossrd` and `lossclr` (R177 to R185, R322 to R336, R342 to R344). -/

namespace Sys2Proof.Machine

/-! ## Resources and owners (R322) -/

/-- The number names a resource of the class, frames apart (R322). -/
def resOk (cls n : Nat) : Bool :=
  match cls with
  | 1 => n < 2 ^ 16 && n % 256 < 192 && (n / 2 ^ 15 == 1 || n / 256 % 128 < 32)
  | 2 => n < 2 ^ 15 && n % 256 < 192
  | 3 => n < 2 ^ 14 && n % 256 < 192
  | 4 => n < 2 ^ 10 && n % 256 < 192
  | 5 => n < 768
  | 6 => n < 2 ^ 12 && n % 256 < 24
  | 7 => n < 4096
  | 8 => n < 1024
  | 9 => n < 512
  | 10 => n < 2 ^ 12 && n % 256 < 64
  | _ => false

/-- The owner that a resource carries; 64 + w while it is being taken from world w (log 2). -/
def State.ownerOf (s : State) (cls n : Nat) : Nat :=
  let c := s.core (n % 256)
  match cls with
  | 1 => if n / 2 ^ 15 = 1 then c.blockOwner.get (n / 256 % 128) 0 else c.tslotOwner.get (n / 256) 0
  | 2 => c.plotOwner.get (n / 256) 0
  | 3 => c.oslotOwner.get (n / 256) 0
  | 4 => c.accOwner.get (n / 256) 0
  | 5 => (s.ringSlot n).owner
  | 6 => (s.cluster (n % 256)).wayOwner.get (n / 256) 0
  | 7 => (s.ensemble n).owner
  | 8 => (s.mailbox n).owner
  | 9 => (s.lanes.get n {}).owner
  | _ => (s.slice (n % 256)).wayOwner.get (n / 256) 0

/-- Give a resource an owner; Procession slots change theirs as R249 states. -/
def State.setOwner (s : State) (cls n o : Nat) : State :=
  let k := n % 256
  match cls with
  | 1 =>
    if n / 2 ^ 15 = 1 then s.modCore k fun c => { c with blockOwner := c.blockOwner.put (n / 256 % 128) o }
    else s.modCore k fun c => { c with tslotOwner := c.tslotOwner.put (n / 256) o }
  | 2 => s.modCore k fun c => { c with plotOwner := c.plotOwner.put (n / 256) o }
  | 3 => s.modCore k fun c => { c with oslotOwner := c.oslotOwner.put (n / 256) o }
  | 4 => s.modCore k fun c => { c with accOwner := c.accOwner.put (n / 256) o }
  | 5 => s
  | 6 => s.modCluster k fun c => { c with wayOwner := c.wayOwner.put (n / 256) o }
  | 7 => s.modEns n fun e => { e with owner := o }
  | 8 => s.modMailbox n fun m => { m with owner := o }
  | 9 => { s with lanes := s.lanes.put n { s.lanes.get n {} with owner := o } }
  | _ => s.modSlice k fun c => { c with wayOwner := c.wayOwner.put (n / 256) o }

/-- The numbers of a class, ascending. -/
def resNumbers (cls : Nat) : List Nat :=
  let grid (n m : Nat) : List Nat := (List.range m).flatMap fun j => (List.range n).map fun i => j * 256 + i
  match cls with
  | 1 => (List.range 160).flatMap fun j =>
      (List.range 192).map fun i => (if j < 32 then j else 128 + (j - 32)) * 256 + i
  | 2 => grid 192 128
  | 3 => grid 192 64
  | 4 => grid 192 4
  | 5 => List.range 768
  | 6 => grid 24 16
  | 7 => List.range 4096
  | 8 => List.range 1024
  | 9 => List.range 512
  | 10 => grid 64 16
  | _ => []

/-! ## Translation entries (R178, R179, R333) -/

/-- The fault of a binding instruction: access type 8 (R331). -/
def State.bindFault (s : State) (cause : Nat) (va : W64) : Res := s.faultAll cause 8 va

/-- R331 step 1: the troupe belongs to its world's runtime launch. -/
def State.runtimeOnly (s : State) (va : W64) (go : Res) : Res :=
  if s.isRuntime s.src then go else s.bindFault 3 va

/-- Clusters, set and way of a location (R332). -/
def locOf (x : W64) : Option (List Nat × Nat × Nat) :=
  let c := fld x 17 13
  if 2 ^ 18 ≤ x.toNat ∨ (24 ≤ c ∧ c ≠ 31) then none
  else some (if c = 31 then List.range 24 else [c], fld x 8 0, fld x 12 9)

/-- The entry breaks a check of R179. -/
def entryBad (e : Entry) : Bool :=
  let n := pageSize (entrySize e)
  let pa := entryPa e
  fld e.1 11 5 ≠ 0 || fld e.1 63 56 ≠ 0 || fld e.2 5 4 ≠ 0 || fld e.2 63 48 ≠ 0 || 12 ≤ entrySize e ||
  (bit e.2 1 && !bit e.2 0) || entryVa e % n ≠ 0 || pa % n ≠ 0 || 2 ^ 56 < entryVa e + n ||
  regionOf pa == .hole || regionOf pa != regionOf (pa + n - 1)

/-- The page lies wholly within one extent of the world that is not being taken. For world 0, whose frames are in no
extent, it meets no other world's extent. -/
def State.pageOwned (s : State) (w pa n : Nat) : Bool :=
  if w = 0 then !s.extents.any fun x => x.world != 0 && x.base < pa + n && pa < x.base + pageSize x.size
  else s.extents.any fun x => x.world == w && x.base ≤ pa && pa + n ≤ x.base + pageSize x.size && x.busy.isEmpty

/-- R333 step 4: the world may map the page of the entry. -/
def State.admits (s : State) (w : Nat) (e : Entry) : Bool :=
  let pa := entryPa e
  let n := pageSize (entrySize e)
  if inModule pa then s.pageOwned w pa n
  else (s.world w).apertures.any fun a =>
    a.base ≤ pa && pa + n ≤ a.base + pageSize a.size && (a.r || !bit e.2 0) && (a.w || !bit e.2 1)

/-- The cause for which an entry may not be written by a world at a location (R333). -/
def State.entryCause (s : State) (w : Nat) (e : Entry) (loc : W64) : Option Nat :=
  match locOf loc with
  | none => some 9
  | some (cs, set, way) =>
    if entryBad e then some 9
    else if entryValid e ∧ tlbSet (entryVa e) (entrySize e) w ≠ set then some 9
    else if cs.any fun c => (s.cluster c).wayOwner.get way 0 != w then some 4
    else if entryValid e ∧ !s.admits w e then some 4
    else none

/-- The NX4 sets WORLD in an entry that a world writes (R178). -/
def stamp (w : Nat) (e : Entry) : Entry := (e.1, (e.2 &&& ~~~ (0xFC0 : W64)) ||| w64 (w * 64))

/-- The cores of a cluster lose the micro-buffer copies that `drop` names (R182). -/
def State.dropUtlb (s : State) (c : Nat) (drop : Nat × Nat → Bool) : State :=
  (List.range 8).foldl (fun s i =>
    if (s.core (8 * c + i)).utlb.any drop then
      s.modCore (8 * c + i) fun k => { k with utlb := k.utlb.filter fun x => !drop x }
    else s) s

/-- Invalidate the entries of a cluster that `sel` names, and their micro-buffer copies (R182, R335). -/
def State.invalidate (s : State) (c : Nat) (sel : Nat → Entry → Bool) : State :=
  let cl := s.cluster c
  let gone := (cl.tlb.filter fun x => entryValid x.2 && sel x.1 x.2).map (·.1)
  if gone.isEmpty then s
  else
    let off (i : Nat) (e : Entry) : Entry := if gone.contains i then (e.1 &&& ~~~ (1 : W64), e.2) else e
    (s.modCluster c fun k => { k with tlb := k.tlb.mapVals off }).dropUtlb c fun x => gone.contains (16 * x.1 + x.2)

/-- Two pages overlap. -/
def pagesMeet (a b : Entry) : Bool :=
  entryVa a < entryVa b + pageSize (entrySize b) && entryVa b < entryVa a + pageSize (entrySize a)

/-- Write an entry that passed its checks into one cluster: the older entry of the same page goes (R181), copies that
overlap it go (R182), and misses within it are released (R185). -/
def State.writeEntry (s : State) (w : Nat) (e : Entry) (set way c : Nat) : State :=
  let i := 16 * set + way
  let same (j : Nat) (x : Entry) : Bool :=
    entryValid e && j != i && j / 16 == set && entryWorld x == w && entrySize x == entrySize e && entryVa x == entryVa e
  let s := s.invalidate c same
  let old := s.cluster c
  let s := s.dropUtlb c fun x => x == (set, way) ||
    (entryValid e && entryWorld (old.entry x.1 x.2) == w && pagesMeet (old.entry x.1 x.2) e)
  let s := s.modCluster c fun k => { k with tlb := k.tlb.put i e }
  let kept (m : MissEntry) : Bool := !(m.world == w && entryCovers e (m.page * 4096))
  if entryValid e ∧ (s.cluster c).miss.any (fun m => !kept m) then
    (s.modCluster c fun k => { k with miss := k.miss.filter kept }).wakeMisses c
  else s

/-- Write an entry at a location (R333). -/
def State.writeAt (s : State) (w : Nat) (e : Entry) (loc : W64) : State :=
  match locOf loc with
  | none => s
  | some (cs, set, way) => cs.foldl (fun s c => s.writeEntry w (stamp w e) set way c) s

/-- `tlbw` (R333). -/
def execTlbw (e : Bool) (a : Pair) (b : SSrc) (s : State) : Res :=
  let t := s.src
  let loc := sval b t
  let x : Entry := (t.sreg (2 * a.val), t.sreg (2 * a.val + 1))
  s.runtimeOnly loc <|
    match s.entryCause t.world x loc with
    | some c => s.bindFault c loc
    | none => .next ((s.writeAt t.world x loc).advance (slen b) e)

/-- The place of a location that names one cluster and a way of the world (R332, R334, R335); otherwise the cause. -/
def State.oneWay (s : State) (w : Nat) (x : W64) : Except Nat (Nat × Nat × Nat) :=
  match locOf x with
  | some ([c], set, way) => if (s.cluster c).wayOwner.get way 0 = w then .ok (c, set, way) else .error 4
  | _ => .error 9

/-- `tlbr` (R334). -/
def execTlbr (e : Bool) (d : Pair) (a : Reg) (s : State) : Res :=
  let x := s.src.sreg a.val
  match s.oneWay s.src.world x with
  | .error c => s.bindFault c x
  | .ok (c, set, way) =>
    let y := (s.cluster c).entry set way
    s.done (s.me.setSs (2 * d.val) [y.1, y.2]) 1 e

/-- The names of the accesses of a world under way that translated through some entries of a cluster: operations that
are issued, requests with a service troupe, requests to the host or a peer, fetches there, a chunk of a copy in
progress, and payload that has not landed (R335, R340). -/
def State.through (s : State) (c w : Nat) (es : List Entry) : List Nat :=
  let hit (va pa : Nat) : Bool := es.any fun e => entryCovers e va && entryTarget e va == pa
  let lanes (os : List LaneOp) : Bool := os.any fun o => hit o.va o.pa
  let framed (pa : Nat) : Bool := es.any fun e => entryPa e ≤ pa && pa < entryPa e + pageSize (entrySize e)
  let here (k core : Nat) : Bool := k == w && clusterOf core == c
  let ts := (s.troupes.filter fun t => here t.2.world t.2.core).map (·.2)
  (ts.flatMap fun t => (t.ops.filter fun o => lanes o.lanes || lanes o.external).map (·.id)) ++
  (s.clusters.flatMap fun k => (k.2.reqQ.filter fun r => here r.world r.core && lanes r.lanes).map (·.opId)) ++
  (s.ext.filter fun x => here x.world (x.tkey / 32) && x.uid != 0 && x.errand != Errand.query && lanes x.lanes).map (·.id) ++
  ((ts.map fun t => agentOp (fetchOp t)).filter fun i => s.ext.any fun x => x.opId == i && framed x.pa) ++
  (s.copies.filter fun k => here k.world k.core && k.queue.isNone).flatMap fun k =>
    (if k.plan.any fun p => hit p.2.1 p.2.2.1 then [k.id] else []) ++
    (k.flights.filter fun f => f.2.any fun p => hit p.1 p.2).flatMap (·.1)

/-- The access, chunk or payload of that name is still under way. -/
def State.underWay (s : State) (i : Nat) : Bool :=
  let asked (x : Ext) : Bool := x.reply.isNone || x.reply == some .retry
  s.troupes.any (fun t => t.2.ops.any fun o => o.id == i && (o.ordinary || !o.unsent.isEmpty || !o.external.isEmpty)) ||
  s.clusters.any (fun c => c.2.reqQ.any fun r => r.opId == i) ||
  s.ext.any (fun x => asked x && (x.id == i || (x.opId == i && !s.ofCopy x))) ||
  s.held.any (fun h => h.id == i) || s.copies.any fun c => c.id == i && !c.plan.isEmpty

/-- Those that translated through the valid entries of a cluster that `sel` names. -/
def State.passing (s : State) (c w : Nat) (sel : Nat → Entry → Bool) : List Nat :=
  (s.through c w (((s.cluster c).tlb.filter fun x => entryValid x.2 && sel x.1 x.2).map (·.2))).filter s.underWay

/-- The entries that `sel` names go at once; the `tlbi` is complete when every access through them has been performed
(R335). -/
def State.tlbi (s : State) (e : Bool) (cs : List Nat) (sel : Nat → Entry → Bool) : Res :=
  let t := s.src
  let sel (i : Nat) (y : Entry) : Bool := entryWorld y == t.world && sel i y
  let old := match t.ctl.tlbi with | some (pc, l) => if pc = t.pc then l else [] | none => []
  let left := old.filter s.underWay ++ cs.flatMap fun c => s.passing c t.world sel
  let s := cs.foldl (fun s c => s.invalidate c sel) s
  if left.isEmpty then .next ((s.modCtl fun c => { c with tlbi := none }).advance 1 e)
  else .next ((s.modBook fun b => { b with chain := none }).setMe
    { t with ctl := { t.ctl with stalled := true, tlbi := some (t.pc, left) } })

/-- `tlbi` (R335). -/
def execTlbi (e : Bool) (a : Reg) (mode : TlbiMode) (s : State) : Res :=
  let t := s.src
  let x := t.sreg a.val
  s.runtimeOnly x <|
    match mode with
    | .loc =>
      match s.oneWay t.world x with
      | .error c => s.bindFault c x
      | .ok (c, set, way) =>
        s.tlbi e [c] fun i _ => i == 16 * set + way
    | .va => s.tlbi e (List.range 24) fun _ y => entryCovers y x.toNat
    | .all => s.tlbi e (List.range 24) fun _ _ => true

/-- `frameq` (R336). A frame of world 0 in no extent has size and base that no rule states (log 10). -/
def execFrameq (e : Bool) (d a : Reg) (s : State) : Res :=
  let t := s.src
  let pa := (t.sreg a.val).toNat
  let say (owner code base : Nat) : W64 := w64 (owner + code * 256 + base / 4096 * 4096)
  if inModule pa then
    if s.frameOwner pa ≠ t.world then s.scalar d ones64 1 e
    else match s.extentOf pa with
      | some x => s.scalar d (say (s.ownerByte pa).toNat x.size x.base) 1 e
      | none =>
        let (k, s) := s.freeNat
        let (b, s) := s.freeNat
        s.scalar d (say 0 (k % 16) (b % 2 ^ 48)) 1 e
  else match (s.world t.world).apertures.find? fun x => x.base ≤ pa && pa < x.base + pageSize x.size with
    | some x => s.scalar d (say t.world x.size x.base) 1 e
    | none => s.scalar d ones64 1 e

/-! ## Loss records and the loss vector (R341 to R344) -/

/-- Bytes of a troupe image (R345). -/
def State.imageSize (s : State) (base : Nat) : Nat := 4096 * (min 8 (leNat (s.memRead (base + 0x501) 1)) + 1)

/-- An image of an evicted troupe over which others are written is no image any more (R341, R347). -/
def State.overwrite (s : State) (w pa n : Nat) : State :=
  let hit (a : Away) : Bool := a.world == w && a.image.isNone && a.tslot.isNone && !a.stopped &&
    decide (pa < a.base + s.imageSize a.base) && decide (a.base < pa + n)
  { s with away := s.away.map fun a => if hit a then { a with image := some (2 ^ 16) } else a }

/-- Save an image in the repossession area, at the next 4 KiB boundary: its offset, if it fits (R341). `bad` names
poisoned bytes of it: their lines are poisoned in the image (R429). -/
def State.saveImage (s : State) (w : Nat) (bs : List Byte) (bad : List Nat) : Option Nat × State :=
  let a := (s.world w).areas
  let off := (a.repOff + 4095) / 4096 * 4096
  if bs.isEmpty ∨ a.repSize < off + bs.length then (none, s)
  else
    let s := ((s.overwrite w (a.repBase + off) bs.length).storeBytes (a.repBase + off) bs).modWorld w fun x =>
      { x with areas := { x.areas with repOff := off + bs.length } }
    (some off, { s with poison := sortAsc (s.poison ++ bad.map fun b => (a.repBase + off + b) / 64) })

/-- Write a loss record, then update the summary (R342, R343). World 0, which has no loss area, has a summary alone: no
frame that may be another world's is written for it (R326, R352). -/
def State.loss (s : State) (w cls : Nat) (num : W64) (notice : Nat) (off : Option Nat) : State :=
  let x := s.world w
  let r : List W64 := [w64 (cls + b2n off.isSome * 256 + notice * 2 ^ 16), num, w64 s.alm,
    match off with | some o => w64 o | none => ones64]
  let s := if x.areas.lossCap = 0 then s
    else s.storeBytes (x.areas.lossBase + 32 * (x.lossTotal % x.areas.lossCap)) (r.flatMap wordBytes)
  s.modWorld w fun x =>
    { x with lossTotal := x.lossTotal + 1, lossCount := min 0xFFFF (x.lossCount + 1)
             lossBits := x.lossBits ||| (1#12 <<< cls) }

/-- The value a selector of `lossrd` names (R344). -/
def World.lossValue (x : World) (b : Nat) : W64 :=
  let a := x.areas
  match b with
  | 0 => w64 (x.lossBits.toNat + x.lossCount * 2 ^ 32)
  | 1 => w64 x.lossTotal
  | 2 => w64 a.lossBase
  | 3 => w64 a.lossCap
  | 4 => w64 a.repBase
  | 5 => w64 a.repSize
  | 6 => w64 a.repOff
  | 7 => w64 a.susBase
  | 8 => w64 a.susCap
  | 9 => w64 a.faultMbx
  | 10 => w64 a.noticeMbx
  | _ => ones64

/-- `lossrd` (R344): an acquire (R342). -/
def execLossrd (e : Bool) (d : Reg) (b : SSrc) (s : State) : Res :=
  let x := (s.world s.src.world).lossValue (sval b s.src).toNat
  s.done { s.me.setS d.val x with pts := max s.me.pts s.maxTs } (slen b) e

/-- `lossclr` (R344). -/
def execLossclr (e : Bool) (a : Reg) (s : State) : Res :=
  let m := s.src.sreg a.val
  s.runtimeOnly m <|
    .next ((s.modWorld s.src.world fun x =>
      { x with lossBits := x.lossBits &&& ~~~ (m.setWidth 12)
               lossCount := if bit m 32 then 0 else x.lossCount
               areas := { x.areas with repOff := if bit m 33 then 0 else x.areas.repOff } }).advance 1 e)

end Sys2Proof.Machine
end

