-- ==== Sys2Proof/Machine/Suspend.lean ====
section
/-! DEFINITION. Troupe images, `suspend`, `revive` and `resume` (R345, R347, R348). -/

namespace Sys2Proof.Machine

/-! ## Images (R345) -/

/-- A mask as sixteen bytes. -/
def maskBytes (m : Mask) : List Byte := leBytes 16 m.toNat

/-- Pad with zeros to n bytes. -/
def padTo (n : Nat) (bs : List Byte) : List Byte := bs ++ List.replicate (n - bs.length) 0

/-- The first 4 KiB of an image: the slot state. -/
def slotImage (t : Troupe) : List Byte :=
  let word (x : Nat) : List Byte := leBytes 8 x
  let bytes (n k fill : Nat) (l : List Nat) : List Byte := (List.range n).flatMap fun i => leBytes k (l.getD i fill)
  padTo 4096 <|
    (t.s.toList.flatMap wordBytes) ++ (t.p.toList.flatMap maskBytes) ++
    maskBytes t.exec ++ maskBytes t.live ++ maskBytes t.sp.replay ++
    word t.pc.toNat ++ wordBytes t.sp.timer ++ word t.sp.timerent.toNat ++ word t.sp.trappc.toNat ++
    word t.sp.divpc.toNat ++ word t.sp.divcause.toNat ++ word t.sp.fpctl.toNat ++
    word (t.sp.batch.toNat + b2n t.sp.special * 2 ^ 32) ++ word t.done.toNat ++
    word (t.reported.toNat + b2n t.handler * 2 ^ 8 + b2n (t.wrap != .no) * 2 ^ 9 + b2n (t.ctl.debug || t.ctl.haltReq) * 2 ^ 10 +
      b2n t.ctl.halted * 2 ^ 11) ++
    ((List.range 128).map fun l => BitVec.ofNat 8 (t.sticky.lane l)) ++
    [t.f, BitVec.ofNat 8 t.blocks.length] ++ leBytes 2 t.launch ++ leBytes 4 t.tid ++
    bytes 8 1 255 t.blocks ++ word t.pts ++
    wordBytes t.act.ad ++ wordBytes t.act.aw ++ wordBytes t.act.work ++ word t.act.used ++ word (b2n t.act.armed) ++
    bytes 8 2 0xFFFF (sortAsc t.ctl.ens)

/-- The register blocks of an image: eight vector registers in each. -/
def blockImage (t : Troupe) : List Byte :=
  (List.range (8 * t.blocks.length)).flatMap fun r => (t.vreg r).toList.flatMap fun x => leBytes 4 x.toNat

/-- The image of a troupe. -/
def troupeImage (t : Troupe) : List Byte := slotImage t ++ blockImage t

/-- The bytes of an image at which poisoned words stand (R345, R429). -/
def imagePoison (t : Troupe) : List Nat :=
  (t.ctl.vPoison.map fun x => 4096 + 512 * x.1 + 4 * x.2) ++ t.ctl.sPoison.map (8 * ·)

/-- Write the image of a troupe at a physical address, with what is poisoned of it (R429). -/
def State.putImage (s : State) (t : Troupe) (base : Nat) : State :=
  let s := s.storeBytes base (troupeImage t)
  { s with poison := sortAsc (s.poison ++ (imagePoison t).map fun b => (base + b) / 64) }

/-- The masks of the sticky bytes of an image. -/
def stickyOf (bs : List Byte) : Sticky :=
  let m (i : Nat) : Mask := maskOf fun l => (bs.getD l 0).getLsbD i
  { inv := m 0, dz := m 1, ovf := m 2, unf := m 3, nx := m 4 }

/-- The operations of a troupe without a result that are still with its service troupes (R201, R345). -/
def State.queuedOps (s : State) (uid : Nat) : List Op :=
  let rs := s.clusters.flatMap fun c => c.2.reqQ.filter fun r => r.uid == uid && !r.sync && !r.commit && !r.reduces
  (nub (rs.map fun r => r.opId)).map fun i =>
    { id := i, kind := .atomic .add false none, lanes := (rs.filter fun r => r.opId == i).flatMap fun r => r.lanes }

/-- The troupe that an image in memory restores, with what the module keeps of it besides; the rest is as at placement.
`live` is taken as the image has it, whatever has been written there, and `exec` within it (R102, R347; log 73). -/
def State.restore (s : State) (a : Away) (base core tslot : Nat) (blocks : List Nat) : Troupe :=
  let at_ (o n : Nat) : Nat := leNat (s.memRead (base + o) n)
  let flags := at_ 0x478 8
  let mbatch := at_ 0x468 8
  let bs := s.memRead (base + 4096) (4096 * blocks.length)
  let lanes (r : Nat) : Lanes := Lanes.ofFn fun l => w32 (leNat ((bs.drop (512 * r + 4 * l)).take 4))
  let t : Troupe :=
    { Troupe.blank with
      uid := a.uid, world := a.world, launch := a.launch, tid := a.tid, core := core, tslot := tslot, blocks := blocks
      f := BitVec.ofNat 8 (at_ 0x500 1), exec := BitVec.ofNat 128 (at_ 0x400 16) &&& BitVec.ofNat 128 (at_ 0x410 16)
      live := BitVec.ofNat 128 (at_ 0x410 16), pc := w32 (at_ 0x430 8)
      sp := { divpc := w32 (at_ 0x450 8), divcause := BitVec.ofNat 8 (at_ 0x458 8), timer := w64 (at_ 0x438 8)
              timerent := w32 (at_ 0x440 8), trappc := w32 (at_ 0x448 8), fpctl := BitVec.ofNat 8 (at_ 0x460 8)
              replay := BitVec.ofNat 128 (at_ 0x420 16), batch := w32 mbatch, special := mbatch / 2 ^ 32 % 2 == 1 }
      sticky := stickyOf (s.memRead (base + 0x480) 128)
      reported := BitVec.ofNat 5 flags, done := w32 (at_ 0x470 8)
      handler := flags / 2 ^ 8 % 2 == 1
      wrap := if flags / 2 ^ 9 % 2 = 0 then .no else if at_ 0x458 8 = 2 then .act else .launch
      act := { armed := at_ 0x538 8 % 2 == 1, ad := w64 (at_ 0x518 8), aw := w64 (at_ 0x520 8)
               work := w64 (at_ 0x528 8), used := at_ 0x530 8 }
      pts := max (at_ 0x510 8) a.pts, ops := s.queuedOps a.uid }
  let t := (List.range 64).foldl (fun t i => (t.setS i (w64 (at_ (8 * i) 8)))) t
  let t := (List.range 32).foldl (fun t i => t.setP i (BitVec.ofNat 128 (at_ (0x200 + 16 * i) 16))) t
  let t := (List.range (8 * blocks.length)).foldl (fun t r => t.setV r (lanes r)) t
  { t with act := { t.act with slack := s.actSlack t.act }
           ctl := { readyAt := s.cycle + 32, debug := flags / 2 ^ 10 % 2 == 1, halted := flags / 2 ^ 11 % 2 == 1
                    replayPc := if t.sp.replay = 0 then none else some t.pc
                    cycles := a.cycles, record := a.record, redTs := a.redTs, gathered := a.gathered
                    ens := ((s.ens.filter fun e => e.2.members.contains a.uid).map (·.1)) } }

/-! ## suspend (R345) -/

/-- A troupe that is leaving has come to rest: its run has ended and what it issued is performed, or accepted by the
request queues (R345, R250, R318). -/
def State.quiet (s : State) (t : Troupe) : Bool :=
  !s.holding t && t.ctl.batches.isEmpty && !(s.core t.core).mxUses.any (fun m => m.uid == t.uid) &&
  t.ops.all (fun o => match o.kind with | .atomic _ _ none => true | _ => false)

/-- Ask a troupe to leave: it wins no further run, and its miss entries go on without it (R185, R345). -/
def State.askLeave (s : State) (t : Troupe) : State :=
  if t.ctl.leaving then s
  else (s.leaveMisses t).modTroupe t.key fun t =>
    { t with ctl := { t.ctl with leaving := true, wait := .no } }

/-- What the module keeps of a troupe that leaves its slot. -/
def Troupe.away (t : Troupe) (base : Nat) (image tslot : Option Nat) : Away :=
  { uid := t.uid, world := t.world, launch := t.launch, tid := t.tid, core := t.core, base := base, image := image
    tslot := tslot, cycles := t.ctl.cycles, record := t.ctl.record, pts := t.pts, redTs := t.ctl.redTs
    gathered := t.ctl.gathered }

/-- Take a troupe out of its slot, with its image at an address. -/
def State.takeAway (s : State) (t : Troupe) (base : Nat) (image : Option Nat) (tslot : Option Nat) : State :=
  let s := (s.dropAsked t.uid).putImage t base
  { s with troupes := s.troupes.del t.key, away := s.away ++ [t.away base image tslot] }.opportunity

/-- The lowest free image of a world's suspend area. -/
def State.freeImage (s : State) (w : Nat) : Option Nat :=
  findBelow (s.world w).areas.susCap fun k => !s.away.any fun a => a.world == w && a.image == some k

/-- `suspend` (R345). -/
def execSuspend (e : Bool) (d a : Reg) (s : State) : Res :=
  let w := s.src.world
  let x := s.src.sreg a.val
  s.runtimeOnly x <|
    match s.atLocator w x with
    | none => s.scalar d (-1) 1 e
    | some t =>
      if s.isRuntime t then s.scalar d (-3) 1 e
      else match s.freeImage w with
        | none => s.scalar d (-4) 1 e
        | some k =>
          if t.ctl.exited ∨ t.ctl.stopped then s.stall
          else
            let s := s.askLeave t
            let t := (s.troupe t.key).getD t
            if !s.quiet t then s.stall
            else
              let base := (s.world w).areas.susBase + k * 0x9000
              (s.takeAway t base (some k) none).scalar d (w64 k) 1 e

/-! ## revive (R347) -/

/-- The live image that an operand of `revive` names: in the repossession area the latest that was written there. -/
def State.imageNamed (s : State) (w : Nat) (x : W64) : Option Away :=
  if bit x 63 then
    (s.away.filter fun a => a.world == w && a.image.isNone && a.tslot.isNone && !a.stopped &&
      a.base == (s.world w).areas.repBase + fld x 47 0).getLast?
  else s.away.find? fun a => a.world == w && a.image == some (fld x 15 0) && decide (fld x 15 0 < (s.world w).areas.susCap)

/-- Place a troupe that was away, its count moving with it (R347, R96), and divert it if its time has passed (R356). -/
def State.bringBack (s : State) (a : Away) (core tslot : Nat) (blocks : List Nat) : State :=
  let t := s.restore a a.base core tslot blocks
  let s := { s with away := s.away.filter fun x => x.uid != a.uid }
  let s := s.modLaunch a.launch fun l =>
    if a.core = core then l
    else
      let c := l.coreCount.put a.core (l.coreCount.get a.core 0 - 1)
      { l with coreCount := c.put core (c.get core 0 + 1) }
  let s := (s.putTroupe t).modCluster (clusterOf core) fun c => { c with lastPlace := some s.cycle }
  let l := s.launch a.launch
  if l.deadline ≠ 0 ∧ l.divertTime ≤ s.almOf core ∧ l.divertTime ≠ l.deadline ∧ t.wrap ≠ .launch then s.applyDivert t 1 else s

/-- `revive` (R347); an image with a poisoned line cannot be read (R429). -/
def execRevive (e : Bool) (d a : Reg) (b : SSrc) (s : State) : Res :=
  let w := s.src.world
  let x := s.src.sreg a.val
  let y := fld (sval b s.src) 7 0
  s.runtimeOnly x <|
    match s.imageNamed w x with
    | none => s.scalar d 1 (slen b) e
    | some i =>
      let l := s.launch i.launch
      let core := if y = 255 then i.core else y
      let size := leNat (s.memRead (i.base + 0x501) 1)
      let n := min 8 size
      if (s.launches.find i.launch).isNone then s.scalar d 1 (slen b) e
      else if s.poisoned i.base (4096 * (n + 1)) then s.bindFault 0x14 x
      else if 192 ≤ core ∨ !l.mayUse core ∨ (s.freeBlocks w core).length < n then s.scalar d 2 (slen b) e
      else match s.chooseSlot w core with
        | none => s.scalar d 2 (slen b) e
        | some slot => (s.bringBack i core slot ((s.freeBlocks w core).take n)).scalar d 0 (slen b) e

/-! ## resume (R348) -/

/-- `resume` (R348): the locator is s[A][12:0]. -/
def execResume (e : Bool) (d a : Reg) (mode : ResumeMode) (s : State) : Res :=
  let x := s.src.sreg a.val
  s.runtimeOnly x <|
    match s.atLocator s.src.world (w64 (fld x 12 0)) with
    | none => s.scalar d 1 1 e
    | some t =>
      if !t.ctl.halted then s.scalar d 1 1 e
      else
        let s := match mode with
          | .retry => (s.putTroupe { t with ctl := { t.ctl with halted := false } }).boundary t.key
          | .at => (s.putTroupe { t with pc := w32 (fld x 63 32), ctl := { t.ctl with halted := false } }).boundary t.key
          | .retire => s.exitNow { t with ctl := { t.ctl with resumeRetired := true } }
        s.scalar d 0 1 e

end Sys2Proof.Machine
end

