-- ==== Sys2Proof/Machine/Seize.lean ====
section
/-! DEFINITION. Taking a resource from a world, by yield or by seizure; revocation notices; pre-emption; `yieldres`
(R235, R249, R324, R337 to R346). -/

namespace Sys2Proof.Machine

/-! ## What is taken, and who still uses it (R340) -/

/-- The plots taken with a plot: both plots of an exchange pair (R322). -/
def State.plotUnit (s : State) (n : Nat) : List Nat :=
  let k := n % 256
  let j := n / 256 / 2
  if ((s.core k).xtab.find j).isSome then [2 * j * 256 + k, (2 * j + 1) * 256 + k] else [n]

/-- The window of a record reaches a plot. -/
def spanMeets (r : Rec) (clamp gather : Bool) (plot : Nat) : Bool :=
  match bounds r clamp gather with
  | none => false
  | some (lo, hi) => decide (((16384 * plot : Nat) : Int) ≤ hi) && decide (lo < ((16384 * (plot + 1) : Nat) : Int))

/-- A copy reads, writes or signals in a plot of a core. -/
def State.copyInPlot (s : State) (c : Copy) (core plot : Nat) : Bool :=
  let mine := c.core == core && c.queue.isNone
  let src := spanMeets c.src (recFill c.src == 2) c.gather plot
  let dst := spanMeets c.dst false false plot
  (match recSpace c.src with
   | 1 | 4 => mine && src
   | 3 => rfld c.src 1 26 19 == core && src
   | _ => false) ||
  (match recSpace c.dst with
   | 1 => mine && dst
   | 3 => rfld c.dst 1 26 19 == core && dst
   | 4 => dst && (match (s.core core).xtab.find (plot / 2) with | some x => x.ens == rfld c.dst 1 38 27 | none => false)
   | _ => false) ||
  (mine && c.bar.any fun b => b / 16384 == plot)

/-- A copy references a resource that is being taken (R340 step 3). No translation leads to a frame any more: a copy
that referenced one is marked. -/
def State.copyUses (s : State) (c : Copy) (w : Nat) (t : Take) : Bool :=
  c.world == w && c.cause.isNone &&
  (match t.cls with
   | 0 => c.drainBy.isSome
   | 2 => (s.plotUnit t.num).any fun n => s.copyInPlot c (n % 256) (n / 256)
   | 3 => c.core == t.num % 256 && c.queue.isNone &&
      ((recSpace c.src == 2 && rfld c.src 1 18 13 == t.num / 256) || (recSpace c.dst == 2 && rfld c.dst 1 18 13 == t.num / 256))
   | 7 => (recSpace c.src == 4 && rfld c.src 1 38 27 == t.num) || (recSpace c.dst == 4 && rfld c.dst 1 38 27 == t.num)
   | _ => false)

/-- The window of a copy's record in memory reaches a frame. -/
def State.copyInFrame (s : State) (c : Copy) (pa : Nat) : Bool :=
  let hits (write : Bool) (a n : Nat) : Bool :=
    match s.copyTarget c write a n with | .ok (p, _) => p / 4096 == pa / 4096 | .error _ => false
  (List.range (winCount c.src)).any fun k =>
    let i := winIndex c.src k
    (recSpace c.src == 0 && (match sourceOf c i with | .at a => hits false a (recSize c.src) | _ => false)) ||
    (recSpace c.dst == 0 && (match destOf c i with | some a => hits true a (recSize c.dst) | none => false))

/-- Started copies that reference a frame are given 4,096 cycles; the next chunk of any other fails in translation. -/
def State.drainFrame (s : State) (w pa : Nat) : State :=
  let mark (c : Copy) : Copy :=
    if c.world == w && c.started && c.cause.isNone && c.drainBy.isNone && s.copyInFrame c pa then
      { c with drainBy := some (s.cycle + 4096) }
    else c
  { s with copies := s.copies.map mark }

/-- Copies that reference the resource are given 4,096 cycles; one that has not started fails at its first chunk. -/
def State.drainCopies (s : State) (w : Nat) (t : Take) : State :=
  let mark (c : Copy) : Copy :=
    if s.copyUses c w t && c.drainBy.isNone then { c with drainBy := some (if c.started then s.cycle + 4096 else s.cycle) }
    else c
  let late := s.copies.filter fun c => s.copyUses c w t && !c.started
  late.foldl (fun s c => s.raiseEvent (.copyDrainTimeout c.id)) { s with copies := s.copies.map mark }

/-- A lane of an access lies in a frame. -/
def inFrame (pa : Nat) (o : LaneOp) : Bool := o.pa / 4096 == pa / 4096

/-- A plot has an exchange write of the open phase on its way to it, or an arrival at one of its barriers to come. -/
def State.plotBusy (s : State) (n : Nat) : Bool :=
  let isOpen (h : Held) : Bool := !(h.phase.any (· == (s.ensemble h.ens).phase + 1))
  s.held.any (fun h => h.core == n % 256 && h.pair == n / 256 / 2 && isOpen h) ||
  s.troupes.any fun t => t.2.core == n % 256 && t.2.ops.any fun o => match o.kind with
    | .arrive a _ _ => a / 16384 == n / 256
    | _ => false

/-- Step 3 of R340 is over: every access that passed its checks has been performed. -/
def State.drained (s : State) (w : Nat) (t : Take) : Bool :=
  let c := s.core (t.num % 256)
  let i := t.num / 256
  let copies := s.copies.all fun x =>
    !(s.copyUses x w t) || (x.todo.isEmpty && (match x.drainBy with | some y => decide (y ≤ s.cycle) | none => true))
  match t.cls with
  | 0 => copies && !(s.copies.any fun x => x.plan.any fun p => p.2.2.1 / 4096 == t.num / 4096) && !(s.troupes.any fun x => x.2.ops.any fun o => o.ordinary && o.lanes.any (inFrame t.num)) &&
      !(s.clusters.any fun x => x.2.reqQ.any fun r => r.lanes.any (inFrame t.num))
  | 2 => copies && !((s.plotUnit t.num).any s.plotBusy)
  | 3 => copies && !(c.mxUses.any fun m => !m.swap && (m.aslot == i || m.bslot == i))
  | 4 => !(c.mxUses.any fun m => m.acc == i) && (c.visBusy.find i).isNone
  | 5 => !(s.ringMoves.any fun m => m.slot == t.num)
  | 6 => !t.after.any s.underWay
  | 7 => copies && (s.ensemble t.num).pending.isEmpty
  | 8 => !(s.troupes.any fun x => x.2.ops.any fun o => match o.kind with | .mpost m _ _ => m == t.num | _ => false)
  | 9 => (s.lanes.get t.num {}).unacked.isEmpty || (s.lanes.get t.num {}).failed
  | _ => true

/-! ## Steps 1 and 2 (R340, R324) -/

/-- The largest aligned extents of a run of 4^k frames that leave a frame out, and the frame's own (R324). -/
def splitAround (w pa base : Nat) : Nat → List Extent
  | 0 => [{ base := base, size := 0, world := w, busy := [pa / 4096] }]
  | k + 1 => (List.range 4).flatMap fun i =>
    let b := base + i * pageSize k
    if b ≤ pa && pa < b + pageSize k then splitAround w pa b k else [{ base := b, size := k, world := w }]

/-- The entries of the remote table that name a target of the world lose V (R351). -/
def State.dropRemote (s : State) (w : Nat) (mbx : Bool) (n : Nat) : State :=
  let hit (e : W64) : Bool :=
    let target := fld e 60 25
    bit e 0 && fld e 20 15 == w && bit e 4 == mbx &&
      (if mbx then target == n else target * 4096 ≤ n && n < target * 4096 + pageSize (fld e 24 21))
  let clear (_ : Nat) (e : W64) : W64 := if hit e then e &&& ~~~ (1 : W64) else e
  { s with remote := s.remote.mapVals clear }

/-- A frame is closed and shot down: its extent is split, it is BUSY, and the world's entries that contain it, or whose
page lies in no single extent any more, are invalidated (R324, R340). -/
def State.closeFrame (s : State) (w pa : Nat) : State :=
  let split (x : Extent) : List Extent :=
    if x.base ≤ pa && pa < x.base + pageSize x.size then splitAround w pa x.base x.size else [x]
  let s := { s with extents := s.extents.flatMap split }
  let gone (y : Entry) : Bool :=
    let a := entryPa y
    let n := pageSize (entrySize y)
    entryWorld y == w && inModule a && ((a ≤ pa && pa < a + n) || !s.pageOwned w a n)
  let s := (List.range 24).foldl (fun s c => s.invalidate c fun _ y => gone y) s
  s.dropRemote w false pa

/-- Plots are closed: waits on their barriers fail (R262), and exchange writes held for the pair are discarded (R275).
-/
def State.closePlots (s : State) (w : Nat) (ns : List Nat) : State :=
  ns.foldl (fun s n =>
    let k := n % 256
    let s := s.setOwner 2 n (w + 64)
    let stuck := (s.troupes.filter fun t => t.2.core == k && t.2.world == w &&
      (match t.2.ctl.wait with | .bar a _ _ _ => a / 16384 == n / 256 | _ => false)).map (·.2)
    let s := stuck.foldl (fun s t =>
      s.faultAt t.atHead 4 6 t.atHead.live (match t.ctl.wait with | .bar a _ _ _ => w64 a | _ => 0)) s
    (s.held.filter fun h => h.core == k && 2 * h.pair == n / 256).foldl (fun s h => s.raiseEvent (.exchangeWriteLands h.id)) s) s

/-- The entries of a translation-buffer way, in set order (R341). -/
def Cluster.wayImage (c : Cluster) (way : Nat) : List Byte :=
  (List.range 512).flatMap fun set => wordBytes (c.entry set way).1 ++ wordBytes (c.entry set way).2

/-- A number of a translation-buffer way holds the entry at a place. -/
def inTbWay (n i : Nat) (_ : Entry) : Bool := i % 16 == n / 256

/-- A resource is about to be taken: of a translation-buffer way, what it holds and who is under way through it are
noted. -/
def State.newTake (s : State) (w cls num : Nat) (seize : Bool) (notice : Nat) : Take :=
  let t : Take := { cls := cls, num := num, seize := seize, notice := notice }
  if cls ≠ 6 then t
  else { t with image := if seize then (s.cluster (num % 256)).wayImage (num / 256) else []
                after := s.passing (num % 256) w (inTbWay num) }

/-- Steps 1 and 2 of R340: from now on no use passes its checks, and no translation leads to the resource. -/
def State.closeTake (s : State) (w : Nat) (t : Take) : State :=
  let s := s.modWorld w fun x => { x with takes := x.takes ++ [t] }
  match t.cls with
  | 0 => (s.drainFrame w t.num).closeFrame w t.num
  | 2 => (s.drainCopies w t).closePlots w (s.plotUnit t.num)
  | 3 => (s.drainCopies w t).setOwner 3 t.num (w + 64)
  | 5 => s.ringRebind t.num 0 t.seize t.notice
  | 6 => (s.setOwner 6 t.num (w + 64)).invalidate (t.num % 256) (inTbWay t.num)
  | 7 => (s.drainCopies w t).setOwner 7 t.num (w + 64)
  | 8 => (s.setOwner 8 t.num (w + 64)).dropRemote w true t.num
  | c => s.setOwner c t.num (w + 64)

/-! ## Steps 4 to 6 (R340, R341) -/

/-- The lines of an L2 data way. -/
def Slice.wayLines (sl : Slice) (way : Nat) : List (Nat × L2Line) :=
  sl.lines.filter fun e => match e.2.way with | some h => h / 2 == way | none => false

/-- Step 4: lines are written back and invalidated; a pin that a seizure drops has a record of its own (R174, R343). -/
def State.writeBack (s : State) (w : Nat) (t : Take) : State :=
  let pins (s : State) (lns : List Nat) : State :=
    if t.seize then lns.foldl (fun s ln => s.loss w 10 (w64 (ln * 128)) t.notice none) s else s
  match t.cls with
  | 0 =>
    let (s, lns) := s.flushRange t.num 4096
    pins s lns
  | 10 =>
    let ls := (s.slice (t.num % 256)).wayLines (t.num / 256)
    let s := ls.foldl (fun s e => s.evictLine e.1) s
    pins s ((ls.filter fun e => e.2.pinned.isSome).map (·.1))
  | _ => s

/-- The image of a resource, and its poisoned bytes (R341, R429). -/
def State.image (s : State) (t : Take) : List Byte × List Nat :=
  let c := s.core (t.num % 256)
  let i := t.num / 256
  match t.cls with
  | 0 => (s.memRead t.num 4096, (List.range 64).filterMap fun l => if s.poisoned (t.num + 64 * l) 64 then some (64 * l) else none)
  | 2 =>
    let ps := (s.plotUnit t.num).map (· / 256)
    (ps.flatMap fun p => c.spad.read (16384 * p) 16384,
     ps.zipIdx.flatMap fun (p, j) => (c.spadBad.filter fun r => r / 1024 == p).map fun r => 16384 * j + 16 * (r % 1024))
  | 3 => (c.oslots.read (8448 * i) 8448, (c.oslotBad.filter fun x => x.1 == i).map fun x => 64 * x.2)
  | 4 =>
    let a := c.acc i
    (bankBytes a.visible ++ bankBytes a.working ++ leBytes 8 0,
     (c.accBad.filter fun x => x.1 == i).map fun x => (if x.2.1 == a.visB then 0 else 65536) + 512 * x.2.2.1 + 4 * x.2.2.2)
  | 6 => (t.image, [])
  | 8 =>
    let m := s.mailbox t.num
    (padTo 4096 (m.entries.flatMap fun e => e.flatMap wordBytes) ++ leBytes 8 m.drops, [])
  | _ => ([], [])

/-- Plots are cleared, with their poison. -/
def Core.clearPlot (c : Core) (p : Nat) : Core :=
  { c with spad := c.spad.clear (16384 * p) 16384, spadBad := c.spadBad.filter fun r => r / 1024 != p }

/-- An operand slot is cleared, with its poison and its claim (R286, R289). -/
def Core.clearSlot (c : Core) (i : Nat) : Core :=
  { c with oslots := c.oslots.clear (8448 * i) 8448, oslotBad := c.oslotBad.filter fun x => x.1 != i
           oClaimed := c.oClaimed.filter (· != i) }

/-- An accumulator is cleared, with its poison and its claim (R288, R289). -/
def Core.clearAcc (c : Core) (i : Nat) : Core :=
  { c with accs := c.accs.del i, accBad := c.accBad.filter fun x => x.1 != i, aClaimed := c.aClaimed.filter (· != i) }

/-- Frames read as zero, and are not poisoned any more; no core keeps a copy of what they held (R225, R428). Every
line of them is written, each under a fresh counter (R425, R426, R428). -/
def State.scrub (s : State) (pa n : Nat) : State :=
  let forget (_ : Nat) (c : Core) : Core := { c with l1 := c.l1.filter fun x => !(pa ≤ 128 * x.1 && 128 * x.1 < pa + n) }
  { s.wroteLines pa n with
    cores := s.cores.mapVals forget
    mem := s.mem.clear pa n, poison := s.poison.filter fun l => !(pa ≤ 64 * l && 64 * l < pa + n) }

/-- The contents of a resource are cleared (R340 step 6); the slots of the Procession are cleared as R249 states. -/
def State.clearRes (s : State) (cls n : Nat) : State :=
  let k := n % 256
  let i := n / 256
  match cls with
  | 2 => s.modCore k fun c => c.clearPlot i
  | 3 => s.modCore k fun c => c.clearSlot i
  | 4 => s.modCore k fun c => c.clearAcc i
  | 6 => s.modCluster k fun c => { c with tlb := c.tlb.filter fun e => e.1 % 16 != i }
  | 7 =>
    let s := s.modEns n fun _ => { owner := (s.ensemble n).owner }
    let f (_ : Nat) (t : Troupe) : Troupe := { t with ctl := { t.ctl with ens := t.ctl.ens.filter (· != n) } }
    { s with troupes := s.troupes.mapVals f }
  | 8 => s.modMailbox n fun m => { owner := m.owner }
  | 9 => { s with lanes := s.lanes.put n { s.lanes.get n {} with unacked := [], resends := 0 } }
  | _ => s

/-- Step 6: the resource is cleared and free (R340). -/
def State.freeTake (s : State) (w : Nat) (t : Take) : State :=
  match t.cls with
  | 0 => { s.scrub t.num 4096 with extents := s.extents.filter fun x => !(x.base == t.num && x.size == 0 && x.world == w) }
  | 2 =>
    let ns := s.plotUnit t.num
    let s := ns.foldl (fun s n => (s.clearRes 2 n).setOwner 2 n 0) s
    if ns.length = 2 then s.modCore (t.num % 256) fun c => { c with xtab := c.xtab.del (t.num / 256 / 2) } else s
  | 10 =>
    let i := t.num % 256
    let bit := 2 ^ (t.num / 256)
    let drop (x : World) : World :=
      let d := x.limits.dways.get i 0
      { x with limits := { x.limits with dways := if d / bit % 2 = 1 then x.limits.dways.put i (d - bit) else x.limits.dways } }
    (s.modWorld w drop).setOwner 10 t.num 0
  | c => (s.clearRes c t.num).setOwner c t.num 0

/-- Steps 4 to 6 for a resource whose uses are drained (R340). A Procession slot has been through them (R249). -/
def State.finishTake (s : State) (w : Nat) (t : Take) : State :=
  let s := s.modWorld w fun x => { x with takes := x.takes.filter (· != t) }
  if t.cls = 5 then s
  else
    let s := s.writeBack w t
    let s :=
      if t.seize then
        let (bs, bad) := s.image t
        let (off, s) := s.saveImage w bs bad
        s.loss w t.cls (w64 t.num) t.notice off
      else s
    s.freeTake w t

/-- PROCESSION_OWNER_CHANGE: at the slot's arrival at stop 0, its payload is saved or scrubbed, what is pending on it
is performed as on a vacated slot, and it has its new owner; a BIND leaves a poisoned slot poisoned (R235, R249,
R252). -/
def execProcessionOwnerChange (slot : Nat) (s : State) : Res :=
  match s.ringMoves.find? fun m => m.slot == slot with
  | none => .next s
  | some m =>
    if !s.atStopZero slot then .next s
    else
      let r := s.ringSlot slot
      let s :=
        if m.save then
          let (off, s) := s.saveImage r.owner (if r.boarded && !r.poisoned then r.w.flatMap wordBytes else []) []
          s.loss r.owner 5 (w64 slot) m.notice off
        else s
      let s := s.ringClear slot
      let s := s.putSlot slot { r with w := [0, 0, 0, 0], owner := m.owner, boarded := false, poisoned := r.poisoned && m.owner != 0 }
      .next { s with ringMoves := s.ringMoves.filter fun x => x.slot != slot }

/-! ## Notices (R337, R338) -/

/-- The resource is never named in a notice, seized or yielded (R326, R337). -/
def State.protected (s : State) (w cls n : Nat) : Bool :=
  let a := (s.world w).areas
  match cls with
  | 0 => (s.extentOf n).any (·.area)
  | 1 => s.troupes.any fun t => t.2.world == w && s.isRuntime t.2 && t.2.core == n % 256 &&
      (if n / 2 ^ 15 = 1 then t.2.blocks.contains (n / 256 % 128) else t.2.tslot == n / 256)
  | 8 => n == a.faultMbx || n == a.noticeMbx
  | _ => false

/-- The resource is bound to the world and is not being taken from it. -/
def State.holdsRes (s : State) (w cls n : Nat) : Bool :=
  match cls with
  | 0 => n % 4096 == 0 && inModule n && (s.extentOf n).any fun x => x.world == w && x.busy.isEmpty
  | 5 => resOk 5 n && s.ownerOf 5 n == w && !s.ringMoves.any fun m => m.slot == n
  | _ => resOk cls n && s.ownerOf cls n == w

/-- The highest-numbered resource of a class that a world holds and no notice excludes (R338). -/
def State.highestRes (s : State) (w cls : Nat) : Option Nat :=
  if cls = 0 then
    (s.extents.filter fun x => x.world == w && !x.area && x.busy.isEmpty).foldl (fun (m : Option Nat) x =>
      let top := x.base + pageSize x.size - 4096
      match m with | some y => some (max y top) | none => some top) none
  else (resNumbers cls).reverse.find? fun n => s.holdsRes w cls n && !s.protected w cls n

/-- Replace a notice of a world. -/
def State.setNotice (s : State) (w : Nat) (n : Notice) : State :=
  s.modWorld w fun x => { x with notices := x.notices.map fun y => if y.id == n.id then n else y }

/-- The Almanac time n cycles from now: at the rate of now, and without the fraction of a nanosecond (R337; DESIGN
CHOICE, log 85). -/
def State.almAfter (s : State) (n : Nat) : Nat :=
  s.alm + (s.almFrac + n * (20 * ((1000000 : Int) + s.ppm)).toNat) / 21000000

/-- Post the closing entry of a notice that is through with its seizures, once the mailbox has room (R337, R338). -/
def State.closeNotice (s : State) (w : Nat) (n : Notice) : State :=
  let m := (s.world w).areas.noticeMbx
  if 64 ≤ (s.mailbox m).entries.length then s
  else
    let nums := (List.range 4).map fun i => n.seized.getD i ones64
    let s := s.modWorld w fun x => { x with notices := x.notices.filter fun y => y.id != n.id }
    s.mbxPut m ([w64 (5 + n.cls * 2 ^ 8 + n.seized.length % 2 ^ 16 * 2 ^ 16 + n.id * 2 ^ 32), 1, w64 s.cycle, w64 s.alm] ++ nums)

/-- A yield counts towards the open notice of its class, and may satisfy it (R338). -/
def State.noteYield (s : State) (w cls num k : Nat) : State :=
  match (s.world w).notices.find? fun n => n.cls == cls && n.posted && !n.closing with
  | none => s
  | some n =>
    let here := cls ≠ 1 ∨ num % 256 = n.core
    let slot := cls = 1 ∧ num / 2 ^ 15 = 0
    let n := if !here then n else if slot then { n with slotsYielded := n.slotsYielded + k } else { n with yielded := n.yielded + k }
    if n.count ≤ n.yielded ∧ n.slots ≤ n.slotsYielded then
      let n := { n with closing := true }
      (s.setNotice w n).closeNotice w n
    else s.setNotice w n

/-- NOTICE_POST: held notices and closing entries are posted while the mailbox has room; a Halted world is posted no
notice (R321, R337). -/
def execNoticePost (w : Nat) (s : State) : Res :=
  .next ((s.world w).notices.foldl (fun s n =>
    let m := (s.world w).areas.noticeMbx
    if n.posted then
      if n.closing ∧ n.evict.isEmpty ∧ !((s.world w).takes.any fun t => t.notice == n.id && t.seize) then s.closeNotice w n else s
    else if 64 ≤ (s.mailbox m).entries.length ∨ (s.world w).st = .halted then s
    else
      let n := { n with posted := true, expiry := s.cycle + n.life, expiryNs := s.almAfter n.life }
      let s := (s.setNotice w n).mbxPut m
        ([w64 (5 + n.cls * 2 ^ 8 + n.count * 2 ^ 16 + n.id * 2 ^ 32), 0, w64 n.expiry, w64 n.expiryNs] ++ n.cand)
      if n.count = 0 ∧ n.slots = 0 then
        let n := { n with closing := true }
        (s.setNotice w n).closeNotice w n
      else s) s)

/-- Seize candidates in order, while some are wanted (R338). -/
def State.seizeCands (s : State) (w : Nat) (n : Notice) : List W64 → Nat → State × Notice × Nat
  | [], k => (s, n, k)
  | _, 0 => (s, n, 0)
  | x :: rest, k + 1 =>
    if s.holdsRes w n.cls x.toNat then
      (s.closeTake w (s.newTake w n.cls x.toNat true n.id)).seizeCands w
        { n with seized := n.seized ++ [x] } rest k
    else s.seizeCands w n rest (k + 1)

/-- Seize the highest-numbered resources, while some are wanted (R338). -/
def State.seizeHighest (s : State) (w : Nat) (n : Notice) : Nat → State × Notice
  | 0 => (s, n)
  | k + 1 =>
    match s.highestRes w n.cls with
    | none => (s, n)
    | some x =>
      (s.closeTake w (s.newTake w n.cls x true n.id)).seizeHighest w
        { n with seized := n.seized ++ [w64 x] } k

/-! ## Pre-emption (R346) -/

/-- Take free blocks and slots of a core, highest-numbered first, with their records. -/
def State.grab (s : State) (w : Nat) (n : Notice) (nums : List Nat) : State × Notice :=
  nums.foldl (fun (x : State × Notice) m =>
    ((x.1.setOwner 1 m 0).loss w 1 (w64 m) n.id none, { x.2 with seized := x.2.seized ++ [w64 m] })) (s, n)

/-- Blocks and slots still wanted. -/
def Notice.wants (n : Notice) : Nat × Nat :=
  let blocks := (n.seized.filter fun x => bit x 15).length
  (n.count - n.yielded - blocks, n.slots - n.slotsYielded - (n.seized.length - blocks))

/-- Take what is free of what is wanted. -/
def State.grabFree (s : State) (w : Nat) (n : Notice) : State × Notice :=
  let (b, k) := n.wants
  let (s, n) := s.grab w n (((s.freeBlocks w n.core).reverse.take b).map fun x => 2 ^ 15 + x * 256 + n.core)
  s.grab w n (((s.freeSlots w n.core).reverse.take k).map fun x => x * 256 + n.core)

/-- The sum of the k largest numbers. -/
def largestSum (l : List Nat) : Nat → Nat
  | 0 => 0
  | k + 1 => match least (fun x => 1000 - x) l with
    | none => 0
    | some x => x + largestSum (l.erase x) k

/-- The set of k troupes, by descending slot, with the greatest slots that covers so many blocks. -/
def coverSet : List Troupe → Nat → Nat → List Troupe
  | [], _, _ => []
  | _, 0, _ => []
  | t :: rest, k + 1, need =>
    if k ≤ rest.length ∧ need ≤ t.blocks.length + largestSum (rest.map fun x => x.blocks.length) k then
      t :: coverSet rest k (need - t.blocks.length)
    else coverSet rest (k + 1) need

/-- The smallest set of troupes of a world on a core, not the runtime troupe, that covers what is wanted; all of them
when none does (R346). -/
def State.victims (s : State) (w core blocks slots : Nat) : List Troupe :=
  let ts := (List.range 32).reverse.filterMap fun i => match s.troupe (keyOf core i) with
    | some t => if t.world = w ∧ !s.isRuntime t then some t else none
    | none => none
  let bs := ts.map fun t => t.blocks.length
  match findBelow (ts.length + 1) fun k => slots ≤ k && blocks ≤ largestSum bs k with
  | none => ts
  | some k => coverSet ts k blocks

/-- Evict a troupe that has come to rest, with its image in the repossession area and its record (R346). One whose
image does not fit can never be revived. Nothing is placed in what it leaves before the notice has taken its part. -/
def State.evict (s : State) (t : Troupe) (notice : Nat) : State :=
  let (off, s) := (s.dropAsked t.uid).saveImage t.world (troupeImage t) (imagePoison t)
  let a := t.away ((s.world t.world).areas.repBase + off.getD 0) (if off.isSome then none else some (2 ^ 16)) none
  let s := { s with troupes := s.troupes.del t.key, away := s.away ++ [a] }
  let s := ((t.core + t.tslot * 256) :: t.blocks.map fun b => 2 ^ 15 + b * 256 + t.core).foldl
    (fun s n => s.setOwner 1 n (t.world + 64)) s
  s.loss t.world 1 (w64 (t.core + t.tslot * 256)) notice off

/-- What evicted troupes left is the world's again (R346). -/
def State.unhold (s : State) (w core : Nat) : State :=
  let f (t : Table Nat) : Table Nat := t.mapVals fun _ o => if o == w + 64 then w else o
  s.modCore core fun c => { c with tslotOwner := f c.tslotOwner, blockOwner := f c.blockOwner }

/-- One step of the pre-emption of a notice of class 1: troupes that have come to rest leave, and when none is left
the freed blocks and slots are taken. -/
def State.preempt (s : State) (w : Nat) (n : Notice) : State × Notice :=
  let (s, left) := n.evict.foldl (fun (x : State × List Nat) u =>
    match x.1.troupes.find? fun t => t.2.uid == u with
    | none => x
    | some (_, t) =>
      if x.1.quiet t ∧ ¬ t.ctl.exited ∧ ¬ t.ctl.stopped then (x.1.evict t n.id, x.2) else (x.1, x.2 ++ [u])) (s, [])
  let n := { n with evict := left }
  if left.isEmpty then
    let (s, n) := (s.unhold w n.core).grabFree w n
    (s.opportunity, n)
  else (s, n)

/-- Choose what a notice takes at its expiry (R338, R346). -/
def State.chooseVictims (s : State) (w : Nat) (n : Notice) : State × Notice :=
  let n := { n with closing := true }
  if n.cls = 1 then
    let (s, n) := s.grabFree w n
    let (b, k) := n.wants
    if b = 0 ∧ k = 0 then (s, n)
    else
      let ts := s.victims w n.core b k
      (ts.foldl (fun s t => s.askLeave t) s, { n with evict := ts.map (·.uid) })
  else
    let (s, n, k) := s.seizeCands w n n.cand (n.count - n.yielded)
    s.seizeHighest w n k

/-- NOTICE_EXPIRY: at expiry the abort engine closes what it seizes; then it finishes each resource as its uses drain,
and posts the closing entry after the last record (R338, R340, R346). -/
def execNoticeExpiry (w id : Nat) (s : State) : Res :=
  match (s.world w).notices.find? fun n => n.id == id with
  | none => .next s
  | some n =>
    if n.posted = false ∨ s.alm < n.expiryNs ∧ n.closing = false then .next s
    else
      let (s, n) := if n.closing then (s, n) else s.chooseVictims w n
      let (s, n) := if n.cls = 1 then s.preempt w n else (s, n)
      let s := s.setNotice w n
      let mine (s : State) : List Take := (s.world w).takes.filter fun t => t.seize && t.notice == id
      let s := (mine s).foldl (fun s t => if s.drained w t then s.finishTake w t else s) s
      .next (if (mine s).isEmpty ∧ n.evict.isEmpty then s.closeNotice w n else s)

/-! ## yieldres (R339) -/

/-- The status of a yield that is asked for (R339); log 18 gives the order. -/
def State.yieldStatus (s : State) (w cls n : Nat) : Nat :=
  let seized := (cls == 1 && resOk 1 n && s.ownerOf 1 n == w + 64) || (s.world w).takes.any fun t => t.seize && t.cls == cls &&
    (t.num == n || (cls == 2 && (s.plotUnit t.num).contains n))
  let used :=
    cls == 1 && s.troupes.any fun t => t.2.core == n % 256 &&
      (if n / 2 ^ 15 = 1 then t.2.blocks.contains (n / 256 % 128) else t.2.tslot == n / 256)
  if seized then 5
  else if !s.holdsRes w cls n then 1
  else if s.protected w cls n then 4
  else if used then 2
  else 0

/-- The resource has left the world: the count of the notice, and the status. -/
def State.yielded (s : State) (e : Bool) (d : Reg) (cls n k : Nat) : Res :=
  (s.noteYield s.src.world cls n k).scalar d 0 1 e

/-- `yieldres` (R339): it stalls while the uses of the resource drain. -/
def execYieldres (e : Bool) (d a : Reg) (cls : Fin 11) (s : State) : Res :=
  let w := s.src.world
  let x := s.src.sreg a.val
  let n := x.toNat
  s.runtimeOnly x <|
    match (s.world w).takes.find? fun t => !t.seize with
    | some t =>
      if !s.drained w t then s.stall
      else
        let k := if t.cls = 2 then (s.plotUnit t.num).length else 1
        let s := s.finishTake w t
        if t.cls = cls.val ∧ t.num = n then s.yielded e d t.cls n k else (s.noteYield w t.cls t.num k).stall
    | none =>
      let st := s.yieldStatus w cls.val n
      if st ≠ 0 then s.scalar d (w64 st) 1 e
      else if cls.val = 1 then (s.setOwner 1 n 0).yielded e d 1 n 1
      else
        let t := s.newTake w cls.val n false 0
        let k := if t.cls = 2 then (s.plotUnit n).length else 1
        let s := s.closeTake w t
        if s.drained w t then (s.finishTake w t).yielded e d t.cls n k else s.stall

end Sys2Proof.Machine
end

