-- ==== Sys2Proof/Machine/Allocator.lean ====
section
/-! DEFINITION. The allocator's commands: CREATE, DESTROY, BIND, REVOKE, LIMITS and REMOTE (R320 to R329, R337, R351,
R353, R424, R445). -/

namespace Sys2Proof.Machine

/-! ## Commands (R327, R329, R434) -/

/-- A command as the words of its buffer. -/
def cmdWords (code w : Nat) (ops : List W64) : List W64 := w64 (code + w * 256) :: ops

/-- The command ends with a status: 0 done, 1 invalid, 2 held by another, 3 wrong state; PF vector 6 is raised. -/
def State.allocDone (s : State) (status : Nat) : Res :=
  .next (({ s with mgmt := { s.mgmt with running := [], begun := false, allocStatus := status } }).irq 0 6)

/-- The command has begun, and waits for what it has begun. -/
def State.allocWait (s : State) : Res := .next { s with mgmt := { s.mgmt with begun := true } }

/-- One turn of the allocator at a command: its first turns, until it begins or ends, or those that follow. While
another command is in progress nothing happens: commands are performed whole, in order (R327). Before the management
firmware runs there is no allocator (R413). -/
def State.alloc (s : State) (code w : Nat) (ops : List W64) (fresh again : State → Res) : Res :=
  let words := cmdWords code w ops
  if !s.mgmt.booted then .next s
  else if s.mgmt.running.isEmpty then fresh { s with mgmt := { s.mgmt with running := words, begun := false } }
  else if s.mgmt.running ≠ words then .next s
  else if s.mgmt.begun then again s
  else fresh s

/-- Word n of the command buffer, from 1. -/
def opw (ops : List W64) (n : Nat) : W64 := ops.getD (n - 1) 0

/-- The words of the buffer from n on are zero. -/
def restZero (ops : List W64) (n : Nat) : Bool := (ops.drop (n - 1)).all (· == 0)

/-- The world exists. -/
def State.present (s : State) (w : Nat) : Bool := (s.world w).st != .absent

/-- A command on an existing world, behind the checks of its operands (R329; log 19 orders the statuses). -/
def State.onWorld (s : State) (w : Nat) (ok : Bool) (go : Res) : Res :=
  if !s.present w then s.allocDone 3 else if !ok then s.allocDone 1 else go

/-- The command that a submitted buffer names, if its word 0 is well formed and it names one. -/
def commandOf (words : List W64) : Option Instr :=
  let x := words.headD 0
  let ops := words.drop 1
  let w := fld x 13 8
  if 2 ^ 14 ≤ x.toNat then none
  else match fld x 7 0 with
    | 1 => some (.create w ops)
    | 2 => if restZero ops 1 then some (.destroy w) else none
    | 3 => some (.bind w ops)
    | 4 => some (.revoke w ops)
    | 5 => match (opw ops 1).toNat with
      | 0 => some (.limitsTokenBudget w ops)
      | 1 => some (.limitsDways w ops)
      | 2 => some (.limitsPinQuota w ops)
      | 3 => some (.limitsMissQuota w ops)
      | 4 => some (.limitsRequestQuota w ops)
      | 5 => some (.limitsWatchdog w ops)
      | 6 => some (.limitsTimingFence w ops)
      | 7 => some (.limitsReservedCycles w ops)
      | _ => none
    | 6 => some (.switch w ops)
    | 7 => some (.remote w ops)
    | 8 => some (.restart w ops)
    | 9 => some (.launch w ops)
    | _ => none

/-! ## Extents (R324) -/

/-- Base and size code of an operand that names an extent or an aperture. -/
def extBase (x : W64) : Nat := fld x 47 12 * 4096
/-- The size code. -/
def extCode (x : W64) : Nat := fld x 3 0

/-- Two ranges overlap. -/
def meets (a n b m : Nat) : Bool := decide (a < b + m) && decide (b < a + n)

/-- An operand names an aligned run of frames, wholly in memory that `inside` admits, and no run named before. -/
def extentForm (inside : Region → Bool) (before : List W64) (x : W64) : Bool :=
  let b := extBase x
  let n := pageSize (extCode x)
  extCode x ≤ 11 && b % n == 0 && inside (regionOf b) && regionOf b == regionOf (b + n - 1) &&
  !before.any fun y => meets b n (extBase y) (pageSize (extCode y))

/-- The status for frames that some extent holds already (R329): 1 for the world's own, 2 for another's. -/
def State.extentHeld (s : State) (w : Nat) (x : W64) : Nat :=
  let hit := s.extents.filter fun e => meets (extBase x) (pageSize (extCode x)) e.base (pageSize e.size)
  if hit.isEmpty then (if w = 0 then 1 else 0) else if hit.any fun e => e.world != w then 2 else 1

/-- The largest aligned extents that cover a range of frames, largest first (R324). -/
def coverRange (lo hi world : Nat) : Nat → List Extent
  | 0 => []
  | k + 1 =>
    match (List.range 12).reverse.find? fun c => lo % pageSize c == 0 && decide (lo + pageSize c ≤ hi) with
    | none => []
    | some c => { base := lo, size := c, world := world, area := true } :: coverRange (lo + pageSize c) hi world k

/-! ## CREATE (R320, R326, R329, R424, R445) -/

/-- Round up to 4 KiB. -/
def upFrame (n : Nat) : Nat := (n + 4095) / 4096 * 4096

/-- Lay the areas out in order, each wholly within one extent; an area of no bytes has base 0 (log 20). -/
def layAreas : List Nat → Nat → List (Nat × Nat) → Nat → Option (List Nat)
  | [], _, _, _ => some []
  | _, _, [], _ => none
  | _, _, _, 0 => none
  | n :: rest, pos, (lo, hi) :: more, k + 1 =>
    let at_ := max pos lo
    if n = 0 then (layAreas rest pos ((lo, hi) :: more) k).map (0 :: ·)
    else if at_ + n ≤ hi then (layAreas rest (at_ + upFrame n) ((lo, hi) :: more) k).map (at_ :: ·)
    else layAreas (n :: rest) 0 more k

/-- Sizes of the four areas that a CREATE asks for. -/
def areaSizes (ops : List W64) : List Nat :=
  [32 * 2 ^ (opw ops 1).toNat, (opw ops 2).toNat, (opw ops 3).toNat * 0x9000, (opw ops 4).toNat]

/-- Extents that a CREATE names. -/
def createExtents (ops : List W64) : List W64 := ([6, 7, 8, 9].map (opw ops)).filter (· != 0)

/-- The operands of a CREATE keep their ranges. -/
def createOk (ops : List W64) : Bool :=
  let lg := (opw ops 1).toNat
  let rep := (opw ops 2).toNat
  let xs := createExtents ops
  6 ≤ lg && lg ≤ 16 && rep % 0x10000 == 0 && 0x10000 ≤ rep && rep ≤ 64 * 2 ^ 30 &&
  (opw ops 3).toNat ≤ 1024 && (opw ops 4).toNat % 4096 == 0 &&
  (opw ops 5 &&& ~~~ (0x3FF03FF : W64)) == 0 && fld (opw ops 5) 9 0 != fld (opw ops 5) 25 16 && restZero ops 10 &&
  xs.zipIdx.all fun (x, i) =>
    (x &&& ~~~ (0xFFFFFFFFF00F : W64)) == 0 && extentForm (· == .lpddr) (xs.take i) x

/-- Set the areas of a new world up: their frames are scrubbed and its own, with AREA set. -/
def State.makeAreas (s : State) (w : Nat) (bases sizes : List Nat) : State :=
  (bases.zip sizes).foldl (fun s x =>
    if x.2 = 0 then s
    else
      let n := upFrame x.2
      let s := ((s.flushRange x.1 n).1).scrub x.1 n
      { s with extents := s.extents ++ coverRange x.1 (x.1 + n) w 200 }) s

/-- CREATE (R329): the world becomes Live, with fresh keys, empty bindings, its areas and its two mailboxes. -/
def execCreate (w : Nat) (ops : List W64) (s : State) : Res :=
  s.alloc 1 w ops (fun s =>
    let fm := fld (opw ops 5) 9 0
    let nm := fld (opw ops 5) 25 16
    let xs := createExtents ops
    let sizes := areaSizes ops
    if s.present w then s.allocDone 3
    else if !createOk ops then s.allocDone 1
    else match layAreas sizes 0 (xs.map fun x => (extBase x, extBase x + pageSize (extCode x))) 12 with
      | none => s.allocDone 1
      | some bases =>
        if xs.any (fun x => s.extentHeld w x != 0) ∨ (s.mailbox fm).owner ≠ 0 ∨ (s.mailbox nm).owner ≠ 0 then s.allocDone 2
        else
          let (k, s) := s.freshId
          let s := { s with mgmt := { s.mgmt with creates := s.mgmt.creates + 1 } }
          let s := s.makeAreas w bases sizes
          let areas : Areas :=
            { faultMbx := fm, noticeMbx := nm, lossBase := bases.getD 0 0, lossCap := 2 ^ (opw ops 1).toNat
              repBase := bases.getD 1 0, repSize := sizes.getD 1 0, susBase := bases.getD 2 0
              susCap := (opw ops 3).toNat, swBase := bases.getD 3 0, swSize := sizes.getD 3 0 }
          let s := s.modWorld w fun _ =>
            { st := .live, epoch := s.mgmt.creates, areas := areas, keys := some ⟨3 * k, 3 * k + 1, 3 * k + 2⟩ }
          let s := (s.modMailbox fm fun _ => { owner := w }).modMailbox nm fun _ => { owner := w }
          s.allocDone 0) (fun s => s.allocDone 0)

/-! ## BIND (R327, R329, R353) -/

/-- No other world holds a troupe slot in a cluster of a fenced world, and some cluster holds no fenced world's
slot (R353). Free slots are nobody's. -/
def State.fenceOk (s : State) : Bool :=
  let clusters := s.fencedWorlds.map fun f => (f, s.clustersOf f)
  clusters.all (fun (f, cs) => cs.all fun c => (List.range 8).all fun i =>
    (s.core (8 * c + i)).tslotOwner.all fun o => o.2 == 0 || o.2 % 64 == f) &&
  (clusters.isEmpty || (List.range 24).any fun c => !clusters.any fun x => x.2.contains c)

/-- The numbers that an operand of BIND names: both plots of an exchange pair. -/
def bindNums (cls : Nat) (x : W64) : List Nat :=
  if cls = 2 ∧ bit x 15 then [x.toNat % 2 ^ 15, x.toNat % 2 ^ 15 + 256] else [x.toNat]

/-- The form of an operand of BIND, after those before it. -/
def bindForm (cls : Nat) (before : List W64) (x : W64) : Bool :=
  if cls = 0 then
    (x &&& ~~~ (0xFFFFFFFFF00F : W64)) == 0 && extentForm (fun r => r == .sram || r == .lpddr) before x
  else if cls = 0xFF then
    (x &&& ~~~ (0xFFFFFFFFF03F : W64)) == 0 &&
      extentForm (fun r => match r with | .host | .peer _ => true | _ => false) [] x
  else
    let pair := cls == 2 && bit x 15
    (!pair || (x.toNat < 2 ^ 28 && x.toNat / 256 % 2 == 0)) && (bindNums cls x).all (resOk cls) &&
    (bindNums cls x).all fun n => !before.any fun y => (bindNums cls y).contains n

/-- The status for which an operand of the right form is refused: 1 for what is the world's already or a pair whose
ensemble is nobody's, 2 for what another world holds (R329). -/
def State.bindStatus (s : State) (w cls : Nat) (x : W64) : Nat :=
  if cls = 0 then s.extentHeld w x
  else if cls = 0xFF then 0
  else
    let own (o : Nat) : Nat := if o % 64 = w then 1 else if o = 0 then 0 else 2
    let pair : Nat :=
      if cls = 2 ∧ bit x 15 then
        let o := (s.ensemble (fld x 27 16)).owner
        if o = w ∧ w ≠ 0 then 0 else if o = 0 then 1 else 2
      else 0
    let taken := (bindNums cls x).foldl (fun a n => max a (own (s.ownerOf cls n))) 0
    if cls = 9 ∧ s.timeLane = some x.toNat then 2 else if taken ≠ 0 then taken else pair

/-- Bind one operand: what it names is cleared before its tag changes (R327). -/
def State.bindOne (s : State) (w cls : Nat) (x : W64) : State :=
  match cls with
  | 0 =>
    let b := extBase x
    let n := pageSize (extCode x)
    let s := ((s.flushRange b n).1).scrub b n
    { s with extents := s.extents ++ [{ base := b, size := extCode x, world := w }] }
  | 0xFF =>
    s.modWorld w fun y => { y with apertures := y.apertures ++ [⟨extBase x, extCode x, bit x 4, bit x 5⟩] }
  | 5 => s.ringRebind x.toNat w false 0
  | 9 => { s with lanes := s.lanes.put x.toNat { owner := w } }
  | 2 =>
    let s := (bindNums 2 x).foldl (fun s n => (s.clearRes 2 n).setOwner 2 n w) s
    if bit x 15 then
      s.modCore (x.toNat % 256) fun c => { c with xtab := c.xtab.put (x.toNat / 512 % 64) { ens := fld x 27 16 } }
    else s
  | _ => (s.clearRes cls x.toNat).setOwner cls x.toNat w

/-- Operands of a BIND. -/
def bindItems (ops : List W64) : List W64 := (ops.drop 2).take (opw ops 2).toNat

/-- BIND (R327, R329): Procession slots reach the world as they pass stop 0 (R249), and the status follows them. -/
def execBind (w : Nat) (ops : List W64) (s : State) : Res :=
  let cls := (opw ops 1).toNat
  let n := (opw ops 2).toNat
  let xs := bindItems ops
  let ok := (cls ≤ 10 || cls == 0xFF) && 1 ≤ n && n ≤ 29 && restZero ops (n + 3) && xs.length == n &&
    xs.zipIdx.all (fun (x, i) => bindForm cls (xs.take i) x)
  s.alloc 3 w ops (fun s => s.onWorld w (ok && (cls != 0xFF || (s.world w).apertures.length + n ≤ 32)) <|
    match (xs.map (s.bindStatus w cls)).find? (· != 0) with
    | some st => s.allocDone st
    | none =>
      let s' := xs.foldl (fun s x => s.bindOne w cls x) s
      if cls = 1 ∧ !s'.fenceOk then s.allocDone 2
      else if cls = 5 then s'.allocWait
      else s'.opportunity.allocDone 0)
    (fun s => if s.ringMoves.any fun m => m.owner == w && xs.contains (w64 m.slot) then .next s else s.allocDone 0)

/-! ## REVOKE (R337) -/

/-- The status for which a candidate of a REVOKE is refused: 1 when it names no resource of the class, 2 when another
world holds what it names (R322, R329). -/
def State.candStatus (s : State) (w cls : Nat) (x : W64) : Nat :=
  let n := x.toNat
  if x = ones64 ∨ cls = 1 then 0
  else if !(if cls = 0 then n % 4096 == 0 && inModule n else resOk cls n) then 1
  else
    let o := if cls = 0 then s.frameOwner n else s.ownerOf cls n
    if o % 64 = w ∨ o = 0 then 0 else 2

/-- REVOKE: the notice is held until its mailbox has room (R329, R337). A candidate that no notice may name is replaced
by all ones, none (DEDUCED, log 80). -/
def execRevoke (w : Nat) (ops : List W64) (s : State) : Res :=
  let x := opw ops 1
  let cls := fld x 7 0
  let cand := [3, 4, 5, 6].map (opw ops)
  let ok := (x &&& ~~~ (0xFFFF00FF : W64)) == 0 && cls ≤ 10 && opw ops 2 != 0 && restZero ops 7 &&
    (cls != 1 || ((cand.getD 0 0).toNat < 192 && cand.getD 2 0 == ones64 && cand.getD 3 0 == ones64))
  s.alloc 4 w ops (fun s => s.onWorld w (ok && !(cand.any fun c => s.candStatus w cls c == 1)) <|
    if (s.world w).notices.any (fun n => n.cls == cls) || cand.any (fun c => s.candStatus w cls c == 2) then s.allocDone 2
    else
      let id := (s.world w).nextNotice
      let named := if cls = 1 then cand else cand.map fun c => if s.protected w cls c.toNat then ones64 else c
      let n : Notice := { id := id, cls := cls, count := fld x 31 16, cand := named, life := (opw ops 2).toNat
                          slots := if cls = 1 then (cand.getD 1 0).toNat else 0
                          core := if cls = 1 then (cand.getD 0 0).toNat else 0 }
      let s := s.modWorld w fun y => { y with notices := y.notices ++ [n], nextNotice := id % 65535 + 1 }
      (s.raiseEvent (.noticePost w)).allocDone 0) (fun s => s.allocDone 0)

/-! ## LIMITS (R329, R174, R353, R445) -/

/-- The numbers whose bits are set in three words from word 3: a core set. -/
def coreSet (a b c : W64) : List Nat :=
  (List.range 192).filter fun k => bit (if k < 64 then a else if k < 128 then b else c) (k % 64)

/-- The numbers whose bits are set in word 3: a slice or cluster mask. -/
def bitSet (x : W64) (n : Nat) : List Nat := (List.range n).filter fun k => bit x k

/-- A LIMITS command of a kind: its value is in range, its scope well formed, and what it sets. -/
def State.limit (s : State) (kind w : Nat) (ops : List W64) (ok : Bool) (f : State → Res) : Res :=
  s.alloc 5 w ops (fun s => s.onWorld w (opw ops 1 == w64 kind && ok && restZero ops 6) (f s)) (fun s => s.allocDone 0)

/-- Replace the limits of a world. -/
def State.modLimits (s : State) (w : Nat) (f : Limits → Limits) : State :=
  s.modWorld w fun x => { x with limits := f x.limits }

/-- The entries of a table at some numbers all take a value. -/
def putAll (t : Table Nat) (ks : List Nat) (v : Nat) : Table Nat := ks.foldl (fun t k => t.put k v) t

/-- LIMITS kind 0: token budgets, from the next refill on (R90). -/
def execLimitsTokenBudget (w : Nat) (ops : List W64) (s : State) : Res :=
  let v := (opw ops 2).toNat
  s.limit 0 w ops (v < 2 ^ 32) fun s =>
    (s.modLimits w fun l =>
      { l with nextBudget := putAll l.nextBudget (coreSet (opw ops 3) (opw ops 4) (opw ops 5)) v }).allocDone 0

/-- The pins of a world's lines in ways that its mask loses are dropped, each with a record (R174). -/
def State.dropPins (s : State) (w slice lost : Nat) : State :=
  let hit := (s.slice slice).lines.filter fun e => e.2.pinned == some w &&
    (match e.2.way with | some h => lost / 2 ^ (h / 2) % 2 == 1 | none => false)
  hit.foldl (fun s e =>
    (s.modSlice slice fun sl => { sl with lines := sl.lines.put e.1 { e.2 with pinned := none } }).loss w 10
      (w64 (e.1 * 128)) 0 none) s

/-- LIMITS kind 1: DWAYS (R169, R170). -/
def execLimitsDways (w : Nat) (ops : List W64) (s : State) : Res :=
  let v := (opw ops 2).toNat
  s.limit 1 w ops (v < 2 ^ 16 && opw ops 4 == 0 && opw ops 5 == 0) fun s =>
    ((bitSet (opw ops 3) 64).foldl (fun s i =>
      let old := (s.world w).limits.dways.get i 0
      let s := s.modLimits w fun l => { l with dways := l.dways.put i v }
      s.dropPins w i (old - Nat.land old v)) s).allocDone 0

/-- LIMITS kind 2: the pin quota (R173). -/
def execLimitsPinQuota (w : Nat) (ops : List W64) (s : State) : Res :=
  let v := (opw ops 2).toNat
  s.limit 2 w ops (v ≤ 16384 && opw ops 4 == 0 && opw ops 5 == 0) fun s =>
    (s.modLimits w fun l => { l with pinQuota := putAll l.pinQuota (bitSet (opw ops 3) 64) v }).allocDone 0

/-- LIMITS kind 3: the miss quota (R183). -/
def execLimitsMissQuota (w : Nat) (ops : List W64) (s : State) : Res :=
  let v := (opw ops 2).toNat
  s.limit 3 w ops (v ≤ 256 && (opw ops 3).toNat < 2 ^ 24 && opw ops 4 == 0 && opw ops 5 == 0) fun s =>
    (s.modLimits w fun l => { l with missQuota := putAll l.missQuota (bitSet (opw ops 3) 24) v }).allocDone 0

/-- LIMITS kind 4: the request-queue quota (R190). -/
def execLimitsRequestQuota (w : Nat) (ops : List W64) (s : State) : Res :=
  let v := (opw ops 2).toNat
  s.limit 4 w ops (1 ≤ v && v ≤ 256 && (opw ops 3).toNat < 2 ^ 24 && opw ops 4 == 0 && opw ops 5 == 0) fun s =>
    (s.modLimits w fun l => { l with reqQuota := putAll l.reqQuota (bitSet (opw ops 3) 24) v }).allocDone 0

/-- LIMITS kind 5: the watchdog time (R372). -/
def execLimitsWatchdog (w : Nat) (ops : List W64) (s : State) : Res :=
  let v := (opw ops 2).toNat
  s.limit 5 w ops (v ≤ 60000 && opw ops 3 == 0 && opw ops 4 == 0 && opw ops 5 == 0) fun s =>
    (s.modLimits w fun l => { l with tw := v }).allocDone 0

/-- Reserved cycles of the fenced worlds in a slice (numbers 0 to 63) or in a die's memory controllers (64 + die). -/
def State.reservedIn (s : State) (i : Nat) : Nat :=
  (s.fencedWorlds.map fun f => (s.world f).limits.reserved.get i 0).foldl (· + ·) 0

/-- The reserved cycles of all fenced worlds total at most 48 everywhere (R353). -/
def State.reservedOk (s : State) : Bool := (List.range 68).all fun i => decide (s.reservedIn i ≤ 48)

/-- LIMITS kind 6: a timing fence begins or ends once every request queue has drained (R353). -/
def execLimitsTimingFence (w : Nat) (ops : List W64) (s : State) : Res :=
  let v := (opw ops 2).toNat
  let ok := opw ops 1 == 6 && v ≤ 1 && restZero ops 3
  let with_ (s : State) : State := s.modLimits w fun l => { l with fenced := v == 1 }
  s.alloc 5 w ops (fun s => s.onWorld w ok <|
    if v = 1 ∧ !(with_ s).fenceOk then s.allocDone 2
    else if v = 1 ∧ !(with_ s).reservedOk then s.allocDone 1
    else s.allocWait)
    (fun s => if s.clusters.any fun c => !c.2.reqQ.isEmpty then .next s else (with_ s).allocDone 0)

/-- LIMITS kind 7: reserved request cycles of slices, and of the memory controllers of their dies (R353). -/
def execLimitsReservedCycles (w : Nat) (ops : List W64) (s : State) : Res :=
  let v := (opw ops 2).toNat
  s.limit 7 w ops (v ≤ 32 && opw ops 4 == 0 && opw ops 5 == 0) fun s =>
    let is := bitSet (opw ops 3) 64
    let s' := s.modLimits w fun l =>
      { l with reserved := putAll l.reserved (is ++ (nub (is.map fun i => i / 16)).map fun d => 64 + d) v }
    if s'.reservedOk then s'.allocDone 0 else s.allocDone 1

/-! ## REMOTE (R351) -/

/-- The world owns the target of a remote ownership entry. -/
def State.ownsTarget (s : State) (w : Nat) (x : W64) : Bool :=
  if bit x 4 then (s.mailbox (fld x 60 25)).owner == w
  else s.pageOwned w (fld x 60 25 * 4096) (pageSize (fld x 24 21))

/-- REMOTE: an entry of the remote ownership table. A valid entry names this world as LWORLD, and a target that is its
own (log 19). -/
def execRemote (w : Nat) (ops : List W64) (s : State) : Res :=
  let x := opw ops 2
  let ok := (opw ops 1).toNat < 1024 && restZero ops 3 && fld x 63 61 == 0 &&
    (!bit x 0 || (fld x 20 15 == w &&
      (if bit x 4 then fld x 60 25 < 1024 else fld x 24 21 ≤ 11 && fld x 60 25 * 4096 % pageSize (fld x 24 21) == 0)))
  s.alloc 7 w ops (fun s => s.onWorld w ok <|
    if bit x 0 ∧ !s.ownsTarget w x then s.allocDone 2
    else ({ s with remote := s.remote.put (opw ops 1).toNat x }).allocDone 0) (fun s => s.allocDone 0)

/-! ## DESTROY (R321, R423, R428) -/

/-- A PF action that a locked or running interface does not admit moves it to ERROR (R423). -/
def State.tdispError (s : State) (w : Nat) : State :=
  let t := (s.fn w).trust.tdisp
  if t = 1 ∨ t = 2 then s.modFn w fun f => { f with trust := { f.trust with tdisp := 3 } } else s

/-- A core forgets a world: its troupes' runs, its pending operations, its lines and its resources, which are cleared.
-/
def Core.forget (c : Core) (w : Nat) (uids : List Nat) : Core :=
  let mine (o : Nat) : Bool := o % 64 == w
  let keys (t : Table Nat) : List Nat := (t.filter fun x => mine x.2).map (·.1)
  let drop (t : Table Nat) : Table Nat := t.filter fun x => !mine x.2
  let accs := keys c.accOwner
  let plots := keys c.plotOwner
  let c := plots.foldl (fun c p => c.clearPlot p) c
  let c := (keys c.oslotOwner).foldl (fun c i => c.clearSlot i) c
  let c := accs.foldl (fun c a => c.clearAcc a) c
  { c with
    plotOwner := drop c.plotOwner, oslotOwner := drop c.oslotOwner, accOwner := drop c.accOwner
    tslotOwner := drop c.tslotOwner, blockOwner := drop c.blockOwner
    xtab := c.xtab.filter fun x => !plots.contains (2 * x.1)
    stopQ := c.stopQ.filter fun x => x.world != w, mq := c.mq.filter fun x => x.world != w
    array := match c.array with | some m => if m.world = w then none else some m | none => none
    visBusy := c.visBusy.filter fun x => !accs.contains x.1, l1 := c.l1.filter fun x => x.2.world != w
    islots := c.islots.mapVals fun _ x =>
      if x.holder.any (fun h => uids.any fun k => k % 32 == h) then { x with holder := none, words := 0 } else x }

/-- A cluster forgets a world. -/
def Cluster.forget (c : Cluster) (w : Nat) : Cluster :=
  let ways := (c.wayOwner.filter fun x => x.2 % 64 == w).map (·.1)
  { c with
    tlb := c.tlb.filter fun x => entryWorld x.2 != w && !ways.contains (x.1 % 16)
    wayOwner := c.wayOwner.filter fun x => x.2 % 64 != w
    miss := c.miss.filter fun m => m.world != w, reqQ := c.reqQ.filter fun r => r.world != w }

/-- A slice forgets a world: its lines go without write-back, since its key is gone. -/
def Slice.forget (sl : Slice) (w : Nat) : Slice :=
  let gone := sl.lines.filter fun x => x.2.world == w
  { sl with
    lines := sl.lines.filter fun x => x.2.world != w, wayOwner := sl.wayOwner.filter fun x => x.2 % 64 != w
    floor := gone.foldl (fun m x => max m x.2.rts) sl.floor }

/-- The queues of a destroyed world stop, and their started packets are dropped (log 22). -/
def Queue.forget (q : Queue) : Queue := { q with state := 1, started := [], arm := none, recorded := [] }

/-- The records of the launches that a destruction aborts, where they lie in the host window (R359). -/
def State.abortRecords (s : State) (w : Nat) : State :=
  (s.launches.filter fun l => l.2.world == w && !l.2.written && l.2.result != 0).foldl (fun s x =>
    let l := x.2
    match s.feTranslate w l.result 64 true true false with
    | .error _ => s
    | .ok pa =>
      if regionOf pa != .host then s
      else
        let s := s.agentWrite w l.result pa (wordBytes (if l.faulted then 5 else 4)) .plain
        s.agentWrite w l.result (pa + 16) (wordBytes (w64 s.alm) ++ wordBytes (w64 l.retired)) .plain) s

/-- Everything that bears the world's tag goes, and every resource of it is cleared and free (R321). -/
def State.forgetWorld (s : State) (w : Nat) : State :=
  let s := s.abortRecords w
  let ts := s.troupes.filter fun t => t.2.world == w
  let s := s.unparkWorld w
  let keysOn (k : Nat) : List Nat := (ts.filter fun t => t.2.core == k).map (·.1)
  let s := { s with troupes := s.troupes.filter fun t => t.2.world != w }
  let s := { s with cores := s.cores.mapVals fun k c => c.forget w (keysOn k) }
  let s := (List.range 24).foldl (fun s c =>
    let cl := s.cluster c
    s.dropUtlb c fun x => entryWorld (cl.entry x.1 x.2) == w) s
  let s := { s with clusters := s.clusters.mapVals fun _ c => c.forget w }
  let s := { s with slices := s.slices.mapVals fun _ c => c.forget w }
  let mine := s.extents.filter fun x => x.world == w
  let s := mine.foldl (fun s x => s.scrub x.base (pageSize x.size)) { s with extents := s.extents.filter fun x => x.world != w }
  let s := { s with
    launches := s.launches.filter fun l => l.2.world != w, presented := s.presented.filter fun p => p.world != w
    away := s.away.filter fun a => a.world != w, copies := s.copies.filter fun c => c.world != w
    held := s.held.filter fun h => h.world != w, ext := s.ext.filter fun x => x.world != w
    ens := s.ens.filter fun e => e.2.owner % 64 != w, mbx := s.mbx.filter fun m => m.2.owner % 64 != w
    lanes := s.lanes.filter fun l => l.2.owner % 64 != w
    remote := s.remote.mapVals fun _ e => if fld e 20 15 = w then e &&& ~~~ (1 : W64) else e
    queues := s.queues.mapVals fun _ q => if q.qmap = some w then q.forget else q }
  let slots := (List.range 768).filter fun i => (s.ringSlot i).owner == w && !s.ringMoves.any fun m => m.slot == i
  let s := slots.foldl (fun s i => s.ringRebind i 0 false 0) s
  let free (m : RingMove) : RingMove := if (s.ringSlot m.slot).owner = w then { m with owner := 0, save := false } else m
  let s := { s with ringMoves := s.ringMoves.map free }
  ({ s with worlds := s.worlds.del w }.tdispError w).opportunity

/-- DESTROY (R321): the status follows the last Procession slot, which is free once it has passed stop 0 (R249). One
that names world 0, for which no rule gives a status, is refused with status 1 (DESIGN CHOICE, log 19). -/
def execDestroy (w : Nat) (s : State) : Res :=
  s.alloc 2 w (s.mgmt.running.drop 1) (fun s =>
    if !s.present w then s.allocDone 3
    else if w = 0 then s.allocDone 1
    else (s.forgetWorld w).allocWait)
    (fun s => if s.ringMoves.any fun m => (s.ringSlot m.slot).owner == w then .next s else s.allocDone 0)

end Sys2Proof.Machine
end

