-- ==== Sys2Proof/Machine/Switch.lean ====
section
/-! DEFINITION. SWITCH, and the launches of the PF: LAUNCH and RESTART (R321, R328, R329, R349, R350, R353, R380). -/

namespace Sys2Proof.Machine

/-! ## The switch area (R350) -/

/-- Physical address of the core record of a core. -/
def State.coreRecord (s : State) (w core : Nat) : Nat := (s.world w).areas.swBase + 0x3000 + core * 0x429000

/-- The switch area of a world is large enough for a core. -/
def State.areaHolds (s : State) (w core : Nat) : Bool := decide (0x3000 + (core + 1) * 0x429000 ≤ (s.world w).areas.swSize)

/-- The number whose bits are set at the listed places. -/
def bitsOf (ks : List Nat) : Nat := (nub ks).foldl (fun n k => n + 2 ^ k) 0

/-- What a world holds on a core: troupe slots, blocks, plots, operand slots and accumulators. -/
structure CoreHold where
  tslots : List Nat
  blocks : List Nat
  plots : List Nat
  oslots : List Nat
  accs : List Nat
  deriving DecidableEq, Repr

/-- The numbers that a table gives to a world. -/
def heldBy (t : Table Nat) (w : Nat) : List Nat := (t.filter fun x => x.2 == w).map (·.1)

/-- What a world holds on a core. -/
def Core.hold (c : Core) (w : Nat) : CoreHold :=
  { tslots := heldBy c.tslotOwner w, blocks := heldBy c.blockOwner w, plots := heldBy c.plotOwner w
    oslots := heldBy c.oslotOwner w, accs := heldBy c.accOwner w }

/-- What the header of a core record names (R350). -/
def State.recordHold (s : State) (w core : Nat) : CoreHold :=
  let b := s.coreRecord w core
  let bits (off n : Nat) : List Nat := (List.range (8 * n)).filter fun k => leNat (s.memRead (b + off) n) / 2 ^ k % 2 == 1
  { tslots := bits 8 4, blocks := bits 16 16, plots := bits 32 16, oslots := bits 48 8
    accs := (bits 56 1).filter (· < 4) }

/-- One list holds another. -/
def holdsAll (big small : List Nat) : Bool := small.all big.contains

/-- A record names nothing that is not held. -/
def CoreHold.within (a b : CoreHold) : Bool :=
  holdsAll b.tslots a.tslots && holdsAll b.blocks a.blocks && holdsAll b.plots a.plots &&
  holdsAll b.oslots a.oslots && holdsAll b.accs a.accs

/-- The counter record of a core (R380). -/
def State.counterRecord (s : State) (w core : Nat) : List Byte :=
  (List.range 8).flatMap fun i => leBytes 8 (((s.world w).counter i).perCore.get core 0)

/-- Counters count anew for a core (R380). -/
def State.restartCounts (s : State) (w core : Nat) : State :=
  s.modWorld w fun x => { x with counters := x.counters.mapVals fun _ c => { c with perCore := c.perCore.put core 0 } }

/-! ## Out (R349 steps 1 to 3) -/

/-- The header of the core record of the outgoing world (R350). -/
def State.coreHeader (s : State) (w core : Nat) (slots : List Nat) : List Byte :=
  let c := s.core core
  let h := c.hold w
  let vis := h.accs.filter fun a => (c.acc a).visB
  let sides := (c.xtab.filter fun x => h.plots.contains (2 * x.1) && x.2.side).map (·.1)
  padTo 4096 (leBytes 8 (s.balance w core % (2 ^ 64 : Int)).toNat ++ leBytes 4 (bitsOf slots) ++ leBytes 4 0 ++
    leBytes 16 (bitsOf h.blocks) ++ leBytes 16 (bitsOf h.plots) ++ leBytes 8 (bitsOf h.oslots) ++
    leBytes 1 (bitsOf h.accs + 16 * bitsOf vis) ++ leBytes 7 0 ++ leBytes 8 (bitsOf sides))

/-- Write an image with its poisoned bytes (R429). -/
def State.putBad (s : State) (pa : Nat) (bs : List Byte) (bad : List Nat) : State :=
  let s := s.storeBytes pa bs
  { s with poison := sortAsc (s.poison ++ bad.map fun b => (pa + b) / 64) }

/-- The outgoing world's state on a core goes to its record, its tags become the incoming world's, and the contents are
cleared; CLAIMED goes with the change of owner (R289, R349). -/
def State.switchOut (s : State) (o i core : Nat) : State :=
  let b := s.coreRecord o core
  let ts := (s.troupes.filter fun t => t.2.core == core && t.2.world == o).map (·.2)
  let s := ts.foldl (fun s t => s.takeAway t (b + 0x1000 + t.tslot * 0x9000) none (some t.tslot)) s
  let c := s.core core
  let h := c.hold o
  let s := s.storeBytes b (s.coreHeader o core (ts.map (·.tslot)))
  let s := h.plots.foldl (fun s p =>
    let (bs, bad) := (c.spad.read (16384 * p) 16384, (c.spadBad.filter fun r => r / 1024 == p).map fun r => 16 * (r % 1024))
    s.putBad (b + 0x121000 + p * 0x4000) bs bad) s
  let s := h.oslots.foldl (fun s k =>
    s.putBad (b + 0x321000 + k * 0x2100) (c.oslots.read (8448 * k) 8448)
      ((c.oslotBad.filter fun x => x.1 == k).map fun x => 64 * x.2)) s
  let s := h.accs.foldl (fun s a =>
    s.putBad (b + 0x3A5000 + a * 0x21000) (bankBytes (c.acc a).a ++ bankBytes (c.acc a).b ++ List.replicate 4096 0)
      ((c.accBad.filter fun x => x.1 == a).map fun x => (if x.2.1 then 65536 else 0) + 512 * x.2.2.1 + 4 * x.2.2.2)) s
  let s := (s.storeBytes ((s.world o).areas.swBase + 64 * core) (s.counterRecord o core)).restartCounts i core
  let pairs := c.xtab.filter fun x => h.plots.contains (2 * x.1)
  let s := s.modWorld o fun x =>
    { x with outCores := insertAsc core x.outCores
             outPairs := (x.outPairs.filter fun y => y.1 != core) ++ pairs.map fun y => (core, y.1, y.2.ens) }
  let give (t : Table Nat) : Table Nat := t.mapVals fun _ x => if x == o then i else x
  s.modCore core fun c =>
    let c := h.plots.foldl (fun c p => c.clearPlot p) c
    let c := h.oslots.foldl (fun c k => c.clearSlot k) c
    let c := h.accs.foldl (fun c a => c.clearAcc a) c
    { c with
      tslotOwner := give c.tslotOwner, blockOwner := give c.blockOwner, plotOwner := give c.plotOwner
      oslotOwner := give c.oslotOwner, accOwner := give c.accOwner
      xtab := c.xtab.filter fun x => !h.plots.contains (2 * x.1) }

/-! ## In (R349 step 4) -/

/-- A bank from its bytes. -/
def bankOf (bs : List Byte) : Vector Lanes 128 :=
  ⟨⟨(List.range 128).map fun r => Lanes.ofFn fun l => w32 (leNat ((bs.drop (512 * r + 4 * l)).take 4))⟩, by simp⟩

/-- Poisoned 64-byte lines of a range, by distance from its start. -/
def State.badLines (s : State) (pa n : Nat) : List Nat :=
  (List.range ((n + 63) / 64)).filter fun k => s.poisoned (pa + 64 * k) 64

/-- What was read from a poisoned line of a troupe image is poisoned again (R429). -/
def State.poisonImage (s : State) (base : Nat) (t : Troupe) : Troupe :=
  let regs := ((s.badLines (base + 4096) (4096 * t.blocks.length)).flatMap fun k =>
    (List.range 16).map fun j => (k / 8, 16 * (k % 8) + j))
  let slot := (s.badLines base 4096).flatMap fun k => (List.range 8).map (8 * k + ·)
  { t with ctl := { t.ctl with vPoison := regs, sPoison := slot } }

/-- The incoming world's state on a core comes back from its record, with its troupes but those stopped meanwhile;
that of a world which comes for the first time reads zero, its balance among it (R349, R350, R358). -/
def State.switchIn (s : State) (i core : Nat) : State :=
  let b := s.coreRecord i core
  let h := s.recordHold i core
  let byte (off : Nat) : Nat := leNat (s.memRead (b + off) 1)
  let sides := leNat (s.memRead (b + 64) 8)
  let k : Int := (w64 (leNat (s.memRead b 8))).toInt
  let x := s.world i
  let pairs := (x.outPairs.filter fun y => y.1 == core).filter fun y => h.plots.contains (2 * y.2.1)
  let s := h.plots.foldl (fun s p =>
    let pa := b + 0x121000 + p * 0x4000
    let bs := s.memRead pa 16384
    let bad := (s.badLines pa 16384).flatMap fun l => (List.range 4).map fun j => 1024 * p + 4 * l + j
    s.modCore core fun c => { c with spad := c.spad.splice (16384 * p) bs, spadBad := sortAsc (c.spadBad ++ bad) }) s
  let s := h.oslots.foldl (fun s k =>
    let pa := b + 0x321000 + k * 0x2100
    let bs := s.memRead pa 8448
    let bad := (s.badLines pa 8448).map fun l => (k, l)
    s.modCore core fun c => { c with oslots := c.oslots.splice (8448 * k) bs, oslotBad := c.oslotBad ++ bad }) s
  let s := h.accs.foldl (fun s a =>
    let pa := b + 0x3A5000 + a * 0x21000
    let acc : Acc := ⟨bankOf (s.memRead pa 65536), bankOf (s.memRead (pa + 65536) 65536), byte 56 / 2 ^ (4 + a) % 2 == 1⟩
    let bad := (s.badLines pa 131072).flatMap fun l =>
      (List.range 16).map fun j => (a, decide (1024 ≤ l), l % 1024 / 8, 16 * (l % 8) + j)
    s.modCore core fun c => { c with accs := c.accs.put a acc, accBad := c.accBad ++ bad }) s
  let s := s.modCore core fun c =>
    { c with xtab := pairs.foldl (fun t y => t.put y.2.1 { ens := y.2.2, side := sides / 2 ^ y.2.1 % 2 == 1 }) c.xtab }
  let s := s.modWorld i fun x =>
    { x with
      outCores := x.outCores.filter (· != core), outPairs := x.outPairs.filter fun y => y.1 != core
      limits := { x.limits with balance := x.limits.balance.put core k } }
  let back := s.away.filter fun a => a.world == i && a.core == core && a.tslot.isSome && !a.stopped
  back.foldl (fun s a =>
    let n := min 8 (leNat (s.memRead (a.base + 0x501) 1))
    let blocks := (List.range n).map fun j => leNat (s.memRead (a.base + 0x508 + j) 1)
    let slot := a.tslot.getD 0
    let s := s.bringBack a core slot blocks
    s.modTroupe (keyOf core slot) (s.poisonImage a.base)) s

/-! ## SWITCH (R349) -/

/-- The command's core set. -/
def switchCores (ops : List W64) : List Nat := coreSet (opw ops 2) (opw ops 3) (opw ops 4)

/-- A copy with payload still to move reads, writes or signals in what a world holds on a core (log 24). -/
def State.copyOn (s : State) (c : Copy) (w core : Nat) : Bool :=
  c.world == w && !c.todo.isEmpty && ((heldBy (s.core core).plotOwner w).any (s.copyInPlot c core) ||
    (c.core == core && c.queue.isNone && (recSpace c.src == 2 || recSpace c.dst == 2)))

/-- The outgoing world has come to rest on a core. -/
def State.atRest (s : State) (w core : Nat) : Bool :=
  (s.troupes.all fun t => t.2.core != core || t.2.world != w || (s.quiet t.2 && !t.2.ctl.exited && !t.2.ctl.stopped)) &&
  !(s.copies.any fun c => s.copyOn c w core) &&
  ((heldBy (s.core core).accOwner w).all fun a => ((s.core core).visBusy.find a).isNone)

/-- The state after the tags of troupe slots have changed hands: for the check of R353. -/
def State.swapSlots (s : State) (o i : Nat) (cores : List Nat) : State :=
  cores.foldl (fun s k => s.modCore k fun c =>
    { c with tslotOwner := c.tslotOwner.mapVals fun _ x => if x == o then i else x }) s

/-- The incoming world's core records name nothing but what the outgoing world holds on the cores (R350). -/
def State.recordsFit (s : State) (o i : Nat) (cores : List Nat) : Bool :=
  cores.all fun k => (s.recordHold i k).within ((s.core k).hold o)

/-- A SWITCH that has begun is given up: the outgoing world's troupes go on (R350). -/
def State.cancelSwitch (s : State) (o : Nat) (cores : List Nat) : State :=
  let s := s.modWorld o fun x => { x with outCores := s.mgmt.outBefore }
  let ts := (s.troupes.filter fun t => t.2.world == o && cores.contains t.2.core).map (·.2)
  let s := ts.foldl (fun s t => s.modTroupe t.key fun t => { t with ctl := { t.ctl with leaving := false } }) s
  s.opportunity

/-- SWITCH (R349): it waits for open notices, then for the outgoing world to come to rest on the cores, and exchanges
the worlds there. What the outgoing world yields meanwhile may be what the incoming one needs: then it changes nothing
(R350). -/
def execSwitch (w : Nat) (ops : List W64) (s : State) : Res :=
  let o := (opw ops 1).toNat
  let cores := switchCores ops
  let ok := o < 64 && o != w && restZero ops 5
  s.alloc 6 w ops (fun s => s.onWorld w ok <|
    if !s.present o then s.allocDone 3
    else if !(cores.all fun k => s.areaHolds w k && s.areaHolds o k) then s.allocDone 1
    else if !s.recordsFit o w cores then s.allocDone 1
    else if !(s.swapSlots o w cores).fenceOk then s.allocDone 2
    else if !(s.world w).notices.isEmpty || !(s.world o).notices.isEmpty then .next s
    else
      let s := { s with mgmt := { s.mgmt with outBefore := (s.world o).outCores } }
      let s := s.modWorld o fun x => { x with outCores := sortAsc (x.outCores ++ cores) }
      let ts := (s.troupes.filter fun t => t.2.world == o && cores.contains t.2.core).map (·.2)
      (ts.foldl (fun s t => s.askLeave t) s).allocWait)
    (fun s =>
      if !s.recordsFit o w cores then (s.cancelSwitch o cores).allocDone 1
      else if !(cores.all (s.atRest o)) then .next s
      else
        let s := cores.foldl (fun s k => (s.switchOut o w k).switchIn w k) s
        s.opportunity.allocDone 0)

/-! ## LAUNCH and RESTART (R328, R321) -/

/-- The status for a physical range that is to lie in frames of the world or in the host window (R329). -/
def State.placedStatus (s : State) (w pa n : Nat) : Nat :=
  if n = 0 then 0
  else match regionOf pa, regionOf (pa + n - 1) with
    | .host, .host => 0
    | a, b =>
      if (a != .sram && a != .lpddr) || a != b then 1
      else
        let owners := (List.range ((pa + n - 1) / 4096 - pa / 4096 + 1)).map fun i => s.frameOwner ((pa / 4096 + i) * 4096)
        if owners.all (· == w) then 0 else if owners.any fun o => o != w && o != 0 then 2 else 1

/-- Boot-map entries from their bytes: entry and location. -/
def bootEntries (bs : List Byte) (n : Nat) : List (Entry × W64) :=
  (List.range n).map fun i =>
    let f (j : Nat) : W64 := w64 (leNat ((bs.drop (24 * i + 8 * j)).take 8))
    ((f 0, f 1), f 2)

/-- The old runtime launch is replaced: its troupe is gone, with what it had not started (log 23). -/
def State.dropRuntime (s : State) (w : Nat) : State :=
  match (s.world w).runtime with
  | none => s
  | some n =>
    let ts := s.residents n
    let s := ts.foldl (fun s t =>
      let s := t.ctl.ens.foldl (fun s e => s.leaveEns t.uid e) (((s.leaveMisses t).ringCancel t).mqCancel t)
      let s := (s.dropAsked t.uid).dropCopies t.uid
      let s := s.dropHold t.core t.tslot
      { s with troupes := s.troupes.del t.key }) s
    let s := (s.launchGone (s.launch n).packet n).modWorld w fun x => { x with runtime := none }
    { s with launches := s.launches.del n, away := s.away.filter fun a => a.launch != n }

/-- A restarted world is Live again; its troupes issue their instructions again, as though revived in place, one that
was asked to be suspended among them (R321). -/
def State.releaseWorld (s : State) (w : Nat) : State :=
  let s := s.modWorld w fun x => { x with st := .live }
  let ts := (s.troupes.filter fun t => t.2.world == w).map (·.2)
  let s := ts.foldl (fun s t =>
    let evicted := (s.world w).notices.any fun n => n.evict.contains t.uid
    let t := { t with ctl := { t.ctl with
      wait := .no, head := none, stalled := false, readyAt := s.cycle + 32, leaving := t.ctl.leaving && evicted } }
    let s := s.putTroupe t
    let l := s.launch t.launch
    if l.deadline ≠ 0 ∧ l.divertTime ≤ s.almOf t.core ∧ l.divertTime ≠ l.deadline ∧ t.wrap ≠ .launch then s.applyDivert t 1
    else s) s
  ((s.tdispError w).raiseEvent (.noticePost w)).opportunity

/-- The operands of LAUNCH and RESTART keep their ranges. -/
def launchOk (ops : List W64) : Bool :=
  (opw ops 1).toNat % 128 == 0 && (opw ops 2).toNat % 8 == 0 && (opw ops 3).toNat ≤ 32 && restZero ops 4

/-- With descriptor and boot map at hand: the placer reads the table and checks the descriptor, every entry is checked,
then all of them are written and the launch is accepted (R328). -/
def State.startRuntime (s : State) (w : Nat) (bs : List Byte) (n : Nat) (restart : Bool) : Res :=
  let desc := toWords 16 bs
  let entries := bootEntries (bs.drop 128) n
  let l := describe w desc
  if !bit (l.word 1) 39 then s.allocDone 1
  else if 4096 ≤ s.launches.length then .next s
  else
    match s.readyLaunch l none with
    | (s, none) => .next s
    | (s, some table) =>
      let bare := if restart then s.modWorld w fun x => { x with runtime := none } else s
      match least id (bare.launchCauses l table) with
      | some c => ((s.rejectLaunch l c none).dropQuestions (placeKey none)).allocDone 1
      | none =>
        if entries.any fun x => (s.entryCause w x.1 x.2).isSome then s.allocDone 1
        else
          let s := entries.foldl (fun s x => s.writeAt w x.1 x.2) s
          let s := if restart then (s.dropRuntime w).releaseWorld w else s
          ((s.acceptLaunch l table none).dropQuestions (placeKey none)).allocDone 0

/-- Read what LAUNCH and RESTART name, and start the runtime launch. A place with a poisoned line is refused with
status 1 (log 19). -/
def State.pfLaunch (s : State) (w : Nat) (ops : List W64) (restart : Bool) : Res :=
  let d := (opw ops 1).toNat
  let m := (opw ops 2).toNat
  let n := (opw ops 3).toNat
  let st := [s.placedStatus w d 128, s.placedStatus w m (24 * n)]
  match st.find? (· != 0) with
  | some x => s.allocDone x
  | none =>
    if s.poisoned d 128 || (n != 0 && s.poisoned m (24 * n)) then s.allocDone 1
    else match s.fetch 64 w ([(d, 128)] ++ if n = 0 then [] else [(m, 24 * n)]) with
      | (s, .wait) => .next s
      | (s, .bad _ _) => s.allocDone 1
      | (s, .got bs) => s.startRuntime w bs n restart

/-- LAUNCH (R328, R329). -/
def execLaunch (w : Nat) (ops : List W64) (s : State) : Res :=
  let go (s : State) : Res := s.onWorld w (launchOk ops) <|
    if (s.world w).st = .halted then s.allocDone 3 else s.pfLaunch w ops false
  s.alloc 9 w ops go go

/-- RESTART (R321, R328, R329). -/
def execRestart (w : Nat) (ops : List W64) (s : State) : Res :=
  let go (s : State) : Res := s.onWorld w (launchOk ops) <|
    if (s.world w).st ≠ .halted then s.allocDone 3 else s.pfLaunch w ops true
  s.alloc 8 w ops go go

end Sys2Proof.Machine
end

