-- ==== Sys2Proof/Machine/Observe.lean ====
section
/-! DEFINITION. Counter instructions and overflow, `brk`, and the debug requests (R374 to R390). -/

namespace Sys2Proof.Machine

/-! ## Counters (R375 to R382) -/

/-- The configuration word of a counter (R375). -/
def Counter.word (c : Counter) : W64 :=
  w64 (c.event + b2n c.en * 2 ^ 8 + b2n c.irq * 2 ^ 9 + c.core * 2 ^ 12 + b2n c.ovf * 2 ^ 20)

/-- The event code is in the table of R376. -/
def eventAssigned (n : Nat) : Bool := n ≤ 0x14 || (0x20 ≤ n && n ≤ 0x23)

/-- A configuration word that `cntcfg` takes (R382). -/
def cfgOk (x : W64) : Bool :=
  fld x 11 10 == 0 && fld x 63 21 == 0 && eventAssigned (fld x 7 0) && !(192 ≤ fld x 19 12 && fld x 19 12 ≤ 254)

/-- The counter and the target that a selector names: true for the count (R381). -/
def selOf (x : W64) : Option (Nat × Bool) :=
  if (x &&& ~~~ (0x107 : W64)) == 0 then some (fld x 2 0, bit x 8) else none

/-- Replace counter i of a world. -/
def State.setCounter (s : State) (w i : Nat) (c : Counter) : State :=
  s.modWorld w fun x => { x with counters := x.counters.put i c }

/-- `cntcfg` (R382). -/
def execCntcfg (e : Bool) (a : Reg) (b : SSrc) (s : State) : Res :=
  let t := s.src
  let x := sval b t
  let bad (c : Nat) : Res := s.faultAll c 0 (t.sreg a.val)
  if !s.isRuntime t then bad 3
  else match selOf (t.sreg a.val) with
    | none => bad 9
    | some (i, true) =>
      if fld x 63 48 ≠ 0 then bad 9
      else
        let c := (s.world t.world).counter i
        .next ((s.setCounter t.world i { c with count := x.setWidth 48, pending := 0 }).advance (slen b) e)
    | some (i, false) =>
      if !cfgOk x then bad 9
      else
        let c := (s.world t.world).counter i
        let c := { c with event := fld x 7 0, en := bit x 8, irq := bit x 9, core := fld x 19 12
                          ovf := c.ovf && !bit x 20 }
        .next ((s.setCounter t.world i c).advance (slen b) e)

/-- What `cntrd` reads: a fabric event is nothing to a tenant (R377, R382). -/
def State.counterRead (s : State) (w i : Nat) (count : Bool) : W64 :=
  let c := (s.world w).counter i
  if !count then c.word
  else if w ≠ 0 ∧ 0x20 ≤ c.event then 0
  else c.count.setWidth 64

/-- `cntrd` (R382). -/
def execCntrd (e : Bool) (d a : Reg) (s : State) : Res :=
  let x := s.src.sreg a.val
  match selOf x with
  | none => s.faultAll 9 0 x
  | some (i, count) => s.scalar d (s.counterRead s.src.world i count) 1 e

/-- COUNTER_OVERFLOW: events whose inclusion wraps the count are included; OVF is set, and its rise raises the
interrupt of the world's function (R379). -/
def execCounterOverflow (w i : Nat) (s : State) : Res :=
  let c := (s.world w).counter i
  if c.pending = 0 then .next s
  else
    let wrapped := 2 ^ 48 ≤ c.count.toNat + c.pending
    let d := { c with count := c.count + BitVec.ofNat 48 c.pending, pending := 0, ovf := c.ovf || wrapped }
    let s := s.setCounter w i d
    .next (if wrapped ∧ c.ovf = false ∧ c.irq then s.irq w 1 else s)

/-! ## brk (R389) -/

/-- `brk`: it completes, its run ends and the troupe is halted for debugging at the next word. -/
def execBrk (_e : Bool) (s : State) : Res :=
  if !s.haltReady s.src then s.stall
  else
    let t := s.me
    let r := s.recordOf t 0x0F 0 true t.pc t.live ones64
    let s := s.advance 1 true
    let t := s.me
    .next (s.postFor { t with ctl := { t.ctl with debug := true, stepReq := none } } r)

/-! ## Debug requests (R383 to R386, R390) -/

/-- A response: its status and the data behind it (R383). -/
def response (status : Nat) (data : List Byte) : List Byte := leBytes 8 status ++ data

/-- The response of a request to a world stands until the next (R383). -/
def State.respond (s : State) (w : Nat) (r : List Byte) : State := s.modWorld w fun x => { x with response := r }

/-- The troupe that a request names, or the status that refuses it (R383). -/
def State.debugee (s : State) (w : Nat) (loc : W64) : Except Nat Troupe :=
  if 2 ^ 13 ≤ loc.toNat then .error 3
  else match s.atLocator w loc with
    | none => .error 1
    | some t => if t.ctl.leaving then .error 4 else .ok t

/-- HALT is taken at a run boundary, when no Procession operation and no matrix entry is left (R386). -/
def State.takeHalt (s : State) (t : Troupe) : State :=
  if t.ctl.haltReq ∧ ¬ s.holding t ∧ s.haltReady t ∧ ¬ t.ctl.exited ∧ ¬ t.ctl.stopped then
    s.putTroupe { t with ctl := { t.ctl with debug := true, haltReq := false, stepReq := none } }
  else s

/-- HALT (R386). -/
def State.reqHalt (s : State) (w : Nat) (loc : W64) : State × List Byte :=
  match s.debugee w loc with
  | .error c => (s, response c [])
  | .ok t =>
    if t.ctl.debug ∧ t.ctl.stepReq.isNone then (s, response 0 [])
    else
      let t := { t with ctl := { t.ctl with haltReq := true } }
      ((s.putTroupe t).takeHalt t, response 0 [])

/-- A troupe halted for debugging, or the status. -/
def State.stopped? (s : State) (w : Nat) (loc : W64) : Except Nat Troupe :=
  match s.debugee w loc with
  | .error c => .error c
  | .ok t => if t.ctl.debug then .ok t else .error 2

/-- A divert has come for the troupe, and takes effect when its state lets it (R356, R360). -/
def State.divertDue (s : State) (t : Troupe) : Bool :=
  (t.ctl.divert && t.wrap != .launch) || (t.act.armed && t.wrap == .no && decide (t.act.divertTime ≤ s.almOf t.core))

/-- CONT: a troupe returns to its wait, unless a divert abandons it (R356, R386). -/
def State.reqCont (s : State) (w : Nat) (loc : W64) : State × List Byte :=
  match s.stopped? w loc with
  | .error c => (s, response c [])
  | .ok t =>
    let s := s.putTroupe { t with ctl := { t.ctl with debug := false, stepReq := none, exempt := true } }
    let waits : Bool := match t.ctl.wait with | .bar _ _ _ _ | .batch _ _ => true | _ => false
    (if t.ctl.wait = .no ∨ (waits ∧ s.divertDue t) then s.boundary t.key else s, response 0 [])

/-- STEP (R390): the step is taken when the troupe next wins its issue slot. -/
def State.reqStep (s : State) (w : Nat) (loc : W64) (lanes : Mask) : State × List Byte :=
  match s.stopped? w loc with
  | .error c => (s, response c [])
  | .ok t => (s.putTroupe { t with ctl := { t.ctl with stepReq := some lanes, exempt := true } }, response 0 [])

/-- Sixteen bytes of a special register (R384). -/
def State.specialBytes (s : State) (t : Troupe) (n : Nat) : List Byte :=
  if n = 16 then maskBytes t.sp.replay else leBytes 16 (s.special t n).toNat

/-- The bytes of an item of a troupe (R384); a register beyond its blocks is no item. -/
def State.item (s : State) (t : Troupe) (n : Nat) : Option (List Byte) :=
  match n with
  | 0 => some (t.s.toList.flatMap wordBytes)
  | 1 => some (t.p.toList.flatMap maskBytes)
  | 2 => some (maskBytes t.exec ++ maskBytes t.live ++ maskBytes t.sp.replay)
  | 3 => some (t.f :: leBytes 16 t.pc.toNat ++ (List.range 18).flatMap (s.specialBytes t))
  | 4 => some (((List.range 128).map fun l => BitVec.ofNat 8 (t.sticky.lane l)) ++ [BitVec.ofNat 8 t.reported.toNat])
  | 5 => some ((if t.ctl.record.isEmpty then List.replicate 8 0 else t.ctl.record).flatMap wordBytes)
  | _ =>
    if 0x40 ≤ n ∧ n < 0x40 + 8 * t.blocks.length then some ((t.vreg (n - 0x40)).toList.flatMap fun x => leBytes 4 x.toNat)
    else none

/-- Every instruction the troupe has issued has written its registers (R384). -/
def Troupe.resultsIn (t : Troupe) : Bool :=
  t.ops.all fun o => match o.kind with
    | .load _ _ _ | .sload _ | .atomic _ _ (some _) | .ring true | .post _ | .arrive _ _ _ | .mpost _ _ _ => false
    | _ => true

/-- READ: no response while results are under way (R384). -/
def State.reqRead (s : State) (w : Nat) (loc item : W64) : Option (List Byte) :=
  match s.stopped? w loc with
  | .error c => some (response c [])
  | .ok t =>
    match s.item t item.toNat with
    | none => some (response 3 [])
    | some bs => if t.resultsIn then some (response 0 bs) else none

/-- The number of lanes, bytes and masks that a WRITE brings (R384). -/
def itemSize (n : Nat) : Nat :=
  match n with
  | 2 => 48
  | 3 => 305
  | _ => 512

/-- The writable fields among the special registers of item 3. -/
def Troupe.setSpecials (t : Troupe) (word : Nat → W64) : Troupe :=
  ((((t.setSpecial .timerent (word 12)).setSpecial .trappc (word 13)).setSpecial .fpctl (word 14)).setSpecial .fstat
    (word 15)).setSpecial .mbatch (word 17)

/-- A wait whose end leads to a program counter. -/
def Wait.goingTo (w : Wait) (pc : W32) : Wait :=
  match w with
  | .bar a q since _ => .bar a q since pc
  | .batch n _ => .batch n pc
  | w => w

/-- A troupe with an item written, where WRITE admits it (R384): what is rewritten is no longer poisoned (R429), and a
troupe that waits goes on at a program counter that is written. -/
def Troupe.writeItem (t : Troupe) (n : Nat) (bs : List Byte) : Option Troupe :=
  let at_ (o k : Nat) : Nat := leNat ((bs.drop o).take k)
  let clean (t : Troupe) (ks : List Nat) : Troupe :=
    { t with ctl := { t.ctl with sPoison := t.ctl.sPoison.filter fun k => !ks.contains k } }
  if bs.length ≠ itemSize n then none
  else match n with
    | 0 => some (clean (t.setSs 0 (toWords 64 bs)) (List.range 64))
    | 1 => some (clean ((List.range 32).foldl (fun t i => t.setP i (BitVec.ofNat 128 (at_ (16 * i) 16))) t) ((List.range 64).map (64 + ·)))
    | 2 => some (clean { t with exec := BitVec.ofNat 128 (at_ 0 16) &&& t.live } [128, 129])
    | 3 =>
      let t := (t.setSpecials fun k => w64 (at_ (17 + 16 * k) 8))
      some (clean { t with f := BitVec.ofNat 8 (at_ 0 1), pc := w32 (at_ 1 4), sp := { t.sp with replay := 0 }
                           ctl := { t.ctl with replayPc := none, head := none
                                               wait := t.ctl.wait.goingTo (w32 (at_ 1 4)) } } [132, 133, 134, 136, 137, 140, 141])
    | _ =>
      if 0x40 ≤ n ∧ n < 0x40 + 8 * t.blocks.length then
        let r := n - 0x40
        some { t.setV r (Lanes.ofFn fun l => w32 (at_ (4 * l) 4)) with
          ctl := { t.ctl with vPoison := t.ctl.vPoison.filter fun x => x.1 != r } }
      else none

/-- WRITE (R384). -/
def State.reqWrite (s : State) (w : Nat) (loc item : W64) (data : List Byte) : State × List Byte :=
  match s.stopped? w loc with
  | .error c => (s, response c [])
  | .ok t =>
    match t.writeItem item.toNat data with
    | none => (s, response 3 [])
    | some t => (s.putTroupe t, response 0 [])

/-- BARRD (R383, R384): a scratchpad read of the core. -/
def State.reqBarrd (s : State) (w : Nat) (core addr : W64) : State × List Byte :=
  let k := core.toNat
  let a := addr.toNat
  if 2 ^ 21 ≤ a ∨ a % 16 ≠ 0 then (s, response 3 [])
  else if 192 ≤ k ∨ !(s.core k).plotOk w a then (s, response 1 [])
  else ((s.spadReadTs k 0).1, response 0 ((s.core k).spadRead a 16))

/-- SETBP (R385). -/
def State.reqSetbp (s : State) (w : Nat) (n value : W64) : State × List Byte :=
  if 4 ≤ n.toNat ∨ fld value 63 46 ≠ 0 then (s, response 3 [])
  else (s.modWorld w fun x => { x with bkpt := x.bkpt.put n.toNat value }, response 0 [])

/-- SETWP (R385). -/
def State.reqSetwp (s : State) (w : Nat) (n w0 w1 : W64) : State × List Byte :=
  let k := fld w1 3 0
  if 4 ≤ n.toNat ∨ fld w0 63 56 ≠ 0 ∨ fld w1 63 7 ≠ 0 ∨ k < 3 ∨ 12 < k ∨ w0.toNat % 2 ^ k ≠ 0 then (s, response 3 [])
  else (s.modWorld w fun x => { x with watch := x.watch.put n.toNat (w0, w1) }, response 0 [])

/-- LIST (R383). -/
def State.reqList (s : State) (w : Nat) : List Byte :=
  let ts := (s.troupes.filter fun t => t.2.world == w && t.2.ctl.debug).map fun t => t.2.core + t.2.tslot * 256
  response 0 (leBytes 8 ts.length ++ (ts.take 64).flatMap (leBytes 8))

/-- A request is performed: its response, or nothing yet. -/
def State.request (s : State) (w : Nat) (r : DebugReq) : State × Option (List Byte) :=
  let ok (x : State × List Byte) : State × Option (List Byte) := (x.1, some x.2)
  match r with
  | .halt loc => ok (s.reqHalt w loc)
  | .cont loc => ok (s.reqCont w loc)
  | .step loc lanes => ok (s.reqStep w loc lanes)
  | .read loc item => (s, s.reqRead w loc item)
  | .write loc item data => ok (s.reqWrite w loc item data)
  | .barrd core addr => ok (s.reqBarrd w core addr)
  | .setbp n value => ok (s.reqSetbp w n value)
  | .setwp n w0 w1 => ok (s.reqSetwp w n w0 w1)
  | .list => ok (s, s.reqList w)

/-- A `qdebug` of the world, with a lower name, that a hart has taken waits (R383, R409). -/
def State.debugging (s : State) (w name : Nat) : Bool :=
  s.queues.any fun q => q.2.qmap.isSome && q.2.started.any fun p =>
    p.world == w && (p.words.headD 0).toNat % 256 == 10 && !p.acted && p.failed.isNone && decide (p.id < name)

/-- A request to a world: performed with its response, or waiting behind those that wait (R383). -/
def State.debug (s : State) (w : Nat) (r : DebugReq) : Res :=
  let wait : State :=
    let (id, s) := s.freshId
    s.modWorld w fun x => { x with debugs := x.debugs ++ [(id, r)] }
  if (s.world w).debugs.isEmpty && !s.debugging w s.book.nextId then
    match s.request w r with
    | (s, some bs) => .next (s.respond w bs)
    | (_, none) => .next wait
  else .next wait

/-- The first request of a world that waits is performed once it can be (R383, R384). -/
def State.debugTurn (s : State) (w : Nat) : State :=
  match (s.world w).debugs with
  | [] => s
  | (id, r) :: rest =>
    if s.debugging w id then s
    else match s.request w r with
      | (_, none) => s
      | (s, some bs) => (s.modWorld w fun x => { x with debugs := rest }).respond w bs

/-- HALT. -/
def execHalt (w : Nat) (loc : W64) (s : State) : Res := s.debug w (.halt loc)

/-- CONT. -/
def execCont (w : Nat) (loc : W64) (s : State) : Res := s.debug w (.cont loc)

/-- STEP. -/
def execStep (w : Nat) (loc : W64) (lanes : Mask) (s : State) : Res := s.debug w (.step loc lanes)

/-- READ: performed once the troupe's results are in; until then it waits. -/
def execRead (w : Nat) (loc item : W64) (s : State) : Res := s.debug w (.read loc item)

/-- WRITE. -/
def execWrite (w : Nat) (loc item : W64) (data : List Byte) (s : State) : Res := s.debug w (.write loc item data)

/-- BARRD. -/
def execBarrd (w : Nat) (core addr : W64) (s : State) : Res := s.debug w (.barrd core addr)

/-- SETBP. -/
def execSetbp (w : Nat) (n value : W64) (s : State) : Res := s.debug w (.setbp n value)

/-- SETWP. -/
def execSetwp (w : Nat) (n w0 w1 : W64) (s : State) : Res := s.debug w (.setwp n w0 w1)

/-- LIST. -/
def execList (w : Nat) (s : State) : Res := s.debug w .list

end Sys2Proof.Machine
end

