-- ==== Sys2Proof/Machine/Hart.lean ====
section
/-! DEFINITION. The user mode of a hart: RV64IMAC without LR and SC (R406). The specification names the instruction set
and does not give it: its encodings and its meaning are RISC-V's (PRESUMED, log 21). -/

namespace Sys2Proof.Machine

/-- A RISC-V instruction of RV64IMA; a compressed one is its expansion. `alt` is bit 30, `word` a 32-bit form. -/
inductive Rv where
  | lui (rd : Nat) (imm : W64)
  | auipc (rd : Nat) (imm : W64)
  | jal (rd : Nat) (off : W64)
  | jalr (rd rs1 : Nat) (off : W64)
  | branch (f3 rs1 rs2 : Nat) (off : W64)
  | load (f3 rd rs1 : Nat) (off : W64)
  | store (f3 rs1 rs2 : Nat) (off : W64)
  | opImm (f3 : Nat) (alt word : Bool) (rd rs1 : Nat) (imm : W64)
  | op (f3 : Nat) (alt word : Bool) (rd rs1 rs2 : Nat)
  | mul (f3 : Nat) (word : Bool) (rd rs1 rs2 : Nat)
  | amo (op : AOp) (wide : Bool) (rd rs1 rs2 : Nat)
  | fence
  | ecall
  | illegal
  deriving DecidableEq, Repr

/-- Sign extension of an n-bit number. -/
def sx (n x : Nat) : W64 := (BitVec.ofNat n x).signExtend 64

/-- Bits [hi:lo] of an instruction. -/
def bits (w : W32) (hi lo : Nat) : Nat := w.toNat / 2 ^ lo % 2 ^ (hi - lo + 1)

/-! ## Decoding -/

/-- The operation of an AMO by its five-bit code; LR and SC are none. -/
def amoOp (f5 : Nat) : Option AOp :=
  match f5 with
  | 0x00 => some .add | 0x01 => some .swap | 0x04 => some .xor | 0x08 => some .or | 0x0C => some .and
  | 0x10 => some .minS | 0x14 => some .maxS | 0x18 => some .minZ | 0x1C => some .maxZ | _ => none

/-- A 32-bit instruction. -/
def decodeRv (w : W32) : Rv :=
  let rd := bits w 11 7
  let f3 := bits w 14 12
  let rs1 := bits w 19 15
  let rs2 := bits w 24 20
  let f7 := bits w 31 25
  let immI := sx 12 (bits w 31 20)
  match bits w 6 0 with
  | 0x37 => .lui rd (sx 32 (bits w 31 12 * 4096))
  | 0x17 => .auipc rd (sx 32 (bits w 31 12 * 4096))
  | 0x6F => .jal rd (sx 21 (bits w 31 31 * 2 ^ 20 + bits w 19 12 * 2 ^ 12 + bits w 20 20 * 2 ^ 11 + bits w 30 21 * 2))
  | 0x67 => if f3 = 0 then .jalr rd rs1 immI else .illegal
  | 0x63 =>
    if f3 = 2 ∨ f3 = 3 then .illegal
    else .branch f3 rs1 rs2
      (sx 13 (bits w 31 31 * 2 ^ 12 + bits w 7 7 * 2 ^ 11 + bits w 30 25 * 2 ^ 5 + bits w 11 8 * 2))
  | 0x03 => if f3 = 7 then .illegal else .load f3 rd rs1 immI
  | 0x23 => if 4 ≤ f3 then .illegal else .store f3 rs1 rs2 (sx 12 (f7 * 32 + rd))
  | 0x13 =>
    if f3 = 1 then (if bits w 31 26 = 0 then .opImm 1 false false rd rs1 (w64 (bits w 25 20)) else .illegal)
    else if f3 = 5 then
      (if bits w 31 26 = 0 ∨ bits w 31 26 = 16 then .opImm 5 (bits w 30 30 == 1) false rd rs1 (w64 (bits w 25 20))
       else .illegal)
    else .opImm f3 false false rd rs1 immI
  | 0x1B =>
    if f3 = 0 then .opImm 0 false true rd rs1 immI
    else if f3 = 1 ∧ f7 = 0 then .opImm 1 false true rd rs1 (w64 rs2)
    else if f3 = 5 ∧ (f7 = 0 ∨ f7 = 0x20) then .opImm 5 (f7 == 0x20) true rd rs1 (w64 rs2)
    else .illegal
  | 0x33 =>
    if f7 = 0 ∨ (f7 = 0x20 ∧ (f3 = 0 ∨ f3 = 5)) then .op f3 (f7 == 0x20) false rd rs1 rs2
    else if f7 = 1 then .mul f3 false rd rs1 rs2 else .illegal
  | 0x3B =>
    if (f7 = 0 ∧ (f3 = 0 ∨ f3 = 1 ∨ f3 = 5)) ∨ (f7 = 0x20 ∧ (f3 = 0 ∨ f3 = 5)) then .op f3 (f7 == 0x20) true rd rs1 rs2
    else if f7 = 1 ∧ (f3 = 0 ∨ 4 ≤ f3) then .mul f3 true rd rs1 rs2 else .illegal
  | 0x2F =>
    match amoOp (bits w 31 27) with
    | some op => if f3 = 2 ∨ f3 = 3 then .amo op (f3 == 3) rd rs1 rs2 else .illegal
    | none => .illegal
  | 0x0F => if f3 ≤ 1 then .fence else .illegal
  | 0x73 => if w = 0x73 then .ecall else .illegal
  | _ => .illegal

/-- Quadrant 0 of the compressed instructions. -/
def decodeC0 (w : W32) : Rv :=
  let rd := 8 + bits w 4 2
  let rs := 8 + bits w 9 7
  let offW := w64 (bits w 12 10 * 8 + bits w 6 6 * 4 + bits w 5 5 * 64)
  let offD := w64 (bits w 12 10 * 8 + bits w 6 5 * 64)
  match bits w 15 13 with
  | 0 =>
    let imm := bits w 12 11 * 16 + bits w 10 7 * 64 + bits w 6 6 * 4 + bits w 5 5 * 8
    if imm = 0 then .illegal else .opImm 0 false false rd 2 (w64 imm)
  | 2 => .load 2 rd rs offW
  | 3 => .load 3 rd rs offD
  | 6 => .store 2 rs rd offW
  | 7 => .store 3 rs rd offD
  | _ => .illegal

/-- Quadrant 1. -/
def decodeC1 (w : W32) : Rv :=
  let rd := bits w 11 7
  let rs := 8 + bits w 9 7
  let rt := 8 + bits w 4 2
  let imm := sx 6 (bits w 12 12 * 32 + bits w 6 2)
  let sh := w64 (bits w 12 12 * 32 + bits w 6 2)
  let br := sx 9 (bits w 12 12 * 256 + bits w 11 10 * 8 + bits w 6 5 * 64 + bits w 4 3 * 2 + bits w 2 2 * 32)
  match bits w 15 13 with
  | 0 => .opImm 0 false false rd rd imm
  | 1 => if rd = 0 then .illegal else .opImm 0 false true rd rd imm
  | 2 => .opImm 0 false false rd 0 imm
  | 3 =>
    if bits w 12 12 = 0 ∧ bits w 6 2 = 0 then .illegal
    else if rd = 2 then
      .opImm 0 false false 2 2
        (sx 10 (bits w 12 12 * 512 + bits w 6 6 * 16 + bits w 5 5 * 64 + bits w 4 3 * 128 + bits w 2 2 * 32))
    else .lui rd (sx 18 (bits w 12 12 * 2 ^ 17 + bits w 6 2 * 2 ^ 12))
  | 4 =>
    match bits w 11 10 with
    | 0 => .opImm 5 false false rs rs sh
    | 1 => .opImm 5 true false rs rs sh
    | 2 => .opImm 7 false false rs rs imm
    | _ =>
      match bits w 12 12, bits w 6 5 with
      | 0, 0 => .op 0 true false rs rs rt
      | 0, 1 => .op 4 false false rs rs rt
      | 0, 2 => .op 6 false false rs rs rt
      | 0, _ => .op 7 false false rs rs rt
      | _, 0 => .op 0 true true rs rs rt
      | _, 1 => .op 0 false true rs rs rt
      | _, _ => .illegal
  | 5 =>
    .jal 0 (sx 12 (bits w 12 12 * 2048 + bits w 11 11 * 16 + bits w 10 9 * 256 + bits w 8 8 * 1024 + bits w 7 7 * 64 +
      bits w 6 6 * 128 + bits w 5 3 * 2 + bits w 2 2 * 32))
  | 6 => .branch 0 rs 0 br
  | _ => .branch 1 rs 0 br

/-- Quadrant 2. -/
def decodeC2 (w : W32) : Rv :=
  let rd := bits w 11 7
  let rs := bits w 6 2
  match bits w 15 13 with
  | 0 => .opImm 1 false false rd rd (w64 (bits w 12 12 * 32 + rs))
  | 2 => if rd = 0 then .illegal else .load 2 rd 2 (w64 (bits w 12 12 * 32 + bits w 6 4 * 4 + bits w 3 2 * 64))
  | 3 => if rd = 0 then .illegal else .load 3 rd 2 (w64 (bits w 12 12 * 32 + bits w 6 5 * 8 + bits w 4 2 * 64))
  | 4 =>
    if bits w 12 12 = 0 then
      (if rs = 0 then (if rd = 0 then .illegal else .jalr 0 rd 0) else .op 0 false false rd 0 rs)
    else if rs = 0 then (if rd = 0 then .illegal else .jalr 1 rd 0)
    else .op 0 false false rd rd rs
  | 6 => .store 2 2 rs (w64 (bits w 12 9 * 4 + bits w 8 7 * 64))
  | 7 => .store 3 2 rs (w64 (bits w 12 10 * 8 + bits w 9 7 * 64))
  | _ => .illegal

/-- An instruction whose lowest two bits are not 11 is compressed. -/
def decodeHart (w : W32) : Rv :=
  match bits w 1 0 with
  | 0 => decodeC0 w
  | 1 => decodeC1 w
  | 2 => decodeC2 w
  | _ => decodeRv w

/-! ## Meaning -/

/-- Register n; x0 is zero. -/
def Hart.reg (h : Hart) (n : Nat) : W64 := if n = 0 then 0 else h.x.getD n 0

/-- Write register n; x0 stays. -/
def Hart.set (h : Hart) (n : Nat) (v : W64) : Hart := if n = 0 then h else { h with x := setNth h.x n v }

/-- Sign-extend the low 32 bits. -/
def sxw (x : W64) : W64 := (x.setWidth 32).signExtend 64

/-- The integer operations; shifts by the low six bits, or five of a 32-bit form. -/
def rvAlu (f3 : Nat) (alt word : Bool) (a b : W64) : W64 :=
  if word then
    let x : W32 := a.setWidth 32
    let n := b.toNat % 32
    match f3 with
    | 0 => sxw (if alt then a - b else a + b)
    | 1 => (x <<< n).signExtend 64
    | _ => (if alt then x.sshiftRight n else x >>> n).signExtend 64
  else
    let n := b.toNat % 64
    match f3 with
    | 0 => if alt then a - b else a + b
    | 1 => a <<< n
    | 2 => if a.slt b then 1 else 0
    | 3 => if a.ult b then 1 else 0
    | 4 => a ^^^ b
    | 5 => if alt then a.sshiftRight n else a >>> n
    | 6 => a ||| b
    | _ => a &&& b

/-- Division and remainder of n-bit numbers: by zero, all ones and the dividend. -/
def rvDiv {n : Nat} (f3 : Nat) (a b : BitVec n) : BitVec n :=
  match f3 with
  | 4 => if b = 0 then BitVec.allOnes n else BitVec.ofInt n (a.toInt.tdiv b.toInt)
  | 5 => if b = 0 then BitVec.allOnes n else a / b
  | 6 => if b = 0 then a else BitVec.ofInt n (a.toInt.tmod b.toInt)
  | _ => if b = 0 then a else a % b

/-- The M extension. -/
def rvMul (f3 : Nat) (word : Bool) (a b : W64) : W64 :=
  if word then
    let x : W32 := a.setWidth 32
    let y : W32 := b.setWidth 32
    if f3 = 0 then (x * y).signExtend 64 else (rvDiv f3 x y).signExtend 64
  else
    match f3 with
    | 0 => a * b
    | 1 => BitVec.ofInt 64 (a.toInt * b.toInt / 2 ^ 64)
    | 2 => BitVec.ofInt 64 (a.toInt * (b.toNat : Int) / 2 ^ 64)
    | 3 => BitVec.ofNat 64 (a.toNat * b.toNat / 2 ^ 64)
    | _ => rvDiv f3 a b

/-- A branch is taken. -/
def rvTaken (f3 : Nat) (a b : W64) : Bool :=
  match f3 with
  | 0 => a == b
  | 1 => a != b
  | 4 => a.slt b
  | 5 => !a.slt b
  | 6 => a.ult b
  | _ => !a.ult b

/-- Bytes of a load or store. -/
def rvBytes (f3 : Nat) : Nat := 2 ^ (f3 % 4)

/-- A loaded value, extended as its code says. -/
def rvExtend (f3 : Nat) (bs : List Byte) : W64 :=
  let x := leNat bs
  match f3 with
  | 0 => sx 8 x
  | 1 => sx 16 x
  | 2 => sx 32 x
  | _ => w64 x

/-- What an instruction asks of the machine around the hart. -/
inductive RvAsk where
  | done (h : Hart)
  | load (f3 rd addr : Nat)
  | store (n addr : Nat) (x : W64)
  | amo (op : AOp) (wide : Bool) (rd addr : Nat) (x : W64)
  | fence
  | ecall
  | illegal
  deriving DecidableEq, Repr

/-- The hart goes on behind an instruction of `len` bytes. -/
def Hart.next (h : Hart) (len : Nat) : Hart := { h with pc := h.pc + w64 len, retired := h.retired + 1, ir := none }

/-- One instruction of a hart. -/
def Hart.run (h : Hart) (i : Rv) (len : Nat) : RvAsk :=
  let goto (h : Hart) (pc : W64) : RvAsk := .done { h with pc := pc, retired := h.retired + 1, ir := none }
  match i with
  | .lui rd imm => .done ((h.set rd imm).next len)
  | .auipc rd imm => .done ((h.set rd (h.pc + imm)).next len)
  | .jal rd off => goto (h.set rd (h.pc + w64 len)) (h.pc + off)
  | .jalr rd rs1 off => goto (h.set rd (h.pc + w64 len)) ((h.reg rs1 + off) &&& ~~~ (1 : W64))
  | .branch f3 rs1 rs2 off =>
    if rvTaken f3 (h.reg rs1) (h.reg rs2) then goto h (h.pc + off) else .done (h.next len)
  | .load f3 rd rs1 off => .load f3 rd (h.reg rs1 + off).toNat
  | .store f3 rs1 rs2 off => .store (rvBytes f3) (h.reg rs1 + off).toNat (h.reg rs2)
  | .opImm f3 alt word rd rs1 imm => .done ((h.set rd (rvAlu f3 alt word (h.reg rs1) imm)).next len)
  | .op f3 alt word rd rs1 rs2 => .done ((h.set rd (rvAlu f3 alt word (h.reg rs1) (h.reg rs2))).next len)
  | .mul f3 word rd rs1 rs2 => .done ((h.set rd (rvMul f3 word (h.reg rs1) (h.reg rs2))).next len)
  | .amo op wide rd rs1 rs2 => .amo op wide rd (h.reg rs1).toNat (h.reg rs2)
  | .fence => .fence
  | .ecall => .ecall
  | .illegal => .illegal

/-- A hart at the start of a prologue (R406). -/
def Hart.start (code desc arg : W64) : Hart :=
  { pc := code, x := (List.range 32).map fun n => if n = 10 then arg else if n = 11 then desc else 0 }

end Sys2Proof.Machine
end

