-- ==== Sys2Proof/Machine/Queues.lean ====
section
/-! DEFINITION. Queues, started packets, aborts and completion (R391 to R399, R408). -/

namespace Sys2Proof.Machine

/-! ## Rings (R392, R393) -/

/-- Virtual address of slot i of the ring. -/
def Queue.slotVa (x : Queue) (i : W32) : Nat := (x.base.toNat + 64 * (i.toNat % 2 ^ x.log2)) % 2 ^ 64

/-- LOG2SIZE leaves the queue usable. -/
def Queue.sized (x : Queue) : Bool := 4 ≤ x.log2 && x.log2 ≤ 16

/-- Slots below WPTR that have not started. -/
def Queue.avail (x : Queue) : Nat := (x.wptr - x.rptr).toNat

/-- WPTR runs further ahead than the ring holds. -/
def Queue.overfull (x : Queue) : Bool := decide (2 ^ x.log2 < x.avail)

/-- The world that a queue works for. -/
def State.queueWorld (s : State) (q : Nat) : Nat := (s.queue q).qmap.getD 0

/-! ## Packets (R395, R396) -/

/-- Word n of a packet. -/
def Packet.word (p : Packet) (n : Nat) : W64 := p.words.getD n 0

/-- TYPE. -/
def Packet.type (p : Packet) : Nat := fld (p.word 0) 7 0

/-- CSIG; the descriptor's SIGNAL serves in its place in a `qlaunch` (R404). -/
def Packet.csig (p : Packet) : W64 := if p.type = 2 then p.word 12 else p.word 7

/-- The slots of a packet. -/
def slotsOf (type : Nat) : Nat := if type = 2 then 2 else 1

/-- ALIST of a `qbarrier` (R408). -/
def Packet.alist (p : Packet) : Nat := fld (p.word 0) 63 16 * 256

/-- Signals that a `qbarrier` lists, in slot order (R408). -/
def Packet.sigs (p : Packet) : List Nat := ((p.words.drop 1).take 6).filterMap fun x => if x = 0 then none else some x.toNat

/-- A field or type check of R396: codes, zero fields and alignments. Words to which a type gives no field are zero
(DEDUCED, log 37). -/
def Packet.formed (p : Packet) : Bool :=
  let w := p.word
  let zeros (ns : List Nat) : Bool := ns.all fun n => w n == 0
  let mult (n k : Nat) : Bool := (w n).toNat % k == 0
  (p.type == 2 || (fld (w 0) 15 9 == 0 && mult 7 8)) &&
  (match p.type with
   | 1 => fld (w 0) 63 16 == 0 && zeros [1, 2, 3, 4, 5, 6]
   | 2 => fld (w 0) 11 9 == 0
   | 3 => fld (w 0) 63 16 == 0 && mult 1 2 && mult 2 128 && zeros [4, 5, 6]
   | 4 => fld (w 0) 19 16 ≤ 5 && fld (w 0) 23 20 == 0 && fld (w 0) 31 24 ≤ 32 && fld (w 0) 39 32 ≤ 32 &&
      fld (w 0) 63 40 == 0 && mult 1 8 && zeros [4, 5, 6]
   | 5 => [1, 2, 3, 4, 5, 6].all fun n => mult n 8
   | 6 => fld (w 0) 19 16 ≤ 1 && fld (w 0) 63 20 == 0 && mult 1 8 && zeros [3, 4, 5, 6]
   | 7 => fld (w 0) 20 16 ≤ 23 && fld (w 0) 63 21 == 0 && mult 1 8 && mult 2 8 && zeros [3, 4, 5, 6]
   | 8 => fld (w 0) 63 26 == 0
   | 9 => fld (w 0) 63 49 == 0 && mult 1 16 && zeros [2, 3, 4, 5, 6]
   | 10 => fld (w 0) 63 24 == 0 && mult 5 8 && w 6 == 0
   | _ => false)

/-- The hart is at work on the packet and starts no other: a `qbarrier` and a `qmark` wait without it (DEDUCED from R397
and R411, log 37). -/
def Packet.holdsHart (p : Packet) : Bool :=
  p.presented || p.hart.isSome || p.again || p.aborting.isSome || (!p.acted && p.type != 5 && p.type != 9)

/-- A further packet may start (R397). -/
def Queue.mayStart (x : Queue) : Bool :=
  x.qmap.isSome && x.state == 0 && x.sized && x.avail != 0 && decide (x.started.length < 16) &&
  !x.started.any (fun p => p.barrier || p.holdsHart)

/-- The started packets of a slot: more than one after RPTR was set back. -/
def State.packetsAt (s : State) (q slot : Nat) : List Packet := (s.queue q).started.filter fun p => p.slot == slot

/-- Let each packet of a slot act, while its queue is mapped: the hart of another takes no cycle (R391). -/
def State.eachPacket (s : State) (q slot : Nat) (f : State → Packet → State) : State :=
  if (s.queue q).qmap.isNone then s else (s.packetsAt q slot).foldl f s

/-- A packet is over: nothing of it is left in its queue. -/
def State.dropPacket (s : State) (q id : Nat) : State :=
  (s.modQueue q fun x => { x with started := x.started.filter fun p => p.id != id }).dropQuestions (packetKey q id)

/-! ## Aborts (R393, R399) -/

/-- The queue aborts, unless it is aborted already. -/
def State.queueAborts (s : State) (q w cause : Nat) (slot : W32) : State :=
  if (s.queue q).state = 2 then s
  else (s.modQueue q fun x => { x with state := 2, cause := cause, slot := slot }).irq w 2

/-- Fail a signal for a packet; the failed step's cause is given back. -/
def State.failSignal (s : State) (q : Nat) (p : Packet) (va : Nat) (errand : Errand) : State × Option Nat :=
  match s.signal p.world (actOp q p.id) va .swap ones64 errand with
  | .ok s => (s, none)
  | .error c => (s, some c)

/-- A write of the packet to the host or a peer is not acknowledged yet. -/
def State.ownPending (s : State) (q : Nat) (p : Packet) : Bool := s.ext.any fun x => x.opId == actOp q p.id

/-- The front end's record of an abort: no core, ACCESS 0 (R399). -/
def State.packetRecord (s : State) (w cause : Nat) (va : W64) : State := s.postOwn w cause 0 va none

/-- Fail the completion signal of an aborting packet, where it may be written and has not been (R399 step 1). -/
def State.failCsig (s : State) (q : Nat) (p : Packet) (a : Abort) : State :=
  let g := p.csig
  let s := if a.fails ∧ !a.signalled ∧ g ≠ 0 ∧ g.toNat % 8 = 0 then (s.failSignal q p g.toNat .plain).1 else s
  s.modPacket q p.id fun x => { x with aborting := some { a with signalled := true } }

/-- Fail every address of the abort list of a `qbarrier`: whether that is done (R399 step 1). -/
def State.failList (s : State) (q : Nat) (p : Packet) : State × Bool :=
  if p.type ≠ 5 ∨ p.alist = 0 then (s, true)
  else match s.feRead (packetKey q p.id) p.world p.alist 64 false with
    | (s, none) => (s, false)
    | (s, some (.error (_, c))) => (s.packetRecord p.world c (w64 p.alist), true)
    | (s, some (.ok bs)) =>
      ((toWords 8 bs).foldl (fun s a =>
        if a = 0 then s
        else match s.failSignal q p a.toNat (.listed q) with
          | (s, none) => s
          | (s, some c) => s.packetRecord p.world c a) s, true)

/-- The queue of an aborted packet aborts, and a record is posted where the front end owes one (R399 step 2). -/
def State.abortOver (s : State) (q : Nat) (p : Packet) (a : Abort) : State :=
  let s := s.queueAborts q p.world a.cause (w32 p.slot)
  (match a.record with | some va => s.packetRecord p.world a.cause va | none => s).dropPacket q p.id

/-- A turn at an aborting packet (R399): its failing stores follow its own writes, and its queue aborts when they are
performed. -/
def State.abortTurn (s : State) (q : Nat) (p : Packet) (a : Abort) : State :=
  if s.ownPending q p then s
  else if a.listed then s.abortOver q p a
  else match (s.failCsig q p a).failList q p with
    | (s, false) => s
    | (s, true) =>
      if s.ownPending q p then
        s.modPacket q p.id fun x => { x with aborting := some { a with signalled := true, listed := true } }
      else s.abortOver q p a

/-- A packet aborts (R399): nothing more of it is done but what the abort asks for. -/
def State.abortPacket (s : State) (q : Nat) (p : Packet) (cause : Nat) (record : Option W64) (fails : Bool) : State :=
  let a : Abort := { cause := cause, record := record, fails := fails }
  (s.modPacket q p.id fun x =>
    { x with aborting := some a, acted := true, hart := none, again := false, failed := none, refused := none }).abortTurn q p a

/-- A check of a packet fails: cause 0x09, with the slot index in VADDR. -/
def State.badPacket (s : State) (q : Nat) (p : Packet) : State := s.abortPacket q p 9 (some (w64 p.slot)) true

/-- An address of a packet fails. -/
def State.badAddress (s : State) (q : Nat) (p : Packet) (x : Nat × Nat) : State :=
  s.abortPacket q p x.2 (some (w64 x.1)) true

/-! ## Completion (R396) -/

/-- Nothing that the packet waits for is left. -/
def State.packetOver (s : State) (q : Nat) (p : Packet) : Bool :=
  p.acted && p.failed.isNone && p.refused.isNone && p.aborting.isNone && p.launches.isEmpty && p.copy.isNone &&
  !p.presented && p.hart.isNone && !p.again && !s.ownPending q p

/-- A packet completes: its completion signal is decremented behind all its actions; a `qlaunch` leaves that to its
launch (R396, R404). A `qmark` whose words are written raises the interrupt that it asks for (R401). -/
def State.completePacket (s : State) (q : Nat) (p : Packet) : State :=
  let s := s.dropPacket q p.id
  let s := if p.type = 9 ∧ bit (p.word 0) 48 then s.irq p.world 3 else s
  let g := p.csig
  if p.type = 2 ∨ g = 0 then s
  else match s.signal p.world 0 g.toNat .add ones64 (.csig q p.slot) with
    | .ok s => s
    | .error c => (s.queueAborts q p.world c (w32 p.slot)).packetRecord p.world c g

/-- The packet aborts, or is to abort. -/
def Packet.dying (p : Packet) : Bool := p.aborting.isSome || p.refused.isSome || p.failed.isSome

/-- A packet with nothing left to wait for completes, and one that was refused or failed aborts; where another unit has
failed it, the record is the placer's or the chunk's (R396, R399). -/
def State.tryComplete (s : State) (q : Nat) (p : Packet) : State :=
  match p.aborting, p.refused, p.failed with
  | some a, _, _ => s.abortTurn q p a
  | none, some e, _ => s.badAddress q p e
  | none, none, some c => s.abortPacket q p c none (p.type != 2)
  | none, none, none => if s.packetOver q p then s.completePacket q p else s

/-- PACKET_COMPLETION (R396, R399). -/
def execPacketCompletion (q slot : Nat) (s : State) : Res := .next (s.eachPacket q slot fun s p => s.tryComplete q p)

/-- A packet has performed what it does itself. -/
def State.acted (s : State) (q : Nat) (p : Packet) : State :=
  (s.modPacket q p.id fun x => { x with acted := true }).raiseEvent (.packetCompletion q p.slot)

/-! ## Barrier packets (R408) -/

/-- A signal of the packet lies outside the module. -/
def State.farSignal (s : State) (p : Packet) : Bool :=
  p.sigs.any fun va => match s.feTranslate p.world va 8 true false false with
    | .ok pa => !inModule pa
    | .error _ => false

/-- One evaluation of a `qbarrier`: it aborts, completes or waits. -/
def State.evaluate (s : State) (q : Nat) (p : Packet) : State :=
  let s := s.modPacket q p.id fun x => { x with far := x.far || s.farSignal p, poked := false }
  match s.feReads (packetKey q p.id) p.world (p.sigs.map fun va => (va, 8)) false with
  | (s, none) => s
  | (s, some (.error e)) => s.badAddress q p e
  | (s, some (.ok bs)) =>
    let vs := toWords p.sigs.length bs
    if vs.any fun x => x.msb then s.abortPacket q p 0 none true
    else if vs.all (· == 0) then s.acted q p
    else s.modPacket q p.id fun x => { x with seen := s.alm }

/-- A `qbarrier` is due for an evaluation: a signal was written while its queue was not mapped, or one lies, or lay,
at the host or a peer and 10 µs have passed, or it waits for the answers of one (R391, R408). -/
def State.evaluationDue (s : State) (q : Nat) (p : Packet) : Bool :=
  p.type == 5 && !p.acted &&
  (p.poked || ((p.far || s.farSignal p) &&
    (decide (p.seen + 10000 ≤ s.alm) || s.ext.any fun x => x.opId == agentOp (packetKey q p.id))))

/-- QBARRIER_EVALUATION (R408); that of a queue that has lost its mapping comes once it is mapped again (R391). -/
def execQbarrierEvaluation (q slot : Nat) (s : State) : Res :=
  .next ((s.packetsAt q slot).foldl (fun s p =>
    if p.type ≠ 5 ∨ p.acted then s
    else if (s.queue q).qmap.isNone then s.modPacket q p.id fun x => { x with poked := true }
    else s.evaluate q p) s)

/-- Packets with one armed again at its recorded position among those armed before it (R397, R411). -/
def insertPlaced (p : Packet) (ps : List Packet) : List Packet :=
  let before (x : Packet) : Bool := match x.place, p.place with | some a, some b => decide (a ≤ b) | _, _ => false
  ps.takeWhile before ++ p :: ps.dropWhile before

/-- QBARRIER_REARM: a `qbarrier` whose slot, words and position were recorded is armed at its destination, and evaluated
at once (R411). The record comes with the move, and a queue that is not mapped takes none (R391). -/
def execQbarrierRearm (q : Nat) (r : QRecord) (s : State) : Res :=
  match (s.queue q).qmap with
  | none => .next s
  | some w =>
    let (id, s) := s.freshId
    let p : Packet :=
      { id := id, world := w, slot := r.slot, words := r.words, barrier := bit (r.words.headD 0) 8, place := some r.place }
    if p.type ≠ 5 ∨ !p.formed then .next s
    else
      let s := s.modQueue q fun x =>
        { x with recorded := x.recorded.filter fun y => y.slot != r.slot, started := insertPlaced p x.started }
      .next (s.evaluate q p)

/-! ## Answers of the outside (R172, R199, R222, R272, R396, R399, R444) -/

/-- A copy that waited for an acknowledgement has one fewer to wait for; a refusal fails its chunk (R216, R272). -/
def State.answerCopies (s : State) (x : Ext) (refused : Bool) : State :=
  match s.copies.find? fun c => c.waiting.contains x.id with
  | none => s
  | some c =>
    let o := x.lanes.headD { lane := 0, va := 0, pa := 0 }
    let c := { c with waiting := c.waiting.filter (· != x.id) }
    if !refused then s.setCopy c
    else
      let c := { c with landed := c.landed - o.data.length }
      if c.cause.isSome then s.setCopy c else s.failCopy c 4 2 o.va

/-- What a refusal leads to, by what was asked: the packet aborts, its queue does, or a record is posted; of the parts
of one write of a result record, one (R399, R444). -/
def State.refusedErrand (s : State) (x : Ext) : State :=
  let c := if x.peer.isNone then 3 else 4
  let va := (x.lanes.head?.map (·.va)).getD 0
  match x.errand with
  | .act q id =>
    (match (s.queue q).started.find? fun p => p.id == id with
     | some p => if p.dying then s else s.modPacket q id fun x => { x with refused := some (va, c) }
     | none => s)
  | .csig q slot => (s.queueAborts q x.world c (w32 slot)).packetRecord x.world c (w64 va)
  | .listed _ => s.packetRecord x.world c (w64 va)
  | .own access launch => s.postOwn x.world c access (w64 va) launch
  | .record n k =>
    if k = 0 then s
    else
      let told (y : Ext) : Ext := if y.errand = .record n k then { y with errand := .record n 0 } else y
      ({ s with ext := s.ext.map told }).postOwn x.world c 2 (w64 va) (some n)
  | .word core pc launch bar =>
    let s := s.postPlain x.world c 2 pc 0 (w64 va) (some launch)
    (match bar with
     | some b => if (s.core core).plotHeld x.world b then s.barDo core b (.land 0 (some c)) else s
     | none => s)
  | _ => s

/-- Bytes of a result for each lane of an operation. -/
def Op.width (o : Op) : Nat :=
  match o.kind with
  | .load n _ _ | .store n => n
  | .atomic _ wide _ | .reduce _ wide => if wide then 8 else 4
  | _ => 8

/-- An access of a troupe is refused where it had passed every check: by a peer that had admitted it, or by the host,
of whose loads and stores the manual knows no refusal. No fault is left for it (R46): a lane that was to return a
value returns one that no rule gives, and the target has done with the others what it would (R172, R187; DESIGN
CHOICE, log 64). A post to a peer has the status of a refusal as its result (R283). -/
def State.refusedOp (s : State) (x : Ext) : State :=
  match (s.requester x.tkey x.uid).bind fun t => t.ops.find? fun o => o.id == x.opId with
  | none => s.answer x none
  | some { kind := .post _, .. } => s.answer x (some (leBytes 8 3))
  | some o =>
    let (n, s) := s.freeNat
    s.answer x (some (leBytes o.width n))

/-- A reduction at the host goes on: what was read leads to the write, and the write to the next lane. A lane that the
host refuses performs nothing (R199). -/
def State.reduceOn (s : State) (x : Ext) (r : Reply) : State :=
  let t := (s.requester x.tkey x.uid).getD { Troupe.blank with uid := x.uid, world := x.world }
  match x.errand, r with
  | .reduceRead aop wide (o :: rest), .data bs =>
    let new := atomicBytes aop wide (exactly (if wide then 8 else 4) bs) o.x 0
    s.ask t x.opId 2 false [{ lane := o.lane, va := o.va, pa := o.pa, data := new }] (.reduceWrite aop wide rest)
  | .reduceRead aop wide (_ :: rest), _ => s.reduceAtHost t x.opId aop wide rest
  | .reduceWrite aop wide rest, _ => s.reduceAtHost t x.opId aop wide rest
  | _, _ => s

/-- The host answers the OR of `valid`: what was read, or what a CompareAndSwap returned, is swapped for its OR with the
mask if it is unchanged, until a swap succeeds; then the answer is kept (R365). -/
def State.swapOn (s : State) (x : Ext) (bs : List Byte) : State :=
  let now := w64 (leNat (exactly 8 bs))
  let keep : State := { s with ext := s.ext.map fun (y : Ext) => if y.id == x.id then { y with reply := some (.data bs) } else y }
  let again (mask : W64) : State :=
    let t := (s.requester x.tkey x.uid).getD { Troupe.blank with uid := x.uid, world := x.world }
    ({ s with ext := s.ext.filter fun y => y.id != x.id }).ask t x.opId (17 + 2 * AOp.cas.ctorIdx) true
      (x.lanes.map fun (o : LaneOp) => { o with x := now ||| mask, c := now }) (.swap mask now)
  match x.errand with
  | .swapRead mask => again mask
  | .swap mask old => if now = old then keep else again mask
  | _ => keep

/-- The answer tells that a lane of an atomic or a reduction of a troupe has been performed (R376). -/
def Ext.laneDone (x : Ext) (r : Reply) : Bool :=
  x.uid != 0 && match x.errand, r with
    | .plain, .data _ | .plain, .ack => 16 ≤ x.tag
    | .reduceWrite _ _ _, .ack => true
    | .swap _ old, .data bs => w64 (leNat (exactly 8 bs)) == old
    | _, _ => false

/-- PCIE_COMPLETION: the host, or a peer, answers a request. One that an instruction waits for keeps its answer; a
load's lane is delivered; a store is acknowledged (R199, R222, R229). A request whose binding is moving is sent again,
under its name and in its place (R172). A launch whose record is written goes on (R97). -/
def execPcieCompletion (id : Nat) (r : Reply) (s : State) : Res :=
  match s.ext.find? fun x => x.id == id with
  | none => .next s
  | some x =>
    let s := if x.laneDone r then s.count x.world 0x0F (x.tkey / 32) 1 else s
    if x.sync then
      .next (match x.errand, r with
        | .swapRead _, .data bs | .swap _ _, .data bs => s.swapOn x bs
        | _, _ => { s with ext := s.ext.map fun (y : Ext) => if y.id == id then { y with reply := some r } else y })
    else
      let gone : State := { s with ext := s.ext.filter fun y => y.id != id }
      let finish (s : State) : State :=
        let s := (s.reduceOn x r).retireNamed x.tkey x.uid
        match x.errand with
        | .record n _ => (s.endLaunch n).opportunity
        | _ => s
      match r with
      | .retry => .next (s.sendExt x)
      | .data bs => .next (finish (gone.answer x (some bs)))
      | .ack => .next (finish (gone.answerCopies x false))
      | .refused => .next (finish (((gone.answerCopies x true).refusedErrand x).refusedOp x))

end Sys2Proof.Machine
end

