-- ==== Sys2Proof/Machine/Prologue.lean ====
section
/-! DEFINITION. Prologues: a hart in user mode on behalf of a packet (R405, R406). -/

namespace Sys2Proof.Machine

/-- The prologue of a packet goes on with a hart. -/
def State.setHart (s : State) (q : Nat) (p : Packet) (h : Hart) : State :=
  s.modPacket q p.id fun x => { x with hart := some h }

/-- A trap of the prologue without an address. -/
def State.hartTrap (s : State) (q : Nat) (p : Packet) (cause : Nat) : State :=
  s.abortPacket q p cause (some (w64 p.slot)) true

/-- An instruction of the prologue has retired; the 4,096th without an ECALL overruns the budget. -/
def State.retireHart (s : State) (q : Nat) (p : Packet) (h : Hart) : State :=
  let s := s.setHart q p h
  if 4096 ≤ h.retired then s.raiseEvent (.prologueOverrun q p.slot) else s

/-- Fetch the upper half of an instruction whose lower half is at hand. -/
def State.hartFetchHigh (s : State) (q : Nat) (p : Packet) (h : Hart) (low : Nat) : State :=
  match s.feRead (packetKey q p.id) p.world (h.pc.toNat + 2) 2 true with
  | (s, none) => s.setHart q p { h with ir := some (w32 low, 0) }
  | (s, some (.error e)) => s.badAddress q p e
  | (s, some (.ok bs)) => s.setHart q p { h with ir := some (w32 (low + 65536 * leNat bs), 4) }

/-- Fetch the two or four bytes at the program counter. -/
def State.hartFetch (s : State) (q : Nat) (p : Packet) (h : Hart) : State :=
  match s.feRead (packetKey q p.id) p.world h.pc.toNat 2 true with
  | (s, none) => s
  | (s, some (.error e)) => s.badAddress q p e
  | (s, some (.ok bs)) =>
    let x := leNat bs
    if x % 4 ≠ 3 then s.setHart q p { h with ir := some (w32 x, 2) } else s.hartFetchHigh q p h x

/-- An earlier store of the prologue to the peer that an access goes to, which may hold it off, is not answered yet: the
access waits, so that they are performed in program order (R222, R406). -/
def State.hartWaits (s : State) (q : Nat) (p : Packet) (a n : Nat) : Bool :=
  match s.feParts p.world a n false false false with
  | .error _ => false
  | .ok ps => ps.any fun x => match regionOf x.1 with
    | .peer k => s.ext.any fun y => y.opId == actOp q p.id && y.peer == some k
    | _ => false

/-- A load of the prologue. -/
def State.hartLoad (s : State) (q : Nat) (p : Packet) (h : Hart) (len f3 rd a : Nat) : State :=
  let n := rvBytes f3
  if a < 2 ^ 56 ∧ a % n ≠ 0 then s.badAddress q p (a, 5)
  else if s.hartWaits q p a n then s
  else match s.feRead (packetKey q p.id) (p.world) a n false with
    | (s, none) => s
    | (s, some (.error e)) => s.badAddress q p e
    | (s, some (.ok bs)) => s.retireHart q p ((h.set rd (rvExtend f3 bs)).next len)

/-- A store of the prologue. -/
def State.hartStore (s : State) (q : Nat) (p : Packet) (h : Hart) (len n a : Nat) (x : W64) : State :=
  if a < 2 ^ 56 ∧ a % n ≠ 0 then s.badAddress q p (a, 5)
  else if s.hartWaits q p a n then s
  else match s.feWrite (p.world) (actOp q p.id) a (leBytes n x.toNat) (.act q p.id) with
    | .error e => s.badAddress q p e
    | .ok s => s.retireHart q p (h.next len)

/-- An AMO of the prologue, performed as `amos` (R199). -/
def State.hartAmo (s : State) (q : Nat) (p : Packet) (h : Hart) (len : Nat) (op : AOp) (wide : Bool) (rd a : Nat) (x : W64) :
    State :=
  let w := p.world
  let n := if wide then 8 else 4
  let ext (bs : List Byte) : W64 := rvExtend (if wide then 3 else 2) bs
  if a < 2 ^ 56 ∧ a % n ≠ 0 then s.badAddress q p (a, 5)
  else if s.hartWaits q p a n then s
  else match s.feTranslate w a n true true false with
    | .error c => s.badAddress q p (a, c)
    | .ok pa =>
      if inModule pa then
        let old := s.memRead pa n
        (s.storeBytes pa (atomicBytes op wide old x 0)).retireHart q p ((h.set rd (ext old)).next len)
      else if (match regionOf pa with | .host => !hostOp op | _ => false) then s.badAddress q p (a, 3)
      else
        match s.answers (packetKey q p.id) w (16 + 2 * op.ctorIdx + b2n wide) [{ lane := 0, va := a, pa := pa, x := x }] with
        | (s, none) => s
        | (s, some (.error (_, c))) => s.badAddress q p (a, c)
        | (s, some (.ok xs)) =>
          s.retireHart q p ((h.set rd (ext (exactly n ((xs.head?.map Ext.bytes).getD [])))).next len)

/-- ECALL 0 or 2: the descriptor is read after the prologue's last store, and presented with bits [11:0] cleared; after
4,096 launches nothing is repeated. -/
def State.hartLaunch (s : State) (q : Nat) (p : Packet) (again : Bool) : State :=
  let w := p.world
  let d := (p.word 2).toNat
  if s.ext.any fun x => x.opId == actOp q p.id then s
  else match s.feParts w d 128 true true false with
    | .error e => s.badAddress q p e
    | .ok _ =>
      match s.feRead (packetKey q p.id) w d 128 false with
      | (s, none) => s
      | (s, some (.error e)) => s.badAddress q p e
      | (s, some (.ok bs)) =>
        let ws := toWords 16 bs
        let desc := (ws.headD 0 &&& ~~~ (0xFFF : W64)) :: ws.drop 1
        let more := again && p.made < 4095
        let s := s.modPacket q p.id fun x => { x with hart := none, presented := true, again := more, acted := !more }
        { s with presented := s.presented ++ [{ world := w, desc := desc, packet := some (q, p.id) }] }

/-- One turn of a hart at its prologue. -/
def State.hartStep (s : State) (q : Nat) (p : Packet) (h : Hart) : State :=
  match h.ir with
  | none => s.hartFetch q p h
  | some (low, 0) => s.hartFetchHigh q p h low.toNat
  | some (word, len) =>
    match h.run (decodeHart word) len with
    | .done h => s.retireHart q p h
    | .load f3 rd a => s.hartLoad q p h len f3 rd a
    | .store n a x => s.hartStore q p h len n a x
    | .amo op wide rd a x => s.hartAmo q p h len op wide rd a x
    | .fence => if s.ext.any fun x => x.opId == actOp q p.id then s else s.retireHart q p (h.next len)
    | .illegal => s.hartTrap q p 1
    | .ecall =>
      match (h.reg 17).toNat with
      | 0 => s.hartLaunch q p false
      | 1 => ((s.modPacket q p.id fun x => { x with hart := none }).acted q p)
      | 2 => s.hartLaunch q p true
      | _ => s.hartTrap q p 1

/-- The prologue begins, with fresh registers. -/
def State.startHart (s : State) (q : Nat) (p : Packet) : State :=
  s.modPacket q p.id fun x => { x with again := false, hart := some (Hart.start (x.word 1) (x.word 2) (x.word 3)) }

/-- PROLOGUE_REPEAT: the placer has accepted a launch that asked to be repeated. -/
def execPrologueRepeat (q slot : Nat) (s : State) : Res :=
  .next (s.eachPacket q slot fun s p => if p.again ∧ !p.presented then s.startHart q p else s)

/-- PROLOGUE_OVERRUN: 4,096 instructions without an ECALL. -/
def execPrologueOverrun (q slot : Nat) (s : State) : Res :=
  .next (s.eachPacket q slot fun s p =>
    match p.hart with
    | some h => if 4096 ≤ h.retired then s.hartTrap q p 0x13 else s
    | none => s)

end Sys2Proof.Machine
end

