-- ==== Sys2Proof/Machine/Packets.lean ====
section
/-! DEFINITION. What each type of packet does, the start of packets, and a turn of a hart (R397 to R409). -/

namespace Sys2Proof.Machine

/-! ## qlaunch (R404) -/

/-- A `qlaunch` presents its descriptor with bits [11:0] cleared. -/
def State.qLaunch (s : State) (q : Nat) (p : Packet) : State :=
  let s := s.modPacket q p.id fun x => { x with presented := true, acted := true }
  let desc := (p.word 0 &&& ~~~ (0xFFF : W64)) :: p.words.drop 1
  { s with presented := s.presented ++ [{ world := p.world, desc := desc, packet := some (q, p.id) }] }

/-! ## qpred (R407) -/

/-- Slots of the two arms. -/
def Packet.arms (p : Packet) : Nat × Nat := (fld (p.word 0) 31 24, fld (p.word 0) 39 32)

/-- An arm ends on a packet boundary and holds no `qpred`: its slots' types, in order. -/
def armOk : Nat → List Nat → Bool
  | _, [] => true
  | 0, _ => false
  | n + 1, t :: rest =>
    if t = 4 then false
    else if t = 2 then (match rest with | [] => false | _ :: more => armOk n more)
    else armOk n rest

/-- The test of a `qpred`. -/
def predHolds (cond : Nat) (x v : W64) : Bool :=
  match cond with
  | 0 => x == v
  | 1 => x != v
  | 2 => x.slt v
  | 3 => x.sle v
  | 4 => x.ult v
  | _ => x.ule v

/-- One arm is taken; RPTR passes the other. -/
def Queue.takeArm (x : Queue) (thenArm elseArm : Nat) (yes : Bool) : Queue :=
  if yes then
    (if thenArm = 0 then { x with rptr := x.rptr + w32 elseArm, arm := none } else { x with arm := some (thenArm, elseArm) })
  else { x with rptr := x.rptr + w32 thenArm, arm := if elseArm = 0 then none else some (elseArm, 0) }

/-- A turn at a `qpred`: it waits until WPTR covers both arms, checks them, and then tests its word. -/
def State.qPred (s : State) (q : Nat) (p : Packet) : State :=
  let x := s.queue q
  let (a, b) := p.arms
  let after := w32 p.slot + 1
  if 2 ^ x.log2 < 1 + a + b then s.badPacket q p
  else if (x.wptr - after).toNat < a + b then s
  else if p.made = 0 then
    match s.feReads (packetKey q p.id) p.world ((List.range (a + b)).map fun k => (x.slotVa (after + w32 k), 64)) false with
    | (s, none) => s
    | (s, some (.error e)) => s.badAddress q p e
    | (s, some (.ok bs)) =>
      let types := (List.range (a + b)).map fun i => leNat ((bs.drop (64 * i)).take 1)
      if armOk 64 (types.take a) && armOk 64 (types.drop a) then s.modPacket q p.id fun y => { y with made := 1 }
      else s.badPacket q p
  else
    match s.feRead (packetKey q p.id) p.world (p.word 1).toNat 8 false with
    | (s, none) => s
    | (s, some (.error e)) => s.badAddress q p e
    | (s, some (.ok bs)) =>
      let yes := predHolds (fld (p.word 0) 19 16) (w64 (leNat bs) &&& p.word 2) (p.word 3)
      (s.modQueue q fun x => x.takeArm a b yes).acted q p

/-! ## qcopy (R403) -/

/-- A record of a `qcopy` breaks R403 or R266. -/
def qRecBad (r : Rec) (source : Bool) : Bool :=
  recSpace r != 0 || rfld r 11 20 0 != 0 || !(recFaults r source false).isEmpty

/-- A `qcopy` reads its records and issues its copy, whose reads follow in S what the packet follows (R398, R403). -/
def State.qCopy (s : State) (q : Nat) (p : Packet) : State :=
  let w := p.world
  match s.feReads (packetKey q p.id) w [((p.word 1).toNat, 96), ((p.word 2).toNat, 96)] false with
  | (s, none) => s
  | (s, some (.error e)) => s.badAddress q p e
  | (s, some (.ok bs)) =>
      let src : Rec := toWords 12 bs
      let dst : Rec := toWords 12 (bs.drop 96)
      if qRecBad src true || qRecBad dst false then s.badPacket q p
      else if (recDiffer src dst).isSome then s.abortPacket q p 0x0A (some (w64 p.slot)) true
      else
        let (id, s) := s.freshId
        let cl := fld (p.word 0) 20 16
        let c : Copy :=
          { id := id, tkey := 0, uid := 0, queue := some (q, p.id), world := w, launch := 0, core := 8 * cl
            cluster := cl, pc := 0, gather := false, acq := true, src := src, dst := dst, bar := none, cw := none
            todo := chunksOf src }
        let s := { s with copies := s.copies ++ [c] }
        s.modPacket q p.id fun x => { x with copy := some id, acted := true }

/-! ## qsignal, qpost, qmark (R400 to R402) -/

/-- A `qsignal` performs its operation. -/
def State.qSignal (s : State) (q : Nat) (p : Packet) : State :=
  let a := (p.word 1).toNat
  let op : AOp := if fld (p.word 0) 19 16 = 0 then .swap else .add
  match s.signal p.world (actOp q p.id) a op (p.word 2) (.act q p.id) with
  | .error c => s.badAddress q p (a, c)
  | .ok s => s.acted q p

/-- The entry of kind 2 (R402). -/
def qPostEntry (q w : Nat) (p : Packet) : List W64 :=
  w64 (2 + q * 2 ^ 8 + w * 2 ^ 16 + p.slot % 2 ^ 16 * 2 ^ 32) :: ((List.range 6).map fun i => p.word (i + 1)) ++ [0]

/-- A `qpost` appends its entry; a full mailbox drops it. -/
def State.qPost (s : State) (q : Nat) (p : Packet) : State :=
  let w := p.world
  let m := fld (p.word 0) 25 16
  if (s.mailbox m).owner ≠ w then s.abortPacket q p 4 (some (w64 p.slot)) true
  else (s.mbxPut m (qPostEntry q w p)).acted q p

/-- Every earlier packet of the queue is over. -/
def State.isFirst (s : State) (q : Nat) (p : Packet) : Bool := ((s.queue q).started.head?.map (·.id)) == some p.id

/-- A `qmark` writes its words once every earlier packet has completed; its interrupt follows their write (R401). -/
def State.qMark (s : State) (q : Nat) (p : Packet) : State :=
  if !s.isFirst q p then s
  else
    let w := p.world
    let bs := leBytes 8 (fld (p.word 0) 47 16) ++ leBytes 8 s.alm
    match s.feWrite w (actOp q p.id) (p.word 1).toNat bs (.act q p.id) with
    | .error e => s.badAddress q p e
    | .ok s => s.acted q p

/-! ## qdebug (R409) -/

/-- WRITE brings this many bytes; an item that is not written brings none. -/
def writeSize (item : Nat) : Nat := if item < 4 ∨ (0x40 ≤ item ∧ item < 0x80) then itemSize item else 0

/-- A request is performed: its response, the failing address of its data, or nothing yet. -/
def State.qRequest (s : State) (q : Nat) (p : Packet) : State × Option (Except (Nat × Nat) (List Byte)) :=
  let w := p.world
  let o (n : Nat) : W64 := p.word n
  let ok (x : State × List Byte) : State × Option (Except (Nat × Nat) (List Byte)) := (x.1, some (.ok x.2))
  match fld (p.word 0) 23 16 with
  | 1 => ok (s.reqHalt w (o 1))
  | 2 => ok (s.reqCont w (o 1))
  | 3 => ok (s.reqStep w (o 1) (joinMask (o 2) (o 3)))
  | 4 => match s.reqRead w (o 1) (o 2) with | none => (s, none) | some r => ok (s, r)
  | 5 =>
    match s.feRead (packetKey q p.id) w (o 3).toNat (writeSize (o 2).toNat) false with
    | (s, none) => (s, none)
    | (s, some (.error e)) => (s, some (.error e))
    | (s, some (.ok bs)) => ok (s.reqWrite w (o 1) (o 2) bs)
  | 6 => ok (s.reqBarrd w (o 1) (o 2))
  | 7 => ok (s.reqSetbp w (o 1) (o 2))
  | 8 => ok (s.reqSetwp w (o 1) (o 2) (o 3))
  | 9 => ok (s, s.reqList w)
  | _ => ok (s, response 3 [])

/-- The response goes to RESP, eight bytes at a time, the last filled with zeros. -/
def State.putResponse (s : State) (q : Nat) (p : Packet) (bs : List Byte) : State :=
  let w := p.world
  let a := (p.word 5).toNat
  let words := toWords ((bs.length + 7) / 8) bs
  match s.feParts w a (8 * words.length) false true false with
  | .error e => s.badAddress q p e
  | .ok _ =>
    let s := words.zipIdx.foldl (fun s x =>
      match s.feWrite w (actOp q p.id) (a + 8 * x.2) (wordBytes x.1) (.act q p.id) with
      | .ok s => s
      | .error _ => s) s
    s.acted q p

/-- No request to the world that was taken earlier waits: they are performed one at a time, in that order (R383). -/
def State.firstDebug (s : State) (p : Packet) : Bool :=
  !s.debugging p.world p.id && (s.world p.world).debugs.all fun x => decide (p.id < x.1)

/-- A turn at a `qdebug`. -/
def State.qDebug (s : State) (q : Nat) (p : Packet) : State :=
  if !s.firstDebug p then s else
  match s.qRequest q p with
  | (s, none) => s
  | (s, some (.error e)) => s.badAddress q p e
  | (s, some (.ok bs)) => s.putResponse q p bs

/-! ## Start, and the turns of a hart (R391, R397) -/

/-- What a started packet does next, by its type. -/
def State.turnPacket (s : State) (q : Nat) (p : Packet) : State :=
  match p.type with
  | 1 => s.acted q p
  | 2 => s.qLaunch q p
  | 3 => s.startHart q p
  | 4 => s.qPred q p
  | 5 => s.evaluate q p
  | 6 => s.qSignal q p
  | 7 => s.qCopy q p
  | 8 => s.qPost q p
  | 9 => s.qMark q p
  | _ => s.qDebug q p

/-- RPTR passes the slots of a packet, and with the last of a taken arm those of the other. -/
def Queue.pass (x : Queue) (n : Nat) : Queue :=
  match x.arm with
  | none => { x with rptr := x.rptr + w32 n }
  | some (left, skip) =>
    if left ≤ n then { x with rptr := x.rptr + w32 (n + skip), arm := none }
    else { x with rptr := x.rptr + w32 n, arm := some (left - n, skip) }

/-- The packet whose words have been read starts. -/
def State.begin (s : State) (q w : Nat) (words : List W64) : State :=
  let (id, s) := s.freshId
  let p : Packet :=
    { id := id, world := w, slot := (s.queue q).rptr.toNat, words := words, barrier := bit (words.headD 0) 8 }
  let s := s.modQueue q fun x => { x.pass (slotsOf p.type) with started := x.started ++ [p] }
  if p.formed then s.turnPacket q p else s.badPacket q p

/-- Both slots of a `qlaunch` are read together, and it starts (R397, R404). -/
def State.startPair (s : State) (q w : Nat) : State :=
  let x := s.queue q
  match s.feReads (pairKey q) w [(x.slotVa x.rptr, 64), (x.slotVa (x.rptr + 1), 64)] false with
  | (s, none) => s
  | (s, some (.error (va, c))) => (s.queueAborts q w c x.rptr).packetRecord w c (w64 va)
  | (s, some (.ok bs)) =>
    let words := toWords 16 bs
    s.begin q w (if fld (words.headD 0) 7 0 = 2 then words else words.take 8)

/-- The ring's slot RPTR is read; where a packet of the wanted type may start, it does (R393, R397). -/
def State.startPacket (s : State) (q : Nat) (want : Option Nat) : State :=
  let x := s.queue q
  let w := s.queueWorld q
  if x.qmap.isSome ∧ x.state = 0 ∧ x.sized ∧ x.overfull then
    (s.queueAborts q w 9 x.rptr).packetRecord w 9 (x.rptr.setWidth 64)
  else if !x.mayStart then s
  else if s.ext.any fun y => y.opId == agentOp (pairKey q) then (if want.all (· == 2) then s.startPair q w else s)
  else
    match s.feRead q w (x.slotVa x.rptr) 64 false with
    | (s, none) => s
    | (s', some (.error (va, c))) =>
      if want.isSome then s else (s'.queueAborts q w c x.rptr).packetRecord w c (w64 va)
    | (s', some (.ok bs)) =>
      let words := toWords 8 bs
      let type := fld (words.headD 0) 7 0
      if want.any (· != type) ∨ x.avail < slotsOf type then s
      else if type = 2 then s'.startPair q w
      else s'.begin q w words

/-- A started packet that its hart can go on with. -/
def State.packetWork (s : State) (q : Nat) (p : Packet) : Bool :=
  p.dying || p.hart.isSome || s.packetOver q p ||
  (!p.acted && !p.presented && !p.again &&
    (if p.type = 5 then s.evaluationDue q p
     else if p.type = 9 then s.isFirst q p
     else if p.type = 10 then s.firstDebug p
     else true))

/-- A turn at a started packet. -/
def State.goOn (s : State) (q : Nat) (p : Packet) : State :=
  if p.dying then s.tryComplete q p
  else match p.hart with
    | some h => s.hartStep q p h
    | none => if s.packetOver q p then s.completePacket q p else s.turnPacket q p

/-- The hart of a queue has something to do. -/
def State.hartBusy (s : State) (q : Nat) : Bool :=
  let x := s.queue q
  x.qmap.isSome && ((x.state == 0 && x.sized && x.overfull) || x.mayStart || x.started.any (s.packetWork q))

/-- One turn of the hart of a queue: it goes on with a started packet, from place k of those that it can go on with, or
starts one; that of a queue that is not mapped takes no cycle (R391). -/
def State.hartTurn (s : State) (q k : Nat) : State :=
  if (s.queue q).qmap.isNone then s else
  let ready := (s.queue q).started.filter (s.packetWork q)
  let n := if (s.queue q).mayStart then ready.length + 1 else ready.length
  match ready[k % max n 1]? with
  | some p => s.goOn q p
  | none => s.startPacket q none

/-- QNOP (R400). -/
def execQnop (q : Nat) (s : State) : Res := .next (s.startPacket q (some 1))

/-- QLAUNCH (R404). -/
def execQlaunch (q : Nat) (s : State) : Res := .next (s.startPacket q (some 2))

/-- QPROLOG (R405, R406). -/
def execQprolog (q : Nat) (s : State) : Res := .next (s.startPacket q (some 3))

/-- QPRED (R407). -/
def execQpred (q : Nat) (s : State) : Res := .next (s.startPacket q (some 4))

/-- QBARRIER (R408). -/
def execQbarrier (q : Nat) (s : State) : Res := .next (s.startPacket q (some 5))

/-- QSIGNAL (R400). -/
def execQsignal (q : Nat) (s : State) : Res := .next (s.startPacket q (some 6))

/-- QCOPY (R403). -/
def execQcopy (q : Nat) (s : State) : Res := .next (s.startPacket q (some 7))

/-- QPOST (R402). -/
def execQpost (q : Nat) (s : State) : Res := .next (s.startPacket q (some 8))

/-- QMARK (R401). -/
def execQmark (q : Nat) (s : State) : Res := .next (s.startPacket q (some 9))

/-- QDEBUG (R409). -/
def execQdebug (q : Nat) (s : State) : Res := .next (s.startPacket q (some 10))

end Sys2Proof.Machine
end

