-- ==== Sys2Proof/Machine/Registers.lean ====
section
/-! DEFINITION. The register set of the functions, and the quiescing of a world for a migration (R392 to R394, R411,
R422, R423, R432, R434). -/

namespace Sys2Proof.Machine

/-! ## Functions (R422, R432) -/

/-- An interface that takes a TLP: one that is locked or running takes it only on its IDE stream (R422). -/
def Trust.takes (t : Trust) (ide : Bool) : Bool := !(t.tdisp == 1 || t.tdisp == 2) || (ide && t.ide)

/-- A TLP reaches a function. One that the interface does not take is discarded, and the interface moves to ERROR
(R422). Nothing happens at a function that is not there. -/
def State.onTlp (s : State) (x : Tlp) (go : State → State) : State :=
  if !s.fnPresent x.fn then s
  else if (s.fn x.fn).trust.takes x.ide then go s
  else s.modFn x.fn fun x => { x with trust := { x.trust with tdisp := 3 } }

/-! ## Reads (R434) -/

/-- Q_CTL (R392). -/
def Queue.ctl (x : Queue) : W64 := w64 (x.log2 + x.state * 256)

/-- A register of a queue at an offset from its first (R392, R434). -/
def Queue.register (x : Queue) (off : Nat) : W64 :=
  match off with
  | 0x00 => x.base
  | 0x08 => x.ctl
  | 0x10 => x.rptr.setWidth 64
  | 0x18 => x.wptr.setWidth 64
  | 0x20 => w64 (x.cause + x.slot.toNat * 2 ^ 32)
  | _ => 0

/-- QMAP of a queue (R434). -/
def Queue.map (x : Queue) : W64 := w64 (x.qfn + b2n x.qmap.isSome * 64)

/-- HALTED (R434). -/
def State.haltedWorlds (s : State) : W64 :=
  w64 ((s.worlds.filter fun w => w.2.st == .halted).foldl (fun n w => n + 2 ^ w.1) 0)

/-- HEAT (R434). -/
def State.heatWord (s : State) : W64 := w64 ((s.clusters.map fun c => c.2.heatState * 4 ^ c.1).foldl (· + ·) 0)

/-- TIME_SRC (R434). -/
def Mgmt.timeWord (m : Mgmt) : W64 := w64 (m.timeSrc + b2n m.timeLocked * 4)

/-- FE_HI of an entry: what was written, its zero fields zero, with the WORLD of the entry that is installed (R6, R178,
R434). -/
def Fn.hiWord (x : Fn) (e : Nat) : W64 :=
  (x.feHi.get e 0 &&& 0x0000FFFFFFFFF00F) ||| ((x.fe.get e (0, 0)).2 &&& 0xFC0)

/-- A word of the command buffer: word 0 has zero above its fields (R6, R329). -/
def Mgmt.cmdWord (m : Mgmt) (n : Nat) : W64 :=
  if n = 0 then m.allocCmd.get 0 0 &&& 0x3FFF else m.allocCmd.get n 0

/-- What a read of a register of a function gives (R434). -/
def State.readReg (s : State) (f off : Nat) : W64 :=
  let x := s.fn f
  let q := (off - 0x1000) / 0x40
  if off % 8 ≠ 0 ∨ (0x8000 ≤ off ∧ f ≠ 0) then 0
  else if 0x1000 ≤ off ∧ off < 0x2000 then
    (if (s.queue q).qmap = some f then (s.queue q).register (off % 0x40) else 0)
  else if 0x2000 ≤ off ∧ off < 0x2400 then
    (let e := (off - 0x2000) / 16
     if off % 16 = 0 then (x.fe.get e (0, 0)).1 else x.hiWord e)
  else if 0x8000 ≤ off ∧ off < 0x8200 then (s.queue ((off - 0x8000) / 8)).map
  else if 0x8400 ≤ off ∧ off < 0x8500 then s.mgmt.cmdWord ((off - 0x8400) / 8)
  else match off with
    | 0x0000 => w64 f
    | 0x0008 => x.irqStatus.setWidth 64
    | 0x0010 => x.irqMask.setWidth 64
    | 0x0018 => x.apbase
    | 0x0020 => w64 (b2n x.feRefused)
    | 0x8200 => s.mgmt.bootStatus.setWidth 64
    | 0x8508 => w64 (b2n (!s.mgmt.running.isEmpty) + s.mgmt.allocStatus * 256)
    | 0x8600 => s.haltedWorlds
    | 0x8700 => s.heatWord
    | 0x8708 => w64 s.mgmt.power
    | 0x8710 => s.mgmt.timeWord
    | 0x8800 => w64 s.mgmt.laneFail
    | _ => 0

/-! ## Queues (R392, R393) -/

/-- A write of Q_CTL: a new size first, while the queue does not run; then STATE. -/
def Queue.writeCtl (x : Queue) (v : W64) : Queue :=
  let x := if x.state = 0 then x else { x with log2 := fld v 3 0 }
  match fld v 9 8 with
  | 1 => { x with state := 1 }
  | 0 => if x.state ≠ 0 ∧ x.sized then { x with state := 0 } else x
  | _ => x

/-- A write to a register of a queue. A new RPTR ends the arms of a `qpred` (log 37). -/
def Queue.write (x : Queue) (off : Nat) (v : W64) : Queue :=
  match off with
  | 0x00 => if x.state = 0 then x else { x with base := v }
  | 0x08 => x.writeCtl v
  | 0x10 => if x.state = 0 then x else { x with rptr := v.setWidth 32, arm := none }
  | 0x18 => { x with wptr := v.setWidth 32 }
  | _ => x

/-- The doorbell of a queue that runs: more slots than the ring holds abort it, naming slot RPTR (R393). -/
def State.doorbell (s : State) (q : Nat) : State :=
  let x := s.queue q
  let w := s.queueWorld q
  if x.qmap.isSome ∧ x.state = 0 ∧ x.sized ∧ x.overfull then
    (s.queueAborts q w 9 x.rptr).packetRecord w 9 (x.rptr.setWidth 64)
  else s

/-- A slot that a hart is reading from the host or a peer is read anew once its queue has been written to; a doorbell
leaves it (R397). -/
def State.rereadRing (s : State) (q off : Nat) : State :=
  if off = 0x18 then s else (s.dropQuestions q).dropQuestions (pairKey q)

/-- A write to a register of queue q by function f: queue q is there only when it is mapped to f (R434). -/
def State.writeQueue (s : State) (f q off : Nat) (v : W64) : State :=
  if q < 64 ∧ (s.queue q).qmap = some f then ((s.modQueue q fun x => x.write off v).doorbell q).rereadRing q off else s

/-- Q_WPTR_DOORBELL (R393). -/
def execQWptrDoorbell (tlp : Tlp) (q : Nat) (value : W64) (s : State) : Res :=
  .next (s.onTlp tlp fun s => s.writeQueue tlp.fn q 0x18 value)

/-- QUEUE_STOP: STATE 1 is written, LOG2SIZE as it stands (R393). -/
def execQueueStop (tlp : Tlp) (q : Nat) (s : State) : Res :=
  .next (s.onTlp tlp fun s => s.writeQueue tlp.fn q 0x08 (w64 ((s.queue q).log2 + 256)))

/-- QUEUE_RUN: Q_CTL is written with STATE 0 and a LOG2SIZE (R392, R393). -/
def execQueueRun (tlp : Tlp) (q : Nat) (value : W64) (s : State) : Res :=
  .next (s.onTlp tlp fun s => s.writeQueue tlp.fn q 0x08 (w64 (fld value 3 0)))

/-! ## Front-end entries (R394) -/

/-- An entry of a function's table is installed, or FE_REFUSED says that it was not. -/
def State.writeFe (s : State) (f e : Nat) (lo : W64) : State :=
  let x : Entry := stamp f (lo, (s.fn f).feHi.get e 0)
  if 64 ≤ e then s
  else if entryBad (lo, (s.fn f).feHi.get e 0) ∨ (entryValid x ∧ !s.admits f x) then
    s.modFn f fun y => { y with feRefused := true }
  else s.modFn f fun y => { y with feRefused := false, fe := y.fe.put e x }

/-- FE_ENTRY_WRITE (R394, R434); one from outside the VF, by the PF, moves a locked or running interface to ERROR
(R423). -/
def execFeEntryWrite (tlp : Tlp) (entry : FeSlot) (lo : W64) (s : State) : Res :=
  .next (s.onTlp (if entry.outside then { tlp with fn := 0 } else tlp) fun s =>
    (if entry.outside then s.tdispError tlp.fn else s).writeFe tlp.fn entry.index lo)

/-! ## The allocator's registers (R327, R434) -/

/-- Submit the command buffer, unless a command is in progress; before the management firmware runs nothing takes it
(R413). -/
def State.submit (s : State) (value : W64) : Res :=
  if !s.mgmt.booted ∨ !bit value 0 ∨ !s.mgmt.running.isEmpty then .next s
  else
    let words := (List.range 32).map fun i => s.mgmt.allocCmd.get i 0
    let s := { s with mgmt := { s.mgmt with running := words, begun := false } }
    match commandOf words with
    | none => s.allocDone 1
    | some i => .next (s.raiseEvent i)

/-- ALLOC_DOORBELL (R327, R434). -/
def execAllocDoorbell (fn : Nat) (value : W64) (s : State) : Res :=
  if fn ≠ 0 then .next s else s.submit value

/-! ## Writes (R434) -/

/-- A write of QMAP: only while the queue is stopped. A change of a locked function's mapping moves its interface to
ERROR (R423). A queue that goes to another function leaves the packets behind that it had started for the first (log
74). -/
def State.writeQmap (s : State) (q : Nat) (v : W64) : State :=
  let x := s.queue q
  if x.state ≠ 1 then s
  else
    let f := fld v 5 0
    let to' : Option Nat := if bit v 6 then some f else none
    let keep (p : Packet) : Bool := to'.all (· == p.world)
    let s := s.modQueue q fun x =>
      { x with qfn := f, qmap := to', started := x.started.filter keep, recorded := x.recorded.filter keep }
    if to' = x.qmap then s
    else
      let s := match x.qmap with | some w => s.tdispError w | none => s
      match to' with | some w => s.tdispError w | none => s

/-- A write to a register of a function; one of an RO register or of no register is ignored. -/
def State.writeReg (s : State) (f off : Nat) (v : W64) : Res :=
  if off % 8 ≠ 0 ∨ (0x8000 ≤ off ∧ f ≠ 0) then .next s
  else if 0x1000 ≤ off ∧ off < 0x2000 then .next (s.writeQueue f ((off - 0x1000) / 0x40) (off % 0x40) v)
  else if 0x2000 ≤ off ∧ off < 0x2400 then
    (let e := (off - 0x2000) / 16
     if off % 16 = 0 then .next (s.writeFe f e v)
     else .next (s.modFn f fun x => { x with feHi := x.feHi.put e v }))
  else if 0x8000 ≤ off ∧ off < 0x8200 then .next (s.writeQmap ((off - 0x8000) / 8) v)
  else if 0x8400 ≤ off ∧ off < 0x8500 then
    .next { s with mgmt := { s.mgmt with allocCmd := s.mgmt.allocCmd.put ((off - 0x8400) / 8) v } }
  else if off = 0x8500 then s.submit v
  else if off = 0x0008 then .next (s.modFn f fun x => { x with irqStatus := x.irqStatus &&& ~~~ (v.setWidth 8) })
  else if off = 0x0010 then .next (s.modFn f fun x => { x with irqMask := v.setWidth 8 })
  else if off = 0x0018 then .next (s.modFn f fun x => { x with apbase := v &&& 0x00FFFFFFFFFFF000 })
  else .next s

/-- REGISTER_WRITE (R434). -/
def execRegisterWrite (tlp : Tlp) (off : Nat) (value : W64) (s : State) : Res :=
  if s.fnPresent tlp.fn && (s.fn tlp.fn).trust.takes tlp.ide then s.writeReg tlp.fn off value else .next (s.onTlp tlp id)

/-! ## Migration (R411) -/

/-- Queues of a world. -/
def State.queuesOf (s : State) (w : Nat) : List Nat := (s.queues.filter fun q => q.2.qmap == some w).map (·.1)

/-- A waiting `qbarrier`. -/
def Packet.waits (p : Packet) : Bool := p.type == 5 && !p.acted

/-- Every started packet of a queue is over, or is a `qbarrier` that waits. -/
def Queue.settled (x : Queue) : Bool := x.started.all Packet.waits

/-- The world has come to rest on every core (R411 step 2). -/
def State.worldAtRest (s : State) (w : Nat) : Bool :=
  (s.troupes.all fun t => t.2.world != w || (s.quiet t.2 && !t.2.ctl.exited && !t.2.ctl.stopped)) &&
  !s.copies.any (fun c => c.world == w) &&
  s.cores.all fun c => (heldBy c.2.accOwner w).all fun a => (c.2.visBusy.find a).isNone

/-- Cores on which the world has troupes or storage. -/
def State.coresOf (s : State) (w : Nat) : List Nat :=
  (s.cores.filter fun c =>
    let h := c.2.hold w
    !(h.tslots.isEmpty && h.blocks.isEmpty && h.plots.isEmpty && h.oslots.isEmpty && h.accs.isEmpty)).map (·.1)

/-- Every remote ownership entry that names a target of the world is marked MOVING (R411 step 3). -/
def State.markMoving (s : State) (w : Nat) : State :=
  { s with remote := s.remote.mapVals fun _ e => if bit e 0 ∧ fld e 20 15 = w then e ||| 2 else e }

/-- LIVE_MIGRATION_QUIESCE: the world's queues stop. Once their packets and the world's troupes have come to rest, its
state is in its switch area, what its barrier packets wait for is recorded, and peers are held off (R411 steps 1 to 3).
The world then stays switched out of its cores, which hold nothing of it; one whose switch area is too small for its
cores is never moved (log 38). -/
def execLiveMigrationQuiesce (w : Nat) (s : State) : Res :=
  if !s.present w then .next s
  else
    let qs := s.queuesOf w
    let s := qs.foldl (fun s q => s.modQueue q fun x => if x.state = 0 then { x with state := 1 } else x) s
    let s := s.modWorld w fun x => { x with moving := true }
    let s := if qs.all fun q => (s.queue q).settled then
        (s.troupes.filter fun t => t.2.world == w).foldl (fun s t => s.askLeave t.2) s
      else s
    if !(qs.all fun q => (s.queue q).settled) || !s.worldAtRest w || !(s.coresOf w).all (s.areaHolds w) then .next s
    else
      let s := (s.coresOf w).foldl (fun s k => s.switchOut w w k) s
      let s := qs.foldl (fun s q => s.modQueue q fun x =>
        { x with recorded := x.recorded ++ (x.started.filter Packet.waits).zipIdx.map fun y => { y.1 with place := some y.2 }
                 started := x.started.filter fun p => !p.waits }) s
      .next ((s.modWorld w fun x => { x with moving := false }).markMoving w)

end Sys2Proof.Machine
end

