-- ==== Sys2Proof/Machine/Attach.lean ====
section
/-! DEFINITION. The host's and the peers' accesses, flits, time sources, heat and power (R172, R223, R351, R433 to
R443). -/

namespace Sys2Proof.Machine

/-- Send something to the outside. -/
def State.emit (s : State) (x : Out) : State := { s with out := s.out ++ [x] }

/-! ## BAR2 and host accesses (R223, R433) -/

/-- The completion of an access that fails: Unsupported Request, or a poisoned completion. -/
def State.failBar2 (s : State) (cause : Nat) : State := s.emit (.completion (cause == 0x14) (cause == 0x14) [])

/-- The virtual range that an access of a function through BAR2 reaches; none outside the aperture. -/
def State.bar2Va (s : State) (f off n : Nat) : Option Nat :=
  if off + n ≤ 2 ^ 36 then some ((s.fn f).apbase.toNat + off) else none

/-- One turn at the first waiting read through BAR2. -/
def State.bar2Turn (s : State) : State :=
  match s.bar2 with
  | [] => s
  | (f, off, n) :: rest =>
    let rest' (s : State) : State := { s with bar2 := rest }
    match s.bar2Va f off n with
    | none => (rest' s).failBar2 0
    | some va =>
      match s.feRead 65 f va n false with
      | (s, none) => s
      | (s, some (.error (_, c))) => (rest' s).failBar2 c
      | (s, some (.ok bs)) => (rest' s).emit (.completion true false bs)

/-- A part of a host write through BAR2: in module memory it follows in S what the host's link delivered before
(R223). -/
def State.hostPut (s : State) (f va pa : Nat) (bs : List Byte) : State :=
  if inModule pa then s.linkStore 0 pa bs else s.putBytes f 0 va pa bs .plain

/-- An access through BAR2: a read waits behind earlier ones, a write is performed at once (R433). -/
def State.bar2Access (s : State) (f off n : Nat) (data : Option (List Byte)) : State :=
  match data with
  | none =>
    let s := { s with bar2 := s.bar2 ++ [(f, off, n)] }
    if s.bar2.length = 1 then s.bar2Turn else s
  | some bs =>
    match s.bar2Va f off n with
    | none => s.failBar2 0
    | some va =>
      match s.feParts f va (bs.take n).length false true false with
      | .error (_, c) => s.failBar2 c
      | .ok ps =>
        (ps.foldl (fun (a : State × List Byte) p =>
          (a.1.hostPut f va p.1 (a.2.take p.2), a.2.drop p.2)) (s, bs.take n)).1

/-- HOST_BAR2_ACCESS (R433). -/
def execHostBar2Access (tlp : Tlp) (off n : Nat) (data : Option (List Byte)) (s : State) : Res :=
  .next (s.onTlp tlp fun s => s.bar2Access tlp.fn off n data)

/-- A range that lies in one part of module memory. -/
def moduleRange (pa n : Nat) : Bool := inModule pa && inModule (pa + n - 1) && regionOf pa == regionOf (pa + n - 1)

/-- HOST_MEMORY_WRITE: an admitted read or write of module memory by the host or a peer is an element of S at its
slice; one that meets poison returns a poisoned completion and writes nothing (R176, R223, R433). -/
def execHostMemoryWrite (pa n : Nat) (data : Option (List Byte)) (s : State) : Res :=
  if n = 0 ∨ !moduleRange pa n then .next (s.failBar2 0)
  else if s.poisoned pa n then .next (s.failBar2 0x14)
  else match data with
    | some bs => .next (s.linkStore 0 pa (bs.take n))
    | none =>
      let (s, bs) := s.loadBytes pa n
      .next (s.emit (.completion true false bs))

/-! ## The remote ownership table (R172, R351) -/

/-- What an access wants of an entry: kind and target. -/
def remoteMatch (e : W64) (kind : RemoteKind) : Bool :=
  let frame (pa n : Nat) : Bool :=
    let b := fld e 60 25 * 4096
    !bit e 4 && n != 0 && decide (b ≤ pa) && decide (pa + n ≤ b + pageSize (fld e 24 21))
  match kind with
  | .read pa n => bit e 2 && frame pa n
  | .write pa data => bit e 3 && frame pa data.length
  | .atomic pa _ wide _ _ => bit e 3 && frame pa (if wide then 8 else 4)
  | .query pa n write => bit e (if write then 3 else 2) && frame pa n
  | .post m _ _ _ _ => bit e 4 && bit e 3 && fld e 60 25 == m

/-- Valid entries that admit an access of a world of a peer. -/
def State.remoteEntries (s : State) (peer rworld : Nat) (kind : RemoteKind) : List W64 :=
  (s.remote.filter fun x => bit x.2 0 && fld x.2 8 5 == peer && fld x.2 14 9 == rworld && remoteMatch x.2 kind).map (·.2)

/-- An admitted access is performed: the bytes and the status that go back, 3 for one that meets poison (log 30). What
one link delivers, it delivers in order (R223). -/
def State.remoteDo (s : State) (peer rworld : Nat) (kind : RemoteKind) : State × List Byte × Nat :=
  match kind with
  | .read pa n =>
    if s.poisoned pa n then (s, [], 3)
    else
      let (s, bs) := s.loadBytes pa n
      (s, bs, 0)
  | .write pa data => if s.poisoned pa data.length then (s, [], 3) else (s.linkStore (peer + 1) pa data, [], 0)
  | .atomic pa aop wide x c =>
    let n := if wide then 8 else 4
    if s.poisoned pa n then (s, [], 3)
    else
      let old := s.memRead pa n
      (s.linkStore (peer + 1) pa (atomicBytes aop wide old x c), old, 0)
  | .query _ _ _ => (s, [], 0)
  | .post m payload core tslot launch =>
    if 64 ≤ (s.mailbox m).entries.length then (s, leBytes 8 1, 0)
    else
      let t := { Troupe.blank with world := rworld, core := core, tslot := tslot, launch := launch }
      (s.mbxPut m (postEntry t ((List.range 7).map fun i => payload.getD i 0)), leBytes 8 0, 0)

/-- The address at which an access arrives. -/
def remoteAddr : RemoteKind → Nat
  | .read pa _ | .write pa _ | .atomic pa _ _ _ _ | .query pa _ _ => pa
  | .post m _ _ _ _ => m

/-- An answer goes back to a peer, in flits of the world whose memory or mailbox was asked for (R436); for a request
that no entry admits that world is not given (log 29). The codes of the status are the model's (log 44). -/
def State.reply (s : State) (w peer tag addr : Nat) (bs : List Byte) (status : Nat) : State :=
  (s.emit (.peerReply peer tag bs status)).sendFlits w peer tag addr bs.length

/-- REMOTE_ACCESS: a peer's access is admitted by a matching entry; otherwise it is refused, status 1, or held off
while the entry is MOVING, status 2 (R172, R351, R412; log 44). -/
def execRemoteAccess (peer rworld tag : Nat) (kind : RemoteKind) (s : State) : Res :=
  match s.remoteEntries peer rworld kind with
  | [] =>
    let (w, s) := s.freeNat
    .next (s.reply (w % 64) peer tag (remoteAddr kind) [] 1)
  | e :: es =>
    if (e :: es).all fun e => bit e 1 then .next (s.reply (fld e 20 15) peer tag (remoteAddr kind) [] 2)
    else
      let (s, bs, st) := s.remoteDo peer rworld kind
      .next (s.reply (fld e 20 15) peer tag (remoteAddr kind) bs st)

/-! ## Flits (R436, R437) -/

/-- The sequence number of a flit. -/
def flitSeq (bs : List Byte) : Nat := leNat (bs.take 2)

/-- A flit with another sequence number, and the CRC that goes with it. -/
def reseq (seq : Nat) (bs : List Byte) : List Byte :=
  let x := leBytes 2 seq ++ (bs.drop 2).take 58
  x ++ leBytes 4 (crc32 x).toNat

/-- The acknowledged flit is no longer kept; one before it whose CRC failed is (R437). -/
def ackFlits (a : Nat) (fs : List (Nat × List Byte)) : List (Nat × List Byte) := fs.filter fun f => flitSeq f.2 != a

/-- A lane after the acknowledgement that a flit brings, if it brings one of a flit that is kept. -/
def Lane.acked (l : Lane) (flit : List Byte) : Lane :=
  match Config.flitAck ((flit.drop 8).take 52) with
  | none => l
  | some a => if l.unacked.any fun f => flitSeq f.2 == a then { l with unacked := ackFlits a l.unacked, resends := 0 } else l

/-- The flit that was sent longest ago of those that are not acknowledged. -/
def Lane.oldest (l : Lane) : Option (Nat × List Byte) :=
  match least id (l.unacked.map (·.1)) with
  | none => none
  | some t => l.unacked.find? fun f => f.1 == t

/-- FLIT_RECEIVE: a flit whose CRC is right is acknowledged by its sequence number; a failed lane carries nothing. What
its payload asks for arrives as a REMOTE_ACCESS or a TIME_SYNC_INTERVAL (R436, R437, log 29). -/
def execFlitReceive (lane : Nat) (flit : List Byte) (s : State) : Res :=
  let l := s.lanes.get lane {}
  if l.failed ∨ !flitOk flit then .next s
  else
    let l := l.acked flit
    let l := if flitSeq flit = l.recvSeq then { l with recvSeq := (l.recvSeq + 1) % 2 ^ 16 } else l
    .next ({ s with lanes := s.lanes.put lane l }.emit (.ack lane (flitSeq flit)))

/-- The lane fails: what it has not delivered goes to the world's other lanes to the same peer, and the PF is told. -/
def State.failLane (s : State) (n : Nat) : State :=
  let l := s.lanes.get n {}
  let s := { s with lanes := s.lanes.put n { l with failed := true, unacked := [] } }
  let others := match s.mgmt.config.get (100 + n / 32) 0 with | 0 => [] | p + 1 => s.lanesTo l.owner p
  let s := l.unacked.zipIdx.foldl (fun s x =>
    if others.isEmpty then s
    else
      let m := others.getD (x.2 % others.length) 0
      s.sendOn m (reseq (s.lanes.get m {}).sendSeq x.1.2)) s
  ({ s with mgmt := { s.mgmt with laneFail := n } }).irq 0 7

/-- A flit that is sent again is kept with its new time. -/
def Lane.resent (l : Lane) (f : Nat × List Byte) (now : Nat) : Lane :=
  { l with resends := l.resends + 1, unacked := l.unacked.map fun g => if g = f then (now, f.2) else g }

/-- FLIT_RESEND: the oldest flit that is not acknowledged is sent again on its lane; after 16 consecutive resends the
lane fails (R437). -/
def State.resendFlit (s : State) (n : Nat) : State :=
  let l := s.lanes.get n {}
  match l.oldest with
  | none => s
  | some f =>
    if l.failed then s
    else if 16 ≤ l.resends then s.failLane n
    else
      let s := s.count 0 0x23 0 1
      ({ s with lanes := s.lanes.put n (l.resent f s.alm) }).emit (.flit n f.2)

/-- FLIT_RESEND (R437). -/
def execFlitResend (lane : Nat) (s : State) : Res := .next (s.resendFlit lane)

/-- A lane with a flit that has waited for 1 µs since it was last sent (R437). -/
def State.resendDue (s : State) : Option Nat :=
  (s.lanes.find? fun l => !l.2.failed && l.2.unacked.any fun f => decide (f.1 + 1000 ≤ s.alm)).map (·.1)

/-! ## Time sources (R355, R439) -/

/-- The source is lost: TIME_SRC bit 2 is cleared, PF vector 5 raised, and the last rate held. -/
def State.loseSource (s : State) : State :=
  if s.mgmt.timeLocked then ({ s with mgmt := { s.mgmt with timeLocked := false, timeGood := 0 } }).irq 0 5 else s

/-- The one step of the Almanac after hot reset, before the first launch is accepted (R355): its new value comes from
the source, so that here it is free, but for the correction of the fibre asymmetry (R439). -/
def State.stepAlmanac (s : State) : State :=
  if s.almStepped ∨ s.book.nextOrder ≠ 0 then s
  else
    let (x, s) := s.freeNat
    { s with alm := (x + s.asymmetry) % 2 ^ 64, almFrac := 0, almStepped := true }

/-- The rate that the source asks for, within 500 parts per million. -/
def clampPpm (x : Int) : Int := max (-500) (min 500 x)

/-- TIME_SYNC_INTERVAL: an exchange with the source succeeds or is missed. Lock takes 16 good intervals, at first as
after a loss (log 31); 8 consecutive missed ones lose it. While locked, the rate is corrected (R355, R439). Of a Wowen
source the client's own message leaves with the exchange. -/
def execTimeSyncInterval (good : Bool) (ppm : Int) (before : State) : Res :=
  let s := before.sendTime
  if s.mgmt.timeSrc = 0 then .next s
  else if good then
    let s := s.stepAlmanac
    let n := s.mgmt.timeGood + 1
    let locked := s.mgmt.timeLocked || decide (16 ≤ n)
    let s := { s with mgmt := { s.mgmt with timeGood := n, timeMissed := 0, timeLocked := locked } }
    .next (if locked then { s with ppm := clampPpm ppm } else s)
  else
    let n := s.mgmt.timeMissed + 1
    let s := { s with mgmt := { s.mgmt with timeMissed := n, timeGood := 0 } }
    .next (if 8 ≤ n then s.loseSource else s)

/-- TIME_SOURCE_LOSS (R439). -/
def execTimeSourceLoss (s : State) : Res := .next s.loseSource

/-! ## Heat and power (R440 to R443) -/

/-- The rising threshold of a heat state: the table's, or a lower one of the configuration record (R442). -/
def State.threshold (s : State) (k : Nat) : Int :=
  let d : Nat := 75 + 10 * k
  match s.mgmt.config.get (5 + k) 0 with
  | 0 => d
  | n + 1 => min (n + 1) d

/-- The heat state that a sample of T makes of an old one (R442). -/
def State.heatAfter (s : State) (old : Nat) (t : Int) : Nat :=
  let up := if s.threshold 3 ≤ t then 3 else if s.threshold 2 ≤ t then 2 else if s.threshold 1 ≤ t then 1 else 0
  if old < up then up else if old ≠ 0 ∧ t < s.threshold old - 3 then old - 1 else old

/-- HEAT_SAMPLE (R442): a change of heat state is a placement opportunity (R79). -/
def execHeatSample (cluster : Nat) (celsius : Int) (s : State) : Res :=
  if 24 ≤ cluster then .next s
  else
    let c := s.cluster cluster
    let h := s.heatAfter c.heat celsius
    let n := s.modCluster cluster fun c => { c with heat := h, celsius := celsius }
    .next (if h = c.heat then n else (n.readmit s).opportunity)

/-- The module's power limit: 4,000 W, or a lower one of the configuration record (R440). -/
def State.powerLimit (s : State) : Nat := match s.mgmt.config.get 5 0 with | 0 => 4000 | n + 1 => min (n + 1) 4000

/-- The cluster of a list with the greatest draw, the lowest-numbered among equals (log 32). -/
def hungriest (draws : List Nat) : List Nat → Option Nat
  | [] => none
  | c :: rest =>
    match hungriest draws rest with
    | none => some c
    | some d => if draws.getD d 0 ≤ draws.getD c 0 then some c else some d

/-- The cluster whose heat state the management core raises (R443). -/
def State.raiseTarget (s : State) (draws : List Nat) : Option Nat :=
  let low := (List.range 24).filter fun c => decide ((s.cluster c).heat < 3)
  let fenced := s.fencedWorlds.flatMap s.clustersOf
  match hungriest draws (low.filter fun c => !fenced.contains c) with
  | some c => some c
  | none => hungriest draws low

/-- POWER_CHECK: every 100 µs a draw above the limit raises one cluster by one state, until the next check (R443). -/
def execPowerCheck (watts : Nat) (draws : List Nat) (before : State) : Res :=
  let s := before
  let s := { s with mgmt := { s.mgmt with power := watts % 2 ^ 32 }
                    clusters := s.clusters.mapVals fun _ c => { c with raised := 0 } }
  let s := match (if watts ≤ s.powerLimit then none else s.raiseTarget draws) with
    | none => s
    | some c => s.modCluster c fun x => { x with raised := x.heat + 1 }
  .next (s.readmit before).opportunity

/-- JUNCTION_TRIP: at 115 °C the module removes its own power (R440). -/
def execJunctionTrip (celsius : Int) (s : State) : Res := .next (if 115 ≤ celsius then { s with powered := false } else s)

end Sys2Proof.Machine
end

