-- ==== Sys2Proof/Machine/Trust.lean ====
section
/-! DEFINITION. Boot, attestation, link protection, sealed memory, and uncorrectable errors (R413 to R431). -/

namespace Sys2Proof.Machine

/-- The 32 bytes of SHA3-256 of a byte string. -/
def sha3 (bs : List Byte) : List Byte := leBytes 32 (Config.sha3Digest bs).toNat

/-- UDS, from the start-up state of the array and the helper data; none when correction fails (R417). -/
def pufSecret (sram helper : List Byte) : Option (List Byte) :=
  if Config.pufCorrects sram helper then some (leBytes 32 (Config.deviceSecret helper).toNat) else none

/-! ## Images (R413, R414) -/

/-- The number in n bytes of an image. -/
def imgNat (bs : List Byte) (off n : Nat) : Nat := leNat ((bs.drop off).take n)

/-- LENGTH. -/
def imgLength (bs : List Byte) : Nat := imgNat bs 0x10 8
/-- SVN. -/
def imgSvn (bs : List Byte) : Nat := imgNat bs 0x08 8
/-- PUBKEY. -/
def imgKey (bs : List Byte) : List Byte := (bs.drop 0x18).take 1312
/-- SIG. -/
def imgSig (bs : List Byte) : List Byte := (bs.drop 0x538).take 2420
/-- The body. -/
def imgBody (bs : List Byte) : List Byte := (bs.drop 0x1000).take (imgLength bs)
/-- The whole image, header included. -/
def imgWhole (bs : List Byte) : List Byte := bs.take (0x1000 + imgLength bs)

/-- The image holds a header of the layer and the body it announces. -/
def imgFits (layer : Nat) (bs : List Byte) : Bool :=
  imgNat bs 0 4 == 0x4B4E5834 && imgNat bs 4 4 == layer && decide (0x1000 + imgLength bs ≤ bs.length)

/-- A value of the configuration record is in its range (R416): the source, the time lane and its port's correction, the
VFs offered, the power limit and the heat thresholds, which only lower the standing ones (R440, R442), a port's peer
(R435), the module's number (R436). The numbers of the fields are the model's (log 11). -/
def recordOk (x : Nat × Nat) : Bool :=
  match x.1 with
  | 1 => x.2 ≤ 2
  | 2 => x.2 ≤ 512
  | 4 => x.2 ≤ 63
  | 5 => x.2 ≤ 4000
  | 6 | 7 | 8 => x.2 ≤ 75 + 10 * (x.1 - 5)
  | 300 => x.2 ≤ 255
  | n => !(100 ≤ n && n < 116) || x.2 ≤ 16

/-- The values of a configuration record, if it can be read and none is out of its range (R416). -/
def recordOf (body : List Byte) : Option (List (Nat × Nat)) :=
  match Config.parseRecord body with
  | some xs => if xs.all recordOk then some xs else none
  | none => none

/-- The check that an image of a layer fails, if any, in the order of R414: 1 key hash, 2 signature, 3 zero field, 4
SVN. What is no image of the layer, or a configuration record out of range, fails as 3 (log 34). -/
def imgCheck (layer : Nat) (keyHash : List Byte) (floor : Nat) (bs : List Byte) : Option Nat :=
  if !imgFits layer bs then some 3
  else if sha3 (imgKey bs) ≠ keyHash then some 1
  else if !Config.mldsaVerify (imgKey bs) (bs.take 0x538 ++ imgBody bs) (imgSig bs) then some 2
  else if ((bs.drop 0xEAC).take 340).any (· != 0) then some 3
  else if imgSvn bs < floor then some 4
  else if layer = 4 ∧ (recordOf (imgBody bs)).isNone then some 3
  else none

/-- Slot A of a layer, or else slot B: the accepted image, or the check that failed last. -/
def Mgmt.pick (m : Mgmt) (layer : Nat) (keyHash : List Byte) : Except Nat (List Byte) :=
  let a := m.flash.get (2 * layer) []
  let b := m.flash.get (2 * layer + 1) []
  let floor := m.svnFloor.get layer 0
  match imgCheck layer keyHash floor a with
  | none => .ok a
  | some _ => match imgCheck layer keyHash floor b with | none => .ok b | some c => .error c

/-! ## The boot chain (R413 to R418) -/

/-- BOOT_STATUS (R434). -/
def bootWord (layer check : Nat) (recovery : Bool) : BitVec 17 := BitVec.ofNat 17 (layer + check * 256 + b2n recovery * 65536)

/-- The images of layers n to 4, accepted one after the other, or the layer and the check that failed. -/
def Mgmt.images (m : Mgmt) (hash : List Byte) : Nat → Nat → Except (Nat × Nat) (List (List Byte))
  | _, 0 => .ok []
  | n, k + 1 =>
    match m.pick n hash with
    | .error c => .error (n, c)
    | .ok img =>
      match m.images (if n = 0 then Config.bodyKeyHash (imgBody img) else hash) (n + 1) k with
      | .error e => .error e
      | .ok rest => .ok (img :: rest)

/-- Bytes of a label of the key hierarchy. -/
def label (x : String) : List Byte := x.toList.map fun c => BitVec.ofNat 8 c.toNat

/-- CDI_n, from UDS and the images of the layers before n (R417). -/
def cdiAfter (uds : List Byte) (imgs : List (List Byte)) : List Byte :=
  imgs.foldl (fun c i => sha3 (c ++ sha3 (imgWhole i))) (sha3 uds)

/-- The seed of the key pair of layer n (R417). -/
def aliasSeed (uds : List Byte) (imgs : List (List Byte)) (n : Nat) : List Byte :=
  sha3 (label "KEAPEN-ALIAS" ++ cdiAfter uds (imgs.take n))

/-- The chain: Keapen's root and the device identity, then the certificates of layers 1 to 4 (R417, R418). -/
def chainOf (uds : List Byte) (imgs : List (List Byte)) : List (List Byte) :=
  let dev := sha3 (label "KEAPEN-DEVID" ++ cdiAfter uds [])
  let issuer (n : Nat) : List Byte := if n = 1 then dev else aliasSeed uds imgs (n - 1)
  Config.deviceChain (Config.mldsaPublic dev) ++
    [1, 2, 3, 4].map fun n => Config.certificate (issuer n) (Config.mldsaPublic (aliasSeed uds imgs n))

/-- M_0 to M_31 (R415): each layer's register is extended with its image. -/
def measure (imgs : List (List Byte)) : Table (List Byte) :=
  (List.range 32).map fun n =>
    let zero : List Byte := List.replicate 32 0
    (n, match imgs[n]? with | some i => sha3 (zero ++ sha3 (imgWhole i)) | none => zero)

/-- Boot (R413 to R418): in recovery nothing further runs, and no VF is enabled. Layers that ran before a failure are
measured. The start-up state of the SRAM array is another at each boot. -/
def Mgmt.boot (m : Mgmt) (sram : List Byte) : Mgmt :=
  let m : Mgmt := { flash := m.flash, svnFloor := m.svnFloor, helper := m.helper }
  match pufSecret sram m.helper with
  | none => { m with bootStatus := bootWord 0 5 true, measured := measure [] }
  | some uds =>
    match m.images Config.romKeyHash 0 5 with
    | .error (n, c) =>
      let ran := match m.images Config.romKeyHash 0 n with | .ok is => is | .error _ => []
      { m with bootStatus := bootWord n c true, measured := measure ran }
    | .ok imgs =>
      let config := ((recordOf (imgBody (imgs.getD 4 []))).getD []).foldl (fun (t : Table Nat) x => t.put x.1 x.2) []
      { m with
        bootStatus := bootWord 4 0 false, booted := true, measured := measure imgs
        svnFloor := imgs.zipIdx.foldl (fun t x => t.put x.2 (max (t.get x.2 0) (imgSvn x.1))) m.svnFloor
        cdi := cdiAfter uds imgs, seed4 := aliasSeed uds imgs 4, chain := chainOf uds imgs
        config := config, timeSrc := config.get 1 0 }

/-- HOT_RESET: everything is as after hot reset, and the boot chain runs (R413, R415, R424, R431). What the outside has
been sent, and the model's own counters, stand. -/
def execHotReset (s : State) : Res :=
  let (k, s) := s.freshId
  .next { State.reset with
    worlds := [(0, { st := .live, keys := some ⟨3 * k, 3 * k + 1, 3 * k + 2⟩ })]
    mgmt := s.mgmt.boot (Config.sramState k), out := s.out
    book := { agenda := s.book.agenda, fresh := s.book.fresh, nextId := s.book.nextId, nextUid := s.book.nextUid } }

/-- What a link-down leaves of a function's security state: an interface that was locked or running is in ERROR, and
bars its world from the host window until START_INTERFACE completes (R431). -/
def Trust.linkDown (t : Trust) : Trust :=
  let confidential := t.tdisp == 1 || t.tdisp == 2
  { tdisp := if confidential then 3 else t.tdisp, barred := confidential || t.barred }

/-- LINK_DOWN, retrained without reset (R431). -/
def execLinkDown (s : State) : Res :=
  let f (_ : Nat) (x : Fn) : Fn := { x with trust := x.trust.linkDown }
  .next { s with fns := s.fns.mapVals f }

/-! ## SPDM (R418 to R421) -/

/-- The seed of the attestation key of a function (R418). -/
def State.fnSeed (s : State) (f : Nat) : List Byte :=
  sha3 (label "KEAPEN-FN" ++ s.mgmt.cdi ++ [BitVec.ofNat 8 f])

/-- The certificate chain of a function (R418). -/
def State.fnChain (s : State) (f : Nat) : List (List Byte) :=
  s.mgmt.chain ++ [Config.certificate s.mgmt.seed4 (Config.mldsaPublic (s.fnSeed f))]

/-- Replace the security state of a function. -/
def State.modTrust (s : State) (f : Nat) (g : Trust → Trust) : State := s.modFn f fun x => { x with trust := g x.trust }

/-- A responder's message: its code, and what it carries. The codes are SPDM's (PRESUMED, log 35). -/
def spdmMessage (code : Nat) (bs : List Byte) : List Byte := BitVec.ofNat 8 code :: bs

/-- An SPDM error (log 35). -/
def spdmError (code : Nat) : List Byte := spdmMessage 0x7F [BitVec.ofNat 8 code]

/-- A message with the signature of the function's key over it and the requester's nonce. -/
def State.signed (s : State) (f code : Nat) (bs nonce : List Byte) : List Byte :=
  spdmMessage code (bs ++ nonce ++ Config.mldsaSign (s.fnSeed f) (bs ++ nonce))

/-- A message leaves a responder: in the clear, or as a secured message of the session (R419). -/
def State.sendSpdm (s : State) (x : Responder) (bs : List Byte) : State :=
  if x.secured then
    let t := (s.fn x.fn).trust
    (s.modTrust x.fn fun t => { t with secured := t.secured + 1 }).emit
      (.spdm x.fn (Config.gcmSeal (t.secret.getD []) t.secured bs))
  else s.emit (.spdm x.fn bs)

/-- A responder answers once the module has booted; before algorithms are negotiated, nothing but that is expected. A
secured message, which is one that opens under the session's keys, belongs to a session (R419; log 35). -/
def State.responder (s : State) (x : Responder) (go : State → State × List Byte) : State :=
  let t := (s.fn x.fn).trust
  if !s.mgmt.booted || !s.fnPresent x.fn then s
  else if !t.negotiated then s.sendSpdm ⟨x.fn, false⟩ (spdmError 4)
  else if x.secured && !t.session then s.sendSpdm ⟨x.fn, false⟩ (spdmError 2)
  else
    let (s, bs) := go s
    s.sendSpdm x bs

/-- NEGOTIATE_ALGORITHMS: without a common algorithm for each purpose the answer is UnsupportedRequest (R419). -/
def execNegotiateAlgorithms (fn : Nat) (mldsa sha3 mlkem aes : Bool) (s : State) : Res :=
  if !s.mgmt.booted || !s.fnPresent fn then .next s
  else if mldsa && sha3 && mlkem && aes then
    .next ((s.modTrust fn fun t => { t with negotiated := true }).sendSpdm ⟨fn, false⟩ (spdmMessage 0x63 []))
  else .next (s.sendSpdm ⟨fn, false⟩ (spdmError 7))

/-- GET_CERTIFICATE: the chain from slot 0, the only one (R419). -/
def execGetCertificate (who : Responder) (slot : Nat) (s : State) : Res :=
  .next (s.responder who fun s => (s, if slot ≠ 0 then spdmError 1 else spdmMessage 0x02 (s.fnChain who.fn).flatten))

/-- CHALLENGE: the responder signs with its attestation key (R419). -/
def execChallenge (who : Responder) (nonce : List Byte) (s : State) : Res :=
  .next (s.responder who fun s => (s, s.signed who.fn 0x03 (sha3 (s.fnChain who.fn).flatten) nonce))

/-- What a function's configuration is measured from: queue mappings, front-end table, TDISP state (R420). -/
def State.configBytes (s : State) (f : Nat) : List Byte :=
  ((s.queues.filter fun q => q.2.qmap == some f).map fun q => BitVec.ofNat 8 q.1) ++
  ((s.fn f).fe.flatMap fun e => BitVec.ofNat 8 e.1 :: wordBytes e.2.1 ++ wordBytes e.2.2) ++
  [BitVec.ofNat 8 (s.fn f).trust.tdisp]

/-- The numbers that a world holds of a class, ascending (R322). -/
def State.numbersOf (s : State) (w cls : Nat) : List Nat :=
  if cls = 0 then
    sortAsc ((s.extents.filter fun x => x.world == w).flatMap fun x => (List.range (4 ^ x.size)).map fun i => x.base + 4096 * i)
  else (resNumbers cls).filter fun n => s.ownerOf cls n == w

/-- A list of words behind its length, so that what follows it cannot be taken for a part of it. -/
def counted (xs : List Nat) : List Nat := xs.length :: xs

/-- The limits set by LIMITS, as words. -/
def Limits.words (l : Limits) : List Nat :=
  let t (x : Table Nat) : List Nat := counted (x.flatMap fun e => [e.1, e.2])
  t l.budget ++ t l.nextBudget ++ t l.dways ++ t l.pinQuota ++ t l.missQuota ++ t l.reqQuota ++ [l.tw, b2n l.fenced] ++ t l.reserved

/-- What a world's bindings are measured from (R420): the numbers of each class, the apertures, the limits. How they are
laid out is not given (log 11). -/
def State.bindingBytes (s : State) (w : Nat) : List Byte :=
  ((List.range 11).flatMap (fun cls => counted (s.numbersOf w cls)) ++
   counted ((s.world w).apertures.flatMap fun a => [a.base, a.size, b2n a.r, b2n a.w]) ++
   (s.world w).limits.words).flatMap (leBytes 8)

/-- A measurement block of a function's responder, if it reports that index (R420). -/
def State.block (s : State) (f index : Nat) : Option (List Byte) :=
  if 1 ≤ index ∧ index ≤ 5 then some (s.mgmt.measured.get (index - 1) (List.replicate 32 0))
  else if f = 0 then none
  else match index with
    | 16 => some (sha3 (s.configBytes f))
    | 17 => some (sha3 (s.bindingBytes f))
    | 18 => some (leBytes 8 (s.world f).epoch)
    | _ => none

/-- A responder measures: the block as it stands after every completed command, signed (R419 to R421). -/
def State.snapshot (s : State) (who : Responder) (index : Nat) (nonce : List Byte) : State :=
  s.responder who fun s =>
    (s, match s.block who.fn index with
        | none => spdmError 1
        | some bs => s.signed who.fn 0x60 (BitVec.ofNat 8 index :: bs) nonce)

/-- GET_MEASUREMENTS. Commands and snapshots are performed one at a time: while a command that has begun is not
complete, and behind requests that wait for one, the request waits (R421). -/
def execGetMeasurements (who : Responder) (index : Nat) (nonce : List Byte) (s : State) : Res :=
  if s.mgmt.begun ∨ s.mgmt.asked ≠ [] then
    .next { s with mgmt := { s.mgmt with asked := s.mgmt.asked ++ [(who, index, nonce)] } }
  else .next (s.snapshot who index nonce)

/-- The first request for measurements that has waited is taken, now that no command is in progress (R421). -/
def State.snapshotTurn (s : State) : State :=
  match s.mgmt.asked with
  | [] => s
  | (who, index, nonce) :: rest => { s with mgmt := { s.mgmt with asked := rest } }.snapshot who index nonce

/-- KEY_EXCHANGE: an ML-KEM secret for one session at a time (R419). -/
def execKeyExchange (fn : Nat) (encapKey : List Byte) (s : State) : Res :=
  .next (s.responder ⟨fn, false⟩ fun s =>
    if (s.fn fn).trust.session then (s, spdmError 0x0A)
    else
      let (r, s) := s.freeNat
      let (ct, secret) := Config.mlkemEncap encapKey r
      (s.modTrust fn fun t => { t with secret := some secret, secured := 0 }, s.signed fn 0x64 ct []))

/-- FINISH: the session stands once the requester has shown that it holds the secret (R419). -/
def execFinish (fn : Nat) (mac : List Byte) (s : State) : Res :=
  .next (s.responder ⟨fn, false⟩ fun s =>
    match (s.fn fn).trust.secret with
    | none => (s, spdmError 4)
    | some x =>
      if (s.fn fn).trust.session then (s, spdmError 4)
      else if mac = Config.finishMac x then (s.modTrust fn fun t => { t with session := true }, spdmMessage 0x65 [])
      else (s, spdmError 6))

/-- IDE_KM: stream keys, in a secured message of a session of the function (R422). -/
def execIdeKm (who : Responder) (keys : List Byte) (s : State) : Res :=
  .next (s.responder who fun s =>
    if who.secured then (s.modTrust who.fn fun t => { t with ide := true, ideKeys := keys }, spdmMessage 0x7E [])
    else (s, spdmError 4))

/-! ## TDISP (R423, R431) -/

/-- LOCK_INTERFACE: an interface that is unlocked, or in ERROR and restored by the order of R431, becomes
CONFIG_LOCKED (log 36). -/
def execLockInterface (fn : Nat) (s : State) : Res :=
  let t := (s.fn fn).trust.tdisp
  if fn = 0 ∨ !s.fnPresent fn ∨ t = 1 ∨ t = 2 then .next s
  else .next (s.modTrust fn fun t => { t with tdisp := 1 })

/-- START_INTERFACE: a locked interface runs, and its world reaches the host window again (R431). -/
def execStartInterface (fn : Nat) (s : State) : Res :=
  if (s.fn fn).trust.tdisp = 1 then .next (s.modTrust fn fun t => { t with tdisp := 2, barred := false }) else .next s

/-! ## Sealed memory (R424, R425) -/

/-- What LPDDR-5X holds of a 64-byte line of a world with keys: the bytes behind L2 under its keystream. -/
def State.cipherLine (s : State) (line : Nat) : Option (List Byte) :=
  let pa := 64 * line
  match (s.world (s.frameOwner pa)).keys with
  | none => none
  | some k =>
    let plain := match (s.slice (sliceOf pa)).lines.find (line / 2) with
      | some l => if l.dirty then (l.back.drop (64 * (line % 2))).take 64 else s.memRead pa 64
      | none => s.memRead pa 64
    some (plain.zipWith (· ^^^ ·) (exactly 64 (Config.aesPad k.data pa (s.lineCtr.get line 0))))

/-- The MAC beside it. -/
def State.macLine (s : State) (line : Nat) : Option (BitVec 56) :=
  let w := s.frameOwner (64 * line)
  match (s.world w).keys, s.cipherLine line with
  | some k, some c => some (Config.lineMac k.mac c (64 * line) (s.lineCtr.get line 0) w)
  | _, _ => none

/-- The counters that node j of a level of the integrity tree holds: those of 8 lines, or of 8 nodes below (R426). -/
def State.treeCounters (s : State) (level j : Nat) : List Nat :=
  (List.range 8).map fun i =>
    match level with
    | 0 => s.lineCtr.get (0x10000000000 / 64 + 8 * j + i) 0
    | l + 1 => s.nodeCtr.get (16 * (8 * j + i) + l) 0

/-- The 64 bytes of a node: its counters, and its MAC under world 0's MAC key (R426; what the MAC covers is not given,
log 61). -/
def State.treeNode (s : State) (level j : Nat) : List Byte :=
  let cs := s.treeCounters level j
  let mac := match (s.world 0).keys with
    | some k => Config.nodeMac k.mac cs (s.nodeCtr.get (16 * j + level) 0)
    | none => 0
  cs.flatMap (leBytes 7) ++ leBytes 8 mac.toNat

/-! ## Errors (R428 to R430) -/

/-- A world learns that contents are lost: a loss record of class 11 and a fault record with cause 0x15 (R429, R430). -/
def State.lostContents (s : State) (w : Nat) (number vaddr : W64) : State :=
  (s.loss w 11 number 0 none).postOwn w 0x15 0 vaddr none

/-- L2 lines go without write-back: memory holds what it held behind them. -/
def State.loseLines (s : State) (lns : List (Nat × L2Line)) : State :=
  lns.foldl (fun s e =>
    let i := sliceOf (e.1 * 128)
    let s := if e.2.dirty then { s with mem := s.mem.splice (e.1 * 128) e.2.back } else s
    s.modSlice i fun sl => { sl with lines := sl.lines.del e.1, floor := max sl.floor e.2.rts }) s

/-- The set of a slice is lost (R429): each world with a line in it is told. -/
def State.loseSet (s : State) (i set : Nat) : State :=
  let lns := (s.slice i).inSet set
  let ws := sortAsc (lns.map fun e => e.2.world)
  ws.foldl (fun s w => s.lostContents w ones64 (w64 (i * 2 ^ 11 + set))) (s.loseLines lns)

/-- An error in the data of an L2 line (R429): a clean line is fetched again, and keeps its pin (R174, log 33). -/
def State.l2Error (s : State) (ln : Nat) : State :=
  let i := sliceOf (ln * 128)
  match (s.slice i).lines.find ln with
  | none => s
  | some l =>
    if l.dirty then s.modSlice i fun sl => { sl with lines := sl.lines.put ln { l with bad := true } }
    else if l.pinned.isSome then s
    else s.modSlice i fun sl => { sl with lines := sl.lines.del ln, floor := max sl.floor l.rts }

/-- The entry of a mailbox is dropped, and counted (R429, R281). -/
def State.dropEntry (s : State) (m i : Nat) : State :=
  if i < (s.mailbox m).entries.length then
    s.modMailbox m fun x => { x with entries := x.entries.take i ++ x.entries.drop (i + 1), drops := min (x.drops + 1) 0xFFFF }
  else s

/-- Replace the issue state of the troupe in a slot. -/
def State.poisonTroupe (s : State) (core tslot : Nat) (f : Ctl → Ctl) : State :=
  s.modTroupe (keyOf core tslot) fun t => { t with ctl := f t.ctl }

/-- UNCORRECTABLE_ERROR in a store inside the package (R429). -/
def execUncorrectableError (site : ErrorSite) (s : State) : Res :=
  .next (match site with
  | .l1 core line => s.modCore core fun c => { c with l1 := c.l1.del line }
  | .l2Data line => s.l2Error line
  | .l2Tag slice set both => if both then s.loseSet slice set else s
  | .tlb cluster set way => s.invalidate cluster fun i _ => i == 16 * set + way
  | .utlb core set way => s.modCore core fun c => { c with utlb := c.utlb.filter (· != (set, way)) }
  | .vreg core tslot reg lane => s.poisonTroupe core tslot fun c => { c with vPoison := c.vPoison ++ [(reg, lane)] }
  | .slotState core tslot word => s.poisonTroupe core tslot fun c => { c with sPoison := c.sPoison ++ [word] }
  | .spad core row => s.modCore core fun c => { c with spadBad := insertAsc row c.spadBad }
  | .oslot core slot unit => s.modCore core fun c => { c with oslotBad := c.oslotBad ++ [(slot, unit)] }
  | .acc core a bankB row col => s.modCore core fun c => { c with accBad := c.accBad ++ [(a, bankB, row, col)] }
  | .mbx m entry => s.dropEntry m entry)

/-- MEMORY_LINE_POISON: one 64-byte line of module memory (R176, R428). -/
def execMemoryLinePoison (line : Nat) (s : State) : Res :=
  .next (if inModule (64 * line) then { s with poison := insertAsc line s.poison } else s)

/-- The frames that the lines of node j of a level touch: base and size (R426, R430). -/
def nodeRegion (level j : Nat) : Nat × Nat :=
  let n := 2 ^ (3 * level + 9)
  let lo := 0x10000000000 + j * n
  let hi := min (lo + n) 0x30000000000
  (lo / 4096 * 4096, (hi + 4095) / 4096 * 4096 - lo / 4096 * 4096)

/-- The lowest address that a world owns in a range. -/
def State.lowestOwned (s : State) (w lo n : Nat) : Option Nat :=
  least id ((s.extents.filter fun x => x.world == w && meets lo n x.base (pageSize x.size)).map fun x => max lo x.base)

/-- INTEGRITY_NODE_ERROR: the region returns poison until it is rebuilt, its L2 lines are lost, and each world that owns
a frame of it is told; firmware then rebuilds it (R430). -/
def execIntegrityNodeError (level j : Nat) (s : State) : Res :=
  let (lo, n) := nodeRegion level j
  if 10 < level ∨ 0x30000000000 ≤ lo then .next s
  else
    let s := { s with rebuild := s.rebuild ++ [(level, j)] }
    let s := s.loseLines (s.slices.flatMap fun sl => sl.2.lines.filter fun e => decide (lo ≤ e.1 * 128) && decide (e.1 * 128 < lo + n))
    let ws := sortAsc ((s.extents.filter fun x => meets lo n x.base (pageSize x.size)).map (·.world))
    .next (ws.foldl (fun s w =>
      match s.lowestOwned w lo n with
      | some a => s.lostContents w (w64 a) (w64 a)
      | none => s) s)

/-- Firmware writes every line of the first lost node's region as zero under fresh counters and rebuilds the node (R430
step 4). -/
def State.rebuildTurn (s : State) : State :=
  match s.rebuild with
  | [] => s
  | (level, j) :: rest =>
    let (lo, n) := nodeRegion level j
    { s.scrub lo n with rebuild := rest }

end Sys2Proof.Machine
end

