-- ==== Sys2Proof/Machine/Vector.lean ====
section
/-! DEFINITION. Class 0: floating-point, packed, conversion and integer instructions, moves, shuffles, reductions and
predicates, lane by lane (R139 to R158). -/

namespace Sys2Proof.Machine

/-- What one lane computes: its 32 bits and its exceptions. -/
abbrev LaneFn := Nat → W32 × Exc

/-- Write the lanes of a mask, gather their exceptions, and go on (R135, R139). The lanes' results are computed once;
`old` is the destination as it stood. -/
def State.lanes0 (s : State) (m : Mask) (d : Nat) (f : LaneFn) (len : Nat) (e : Bool) : Res :=
  let r := (List.range 128).map fun l => if inMask m l then f l else (0, 0)
  let old := s.me.vreg d
  let t := s.me.setV d (Lanes.ofFn fun l => if inMask m l then (r.getD l (0, 0)).1 else old.lane l)
  s.done { t with sticky := t.sticky.gather m fun l => (r.getD l (0, 0)).2 } len e

/-- Write the lanes of a mask in a predicate, gather exceptions, and go on (R139, R146). -/
def State.preds0 (s : State) (m : Mask) (pd : Nat) (f : Nat → Bool × Exc) (len : Nat) (e : Bool) : Res :=
  let r := (List.range 128).map fun l => if inMask m l then f l else (false, 0)
  let t := s.me.setP pd ((s.me.preg pd &&& ~~~ m) ||| (m &&& maskOf fun l => (r.getD l (false, 0)).1))
  s.done { t with sticky := t.sticky.gather m fun l => (r.getD l (false, 0)).2 } len e

/-- Lane l of a vector source. -/
def vsrc (t : Troupe) (a : Reg) (l : Nat) : W32 := (t.vreg a.val).lane l

/-- RM as it stands before the chain (R129). -/
def Troupe.rm (t : Troupe) : Rm := Rm.of t.sp.fpctl

/-- A result of the rounding functions as a lane. -/
def asLane (x : Nat × Exc) : W32 × Exc := (w32 x.1, x.2)

/-- The FP32 value of a lane. -/
def f32v (x : W32) : Fp := fp32.value x.toNat

/-- A binary FP32 instruction. -/
def State.float2 (s : State) (h : Hdr) (g : Guard) (d a : Reg) (b : VSrc) (f : Rm → Fp → Fp → Nat × Exc) : Res :=
  let t := s.src
  s.lanes0 (s.effective g) d.val (fun l => asLane (f t.rm (f32v (vsrc t a l)) (f32v (vval b t l)))) (vlen b) h.e

/-- A unary FP32 function (R145). -/
def State.float1 (s : State) (h : Hdr) (g : Guard) (d a : Reg) (f : Rm → Fp → Nat × Exc) : Res :=
  let t := s.src
  s.lanes0 (s.effective g) d.val (fun l => asLane (f t.rm (f32v (vsrc t a l)))) 1 h.e

/-- A lane-wise instruction of two operands that sets no status (R151, R152). -/
def State.int2 (s : State) (h : Hdr) (g : Guard) (d a : Reg) (b : VSrc) (f : W32 → W32 → W32) : Res :=
  let t := s.src
  s.lanes0 (s.effective g) d.val (fun l => (f (vsrc t a l) (vval b t l), 0)) (vlen b) h.e

/-- A lane-wise instruction of one operand that sets no status. -/
def State.int1 (s : State) (h : Hdr) (g : Guard) (d a : Reg) (f : W32 → W32) : Res :=
  let t := s.src
  s.lanes0 (s.effective g) d.val (fun l => (f (vsrc t a l), 0)) 1 h.e

/-- A compare of integers (R153). -/
def State.icmp (s : State) (h : Hdr) (g : Guard) (pd : Pred) (a : Reg) (b : VSrc) (f : W32 → W32 → Bool) : Res :=
  let t := s.src
  s.preds0 (s.effective g) pd.val (fun l => (f (vsrc t a l) (vval b t l), 0)) (vlen b) h.e

/-- A compare of FP32 values; `quiet` says that only a signalling NaN raises INV (R146). -/
def State.fcmp (s : State) (h : Hdr) (g : Guard) (pd : Pred) (a : Reg) (b : VSrc) (quiet : Bool) (f : Rel → Bool) : Res :=
  let t := s.src
  s.preds0 (s.effective g) pd.val (fun l =>
    let x := vsrc t a l
    let y := vval b t l
    let r := compareFp x y
    (f r, if quiet then invOf [f32v x, f32v y] else if r = .un then excInv else 0)) (vlen b) h.e

/-- Both halves of a packed BF16 instruction, and the OR of their exceptions (R147). -/
def pairOp (f : Fp → Fp → Fp → Nat × Exc) (x y z : W32) : W32 × Exc :=
  let r (h : Nat) : Nat × Exc := f (bfHalf x h) (bfHalf y h) (bfHalf z h)
  (w32 ((r 0).1 + 2 ^ 16 * (r 1).1), (r 0).2 ||| (r 1).2)

/-- A packed BF16 instruction (R147). -/
def State.packed (s : State) (h : Hdr) (g : Guard) (d a : Reg) (b : VSrc) (f : Rm → Fp → Fp → Fp → Nat × Exc) : Res :=
  let t := s.src
  s.lanes0 (s.effective g) d.val (fun l => pairOp (f t.rm) (vsrc t a l) (vval b t l) (vsrc t d l)) (vlen b) h.e

/-- `fadd` (R142). -/
def execFadd (h : Hdr) (g : Guard) (d a : Reg) (b : VSrc) (s : State) : Res :=
  s.float2 h g d a b fp32.add

/-- `fsub` (R142). -/
def execFsub (h : Hdr) (g : Guard) (d a : Reg) (b : VSrc) (s : State) : Res :=
  s.float2 h g d a b fun rm x y => fp32.add rm x y.neg

/-- `fmul` (R142). -/
def execFmul (h : Hdr) (g : Guard) (d a : Reg) (b : VSrc) (s : State) : Res :=
  s.float2 h g d a b fp32.mul

/-- `ffma`: a × b + d, rounded once; d is a source (R142). -/
def execFfma (h : Hdr) (g : Guard) (d a : Reg) (b : VSrc) (s : State) : Res :=
  let t := s.src
  s.lanes0 (s.effective g) d.val
    (fun l => asLane (fp32.fma t.rm (f32v (vsrc t a l)) (f32v (vval b t l)) (f32v (vsrc t d l)))) (vlen b) h.e

/-- `fmin`: one operand, bit for bit (R143). -/
def execFmin (h : Hdr) (g : Guard) (d a : Reg) (b : VSrc) (s : State) : Res :=
  let t := s.src
  s.lanes0 (s.effective g) d.val (fun l => minMax false (vsrc t a l) (vval b t l)) (vlen b) h.e

/-- `fmax`: one operand, bit for bit (R143). -/
def execFmax (h : Hdr) (g : Guard) (d a : Reg) (b : VSrc) (s : State) : Res :=
  let t := s.src
  s.lanes0 (s.effective g) d.val (fun l => minMax true (vsrc t a l) (vval b t l)) (vlen b) h.e

/-- `fneg`: the sign bit inverted (R144). -/
def execFneg (h : Hdr) (g : Guard) (d a : Reg) (s : State) : Res :=
  s.int1 h g d a fun x => x ^^^ 0x80000000

/-- `fabs`: the sign bit cleared (R144). -/
def execFabs (h : Hdr) (g : Guard) (d a : Reg) (s : State) : Res :=
  s.int1 h g d a fun x => x &&& 0x7FFFFFFF

/-- `frcp` (R145). -/
def execFrcp (h : Hdr) (g : Guard) (d a : Reg) (s : State) : Res :=
  s.float1 h g d a fpRcp

/-- `frsq` (R145). -/
def execFrsq (h : Hdr) (g : Guard) (d a : Reg) (s : State) : Res :=
  s.float1 h g d a fpRsq

/-- `fex2` (R145). -/
def execFex2 (h : Hdr) (g : Guard) (d a : Reg) (s : State) : Res :=
  s.float1 h g d a fpEx2

/-- `flg2` (R145). -/
def execFlg2 (h : Hdr) (g : Guard) (d a : Reg) (s : State) : Res :=
  s.float1 h g d a fpLg2

/-- `ftanh` (R145). -/
def execFtanh (h : Hdr) (g : Guard) (d a : Reg) (s : State) : Res :=
  s.float1 h g d a fpTanh

/-- `fcmp.eq` (R146). -/
def execFcmpEq (h : Hdr) (g : Guard) (pd : Pred) (a : Reg) (b : VSrc) (s : State) : Res :=
  s.fcmp h g pd a b true fun r => r == .eq

/-- `fcmp.ne` (R146). -/
def execFcmpNe (h : Hdr) (g : Guard) (pd : Pred) (a : Reg) (b : VSrc) (s : State) : Res :=
  s.fcmp h g pd a b true fun r => r != .eq

/-- `fcmp.lt` (R146). -/
def execFcmpLt (h : Hdr) (g : Guard) (pd : Pred) (a : Reg) (b : VSrc) (s : State) : Res :=
  s.fcmp h g pd a b false fun r => r == .lt

/-- `fcmp.le` (R146). -/
def execFcmpLe (h : Hdr) (g : Guard) (pd : Pred) (a : Reg) (b : VSrc) (s : State) : Res :=
  s.fcmp h g pd a b false fun r => r == .lt || r == .eq

/-- `fcmp.un` (R146). -/
def execFcmpUn (h : Hdr) (g : Guard) (pd : Pred) (a : Reg) (b : VSrc) (s : State) : Res :=
  s.fcmp h g pd a b true fun r => r == .un

/-- `badd` (R147). -/
def execBadd (h : Hdr) (g : Guard) (d a : Reg) (b : VSrc) (s : State) : Res :=
  s.packed h g d a b fun rm x y _ => bf16.add rm x y

/-- `bmul` (R147). -/
def execBmul (h : Hdr) (g : Guard) (d a : Reg) (b : VSrc) (s : State) : Res :=
  s.packed h g d a b fun rm x y _ => bf16.mul rm x y

/-- `bfma`: d is a source (R147). -/
def execBfma (h : Hdr) (g : Guard) (d a : Reg) (b : VSrc) (s : State) : Res :=
  s.packed h g d a b fun rm x y z => bf16.fma rm x y z

/-! ## Conversions (R148 to R150) -/

/-- Byte k of a lane. -/
def byteOf (x : W32) (k : Nat) : Nat := x.toNat / 2 ^ (8 * k) % 256

/-- Put n bits at bit lo of a lane. -/
def putBits (d : W32) (lo n x : Nat) : W32 :=
  (d &&& ~~~ (w32 ((2 ^ n - 1) * 2 ^ lo))) ||| w32 (x % 2 ^ n * 2 ^ lo)

/-- A value of another format, widened to FP32: exact (R150). -/
def widen (x : Fp) : W32 × Exc :=
  match x with
  | .nan s => (0x7FC00000, if s then excInv else 0)
  | .inf a => (w32 (fp32.infCode a), 0)
  | .num a m e => (w32 (fp32.round .rne a m e false false).1, 0)

/-- An FP32 value narrowed to a format (R150). -/
def narrow (f : Fmt) (rm : Rm) (sat : Bool) (x : Fp) : Nat × Exc :=
  match x with
  | .nan s => (f.nan, if s then excInv else 0)
  | .inf a => if sat || !f.infs then (f.sign a + f.top, excInv) else (f.infCode a, 0)
  | .num a m e => f.round rm a m e false sat

/-- An integer as FP32 (R150). -/
def intToFp (rm : Rm) (x : Int) : W32 × Exc := asLane (if x = 0 then (0, 0) else fp32.round rm (x < 0) x.natAbs 0 false false)

/-- An FP32 value as a 32-bit integer. -/
def fpInt (rm : Rm) (lo hi : Int) (a : W32) : W32 × Exc :=
  let r := fpToInt rm lo hi (f32v a)
  (BitVec.ofInt 32 r.1, r.2)

/-- A narrowed value put into bits of the destination. -/
def putNarrow (d : W32) (lo n : Nat) (r : Nat × Exc) : W32 × Exc := (putBits d lo n r.1, r.2)

/-- The conversion of one lane by its code (R149). -/
def convert (code : Nat) (rm : Rm) (a d : W32) : W32 × Exc :=
  let s32 := (-(2 ^ 31 : Int), (2 ^ 31 - 1 : Int))
  let z32 := ((0 : Int), (2 ^ 32 - 1 : Int))
  if code = 0 then intToFp rm a.toInt
  else if code = 1 then intToFp rm a.toNat
  else if code = 2 then fpInt rm s32.1 s32.2 a
  else if code = 3 then fpInt rm z32.1 z32.2 a
  else if code = 4 then fpInt .rz s32.1 s32.2 a
  else if code = 5 then fpInt .rz z32.1 z32.2 a
  else if code < 8 then widen (fp16.value (a.toNat / 2 ^ (16 * (code - 6)) % 2 ^ 16))
  else if code < 0x0A then widen (bf16.value (a.toNat / 2 ^ (16 * (code - 8)) % 2 ^ 16))
  else if code = 0x0A then putNarrow 0 0 16 (narrow fp16 rm false (f32v a))
  else if code = 0x0B then putNarrow d 16 16 (narrow fp16 rm false (f32v a))
  else if code = 0x0C then putNarrow 0 0 16 (narrow bf16 rm false (f32v a))
  else if code = 0x0D then putNarrow d 16 16 (narrow bf16 rm false (f32v a))
  else if code < 0x12 then widen (e4m3.value (byteOf a (code - 0x0E)))
  else if code < 0x16 then widen (e5m2.value (byteOf a (code - 0x12)))
  else if code < 0x1A then putNarrow d (8 * (code - 0x16)) 8 (narrow e4m3 rm true (f32v a))
  else if code < 0x1E then putNarrow d (8 * (code - 0x1A)) 8 (narrow e5m2 rm false (f32v a))
  else if code < 0x22 then putNarrow d (8 * (code - 0x1E)) 8 (narrow e5m2 rm true (f32v a))
  else if code < 0x26 then ((BitVec.ofNat 8 (byteOf a (code - 0x22))).signExtend 32, 0)
  else (putBits d (8 * (code - 0x26)) 8 ((BitVec.ofInt 8 (min (max a.toInt (-128)) 127)).toNat), 0)

/-- `cvt` (R148, R149). -/
def execCvt (h : Hdr) (g : Guard) (d a : Reg) (code : Fin 42) (s : State) : Res :=
  let t := s.src
  s.lanes0 (s.effective g) d.val (fun l => convert code.val t.rm (vsrc t a l) (vsrc t d l)) 1 h.e

/-! ## Integers (R151 to R153) -/

/-- `iadd` (R151). -/
def execIadd (h : Hdr) (g : Guard) (d a : Reg) (b : VSrc) (s : State) : Res :=
  s.int2 h g d a b fun x y => x + y

/-- `isub` (R151). -/
def execIsub (h : Hdr) (g : Guard) (d a : Reg) (b : VSrc) (s : State) : Res :=
  s.int2 h g d a b fun x y => x - y

/-- `imul` (R151). -/
def execImul (h : Hdr) (g : Guard) (d a : Reg) (b : VSrc) (s : State) : Res :=
  s.int2 h g d a b fun x y => x * y

/-- `imulhi.s` (R151). -/
def execImulhiS (h : Hdr) (g : Guard) (d a : Reg) (b : VSrc) (s : State) : Res :=
  s.int2 h g d a b fun x y => BitVec.ofInt 32 (x.toInt * y.toInt / 2 ^ 32)

/-- `imulhi.z` (R151). -/
def execImulhiZ (h : Hdr) (g : Guard) (d a : Reg) (b : VSrc) (s : State) : Res :=
  s.int2 h g d a b fun x y => w32 (x.toNat * y.toNat / 2 ^ 32)

/-- `imad`: d is a source (R151). -/
def execImad (h : Hdr) (g : Guard) (d a : Reg) (b : VSrc) (s : State) : Res :=
  let t := s.src
  s.lanes0 (s.effective g) d.val (fun l => (vsrc t a l * vval b t l + vsrc t d l, 0)) (vlen b) h.e

/-- `imin.s` (R152). -/
def execIminS (h : Hdr) (g : Guard) (d a : Reg) (b : VSrc) (s : State) : Res :=
  s.int2 h g d a b fun x y => if x.slt y then x else y

/-- `imax.s` (R152). -/
def execImaxS (h : Hdr) (g : Guard) (d a : Reg) (b : VSrc) (s : State) : Res :=
  s.int2 h g d a b fun x y => if x.slt y then y else x

/-- `imin.z` (R152). -/
def execIminZ (h : Hdr) (g : Guard) (d a : Reg) (b : VSrc) (s : State) : Res :=
  s.int2 h g d a b fun x y => if x.ult y then x else y

/-- `imax.z` (R152). -/
def execImaxZ (h : Hdr) (g : Guard) (d a : Reg) (b : VSrc) (s : State) : Res :=
  s.int2 h g d a b fun x y => if x.ult y then y else x

/-- `iand` (R152). -/
def execIand (h : Hdr) (g : Guard) (d a : Reg) (b : VSrc) (s : State) : Res :=
  s.int2 h g d a b fun x y => x &&& y

/-- `ior` (R152). -/
def execIor (h : Hdr) (g : Guard) (d a : Reg) (b : VSrc) (s : State) : Res :=
  s.int2 h g d a b fun x y => x ||| y

/-- `ixor` (R152). -/
def execIxor (h : Hdr) (g : Guard) (d a : Reg) (b : VSrc) (s : State) : Res :=
  s.int2 h g d a b fun x y => x ^^^ y

/-- `inot` (R152). -/
def execInot (h : Hdr) (g : Guard) (d a : Reg) (s : State) : Res :=
  s.int1 h g d a fun x => ~~~ x

/-- `ishl`: 0 from a shift of 32 up (R152). -/
def execIshl (h : Hdr) (g : Guard) (d a : Reg) (b : VSrc) (s : State) : Res :=
  s.int2 h g d a b fun x y => if 32 ≤ y.toNat then 0 else x <<< y.toNat

/-- `ishr.z`: 0 from a shift of 32 up (R152). -/
def execIshrZ (h : Hdr) (g : Guard) (d a : Reg) (b : VSrc) (s : State) : Res :=
  s.int2 h g d a b fun x y => if 32 ≤ y.toNat then 0 else x >>> y.toNat

/-- `ishr.s`: copies of the sign (R152). -/
def execIshrS (h : Hdr) (g : Guard) (d a : Reg) (b : VSrc) (s : State) : Res :=
  s.int2 h g d a b fun x y => x.sshiftRight (if 32 ≤ y.toNat then 31 else y.toNat)

/-- The number of 1 bits of a lane. -/
def ones32 (x : W32) : Nat := ((List.range 32).filter fun i => x.getLsbD i).length

/-- `ipopc` (R152). -/
def execIpopc (h : Hdr) (g : Guard) (d a : Reg) (s : State) : Res :=
  s.int1 h g d a fun x => w32 (ones32 x)

/-- `iclz`: 32 for 0 (R152). -/
def execIclz (h : Hdr) (g : Guard) (d a : Reg) (s : State) : Res :=
  s.int1 h g d a fun x => if x = 0 then 32 else w32 (31 - Nat.log2 x.toNat)

/-- `iaddsat.s` (R151). -/
def execIaddsatS (h : Hdr) (g : Guard) (d a : Reg) (b : VSrc) (s : State) : Res :=
  s.int2 h g d a b fun x y => BitVec.ofInt 32 (min (max (x.toInt + y.toInt) (-(2 ^ 31))) (2 ^ 31 - 1))

/-- `icmp.eq` (R153). -/
def execIcmpEq (h : Hdr) (g : Guard) (pd : Pred) (a : Reg) (b : VSrc) (s : State) : Res :=
  s.icmp h g pd a b fun x y => x == y

/-- `icmp.ne` (R153). -/
def execIcmpNe (h : Hdr) (g : Guard) (pd : Pred) (a : Reg) (b : VSrc) (s : State) : Res :=
  s.icmp h g pd a b fun x y => x != y

/-- `icmp.lt.s` (R153). -/
def execIcmpLtS (h : Hdr) (g : Guard) (pd : Pred) (a : Reg) (b : VSrc) (s : State) : Res :=
  s.icmp h g pd a b fun x y => x.slt y

/-- `icmp.le.s` (R153). -/
def execIcmpLeS (h : Hdr) (g : Guard) (pd : Pred) (a : Reg) (b : VSrc) (s : State) : Res :=
  s.icmp h g pd a b fun x y => x.sle y

/-- `icmp.lt.z` (R153). -/
def execIcmpLtZ (h : Hdr) (g : Guard) (pd : Pred) (a : Reg) (b : VSrc) (s : State) : Res :=
  s.icmp h g pd a b fun x y => x.ult y

/-- `icmp.le.z` (R153). -/
def execIcmpLeZ (h : Hdr) (g : Guard) (pd : Pred) (a : Reg) (b : VSrc) (s : State) : Res :=
  s.icmp h g pd a b fun x y => x.ule y

/-! ## Select, moves, lane index (R154) -/

/-- `sel`: the guard chooses in every lane of `exec` (R154, R85). -/
def execSel (h : Hdr) (neg : Bool) (p : Fin 7) (d a : Reg) (b : VSrc) (s : State) : Res :=
  let t := s.src
  let g := guardMask (if neg then .neg p else .pos p) t
  s.lanes0 (s.effective .always) d.val (fun l => (if inMask g l then vsrc t a l else vval b t l, 0)) (vlen b) h.e

/-- `mov` (R154). -/
def execMov (h : Hdr) (g : Guard) (d : Reg) (b : VSrc) (s : State) : Res :=
  let t := s.src
  s.lanes0 (s.effective g) d.val (fun l => (vval b t l, 0)) (vlen b) h.e

/-- `vbcast` (R154). -/
def execVbcast (h : Hdr) (g : Guard) (d a : Reg) (hi : Bool) (s : State) : Res :=
  let x := s.src.sreg a.val
  let w : W32 := if hi then x.extractLsb' 32 32 else x.setWidth 32
  s.lanes0 (s.effective g) d.val (fun _ => (w, 0)) 1 h.e

/-- `vlane` (R154). -/
def execVlane (h : Hdr) (g : Guard) (d : Reg) (s : State) : Res :=
  s.lanes0 (s.effective g) d.val (fun l => (w32 l, 0)) 1 h.e

/-! ## Shuffles (R155) -/

/-- Each lane takes the value of the lane `f n l`, n the operand of lane l. -/
def State.shuffle (s : State) (h : Hdr) (g : Guard) (d a : Reg) (b : VSrc) (f : Nat → Nat → Nat) : Res :=
  let t := s.src
  s.lanes0 (s.effective g) d.val (fun l => (vsrc t a (f (vval b t l).toNat l), 0)) (vlen b) h.e

/-- `shfl.idx` (R155). -/
def execShflIdx (h : Hdr) (g : Guard) (d a : Reg) (b : VSrc) (s : State) : Res :=
  s.shuffle h g d a b fun n _ => n % 128

/-- `shfl.xor` (R155). -/
def execShflXor (h : Hdr) (g : Guard) (d a : Reg) (b : VSrc) (s : State) : Res :=
  s.shuffle h g d a b fun n l => Nat.xor l (n % 128)

/-- `shfl.up` (R155). -/
def execShflUp (h : Hdr) (g : Guard) (d a : Reg) (b : VSrc) (s : State) : Res :=
  s.shuffle h g d a b fun n l => if n ≤ l then l - n else l

/-- `shfl.dn` (R155). -/
def execShflDn (h : Hdr) (g : Guard) (d a : Reg) (b : VSrc) (s : State) : Res :=
  s.shuffle h g d a b fun n l => if l + n ≤ 127 then l + n else l

/-! ## Reductions (R156) -/

/-- One level of the tree: nodes are paired, an absent one passing the other on (R156). -/
def treeLevel (op : W32 → W32 → W32 × Exc) : List (Option W32) → Exc → List (Option W32) × Exc
  | x :: y :: rest, k =>
    let (n, k) : Option W32 × Exc :=
      match x, y with
      | none, _ => (y, k)
      | _, none => (x, k)
      | some x, some y => (some (op x y).1, k ||| (op x y).2)
    let (ns, k) := treeLevel op rest k
    (n :: ns, k)
  | l, k => (l, k)

/-- n levels of the tree. -/
def tree (op : W32 → W32 → W32 × Exc) : Nat → List (Option W32) → Exc → List (Option W32) × Exc
  | 0, l, k => (l, k)
  | n + 1, l, k => let (l, k) := treeLevel op l k; tree op n l k

/-- A floating-point reduction into a scalar; its status goes to the lowest lane (R156). -/
def State.reduce (s : State) (h : Hdr) (g : Guard) (d a : Reg) (op : W32 → W32 → W32 × Exc) : Res :=
  let t := s.src
  let m := s.effective g
  let leaves := (List.range 128).map fun l => if inMask m l then some (vsrc t a l) else none
  match tree op 7 leaves 0 with
  | (some x :: _, k) =>
    let u := s.me.setS d.val (x.setWidth 64)
    let low := (lanesOf m).headD 0
    s.done { u with sticky := u.sticky.gather (1#128 <<< low) fun _ => k } 1 h.e
  | _ => .next (s.advance 1 h.e)

/-- `redf.add` (R156). -/
def execRedfAdd (h : Hdr) (g : Guard) (d a : Reg) (s : State) : Res :=
  s.reduce h g d a fun x y => asLane (fp32.add s.src.rm (f32v x) (f32v y))

/-- `redf.max` (R156). -/
def execRedfMax (h : Hdr) (g : Guard) (d a : Reg) (s : State) : Res :=
  s.reduce h g d a fun x y => minMax true x y

/-- `redi.add`: exact in 64 bits (R156). -/
def execRediAdd (h : Hdr) (g : Guard) (d a : Reg) (s : State) : Res :=
  let t := s.src
  let m := s.effective g
  if m = 0 then .next (s.advance 1 h.e)
  else s.done (s.me.setS d.val ((lanesOf m).foldl (fun (x : W64) l => x + (vsrc t a l).signExtend 64) 0)) 1 h.e

/-! ## Predicates (R157, R158) -/

/-- Write a whole predicate's lanes of m (R157). -/
def State.predOp (s : State) (h : Hdr) (g : Guard) (pd : Pred) (x : Mask) : Res :=
  let m := s.effective g
  s.done (s.me.setP pd.val ((s.me.preg pd.val &&& ~~~ m) ||| (x &&& m))) 1 h.e

/-- `pand` (R157). -/
def execPand (h : Hdr) (g : Guard) (pd pa pb : Pred) (s : State) : Res :=
  s.predOp h g pd (s.src.preg pa.val &&& s.src.preg pb.val)

/-- `por` (R157). -/
def execPor (h : Hdr) (g : Guard) (pd pa pb : Pred) (s : State) : Res :=
  s.predOp h g pd (s.src.preg pa.val ||| s.src.preg pb.val)

/-- `pxor` (R157). -/
def execPxor (h : Hdr) (g : Guard) (pd pa pb : Pred) (s : State) : Res :=
  s.predOp h g pd (s.src.preg pa.val ^^^ s.src.preg pb.val)

/-- `pnot` (R157). -/
def execPnot (h : Hdr) (g : Guard) (pd pa : Pred) (s : State) : Res :=
  s.predOp h g pd (~~~ s.src.preg pa.val)

/-- `ballot`: a predicate within m, into a pair of scalars; nothing when m is empty (R158). -/
def execBallot (h : Hdr) (g : Guard) (d : Pair) (pa : Pred) (s : State) : Res :=
  let m := s.effective g
  if m = 0 then .next (s.advance 1 h.e) else s.done (s.me.setPair (2 * d.val) (s.src.preg pa.val &&& m)) 1 h.e

end Sys2Proof.Machine
end

