-- ==== Sys2Proof/Machine/Dispatch.lean ====
section
/-! DEFINITION. The meaning of every constructor of `Instr`, one arm for each. -/

namespace Sys2Proof.Machine

/-- What an instruction of the issuing troupe, or an event, does. -/
def exec (i : Instr) (s : State) : Host.Outcome State Fault Refusal :=
  match i with
  | .fadd h g d a b => Sys2Proof.Machine.execFadd h g d a b s
  | .fsub h g d a b => Sys2Proof.Machine.execFsub h g d a b s
  | .fmul h g d a b => Sys2Proof.Machine.execFmul h g d a b s
  | .ffma h g d a b => Sys2Proof.Machine.execFfma h g d a b s
  | .fmin h g d a b => Sys2Proof.Machine.execFmin h g d a b s
  | .fmax h g d a b => Sys2Proof.Machine.execFmax h g d a b s
  | .fneg h g d a => Sys2Proof.Machine.execFneg h g d a s
  | .fabs h g d a => Sys2Proof.Machine.execFabs h g d a s
  | .frcp h g d a => Sys2Proof.Machine.execFrcp h g d a s
  | .frsq h g d a => Sys2Proof.Machine.execFrsq h g d a s
  | .fex2 h g d a => Sys2Proof.Machine.execFex2 h g d a s
  | .flg2 h g d a => Sys2Proof.Machine.execFlg2 h g d a s
  | .ftanh h g d a => Sys2Proof.Machine.execFtanh h g d a s
  | .fcmpEq h g pd a b => Sys2Proof.Machine.execFcmpEq h g pd a b s
  | .fcmpNe h g pd a b => Sys2Proof.Machine.execFcmpNe h g pd a b s
  | .fcmpLt h g pd a b => Sys2Proof.Machine.execFcmpLt h g pd a b s
  | .fcmpLe h g pd a b => Sys2Proof.Machine.execFcmpLe h g pd a b s
  | .fcmpUn h g pd a b => Sys2Proof.Machine.execFcmpUn h g pd a b s
  | .badd h g d a b => Sys2Proof.Machine.execBadd h g d a b s
  | .bmul h g d a b => Sys2Proof.Machine.execBmul h g d a b s
  | .bfma h g d a b => Sys2Proof.Machine.execBfma h g d a b s
  | .cvt h g d a code => Sys2Proof.Machine.execCvt h g d a code s
  | .iadd h g d a b => Sys2Proof.Machine.execIadd h g d a b s
  | .isub h g d a b => Sys2Proof.Machine.execIsub h g d a b s
  | .imul h g d a b => Sys2Proof.Machine.execImul h g d a b s
  | .imulhiS h g d a b => Sys2Proof.Machine.execImulhiS h g d a b s
  | .imulhiZ h g d a b => Sys2Proof.Machine.execImulhiZ h g d a b s
  | .imad h g d a b => Sys2Proof.Machine.execImad h g d a b s
  | .iminS h g d a b => Sys2Proof.Machine.execIminS h g d a b s
  | .imaxS h g d a b => Sys2Proof.Machine.execImaxS h g d a b s
  | .iminZ h g d a b => Sys2Proof.Machine.execIminZ h g d a b s
  | .imaxZ h g d a b => Sys2Proof.Machine.execImaxZ h g d a b s
  | .iand h g d a b => Sys2Proof.Machine.execIand h g d a b s
  | .ior h g d a b => Sys2Proof.Machine.execIor h g d a b s
  | .ixor h g d a b => Sys2Proof.Machine.execIxor h g d a b s
  | .inot h g d a => Sys2Proof.Machine.execInot h g d a s
  | .ishl h g d a b => Sys2Proof.Machine.execIshl h g d a b s
  | .ishrZ h g d a b => Sys2Proof.Machine.execIshrZ h g d a b s
  | .ishrS h g d a b => Sys2Proof.Machine.execIshrS h g d a b s
  | .ipopc h g d a => Sys2Proof.Machine.execIpopc h g d a s
  | .iclz h g d a => Sys2Proof.Machine.execIclz h g d a s
  | .iaddsatS h g d a b => Sys2Proof.Machine.execIaddsatS h g d a b s
  | .icmpEq h g pd a b => Sys2Proof.Machine.execIcmpEq h g pd a b s
  | .icmpNe h g pd a b => Sys2Proof.Machine.execIcmpNe h g pd a b s
  | .icmpLtS h g pd a b => Sys2Proof.Machine.execIcmpLtS h g pd a b s
  | .icmpLeS h g pd a b => Sys2Proof.Machine.execIcmpLeS h g pd a b s
  | .icmpLtZ h g pd a b => Sys2Proof.Machine.execIcmpLtZ h g pd a b s
  | .icmpLeZ h g pd a b => Sys2Proof.Machine.execIcmpLeZ h g pd a b s
  | .sel h neg p d a b => Sys2Proof.Machine.execSel h neg p d a b s
  | .mov h g d b => Sys2Proof.Machine.execMov h g d b s
  | .vbcast h g d a hi => Sys2Proof.Machine.execVbcast h g d a hi s
  | .vlane h g d => Sys2Proof.Machine.execVlane h g d s
  | .shflIdx h g d a b => Sys2Proof.Machine.execShflIdx h g d a b s
  | .shflXor h g d a b => Sys2Proof.Machine.execShflXor h g d a b s
  | .shflUp h g d a b => Sys2Proof.Machine.execShflUp h g d a b s
  | .shflDn h g d a b => Sys2Proof.Machine.execShflDn h g d a b s
  | .redfAdd h g d a => Sys2Proof.Machine.execRedfAdd h g d a s
  | .rediAdd h g d a => Sys2Proof.Machine.execRediAdd h g d a s
  | .redfMax h g d a => Sys2Proof.Machine.execRedfMax h g d a s
  | .pand h g pd pa pb => Sys2Proof.Machine.execPand h g pd pa pb s
  | .por h g pd pa pb => Sys2Proof.Machine.execPor h g pd pa pb s
  | .pxor h g pd pa pb => Sys2Proof.Machine.execPxor h g pd pa pb s
  | .pnot h g pd pa => Sys2Proof.Machine.execPnot h g pd pa s
  | .ballot h g d pa => Sys2Proof.Machine.execBallot h g d pa s
  | .sadd h d a b => Sys2Proof.Machine.execSadd h d a b s
  | .ssub h d a b => Sys2Proof.Machine.execSsub h d a b s
  | .smul h d a b => Sys2Proof.Machine.execSmul h d a b s
  | .sand h d a b => Sys2Proof.Machine.execSand h d a b s
  | .sor h d a b => Sys2Proof.Machine.execSor h d a b s
  | .sxor h d a b => Sys2Proof.Machine.execSxor h d a b s
  | .sshl h d a b => Sys2Proof.Machine.execSshl h d a b s
  | .sshrZ h d a b => Sys2Proof.Machine.execSshrZ h d a b s
  | .sshrS h d a b => Sys2Proof.Machine.execSshrS h d a b s
  | .smov h d b => Sys2Proof.Machine.execSmov h d b s
  | .smov64 h d lo hi => Sys2Proof.Machine.execSmov64 h d lo hi s
  | .scmpEq h f a b => Sys2Proof.Machine.execScmpEq h f a b s
  | .scmpNe h f a b => Sys2Proof.Machine.execScmpNe h f a b s
  | .scmpLtS h f a b => Sys2Proof.Machine.execScmpLtS h f a b s
  | .scmpLtZ h f a b => Sys2Proof.Machine.execScmpLtZ h f a b s
  | .scmpLeS h f a b => Sys2Proof.Machine.execScmpLeS h f a b s
  | .scmpLeZ h f a b => Sys2Proof.Machine.execScmpLeZ h f a b s
  | .sbfi h d a b => Sys2Proof.Machine.execSbfi h d a b s
  | .sbfx h d a b => Sys2Proof.Machine.execSbfx h d a b s
  | .srds h d n => Sys2Proof.Machine.execSrds h d n s
  | .swrs h t a => Sys2Proof.Machine.execSwrs h t a s
  | .exsave h d live => Sys2Proof.Machine.execExsave h d live s
  | .exload h a => Sys2Proof.Machine.execExload h a s
  | .exand h p => Sys2Proof.Machine.execExand h p s
  | .exandn h p => Sys2Proof.Machine.execExandn h p s
  | .exif h d p => Sys2Proof.Machine.execExif h d p s
  | .exelse h a => Sys2Proof.Machine.execExelse h a s
  | .excnt h d live => Sys2Proof.Machine.execExcnt h d live s
  | .br e off => Sys2Proof.Machine.execBr e off s
  | .bexz e off => Sys2Proof.Machine.execBexz e off s
  | .bexnz e off => Sys2Proof.Machine.execBexnz e off s
  | .bf e f off => Sys2Proof.Machine.execBf e f off s
  | .bnf e f off => Sys2Proof.Machine.execBnf e f off s
  | .bri e a off => Sys2Proof.Machine.execBri e a off s
  | .call e d off => Sys2Proof.Machine.execCall e d off s
  | .loop e a off => Sys2Proof.Machine.execLoop e a off s
  | .nop h => Sys2Proof.Machine.execNop h s
  | .ensJoin e d a => Sys2Proof.Machine.execEnsJoin e d a s
  | .ensLeave e d a => Sys2Proof.Machine.execEnsLeave e d a s
  | .ensNew e d => Sys2Proof.Machine.execEnsNew e d s
  | .ensFree e d a => Sys2Proof.Machine.execEnsFree e d a s
  | .timerset e a b => Sys2Proof.Machine.execTimerset e a b s
  | .timerclr e => Sys2Proof.Machine.execTimerclr e s
  | .tret e => Sys2Proof.Machine.execTret e s
  | .clock h d => Sys2Proof.Machine.execClock h d s
  | .cycles h d => Sys2Proof.Machine.execCycles h d s
  | .yield e => Sys2Proof.Machine.execYield e s
  | .exit e => Sys2Proof.Machine.execExit e s
  | .lexit e => Sys2Proof.Machine.execLexit e s
  | .ldg8z e g d m la => Sys2Proof.Machine.execLdg8z e g d m la s
  | .ldg8s e g d m la => Sys2Proof.Machine.execLdg8s e g d m la s
  | .ldg16z e g d m la => Sys2Proof.Machine.execLdg16z e g d m la s
  | .ldg16s e g d m la => Sys2Proof.Machine.execLdg16s e g d m la s
  | .ldg32 e g d m la => Sys2Proof.Machine.execLdg32 e g d m la s
  | .ldg64 e g d m la => Sys2Proof.Machine.execLdg64 e g d m la s
  | .ldg128 e g d m la => Sys2Proof.Machine.execLdg128 e g d m la s
  | .stg8 e g d m la => Sys2Proof.Machine.execStg8 e g d m la s
  | .stg16 e g d m la => Sys2Proof.Machine.execStg16 e g d m la s
  | .stg32 e g d m la => Sys2Proof.Machine.execStg32 e g d m la s
  | .stg64 e g d m la => Sys2Proof.Machine.execStg64 e g d m la s
  | .stg128 e g d m la => Sys2Proof.Machine.execStg128 e g d m la s
  | .lds32 e g d m la => Sys2Proof.Machine.execLds32 e g d m la s
  | .lds64 e g d m la => Sys2Proof.Machine.execLds64 e g d m la s
  | .lds128 e g d m la => Sys2Proof.Machine.execLds128 e g d m la s
  | .sts32 e g d m la => Sys2Proof.Machine.execSts32 e g d m la s
  | .sts64 e g d m la => Sys2Proof.Machine.execSts64 e g d m la s
  | .sts128 e g d m la => Sys2Proof.Machine.execSts128 e g d m la s
  | .sld e d m la => Sys2Proof.Machine.execSld e d m la s
  | .sst e d m la => Sys2Proof.Machine.execSst e d m la s
  | .slds e d m la => Sys2Proof.Machine.execSlds e d m la s
  | .ssts e d m la => Sys2Proof.Machine.execSsts e d m la s
  | .xst32 e g d m la => Sys2Proof.Machine.execXst32 e g d m la s
  | .xst128 e g d m la => Sys2Proof.Machine.execXst128 e g d m la s
  | .amog e g x => Sys2Proof.Machine.execAmog e g x s
  | .amos e g x => Sys2Proof.Machine.execAmos e g x s
  | .redg e g x => Sys2Proof.Machine.execRedg e g x s
  | .pboard e d slot la => Sys2Proof.Machine.execPboard e d slot la s
  | .palight e d slot la => Sys2Proof.Machine.execPalight e d slot la s
  | .pread e d slot la => Sys2Proof.Machine.execPread e d slot la s
  | .pwrite e d slot la => Sys2Proof.Machine.execPwrite e d slot la s
  | .prmw e d slot opnd la op wsel => Sys2Proof.Machine.execPrmw e d slot opnd la op wsel s
  | .barInit e a b => Sys2Proof.Machine.execBarInit e a b s
  | .barArrive e d a b => Sys2Proof.Machine.execBarArrive e d a b s
  | .barExpect e a b => Sys2Proof.Machine.execBarExpect e a b s
  | .barWait e a b => Sys2Proof.Machine.execBarWait e a b s
  | .barTest e d a b => Sys2Proof.Machine.execBarTest e d a b s
  | .ebarArrive e d a b => Sys2Proof.Machine.execEbarArrive e d a b s
  | .cpy e x => Sys2Proof.Machine.execCpy e x s
  | .cpyg e x => Sys2Proof.Machine.execCpyg e x s
  | .pref e l1 m la => Sys2Proof.Machine.execPref e l1 m la s
  | .pin e d m la => Sys2Proof.Machine.execPin e d m la s
  | .unpin e m la => Sys2Proof.Machine.execUnpin e m la s
  | .fence e scope => Sys2Proof.Machine.execFence e scope s
  | .mbxPost e d a b => Sys2Proof.Machine.execMbxPost e d a b s
  | .mbxTake e d a b => Sys2Proof.Machine.execMbxTake e d a b s
  | .mwait e a => Sys2Proof.Machine.execMwait e a s
  | .oclaim e d => Sys2Proof.Machine.execOclaim e d s
  | .orelease e d a => Sys2Proof.Machine.execOrelease e d a s
  | .owrite e g slot x => Sys2Proof.Machine.execOwrite e g slot x s
  | .oread e g slot x => Sys2Proof.Machine.execOread e g slot x s
  | .aclaim e d => Sys2Proof.Machine.execAclaim e d s
  | .arelease e d a => Sys2Proof.Machine.execArelease e d a s
  | .mma e g x => Sys2Proof.Machine.execMma e g x s
  | .mfence e d => Sys2Proof.Machine.execMfence e d s
  | .aswap e a => Sys2Proof.Machine.execAswap e a s
  | .ard e g d a grp => Sys2Proof.Machine.execArd e g d a grp s
  | .awr e g acc v grp => Sys2Proof.Machine.execAwr e g acc v grp s
  | .azero e a => Sys2Proof.Machine.execAzero e a s
  | .asts e a b => Sys2Proof.Machine.execAsts e a b s
  | .tlbw e a b => Sys2Proof.Machine.execTlbw e a b s
  | .tlbr e d a => Sys2Proof.Machine.execTlbr e d a s
  | .tlbi e a mode => Sys2Proof.Machine.execTlbi e a mode s
  | .frameq e d a => Sys2Proof.Machine.execFrameq e d a s
  | .yieldres e d a cls => Sys2Proof.Machine.execYieldres e d a cls s
  | .lossrd e d b => Sys2Proof.Machine.execLossrd e d b s
  | .lossclr e a => Sys2Proof.Machine.execLossclr e a s
  | .resume e d a mode => Sys2Proof.Machine.execResume e d a mode s
  | .suspend e d a => Sys2Proof.Machine.execSuspend e d a s
  | .revive e d a b => Sys2Proof.Machine.execRevive e d a b s
  | .wraparm e a b => Sys2Proof.Machine.execWraparm e a b s
  | .wrapdone e b => Sys2Proof.Machine.execWrapdone e b s
  | .valid e a b => Sys2Proof.Machine.execValid e a b s
  | .trap e b => Sys2Proof.Machine.execTrap e b s
  | .brk e => Sys2Proof.Machine.execBrk e s
  | .faultrd e d a => Sys2Proof.Machine.execFaultrd e d a s
  | .fstat e g d => Sys2Proof.Machine.execFstat e g d s
  | .cntcfg e a b => Sys2Proof.Machine.execCntcfg e a b s
  | .cntrd e d a => Sys2Proof.Machine.execCntrd e d a s
  | .runArbitration core islot => Sys2Proof.Machine.execRunArbitration core islot s
  | .tokenRefill => Sys2Proof.Machine.execTokenRefill s
  | .slackRecompute => Sys2Proof.Machine.execSlackRecompute s
  | .placementOpportunity => Sys2Proof.Machine.execPlacementOpportunity s
  | .launchAcceptance n => Sys2Proof.Machine.execLaunchAcceptance n s
  | .troupeRetirement core tslot => Sys2Proof.Machine.execTroupeRetirement core tslot s
  | .nodeEventPost launch n => Sys2Proof.Machine.execNodeEventPost launch n s
  | .launchDivert launch => Sys2Proof.Machine.execLaunchDivert launch s
  | .deadlineStop launch => Sys2Proof.Machine.execDeadlineStop launch s
  | .actDivert core tslot => Sys2Proof.Machine.execActDivert core tslot s
  | .timerTrap core tslot => Sys2Proof.Machine.execTimerTrap core tslot s
  | .watchdog => Sys2Proof.Machine.execWatchdog s
  | .missRetry core tslot => Sys2Proof.Machine.execMissRetry core tslot s
  | .serviceRequest cluster n => Sys2Proof.Machine.execServiceRequest cluster n s
  | .atomicReturn core tslot => Sys2Proof.Machine.execAtomicReturn core tslot s
  | .processionPassage core half => Sys2Proof.Machine.execProcessionPassage core half s
  | .pboardExhausted core n => Sys2Proof.Machine.execPboardExhausted core n s
  | .processionOwnerChange slot => Sys2Proof.Machine.execProcessionOwnerChange slot s
  | .copyChunk id chunk => Sys2Proof.Machine.execCopyChunk id chunk s
  | .copyCompletion id => Sys2Proof.Machine.execCopyCompletion id s
  | .ensemblePhaseComplete ens => Sys2Proof.Machine.execEnsemblePhaseComplete ens s
  | .mmaExecute core => Sys2Proof.Machine.execMmaExecute core s
  | .mmaComplete core => Sys2Proof.Machine.execMmaComplete core s
  | .aswapExecute core => Sys2Proof.Machine.execAswapExecute core s
  | .visibleBankComplete core acc => Sys2Proof.Machine.execVisibleBankComplete core acc s
  | .noticePost w => Sys2Proof.Machine.execNoticePost w s
  | .noticeExpiry w id => Sys2Proof.Machine.execNoticeExpiry w id s
  | .copyDrainTimeout id => Sys2Proof.Machine.execCopyDrainTimeout id s
  | .counterOverflow w n => Sys2Proof.Machine.execCounterOverflow w n s
  | .sliceAccessPerformed core tslot => Sys2Proof.Machine.execSliceAccessPerformed core tslot s
  | .exchangeWriteLands n => Sys2Proof.Machine.execExchangeWriteLands n s
  | .prologueRepeat q slot => Sys2Proof.Machine.execPrologueRepeat q slot s
  | .prologueOverrun q slot => Sys2Proof.Machine.execPrologueOverrun q slot s
  | .qbarrierEvaluation q slot => Sys2Proof.Machine.execQbarrierEvaluation q slot s
  | .packetCompletion q slot => Sys2Proof.Machine.execPacketCompletion q slot s
  | .qbarrierRearm q r => Sys2Proof.Machine.execQbarrierRearm q r s
  | .create w ops => Sys2Proof.Machine.execCreate w ops s
  | .destroy w => Sys2Proof.Machine.execDestroy w s
  | .bind w ops => Sys2Proof.Machine.execBind w ops s
  | .revoke w ops => Sys2Proof.Machine.execRevoke w ops s
  | .limitsTokenBudget w ops => Sys2Proof.Machine.execLimitsTokenBudget w ops s
  | .limitsDways w ops => Sys2Proof.Machine.execLimitsDways w ops s
  | .limitsPinQuota w ops => Sys2Proof.Machine.execLimitsPinQuota w ops s
  | .limitsMissQuota w ops => Sys2Proof.Machine.execLimitsMissQuota w ops s
  | .limitsRequestQuota w ops => Sys2Proof.Machine.execLimitsRequestQuota w ops s
  | .limitsWatchdog w ops => Sys2Proof.Machine.execLimitsWatchdog w ops s
  | .limitsTimingFence w ops => Sys2Proof.Machine.execLimitsTimingFence w ops s
  | .limitsReservedCycles w ops => Sys2Proof.Machine.execLimitsReservedCycles w ops s
  | .switch w ops => Sys2Proof.Machine.execSwitch w ops s
  | .remote w ops => Sys2Proof.Machine.execRemote w ops s
  | .restart w ops => Sys2Proof.Machine.execRestart w ops s
  | .launch w ops => Sys2Proof.Machine.execLaunch w ops s
  | .qWptrDoorbell tlp q value => Sys2Proof.Machine.execQWptrDoorbell tlp q value s
  | .queueStop tlp q => Sys2Proof.Machine.execQueueStop tlp q s
  | .queueRun tlp q value => Sys2Proof.Machine.execQueueRun tlp q value s
  | .feEntryWrite tlp entry lo => Sys2Proof.Machine.execFeEntryWrite tlp entry lo s
  | .allocDoorbell fn value => Sys2Proof.Machine.execAllocDoorbell fn value s
  | .registerWrite tlp off value => Sys2Proof.Machine.execRegisterWrite tlp off value s
  | .qnop q => Sys2Proof.Machine.execQnop q s
  | .qlaunch q => Sys2Proof.Machine.execQlaunch q s
  | .qprolog q => Sys2Proof.Machine.execQprolog q s
  | .qpred q => Sys2Proof.Machine.execQpred q s
  | .qbarrier q => Sys2Proof.Machine.execQbarrier q s
  | .qsignal q => Sys2Proof.Machine.execQsignal q s
  | .qcopy q => Sys2Proof.Machine.execQcopy q s
  | .qpost q => Sys2Proof.Machine.execQpost q s
  | .qmark q => Sys2Proof.Machine.execQmark q s
  | .qdebug q => Sys2Proof.Machine.execQdebug q s
  | .halt w loc => Sys2Proof.Machine.execHalt w loc s
  | .cont w loc => Sys2Proof.Machine.execCont w loc s
  | .step w loc lanes => Sys2Proof.Machine.execStep w loc lanes s
  | .read w loc item => Sys2Proof.Machine.execRead w loc item s
  | .write w loc item data => Sys2Proof.Machine.execWrite w loc item data s
  | .barrd w core addr => Sys2Proof.Machine.execBarrd w core addr s
  | .setbp w n value => Sys2Proof.Machine.execSetbp w n value s
  | .setwp w n w0 w1 => Sys2Proof.Machine.execSetwp w n w0 w1 s
  | .list w => Sys2Proof.Machine.execList w s
  | .hostBar2Access tlp off n data => Sys2Proof.Machine.execHostBar2Access tlp off n data s
  | .hostMemoryWrite pa n data => Sys2Proof.Machine.execHostMemoryWrite pa n data s
  | .remoteAccess peer rworld tag kind => Sys2Proof.Machine.execRemoteAccess peer rworld tag kind s
  | .flitReceive lane flit => Sys2Proof.Machine.execFlitReceive lane flit s
  | .flitResend lane => Sys2Proof.Machine.execFlitResend lane s
  | .timeSyncInterval good ppm => Sys2Proof.Machine.execTimeSyncInterval good ppm s
  | .timeSourceLoss => Sys2Proof.Machine.execTimeSourceLoss s
  | .heatSample cluster celsius => Sys2Proof.Machine.execHeatSample cluster celsius s
  | .powerCheck watts draws => Sys2Proof.Machine.execPowerCheck watts draws s
  | .junctionTrip celsius => Sys2Proof.Machine.execJunctionTrip celsius s
  | .hotReset => Sys2Proof.Machine.execHotReset s
  | .linkDown => Sys2Proof.Machine.execLinkDown s
  | .getMeasurements who index nonce => Sys2Proof.Machine.execGetMeasurements who index nonce s
  | .challenge who nonce => Sys2Proof.Machine.execChallenge who nonce s
  | .keyExchange fn encapKey => Sys2Proof.Machine.execKeyExchange fn encapKey s
  | .finish fn mac => Sys2Proof.Machine.execFinish fn mac s
  | .ideKm who keys => Sys2Proof.Machine.execIdeKm who keys s
  | .lockInterface fn => Sys2Proof.Machine.execLockInterface fn s
  | .startInterface fn => Sys2Proof.Machine.execStartInterface fn s
  | .uncorrectableError site => Sys2Proof.Machine.execUncorrectableError site s
  | .memoryLinePoison line => Sys2Proof.Machine.execMemoryLinePoison line s
  | .integrityNodeError level j => Sys2Proof.Machine.execIntegrityNodeError level j s
  | .processionSlotPoison slot => Sys2Proof.Machine.execProcessionSlotPoison slot s
  | .pcieCompletion id r => Sys2Proof.Machine.execPcieCompletion id r s
  | .liveMigrationQuiesce w => Sys2Proof.Machine.execLiveMigrationQuiesce w s
  | .negotiateAlgorithms fn mldsa sha3 mlkem aes => Sys2Proof.Machine.execNegotiateAlgorithms fn mldsa sha3 mlkem aes s
  | .getCertificate who slot => Sys2Proof.Machine.execGetCertificate who slot s

end Sys2Proof.Machine
end

