-- ==== Sys2Proof/Decode.lean ====
section
/-! DEFINITION. The decoder of instruction words (R28 to R61, R106, R113, R141, R236, R258, R269, R274, R277, R278, R282,
R284, R309, R330, R361, R381, R389) and, after it, the encoder written from the same tables. -/

namespace Sys2Proof

/-- Why a word is no legal instruction (the conditions of R60 that the words alone decide). -/
inductive DecodeError where
  /-- (CL, OP) is unassigned. -/
  | unassigned
  /-- A field marked zero is not zero. -/
  | zeroField
  /-- G = 0b1111. -/
  | reservedGuard
  /-- G is not 0b0111 on an Always instruction. -/
  | guardOnAlways
  /-- G = 0b0111 on `sel`. -/
  | selAlways
  /-- C = 1 on a tail-only instruction. -/
  | chainOnTail
  /-- C = 1 together with E = 1. -/
  | chainAndEnd
  /-- A pair, quad or group is not aligned, or runs past the last register. -/
  | misaligned
  /-- A selector or code is outside its assigned values. -/
  | badSelector
  /-- The words end before the instruction does. -/
  | truncated
  deriving DecidableEq, Repr

/-- What decoding answers: the instruction and its length in words (R33). -/
abbrev DecodeResult := Except DecodeError (Instr × Nat)

/-- The code of a guard in the field G (R28). -/
def Guard.code : Guard → Nat
  | .always => 7
  | .pos p => p.val
  | .neg p => 8 + p.val

/-- The guard that the field G names; none for 0b1111 (R35). -/
def guardOf (g : Nat) : Option Guard :=
  if g = 7 then some .always
  else if g < 7 then some (.pos (Fin.ofNat 7 g))
  else if g < 15 then some (.neg (Fin.ofNat 7 (g - 8)))
  else none

/-- SCOPE codes (R53). -/
def Scope.code : Scope → Nat
  | .core => 0 | .cluster => 1 | .die => 2 | .module => 3 | .system => 4

/-- The scope of a SCOPE code; 5 to 7 and above are reserved (R53, R226). -/
def scopeOf : Nat → Option Scope
  | 0 => some .core | 1 => some .cluster | 2 => some .die | 3 => some .module | 4 => some .system
  | _ => none

/-- AOP codes (R197). -/
def AOp.code : AOp → Nat
  | .add => 0 | .minS => 1 | .maxS => 2 | .minZ => 3 | .maxZ => 4 | .and => 5 | .or => 6 | .xor => 7
  | .swap => 8 | .cas => 9 | .inc => 10 | .dec => 11 | .fadd => 12 | .fmin => 13 | .fmax => 14 | .badd => 15

/-- The operation of an AOP code; 0x10 to 0x1F are unassigned (R197). -/
def aOpOf : Nat → Option AOp
  | 0 => some .add | 1 => some .minS | 2 => some .maxS | 3 => some .minZ | 4 => some .maxZ
  | 5 => some .and | 6 => some .or | 7 => some .xor | 8 => some .swap | 9 => some .cas
  | 10 => some .inc | 11 => some .dec | 12 => some .fadd | 13 => some .fmin | 14 => some .fmax | 15 => some .badd
  | _ => none

/-- A floating AOP, which has 32-bit width only (R197). -/
def AOp.isFloat : AOp → Bool
  | .fadd | .fmin | .fmax | .badd => true
  | _ => false

/-- The operations that `redg` admits (R197). -/
def AOp.reduces : AOp → Bool
  | .swap | .cas | .inc | .dec => false
  | _ => true

/-- QOP codes (R239). -/
def QOp.code : QOp → Nat
  | .add => 0 | .bnd => 1 | .minS => 2 | .maxS => 3 | .and => 4 | .or => 5 | .xor => 6 | .swap => 7 | .cas => 8 | .inc => 9

/-- The operation of a QOP code; 10 to 15 are unassigned (R239). -/
def qOpOf : Nat → Option QOp
  | 0 => some .add | 1 => some .bnd | 2 => some .minS | 3 => some .maxS | 4 => some .and
  | 5 => some .or | 6 => some .xor | 7 => some .swap | 8 => some .cas | 9 => some .inc
  | _ => none

/-- Special-register numbers of the targets of `swrs` (R103, R104). -/
def SWTarget.code : SWTarget → Nat
  | .timerent => 12 | .trappc => 13 | .fpctl => 14 | .fstat => 15 | .mbatch => 17

/-- The target of `swrs` that a number names; numbers without a writable field name none (R104). -/
def swTarget : Nat → Option SWTarget
  | 12 => some .timerent | 13 => some .trappc | 14 => some .fpctl | 15 => some .fstat | 17 => some .mbatch
  | _ => none

/-- Mode selectors of `tlbi` (R330). -/
def TlbiMode.code : TlbiMode → Nat
  | .loc => 0 | .va => 1 | .all => 2

/-- The mode of a `tlbi` selector (R330). -/
def tlbiModeOf : Nat → Option TlbiMode
  | 0 => some .loc | 1 => some .va | 2 => some .all
  | _ => none

/-- Mode selectors of `resume` (R330). -/
def ResumeMode.code : ResumeMode → Nat
  | .retry => 0 | .at => 1 | .retire => 2

/-- The mode of a `resume` selector (R330). -/
def resumeModeOf : Nat → Option ResumeMode
  | 0 => some .retry | 1 => some .at | 2 => some .retire
  | _ => none

/-- The field [hi:lo] of a number (R4). -/
def bitsAt (n hi lo : Nat) : Nat := n / 2 ^ lo % 2 ^ (hi - lo + 1)

/-- A register number from a six-bit field. -/
abbrev R (n : Nat) : Reg := Fin.ofNat 64 n

/-- Go on when `c` holds; reject by the name `e` otherwise. -/
def need (c : Prop) [Decidable c] (e : DecodeError) (k : DecodeResult) : DecodeResult := if c then k else .error e

/-- Tail-only instructions do not carry C = 1 (R38, R60). -/
def tail (h : Hdr) (k : DecodeResult) : DecodeResult := need (h.c = false) .chainOnTail k

/-- Always instructions carry the guard 0b0111 (R36, R60). -/
def always (g : Guard) (k : DecodeResult) : DecodeResult := need (g = .always) .guardOnAlways k

/-- The extension word (R33). -/
def withExt (rest : List W32) (k : W32 → DecodeResult) : DecodeResult :=
  match rest with
  | x :: _ => k x
  | [] => .error .truncated

/-- A vector source in B: 63 takes the literal word (R34). -/
def withVSrc (b : Nat) (rest : List W32) (mk : VSrc → Instr) : DecodeResult :=
  if b = 63 then withExt rest (fun x => .ok (mk (.lit x), 2)) else .ok (mk (.reg (Fin.ofNat 63 b)), 1)

/-- A scalar source in B: 63 takes the literal word (R34). -/
def withSSrc (b : Nat) (rest : List W32) (mk : SSrc → Instr) : DecodeResult :=
  if b = 63 then withExt rest (fun x => .ok (mk (.lit x), 2)) else .ok (mk (.reg (Fin.ofNat 63 b)), 1)

/-- The M format of a vector instruction (R50): X in [11:6], SC and LA in [5:0], then the extension word. -/
def mVec (rest : List W32) (a b : Nat) (mk : MAddr → Instr) : DecodeResult :=
  withExt rest (fun x => need (bitsAt x.toNat 25 24 = 0) .zeroField
    (.ok (mk { x := R a, sc := Fin.ofNat 4 (b / 16), base := R (x.toNat / 2 ^ 26), off := BitVec.ofNat 24 x.toNat }, 2)))

/-- The M format of a scalar instruction, whose X is 63 and SC is 0 (R50). -/
def mScal (rest : List W32) (a b : Nat) (mk : SAddr → Instr) : DecodeResult :=
  need (a = 63 ∧ b < 16) .zeroField
    (withExt rest (fun x => need (bitsAt x.toNat 25 24 = 0) .zeroField
      (.ok (mk { base := R (x.toNat / 2 ^ 26), off := BitVec.ofNat 24 x.toNat }, 2))))

/-- The register groups that an A-format instruction needs aligned (R51, R197). -/
def aAligned (aop : AOp) (wide : Bool) (d v : Nat) : Bool :=
  (match aop, wide with
   | .cas, false => v % 2 == 0
   | .cas, true => v % 4 == 0
   | _, true => v % 2 == 0
   | _, false => true) && (d == 63 || !wide || d % 2 == 0)

/-- The A format (R51, R197); `red` for `redg`, which admits reductions only and returns nothing. -/
def aFmt (red : Bool) (rest : List W32) (d a b : Nat) (mk : AArgs → Instr) : DecodeResult :=
  need (red = true → d = 63) .zeroField (withExt rest (fun x =>
    match aOpOf (bitsAt x.toNat 21 17) with
    | none => .error .badSelector
    | some o =>
      need (bitsAt x.toNat 16 15 < 2) .badSelector
      (need (red = true → o.reduces = true) .badSelector
      (need (o.isFloat = true → bitsAt x.toNat 16 15 = 0) .badSelector
      (need (aAligned o (bitsAt x.toNat 16 15 == 1) d b = true) .misaligned
      (.ok (mk { d := R d, x := R a, v := R b, base := R (x.toNat / 2 ^ 26), la := Fin.ofNat 16 (bitsAt x.toNat 25 22),
                 aop := o, wide := bitsAt x.toNat 16 15 == 1, off := BitVec.ofNat 15 x.toNat }, 2)))))))

/-- The C format (R53). -/
def cFmt (rest : List W32) (d a b : Nat) (mk : CArgs → Instr) : DecodeResult :=
  need (d % 4 = 0 ∧ a % 4 = 0 ∧ d ≤ 52 ∧ a ≤ 52) .misaligned (withExt rest (fun x =>
    need (bitsAt x.toNat 15 0 = 0) .zeroField
    (match scopeOf (bitsAt x.toNat 25 23) with
     | none => .error .badSelector
     | some sc =>
      let mk' := fun cw => mk { srec := Fin.ofNat 14 (d / 4), drec := Fin.ofNat 14 (a / 4), bar := R b,
                                la := Fin.ofNat 16 (x.toNat / 2 ^ 28), acq := bitsAt x.toNat 27 27 == 1,
                                rel := bitsAt x.toNat 26 26 == 1, scope := sc, cw := cw }
      if bitsAt x.toNat 22 22 = 1 then
        need (bitsAt x.toNat 21 16 < 63) .misaligned (.ok (mk' (some (Fin.ofNat 63 (bitsAt x.toNat 21 16))), 2))
      else need (bitsAt x.toNat 21 16 = 0) .zeroField (.ok (mk' none, 2)))))

/-- The MX format (R54). -/
def mxFmt (rest : List W32) (d a b : Nat) (mk : MXArgs → Instr) : DecodeResult :=
  withExt rest (fun x =>
    need (bitsAt x.toNat 19 0 = 0) .zeroField
    (need (bitsAt x.toNat 27 22 % 2 = 0) .misaligned
    (.ok (mk { acc := R d, aslot := R a, bslot := R b, la := Fin.ofNat 16 (x.toNat / 2 ^ 28),
               fb := Fin.ofNat 32 (bitsAt x.toNat 27 22 / 2), z := bitsAt x.toNat 21 21 == 1,
               bd := bitsAt x.toNat 20 20 == 1 }, 2))))

/-- Class 0 opcodes (R56, R141). -/
def decodeVector (op : Nat) (h : Hdr) (g : Guard) (d a b : Nat) (rest : List W32) : DecodeResult :=
  match op with
  | 0x00 => withVSrc b rest (fun x => .fadd h g (R d) (R a) x)
  | 0x01 => withVSrc b rest (fun x => .fsub h g (R d) (R a) x)
  | 0x02 => withVSrc b rest (fun x => .fmul h g (R d) (R a) x)
  | 0x03 => withVSrc b rest (fun x => .ffma h g (R d) (R a) x)
  | 0x04 => withVSrc b rest (fun x => .fmin h g (R d) (R a) x)
  | 0x05 => withVSrc b rest (fun x => .fmax h g (R d) (R a) x)
  | 0x06 => need (b = 0) .zeroField (.ok (.fneg h g (R d) (R a), 1))
  | 0x07 => need (b = 0) .zeroField (.ok (.fabs h g (R d) (R a), 1))
  | 0x08 => need (b = 0) .zeroField (.ok (.frcp h g (R d) (R a), 1))
  | 0x09 => need (b = 0) .zeroField (.ok (.frsq h g (R d) (R a), 1))
  | 0x0A => need (b = 0) .zeroField (.ok (.fex2 h g (R d) (R a), 1))
  | 0x0B => need (b = 0) .zeroField (.ok (.flg2 h g (R d) (R a), 1))
  | 0x0C => need (b = 0) .zeroField (.ok (.ftanh h g (R d) (R a), 1))
  | 0x0D => need (d % 2 = 0) .zeroField (withVSrc b rest (fun x => .fcmpEq h g (Fin.ofNat 32 (d / 2)) (R a) x))
  | 0x0E => need (d % 2 = 0) .zeroField (withVSrc b rest (fun x => .fcmpNe h g (Fin.ofNat 32 (d / 2)) (R a) x))
  | 0x0F => need (d % 2 = 0) .zeroField (withVSrc b rest (fun x => .fcmpLt h g (Fin.ofNat 32 (d / 2)) (R a) x))
  | 0x10 => need (d % 2 = 0) .zeroField (withVSrc b rest (fun x => .fcmpLe h g (Fin.ofNat 32 (d / 2)) (R a) x))
  | 0x11 => need (d % 2 = 0) .zeroField (withVSrc b rest (fun x => .fcmpUn h g (Fin.ofNat 32 (d / 2)) (R a) x))
  | 0x12 => withVSrc b rest (fun x => .badd h g (R d) (R a) x)
  | 0x13 => withVSrc b rest (fun x => .bmul h g (R d) (R a) x)
  | 0x14 => withVSrc b rest (fun x => .bfma h g (R d) (R a) x)
  | 0x15 => need (b < 42) .badSelector (.ok (.cvt h g (R d) (R a) (Fin.ofNat 42 b), 1))
  | 0x16 => withVSrc b rest (fun x => .iadd h g (R d) (R a) x)
  | 0x17 => withVSrc b rest (fun x => .isub h g (R d) (R a) x)
  | 0x18 => withVSrc b rest (fun x => .imul h g (R d) (R a) x)
  | 0x19 => withVSrc b rest (fun x => .imulhiS h g (R d) (R a) x)
  | 0x1A => withVSrc b rest (fun x => .imulhiZ h g (R d) (R a) x)
  | 0x1B => withVSrc b rest (fun x => .imad h g (R d) (R a) x)
  | 0x1C => withVSrc b rest (fun x => .iminS h g (R d) (R a) x)
  | 0x1D => withVSrc b rest (fun x => .imaxS h g (R d) (R a) x)
  | 0x1E => withVSrc b rest (fun x => .iminZ h g (R d) (R a) x)
  | 0x1F => withVSrc b rest (fun x => .imaxZ h g (R d) (R a) x)
  | 0x20 => withVSrc b rest (fun x => .iand h g (R d) (R a) x)
  | 0x21 => withVSrc b rest (fun x => .ior h g (R d) (R a) x)
  | 0x22 => withVSrc b rest (fun x => .ixor h g (R d) (R a) x)
  | 0x23 => need (b = 0) .zeroField (.ok (.inot h g (R d) (R a), 1))
  | 0x24 => withVSrc b rest (fun x => .ishl h g (R d) (R a) x)
  | 0x25 => withVSrc b rest (fun x => .ishrZ h g (R d) (R a) x)
  | 0x26 => withVSrc b rest (fun x => .ishrS h g (R d) (R a) x)
  | 0x27 => need (b = 0) .zeroField (.ok (.ipopc h g (R d) (R a), 1))
  | 0x28 => need (b = 0) .zeroField (.ok (.iclz h g (R d) (R a), 1))
  | 0x29 => withVSrc b rest (fun x => .iaddsatS h g (R d) (R a) x)
  | 0x2A => need (d % 2 = 0) .zeroField (withVSrc b rest (fun x => .icmpEq h g (Fin.ofNat 32 (d / 2)) (R a) x))
  | 0x2B => need (d % 2 = 0) .zeroField (withVSrc b rest (fun x => .icmpNe h g (Fin.ofNat 32 (d / 2)) (R a) x))
  | 0x2C => need (d % 2 = 0) .zeroField (withVSrc b rest (fun x => .icmpLtS h g (Fin.ofNat 32 (d / 2)) (R a) x))
  | 0x2D => need (d % 2 = 0) .zeroField (withVSrc b rest (fun x => .icmpLeS h g (Fin.ofNat 32 (d / 2)) (R a) x))
  | 0x2E => need (d % 2 = 0) .zeroField (withVSrc b rest (fun x => .icmpLtZ h g (Fin.ofNat 32 (d / 2)) (R a) x))
  | 0x2F => need (d % 2 = 0) .zeroField (withVSrc b rest (fun x => .icmpLeZ h g (Fin.ofNat 32 (d / 2)) (R a) x))
  | 0x30 => match g with
    | .always => .error .selAlways
    | .pos p => withVSrc b rest (fun x => .sel h false p (R d) (R a) x)
    | .neg p => withVSrc b rest (fun x => .sel h true p (R d) (R a) x)
  | 0x31 => need (a = 0) .zeroField (withVSrc b rest (fun x => .mov h g (R d) x))
  | 0x32 => need (b < 2) .badSelector (.ok (.vbcast h g (R d) (R a) (b = 1), 1))
  | 0x33 => need (a = 0 ∧ b = 0) .zeroField (.ok (.vlane h g (R d), 1))
  | 0x34 => withVSrc b rest (fun x => .shflIdx h g (R d) (R a) x)
  | 0x35 => withVSrc b rest (fun x => .shflXor h g (R d) (R a) x)
  | 0x36 => withVSrc b rest (fun x => .shflUp h g (R d) (R a) x)
  | 0x37 => withVSrc b rest (fun x => .shflDn h g (R d) (R a) x)
  | 0x38 => need (b = 0) .zeroField (.ok (.redfAdd h g (R d) (R a), 1))
  | 0x39 => need (b = 0) .zeroField (.ok (.rediAdd h g (R d) (R a), 1))
  | 0x3A => need (b = 0) .zeroField (.ok (.redfMax h g (R d) (R a), 1))
  | 0x3B => need (d % 2 = 0 ∧ a < 32 ∧ b < 32) .zeroField (.ok (.pand h g (Fin.ofNat 32 (d / 2)) (Fin.ofNat 32 a) (Fin.ofNat 32 b), 1))
  | 0x3C => need (d % 2 = 0 ∧ a < 32 ∧ b < 32) .zeroField (.ok (.por h g (Fin.ofNat 32 (d / 2)) (Fin.ofNat 32 a) (Fin.ofNat 32 b), 1))
  | 0x3D => need (d % 2 = 0 ∧ a < 32 ∧ b < 32) .zeroField (.ok (.pxor h g (Fin.ofNat 32 (d / 2)) (Fin.ofNat 32 a) (Fin.ofNat 32 b), 1))
  | 0x3E => need (d % 2 = 0 ∧ a < 32 ∧ b = 0) .zeroField (.ok (.pnot h g (Fin.ofNat 32 (d / 2)) (Fin.ofNat 32 a), 1))
  | 0x3F => need (d % 2 = 0 ∧ a < 32 ∧ b = 0) .misaligned (.ok (.ballot h g (Fin.ofNat 32 (d / 2)) (Fin.ofNat 32 a), 1))
  | _ => .error .unassigned

/-- Class 1 opcodes (R57, R106, R113, R361). -/
def decodeScalar (op : Nat) (h : Hdr) (d a b : Nat) (rest : List W32) : DecodeResult :=
  match op with
  | 0x00 => withSSrc b rest (fun x => .sadd h (R d) (R a) x)
  | 0x01 => withSSrc b rest (fun x => .ssub h (R d) (R a) x)
  | 0x02 => withSSrc b rest (fun x => .smul h (R d) (R a) x)
  | 0x03 => withSSrc b rest (fun x => .sand h (R d) (R a) x)
  | 0x04 => withSSrc b rest (fun x => .sor h (R d) (R a) x)
  | 0x05 => withSSrc b rest (fun x => .sxor h (R d) (R a) x)
  | 0x06 => withSSrc b rest (fun x => .sshl h (R d) (R a) x)
  | 0x07 => withSSrc b rest (fun x => .sshrZ h (R d) (R a) x)
  | 0x08 => withSSrc b rest (fun x => .sshrS h (R d) (R a) x)
  | 0x09 => need (a = 0) .zeroField (withSSrc b rest (fun x => .smov h (R d) x))
  | 0x0A => need (a = 0 ∧ b = 0) .zeroField (match rest with
    | lo :: hi :: _ => .ok (.smov64 h (R d) lo hi, 3)
    | _ => .error .truncated)
  | 0x0B => need (d < 8) .zeroField (withSSrc b rest (fun x => .scmpEq h (Fin.ofNat 8 d) (R a) x))
  | 0x0C => need (d < 8) .zeroField (withSSrc b rest (fun x => .scmpNe h (Fin.ofNat 8 d) (R a) x))
  | 0x0D => need (d < 8) .zeroField (withSSrc b rest (fun x => .scmpLtS h (Fin.ofNat 8 d) (R a) x))
  | 0x0E => need (d < 8) .zeroField (withSSrc b rest (fun x => .scmpLtZ h (Fin.ofNat 8 d) (R a) x))
  | 0x0F => need (d < 8) .zeroField (withSSrc b rest (fun x => .scmpLeS h (Fin.ofNat 8 d) (R a) x))
  | 0x10 => need (d < 8) .zeroField (withSSrc b rest (fun x => .scmpLeZ h (Fin.ofNat 8 d) (R a) x))
  | 0x11 => withSSrc b rest (fun x => .sbfi h (R d) (R a) x)
  | 0x12 => withSSrc b rest (fun x => .sbfx h (R d) (R a) x)
  | 0x13 => need (a = 0) .zeroField (need (b < 18) .badSelector (need (b = 16 → d % 2 = 0) .misaligned (.ok (.srds h (R d) (Fin.ofNat 18 b), 1))))
  | 0x14 => need (b = 0) .zeroField (match swTarget d with
    | some t => .ok (.swrs h t (R a), 1)
    | none => .error .badSelector)
  | 0x15 => need (a = 0) .zeroField (need (d % 2 = 0) .misaligned (need (b < 2) .badSelector (.ok (.exsave h (Fin.ofNat 32 (d / 2)) (b = 1), 1))))
  | 0x16 => need (d = 0 ∧ b = 0) .zeroField (need (a % 2 = 0) .misaligned (.ok (.exload h (Fin.ofNat 32 (a / 2)), 1)))
  | 0x1A => need (d = 0 ∧ b = 0) .zeroField (need (a % 2 = 0) .misaligned (.ok (.exelse h (Fin.ofNat 32 (a / 2)), 1)))
  | 0x17 => need (d = 0 ∧ a = 0) .zeroField (need (b < 32) .badSelector (.ok (.exand h (Fin.ofNat 32 b), 1)))
  | 0x18 => need (d = 0 ∧ a = 0) .zeroField (need (b < 32) .badSelector (.ok (.exandn h (Fin.ofNat 32 b), 1)))
  | 0x19 => need (a = 0) .zeroField (need (d % 2 = 0) .misaligned (need (b < 32) .badSelector (.ok (.exif h (Fin.ofNat 32 (d / 2)) (Fin.ofNat 32 b), 1))))
  | 0x1B => need (a = 0) .zeroField (need (b < 2) .badSelector (.ok (.excnt h (R d) (b = 1), 1)))
  | 0x1C => tail h (need (d = 0 ∧ a = 0 ∧ b = 0) .zeroField (withExt rest (fun x => .ok (.br h.e x, 2))))
  | 0x1D => tail h (need (d = 0 ∧ a = 0 ∧ b = 0) .zeroField (withExt rest (fun x => .ok (.bexz h.e x, 2))))
  | 0x1E => tail h (need (d = 0 ∧ a = 0 ∧ b = 0) .zeroField (withExt rest (fun x => .ok (.bexnz h.e x, 2))))
  | 0x1F => tail h (need (d % 8 = 0 ∧ a = 0 ∧ b = 0) .zeroField (withExt rest (fun x => .ok (.bf h.e (Fin.ofNat 8 (d / 8)) x, 2))))
  | 0x20 => tail h (need (d % 8 = 0 ∧ a = 0 ∧ b = 0) .zeroField (withExt rest (fun x => .ok (.bnf h.e (Fin.ofNat 8 (d / 8)) x, 2))))
  | 0x21 => tail h (need (d = 0 ∧ b = 0) .zeroField (withExt rest (fun x => .ok (.bri h.e (R a) x, 2))))
  | 0x22 => tail h (need (d = 0 ∧ a = 0) .zeroField (withExt rest (fun x => .ok (.call h.e (R b) x, 2))))
  | 0x23 => tail h (need (d = 0 ∧ b = 0) .zeroField (withExt rest (fun x => .ok (.loop h.e (R a) x, 2))))
  | 0x24 => need (d = 0 ∧ a = 0 ∧ b = 0) .zeroField (.ok (.nop h, 1))
  | 0x25 => tail h (need (b = 0) .zeroField (.ok (.ensJoin h.e (R d) (R a), 1)))
  | 0x26 => tail h (need (b = 0) .zeroField (.ok (.ensLeave h.e (R d) (R a), 1)))
  | 0x27 => tail h (need (a = 0 ∧ b = 0) .zeroField (.ok (.ensNew h.e (R d), 1)))
  | 0x28 => tail h (need (b = 0) .zeroField (.ok (.ensFree h.e (R d) (R a), 1)))
  | 0x29 => tail h (need (d = 0) .zeroField (withSSrc b rest (fun x => .timerset h.e (R a) x)))
  | 0x2A => tail h (need (d = 0 ∧ a = 0 ∧ b = 0) .zeroField (.ok (.timerclr h.e, 1)))
  | 0x2B => tail h (need (d = 0 ∧ a = 0 ∧ b = 0) .zeroField (.ok (.tret h.e, 1)))
  | 0x2C => need (a = 0 ∧ b = 0) .zeroField (.ok (.clock h (R d), 1))
  | 0x2D => need (a = 0 ∧ b = 0) .zeroField (.ok (.cycles h (R d), 1))
  | 0x2E => tail h (need (d = 0 ∧ a = 0 ∧ b = 0) .zeroField (.ok (.yield h.e, 1)))
  | 0x2F => tail h (need (d = 0 ∧ a = 0 ∧ b = 0) .zeroField (.ok (.exit h.e, 1)))
  | 0x30 => tail h (need (d = 0 ∧ a = 0 ∧ b = 0) .zeroField (.ok (.lexit h.e, 1)))
  | _ => .error .unassigned

/-- Class 2 opcodes (R58); every one is tail-only (R38). -/
def decodeMemory (op : Nat) (h : Hdr) (g : Guard) (d a b : Nat) (rest : List W32) : DecodeResult :=
  match op with
  | 0x00 => mVec rest a b (fun m => .ldg8z h.e g (R d) m (Fin.ofNat 16 (b % 16)))
  | 0x01 => mVec rest a b (fun m => .ldg8s h.e g (R d) m (Fin.ofNat 16 (b % 16)))
  | 0x02 => mVec rest a b (fun m => .ldg16z h.e g (R d) m (Fin.ofNat 16 (b % 16)))
  | 0x03 => mVec rest a b (fun m => .ldg16s h.e g (R d) m (Fin.ofNat 16 (b % 16)))
  | 0x04 => mVec rest a b (fun m => .ldg32 h.e g (R d) m (Fin.ofNat 16 (b % 16)))
  | 0x05 => need (d % 2 = 0) .misaligned (mVec rest a b (fun m => .ldg64 h.e g (Fin.ofNat 32 (d / 2)) m (Fin.ofNat 16 (b % 16))))
  | 0x06 => need (d % 4 = 0) .misaligned (mVec rest a b (fun m => .ldg128 h.e g (Fin.ofNat 16 (d / 4)) m (Fin.ofNat 16 (b % 16))))
  | 0x07 => mVec rest a b (fun m => .stg8 h.e g (R d) m (Fin.ofNat 16 (b % 16)))
  | 0x08 => mVec rest a b (fun m => .stg16 h.e g (R d) m (Fin.ofNat 16 (b % 16)))
  | 0x09 => mVec rest a b (fun m => .stg32 h.e g (R d) m (Fin.ofNat 16 (b % 16)))
  | 0x0A => need (d % 2 = 0) .misaligned (mVec rest a b (fun m => .stg64 h.e g (Fin.ofNat 32 (d / 2)) m (Fin.ofNat 16 (b % 16))))
  | 0x0B => need (d % 4 = 0) .misaligned (mVec rest a b (fun m => .stg128 h.e g (Fin.ofNat 16 (d / 4)) m (Fin.ofNat 16 (b % 16))))
  | 0x0C => mVec rest a b (fun m => .lds32 h.e g (R d) m (Fin.ofNat 16 (b % 16)))
  | 0x0D => need (d % 2 = 0) .misaligned (mVec rest a b (fun m => .lds64 h.e g (Fin.ofNat 32 (d / 2)) m (Fin.ofNat 16 (b % 16))))
  | 0x0E => need (d % 4 = 0) .misaligned (mVec rest a b (fun m => .lds128 h.e g (Fin.ofNat 16 (d / 4)) m (Fin.ofNat 16 (b % 16))))
  | 0x0F => mVec rest a b (fun m => .sts32 h.e g (R d) m (Fin.ofNat 16 (b % 16)))
  | 0x10 => need (d % 2 = 0) .misaligned (mVec rest a b (fun m => .sts64 h.e g (Fin.ofNat 32 (d / 2)) m (Fin.ofNat 16 (b % 16))))
  | 0x11 => need (d % 4 = 0) .misaligned (mVec rest a b (fun m => .sts128 h.e g (Fin.ofNat 16 (d / 4)) m (Fin.ofNat 16 (b % 16))))
  | 0x12 => always g (mScal rest a b (fun m => .sld h.e (R d) m (Fin.ofNat 16 (b % 16))))
  | 0x13 => always g (mScal rest a b (fun m => .sst h.e (R d) m (Fin.ofNat 16 (b % 16))))
  | 0x14 => always g (mScal rest a b (fun m => .slds h.e (R d) m (Fin.ofNat 16 (b % 16))))
  | 0x15 => always g (mScal rest a b (fun m => .ssts h.e (R d) m (Fin.ofNat 16 (b % 16))))
  | 0x16 => mVec rest a b (fun m => .xst32 h.e g (R d) m (Fin.ofNat 16 (b % 16)))
  | 0x17 => need (d % 4 = 0) .misaligned (mVec rest a b (fun m => .xst128 h.e g (Fin.ofNat 16 (d / 4)) m (Fin.ofNat 16 (b % 16))))
  | 0x18 => aFmt false rest d a b (fun x => .amog h.e g x)
  | 0x19 => aFmt false rest d a b (fun x => .amos h.e g x)
  | 0x1A => aFmt true rest d a b (fun x => .redg h.e g x)
  | 0x1B => always g (need (d % 4 = 0) .misaligned (need (b = 0) .zeroField (withExt rest (fun x => need (x.toNat % 2 ^ 28 = 0) .zeroField (.ok (.pboard h.e (Fin.ofNat 16 (d / 4)) (R a) (Fin.ofNat 16 (x.toNat / 2 ^ 28)), 2))))))
  | 0x1C => always g (need (d % 4 = 0) .misaligned (need (b = 0) .zeroField (withExt rest (fun x => need (x.toNat % 2 ^ 28 = 0) .zeroField (.ok (.palight h.e (Fin.ofNat 16 (d / 4)) (R a) (Fin.ofNat 16 (x.toNat / 2 ^ 28)), 2))))))
  | 0x1D => always g (need (d % 4 = 0) .misaligned (need (b = 0) .zeroField (withExt rest (fun x => need (x.toNat % 2 ^ 28 = 0) .zeroField (.ok (.pread h.e (Fin.ofNat 16 (d / 4)) (R a) (Fin.ofNat 16 (x.toNat / 2 ^ 28)), 2))))))
  | 0x1E => always g (need (d % 4 = 0) .misaligned (need (b = 0) .zeroField (withExt rest (fun x => need (x.toNat % 2 ^ 28 = 0) .zeroField (.ok (.pwrite h.e (Fin.ofNat 16 (d / 4)) (R a) (Fin.ofNat 16 (x.toNat / 2 ^ 28)), 2))))))
  | 0x1F => always g (need (d % 4 = 0) .misaligned (withExt rest (fun x => need (x.toNat % 2 ^ 22 = 0) .zeroField (match qOpOf (x.toNat / 2 ^ 24 % 16) with
    | none => .error .badSelector
    | some q => need ((q = .bnd ∨ q = .cas) → b ≠ 63) .misaligned
        (.ok (.prmw h.e (Fin.ofNat 16 (d / 4)) (R a) (R b) (Fin.ofNat 16 (x.toNat / 2 ^ 28)) q (Fin.ofNat 4 (x.toNat / 2 ^ 22 % 4)), 2))))))
  | 0x20 => always g ((need (d = 0) .zeroField (withSSrc b rest (fun x => .barInit h.e (R a) x))))
  | 0x21 => always g ((withSSrc b rest (fun x => .barArrive h.e (R d) (R a) x)))
  | 0x22 => always g ((need (d = 0) .zeroField (withSSrc b rest (fun x => .barExpect h.e (R a) x))))
  | 0x23 => always g ((need (d = 0) .zeroField (withSSrc b rest (fun x => .barWait h.e (R a) x))))
  | 0x24 => always g ((withSSrc b rest (fun x => .barTest h.e (R d) (R a) x)))
  | 0x25 => always g ((withSSrc b rest (fun x => .ebarArrive h.e (R d) (R a) x)))
  | 0x26 => always g (cFmt rest d a b (fun x => .cpy h.e x))
  | 0x27 => always g (cFmt rest d a b (fun x => .cpyg h.e x))
  | 0x28 => always g (need (d < 2) .badSelector (mScal rest a b (fun m => .pref h.e (d = 1) m (Fin.ofNat 16 (b % 16)))))
  | 0x29 => always g (mScal rest a b (fun m => .pin h.e (R d) m (Fin.ofNat 16 (b % 16))))
  | 0x2A => always g (need (d = 0) .zeroField (mScal rest a b (fun m => .unpin h.e m (Fin.ofNat 16 (b % 16)))))
  | 0x2B => always g (need (d = 0 ∧ a = 0) .zeroField (match scopeOf b with
    | some sc => .ok (.fence h.e sc, 1)
    | none => .error .badSelector))
  | 0x2C => always g (need (b % 8 = 0) .misaligned (.ok (.mbxPost h.e (R d) (R a) (Fin.ofNat 8 (b / 8)), 1)))
  | 0x2D => always g (need (d % 8 = 0) .misaligned (.ok (.mbxTake h.e (Fin.ofNat 8 (d / 8)) (R a) (R b), 1)))
  | 0x2E => always g ((need (d = 0 ∧ b = 0) .zeroField (.ok (.mwait h.e (R a), 1))))
  | _ => .error .unassigned

/-- Class 3 opcodes (R59); every one is tail-only (R38). -/
def decodeSystem (op : Nat) (h : Hdr) (g : Guard) (d a b : Nat) (rest : List W32) : DecodeResult :=
  match op with
  | 0x00 => always g ((need (a = 0 ∧ b = 0) .zeroField (.ok (.oclaim h.e (R d), 1))))
  | 0x01 => always g ((need (b = 0) .zeroField (.ok (.orelease h.e (R d) (R a), 1))))
  | 0x02 => if b < 2 then need (a % 8 = 0) .misaligned (.ok (.owrite h.e g (R d) (.half (b = 1) (Fin.ofNat 8 (a / 8))), 1))
    else need (b = 2) .badSelector (.ok (.owrite h.e g (R d) (.side (R a)), 1))
  | 0x03 => if b < 2 then need (d % 8 = 0) .misaligned (.ok (.oread h.e g (R a) (.half (b = 1) (Fin.ofNat 8 (d / 8))), 1))
    else need (b = 2) .badSelector (.ok (.oread h.e g (R a) (.side (R d)), 1))
  | 0x04 => always g ((need (a = 0 ∧ b = 0) .zeroField (.ok (.aclaim h.e (R d), 1))))
  | 0x05 => always g ((need (b = 0) .zeroField (.ok (.arelease h.e (R d) (R a), 1))))
  | 0x06 => mxFmt rest d a b (fun x => .mma h.e g x)
  | 0x07 => always g ((need (a = 0 ∧ b = 0) .zeroField (.ok (.mfence h.e (R d), 1))))
  | 0x08 => always g ((need (d = 0 ∧ b = 0) .zeroField (.ok (.aswap h.e (R a), 1))))
  | 0x09 => need (d % 16 = 0) .misaligned (need (b < 8) .badSelector (.ok (.ard h.e g (Fin.ofNat 4 (d / 16)) (R a) (Fin.ofNat 8 b), 1)))
  | 0x0A => need (a % 16 = 0) .misaligned (need (b < 8) .badSelector (.ok (.awr h.e g (R d) (Fin.ofNat 4 (a / 16)) (Fin.ofNat 8 b), 1)))
  | 0x0B => always g ((need (d = 0 ∧ b = 0) .zeroField (.ok (.azero h.e (R a), 1))))
  | 0x0C => always g ((need (d = 0) .zeroField (withSSrc b rest (fun x => .asts h.e (R a) x))))
  | 0x10 => always g ((need (d = 0) .zeroField (need (a % 2 = 0) .misaligned (withSSrc b rest (fun x => .tlbw h.e (Fin.ofNat 32 (a / 2)) x)))))
  | 0x11 => always g ((need (b = 0) .zeroField (need (d % 2 = 0) .misaligned (.ok (.tlbr h.e (Fin.ofNat 32 (d / 2)) (R a), 1)))))
  | 0x12 => always g (need (d = 0) .zeroField (match tlbiModeOf b with
    | some m => .ok (.tlbi h.e (R a) m, 1)
    | none => .error .badSelector))
  | 0x13 => always g ((need (b = 0) .zeroField (.ok (.frameq h.e (R d) (R a), 1))))
  | 0x14 => always g (need (b < 11) .badSelector (.ok (.yieldres h.e (R d) (R a) (Fin.ofNat 11 b), 1)))
  | 0x15 => always g ((need (a = 0) .zeroField (withSSrc b rest (fun x => .lossrd h.e (R d) x))))
  | 0x16 => always g ((need (d = 0 ∧ b = 0) .zeroField (.ok (.lossclr h.e (R a), 1))))
  | 0x17 => always g (match resumeModeOf b with
    | some m => .ok (.resume h.e (R d) (R a) m, 1)
    | none => .error .badSelector)
  | 0x18 => always g ((need (b = 0) .zeroField (.ok (.suspend h.e (R d) (R a), 1))))
  | 0x19 => always g ((withSSrc b rest (fun x => .revive h.e (R d) (R a) x)))
  | 0x1A => always g ((need (d = 0) .zeroField (need (a % 2 = 0) .misaligned (withSSrc b rest (fun x => .wraparm h.e (Fin.ofNat 32 (a / 2)) x)))))
  | 0x1B => always g ((need (d = 0 ∧ a = 0) .zeroField (withSSrc b rest (fun x => .wrapdone h.e x))))
  | 0x1C => always g ((need (d = 0) .zeroField (withSSrc b rest (fun x => .valid h.e (R a) x))))
  | 0x1D => always g ((need (d = 0 ∧ a = 0) .zeroField (withSSrc b rest (fun x => .trap h.e x))))
  | 0x1E => always g ((need (d = 0 ∧ a = 0 ∧ b = 0) .zeroField (.ok (.brk h.e, 1))))
  | 0x1F => always g ((need (b = 0) .zeroField (need (d % 8 = 0) .misaligned (.ok (.faultrd h.e (Fin.ofNat 8 (d / 8)) (R a), 1)))))
  | 0x20 => need (a = 0 ∧ b = 0) .zeroField (.ok (.fstat h.e g (R d), 1))
  | 0x21 => always g ((need (d = 0) .zeroField (withSSrc b rest (fun x => .cntcfg h.e (R a) x))))
  | 0x22 => always g ((need (b = 0) .zeroField (.ok (.cntrd h.e (R d) (R a), 1))))
  | _ => .error .unassigned

/-- The fields of an instruction word (R28) as numbers. -/
structure RawWord where
  c : Bool
  e : Bool
  cl : Nat
  op : Nat
  g : Nat
  d : Nat
  a : Nat
  b : Nat
  deriving DecidableEq, Repr

/-- Take an instruction word apart (R28, R48). -/
def unpack (w : W32) : RawWord :=
  { c := bitsAt w.toNat 31 31 == 1, e := bitsAt w.toNat 30 30 == 1, cl := bitsAt w.toNat 29 28, op := bitsAt w.toNat 27 22,
    g := bitsAt w.toNat 21 18, d := bitsAt w.toNat 17 12, a := bitsAt w.toNat 11 6, b := bitsAt w.toNat 5 0 }

/-- Decode by class once the header is known to be legal (R29). -/
def decodeRaw (r : RawWord) (g : Guard) (rest : List W32) : DecodeResult :=
  let h : Hdr := { c := r.c, e := r.e }
  match r.cl with
  | 0 => decodeVector r.op h g r.d r.a r.b rest
  | 1 => always g (decodeScalar r.op h r.d r.a r.b rest)
  | 2 => tail h (decodeMemory r.op h g r.d r.a r.b rest)
  | 3 => tail h (decodeSystem r.op h g r.d r.a r.b rest)
  | _ => .error .unassigned

/-- Decode the instruction that begins a list of words (R28, R60); its extension and literal words follow it. -/
def decode : List W32 → DecodeResult
  | [] => .error .truncated
  | w :: rest =>
    let r := unpack w
    match guardOf r.g with
    | none => .error .reservedGuard
    | some g => need (¬(r.c = true ∧ r.e = true)) .chainAndEnd (decodeRaw r g rest)

/-- The number of words of the instruction whose instruction word is `w`, its other words taken as zero (R33, R34). -/
def lengthOf (w : W32) : Except DecodeError Nat :=
  (decode [w, 0, 0]).map (·.2)

/-- The instruction the decoder reads from bits `w` numbered from the first word up, `nbits` of them given. -/
def decodeTableWord (nbits w : Nat) : Option Instr :=
  let n := w % 2 ^ nbits
  match decode [BitVec.ofNat 32 n, BitVec.ofNat 32 (n / 2 ^ 32), BitVec.ofNat 32 (n / 2 ^ 64)] with
  | .ok (i, _) => some i
  | .error _ => none

/-- An instruction word from its fields (R28). -/
def word (c e : Bool) (cl op g d a b : Nat) : W32 :=
  BitVec.ofNat 32 (c.toNat * 2 ^ 31 + e.toNat * 2 ^ 30 + cl * 2 ^ 28 + op * 2 ^ 22 + g * 2 ^ 18 + d * 2 ^ 12 + a * 2 ^ 6 + b)

/-- The words of a V3 or P instruction (R34, R48, R49). -/
def vWords (h : Hdr) (g : Guard) (op d a : Nat) : VSrc → List W32
  | .reg r => [word h.c h.e 0 op g.code d a r.val]
  | .lit x => [word h.c h.e 0 op g.code d a 63, x]

/-- The words of an S3 instruction with a source in B (R34, R48). -/
def sWords (c e : Bool) (cl op d a : Nat) : SSrc → List W32
  | .reg r => [word c e cl op 7 d a r.val]
  | .lit x => [word c e cl op 7 d a 63, x]

/-- The words of a vector M-format instruction (R50). -/
def mWords (e : Bool) (g : Guard) (op d : Nat) (m : MAddr) (la : Fin 16) : List W32 :=
  [word false e 2 op g.code d m.x.val (m.sc.val * 16 + la.val), BitVec.ofNat 32 (m.base.val * 2 ^ 26 + m.off.toNat)]

/-- The words of a scalar M-format instruction (R50). -/
def msWords (e : Bool) (op d : Nat) (m : SAddr) (la : Fin 16) : List W32 :=
  [word false e 2 op 7 d 63 la.val, BitVec.ofNat 32 (m.base.val * 2 ^ 26 + m.off.toNat)]

/-- The words of an A-format instruction (R51). -/
def aWords (e : Bool) (g : Guard) (op : Nat) (x : AArgs) : List W32 :=
  [word false e 2 op g.code x.d.val x.x.val x.v.val,
   BitVec.ofNat 32 (x.base.val * 2 ^ 26 + x.la.val * 2 ^ 22 + x.aop.code * 2 ^ 17 + x.wide.toNat * 2 ^ 15 + x.off.toNat)]

/-- The words of a C-format instruction (R53). -/
def cWords (e : Bool) (op : Nat) (x : CArgs) : List W32 :=
  [word false e 2 op 7 (4 * x.srec.val) (4 * x.drec.val) x.bar.val,
   BitVec.ofNat 32 (x.la.val * 2 ^ 28 + x.acq.toNat * 2 ^ 27 + x.rel.toNat * 2 ^ 26 + x.scope.code * 2 ^ 23 +
     (match x.cw with
      | some k => 2 ^ 22 + k.val * 2 ^ 16
      | none => 0))]

/-- The words of an instruction; an event has none. -/
def encode : Instr → List W32
  | .fadd h g d a b => vWords h g 0x00 d.val a.val b
  | .fsub h g d a b => vWords h g 0x01 d.val a.val b
  | .fmul h g d a b => vWords h g 0x02 d.val a.val b
  | .ffma h g d a b => vWords h g 0x03 d.val a.val b
  | .fmin h g d a b => vWords h g 0x04 d.val a.val b
  | .fmax h g d a b => vWords h g 0x05 d.val a.val b
  | .fneg h g d a => [word h.c h.e 0 0x06 g.code d.val a.val 0]
  | .fabs h g d a => [word h.c h.e 0 0x07 g.code d.val a.val 0]
  | .frcp h g d a => [word h.c h.e 0 0x08 g.code d.val a.val 0]
  | .frsq h g d a => [word h.c h.e 0 0x09 g.code d.val a.val 0]
  | .fex2 h g d a => [word h.c h.e 0 0x0A g.code d.val a.val 0]
  | .flg2 h g d a => [word h.c h.e 0 0x0B g.code d.val a.val 0]
  | .ftanh h g d a => [word h.c h.e 0 0x0C g.code d.val a.val 0]
  | .fcmpEq h g p a b => vWords h g 0x0D (2 * p.val) a.val b
  | .fcmpNe h g p a b => vWords h g 0x0E (2 * p.val) a.val b
  | .fcmpLt h g p a b => vWords h g 0x0F (2 * p.val) a.val b
  | .fcmpLe h g p a b => vWords h g 0x10 (2 * p.val) a.val b
  | .fcmpUn h g p a b => vWords h g 0x11 (2 * p.val) a.val b
  | .badd h g d a b => vWords h g 0x12 d.val a.val b
  | .bmul h g d a b => vWords h g 0x13 d.val a.val b
  | .bfma h g d a b => vWords h g 0x14 d.val a.val b
  | .cvt h g d a k => [word h.c h.e 0 0x15 g.code d.val a.val k.val]
  | .iadd h g d a b => vWords h g 0x16 d.val a.val b
  | .isub h g d a b => vWords h g 0x17 d.val a.val b
  | .imul h g d a b => vWords h g 0x18 d.val a.val b
  | .imulhiS h g d a b => vWords h g 0x19 d.val a.val b
  | .imulhiZ h g d a b => vWords h g 0x1A d.val a.val b
  | .imad h g d a b => vWords h g 0x1B d.val a.val b
  | .iminS h g d a b => vWords h g 0x1C d.val a.val b
  | .imaxS h g d a b => vWords h g 0x1D d.val a.val b
  | .iminZ h g d a b => vWords h g 0x1E d.val a.val b
  | .imaxZ h g d a b => vWords h g 0x1F d.val a.val b
  | .iand h g d a b => vWords h g 0x20 d.val a.val b
  | .ior h g d a b => vWords h g 0x21 d.val a.val b
  | .ixor h g d a b => vWords h g 0x22 d.val a.val b
  | .inot h g d a => [word h.c h.e 0 0x23 g.code d.val a.val 0]
  | .ishl h g d a b => vWords h g 0x24 d.val a.val b
  | .ishrZ h g d a b => vWords h g 0x25 d.val a.val b
  | .ishrS h g d a b => vWords h g 0x26 d.val a.val b
  | .ipopc h g d a => [word h.c h.e 0 0x27 g.code d.val a.val 0]
  | .iclz h g d a => [word h.c h.e 0 0x28 g.code d.val a.val 0]
  | .iaddsatS h g d a b => vWords h g 0x29 d.val a.val b
  | .icmpEq h g p a b => vWords h g 0x2A (2 * p.val) a.val b
  | .icmpNe h g p a b => vWords h g 0x2B (2 * p.val) a.val b
  | .icmpLtS h g p a b => vWords h g 0x2C (2 * p.val) a.val b
  | .icmpLeS h g p a b => vWords h g 0x2D (2 * p.val) a.val b
  | .icmpLtZ h g p a b => vWords h g 0x2E (2 * p.val) a.val b
  | .icmpLeZ h g p a b => vWords h g 0x2F (2 * p.val) a.val b
  | .sel h n p d a b => vWords h (if n then .neg p else .pos p) 0x30 d.val a.val b
  | .mov h g d b => vWords h g 0x31 d.val 0 b
  | .vbcast h g d a hi => [word h.c h.e 0 0x32 g.code d.val a.val hi.toNat]
  | .vlane h g d => [word h.c h.e 0 0x33 g.code d.val 0 0]
  | .shflIdx h g d a b => vWords h g 0x34 d.val a.val b
  | .shflXor h g d a b => vWords h g 0x35 d.val a.val b
  | .shflUp h g d a b => vWords h g 0x36 d.val a.val b
  | .shflDn h g d a b => vWords h g 0x37 d.val a.val b
  | .redfAdd h g d a => [word h.c h.e 0 0x38 g.code d.val a.val 0]
  | .rediAdd h g d a => [word h.c h.e 0 0x39 g.code d.val a.val 0]
  | .redfMax h g d a => [word h.c h.e 0 0x3A g.code d.val a.val 0]
  | .pand h g p a b => [word h.c h.e 0 0x3B g.code (2 * p.val) a.val b.val]
  | .por h g p a b => [word h.c h.e 0 0x3C g.code (2 * p.val) a.val b.val]
  | .pxor h g p a b => [word h.c h.e 0 0x3D g.code (2 * p.val) a.val b.val]
  | .pnot h g p a => [word h.c h.e 0 0x3E g.code (2 * p.val) a.val 0]
  | .ballot h g d a => [word h.c h.e 0 0x3F g.code (2 * d.val) a.val 0]
  | .sadd h d a b => sWords h.c h.e 1 0x00 d.val a.val b
  | .ssub h d a b => sWords h.c h.e 1 0x01 d.val a.val b
  | .smul h d a b => sWords h.c h.e 1 0x02 d.val a.val b
  | .sand h d a b => sWords h.c h.e 1 0x03 d.val a.val b
  | .sor h d a b => sWords h.c h.e 1 0x04 d.val a.val b
  | .sxor h d a b => sWords h.c h.e 1 0x05 d.val a.val b
  | .sshl h d a b => sWords h.c h.e 1 0x06 d.val a.val b
  | .sshrZ h d a b => sWords h.c h.e 1 0x07 d.val a.val b
  | .sshrS h d a b => sWords h.c h.e 1 0x08 d.val a.val b
  | .smov h d b => sWords h.c h.e 1 0x09 d.val 0 b
  | .smov64 h d lo hi => [word h.c h.e 1 0x0A 7 d.val 0 0, lo, hi]
  | .scmpEq h f a b => sWords h.c h.e 1 0x0B f.val a.val b
  | .scmpNe h f a b => sWords h.c h.e 1 0x0C f.val a.val b
  | .scmpLtS h f a b => sWords h.c h.e 1 0x0D f.val a.val b
  | .scmpLtZ h f a b => sWords h.c h.e 1 0x0E f.val a.val b
  | .scmpLeS h f a b => sWords h.c h.e 1 0x0F f.val a.val b
  | .scmpLeZ h f a b => sWords h.c h.e 1 0x10 f.val a.val b
  | .sbfi h d a b => sWords h.c h.e 1 0x11 d.val a.val b
  | .sbfx h d a b => sWords h.c h.e 1 0x12 d.val a.val b
  | .srds h d n => [word h.c h.e 1 0x13 7 d.val 0 n.val]
  | .swrs h t a => [word h.c h.e 1 0x14 7 t.code a.val 0]
  | .exsave h d l => [word h.c h.e 1 0x15 7 (2 * d.val) 0 l.toNat]
  | .exload h a => [word h.c h.e 1 0x16 7 0 (2 * a.val) 0]
  | .exelse h a => [word h.c h.e 1 0x1A 7 0 (2 * a.val) 0]
  | .exand h p => [word h.c h.e 1 0x17 7 0 0 p.val]
  | .exandn h p => [word h.c h.e 1 0x18 7 0 0 p.val]
  | .exif h d p => [word h.c h.e 1 0x19 7 (2 * d.val) 0 p.val]
  | .excnt h d l => [word h.c h.e 1 0x1B 7 d.val 0 l.toNat]
  | .br e off => [word false e 1 0x1C 7 0 0 0, off]
  | .bexz e off => [word false e 1 0x1D 7 0 0 0, off]
  | .bexnz e off => [word false e 1 0x1E 7 0 0 0, off]
  | .bf e f off => [word false e 1 0x1F 7 (8 * f.val) 0 0, off]
  | .bnf e f off => [word false e 1 0x20 7 (8 * f.val) 0 0, off]
  | .bri e a off => [word false e 1 0x21 7 0 a.val 0, off]
  | .call e d off => [word false e 1 0x22 7 0 0 d.val, off]
  | .loop e a off => [word false e 1 0x23 7 0 a.val 0, off]
  | .nop h => [word h.c h.e 1 0x24 7 0 0 0]
  | .ensJoin e d a => [word false e 1 0x25 7 d.val a.val 0]
  | .ensLeave e d a => [word false e 1 0x26 7 d.val a.val 0]
  | .ensNew e d => [word false e 1 0x27 7 d.val 0 0]
  | .ensFree e d a => [word false e 1 0x28 7 d.val a.val 0]
  | .timerset e a b => sWords false e 1 0x29 0 a.val b
  | .timerclr e => [word false e 1 0x2A 7 0 0 0]
  | .tret e => [word false e 1 0x2B 7 0 0 0]
  | .clock h d => [word h.c h.e 1 0x2C 7 d.val 0 0]
  | .cycles h d => [word h.c h.e 1 0x2D 7 d.val 0 0]
  | .yield e => [word false e 1 0x2E 7 0 0 0]
  | .exit e => [word false e 1 0x2F 7 0 0 0]
  | .lexit e => [word false e 1 0x30 7 0 0 0]
  | .ldg8z e g d m la => mWords e g 0x00 d.val m la
  | .ldg8s e g d m la => mWords e g 0x01 d.val m la
  | .ldg16z e g d m la => mWords e g 0x02 d.val m la
  | .ldg16s e g d m la => mWords e g 0x03 d.val m la
  | .ldg32 e g d m la => mWords e g 0x04 d.val m la
  | .ldg64 e g d m la => mWords e g 0x05 (2 * d.val) m la
  | .ldg128 e g d m la => mWords e g 0x06 (4 * d.val) m la
  | .stg8 e g d m la => mWords e g 0x07 d.val m la
  | .stg16 e g d m la => mWords e g 0x08 d.val m la
  | .stg32 e g d m la => mWords e g 0x09 d.val m la
  | .stg64 e g d m la => mWords e g 0x0A (2 * d.val) m la
  | .stg128 e g d m la => mWords e g 0x0B (4 * d.val) m la
  | .lds32 e g d m la => mWords e g 0x0C d.val m la
  | .lds64 e g d m la => mWords e g 0x0D (2 * d.val) m la
  | .lds128 e g d m la => mWords e g 0x0E (4 * d.val) m la
  | .sts32 e g d m la => mWords e g 0x0F d.val m la
  | .sts64 e g d m la => mWords e g 0x10 (2 * d.val) m la
  | .sts128 e g d m la => mWords e g 0x11 (4 * d.val) m la
  | .sld e d m la => msWords e 0x12 d.val m la
  | .sst e d m la => msWords e 0x13 d.val m la
  | .slds e d m la => msWords e 0x14 d.val m la
  | .ssts e d m la => msWords e 0x15 d.val m la
  | .xst32 e g d m la => mWords e g 0x16 d.val m la
  | .xst128 e g d m la => mWords e g 0x17 (4 * d.val) m la
  | .amog e g x => aWords e g 0x18 x
  | .amos e g x => aWords e g 0x19 x
  | .redg e g x => aWords e g 0x1A x
  | .pboard e d s la => [word false e 2 0x1B 7 (4 * d.val) s.val 0, BitVec.ofNat 32 (la.val * 2 ^ 28)]
  | .palight e d s la => [word false e 2 0x1C 7 (4 * d.val) s.val 0, BitVec.ofNat 32 (la.val * 2 ^ 28)]
  | .pread e d s la => [word false e 2 0x1D 7 (4 * d.val) s.val 0, BitVec.ofNat 32 (la.val * 2 ^ 28)]
  | .pwrite e d s la => [word false e 2 0x1E 7 (4 * d.val) s.val 0, BitVec.ofNat 32 (la.val * 2 ^ 28)]
  | .prmw e d s o la q w => [word false e 2 0x1F 7 (4 * d.val) s.val o.val,
      BitVec.ofNat 32 (la.val * 2 ^ 28 + q.code * 2 ^ 24 + w.val * 2 ^ 22)]
  | .barInit e a b => sWords false e 2 0x20 0 a.val b
  | .barArrive e d a b => sWords false e 2 0x21 d.val a.val b
  | .barExpect e a b => sWords false e 2 0x22 0 a.val b
  | .barWait e a b => sWords false e 2 0x23 0 a.val b
  | .barTest e d a b => sWords false e 2 0x24 d.val a.val b
  | .ebarArrive e d a b => sWords false e 2 0x25 d.val a.val b
  | .cpy e x => cWords e 0x26 x
  | .cpyg e x => cWords e 0x27 x
  | .pref e l m la => msWords e 0x28 l.toNat m la
  | .pin e d m la => msWords e 0x29 d.val m la
  | .unpin e m la => msWords e 0x2A 0 m la
  | .fence e sc => [word false e 2 0x2B 7 0 0 sc.code]
  | .mbxPost e d a b => [word false e 2 0x2C 7 d.val a.val (8 * b.val)]
  | .mbxTake e d a b => [word false e 2 0x2D 7 (8 * d.val) a.val b.val]
  | .mwait e a => [word false e 2 0x2E 7 0 a.val 0]
  | .oclaim e d => [word false e 3 0x00 7 d.val 0 0]
  | .orelease e d a => [word false e 3 0x01 7 d.val a.val 0]
  | .owrite e g s (.half hi v) => [word false e 3 0x02 g.code s.val (8 * v.val) hi.toNat]
  | .owrite e g s (.side v) => [word false e 3 0x02 g.code s.val v.val 2]
  | .oread e g s (.half hi v) => [word false e 3 0x03 g.code (8 * v.val) s.val hi.toNat]
  | .oread e g s (.side v) => [word false e 3 0x03 g.code v.val s.val 2]
  | .aclaim e d => [word false e 3 0x04 7 d.val 0 0]
  | .arelease e d a => [word false e 3 0x05 7 d.val a.val 0]
  | .mma e g x => [word false e 3 0x06 g.code x.acc.val x.aslot.val x.bslot.val,
      BitVec.ofNat 32 (x.la.val * 2 ^ 28 + 2 * x.fb.val * 2 ^ 22 + x.z.toNat * 2 ^ 21 + x.bd.toNat * 2 ^ 20)]
  | .mfence e d => [word false e 3 0x07 7 d.val 0 0]
  | .aswap e a => [word false e 3 0x08 7 0 a.val 0]
  | .ard e g d a b => [word false e 3 0x09 g.code (16 * d.val) a.val b.val]
  | .awr e g d a b => [word false e 3 0x0A g.code d.val (16 * a.val) b.val]
  | .azero e a => [word false e 3 0x0B 7 0 a.val 0]
  | .asts e a b => sWords false e 3 0x0C 0 a.val b
  | .tlbw e a b => sWords false e 3 0x10 0 (2 * a.val) b
  | .tlbr e d a => [word false e 3 0x11 7 (2 * d.val) a.val 0]
  | .tlbi e a m => [word false e 3 0x12 7 0 a.val m.code]
  | .frameq e d a => [word false e 3 0x13 7 d.val a.val 0]
  | .yieldres e d a b => [word false e 3 0x14 7 d.val a.val b.val]
  | .lossrd e d b => sWords false e 3 0x15 d.val 0 b
  | .lossclr e a => [word false e 3 0x16 7 0 a.val 0]
  | .resume e d a m => [word false e 3 0x17 7 d.val a.val m.code]
  | .suspend e d a => [word false e 3 0x18 7 d.val a.val 0]
  | .revive e d a b => sWords false e 3 0x19 d.val a.val b
  | .wraparm e a b => sWords false e 3 0x1A 0 (2 * a.val) b
  | .wrapdone e b => sWords false e 3 0x1B 0 0 b
  | .valid e a b => sWords false e 3 0x1C 0 a.val b
  | .trap e b => sWords false e 3 0x1D 0 0 b
  | .brk e => [word false e 3 0x1E 7 0 0 0]
  | .faultrd e d a => [word false e 3 0x1F 7 (8 * d.val) a.val 0]
  | .fstat e g d => [word false e 3 0x20 g.code d.val 0 0]
  | .cntcfg e a b => sWords false e 3 0x21 0 a.val b
  | .cntrd e d a => [word false e 3 0x22 7 d.val a.val 0]
  | .runArbitration _ _ => []
  | .tokenRefill => []
  | .slackRecompute => []
  | .placementOpportunity => []
  | .launchAcceptance _ => []
  | .troupeRetirement _ _ => []
  | .nodeEventPost _ _ => []
  | .launchDivert _ => []
  | .deadlineStop _ => []
  | .actDivert _ _ => []
  | .timerTrap _ _ => []
  | .watchdog => []
  | .missRetry _ _ => []
  | .serviceRequest _ _ => []
  | .atomicReturn _ _ => []
  | .processionPassage _ _ => []
  | .pboardExhausted _ _ => []
  | .processionOwnerChange _ => []
  | .copyChunk _ _ => []
  | .copyCompletion _ => []
  | .ensemblePhaseComplete _ => []
  | .mmaExecute _ => []
  | .mmaComplete _ => []
  | .aswapExecute _ => []
  | .visibleBankComplete _ _ => []
  | .noticePost _ => []
  | .noticeExpiry _ _ => []
  | .copyDrainTimeout _ => []
  | .create _ _ => []
  | .destroy _ => []
  | .bind _ _ => []
  | .revoke _ _ => []
  | .limitsTokenBudget _ _ => []
  | .limitsDways _ _ => []
  | .limitsPinQuota _ _ => []
  | .limitsMissQuota _ _ => []
  | .limitsRequestQuota _ _ => []
  | .limitsWatchdog _ _ => []
  | .limitsTimingFence _ _ => []
  | .limitsReservedCycles _ _ => []
  | .switch _ _ => []
  | .remote _ _ => []
  | .restart _ _ => []
  | .launch _ _ => []
  | .qWptrDoorbell _ _ _ => []
  | .queueStop _ _ => []
  | .queueRun _ _ _ => []
  | .feEntryWrite _ _ _ => []
  | .allocDoorbell _ _ => []
  | .registerWrite _ _ _ => []
  | .qnop _ => []
  | .qlaunch _ => []
  | .qprolog _ => []
  | .prologueRepeat _ _ => []
  | .prologueOverrun _ _ => []
  | .qpred _ => []
  | .qbarrier _ => []
  | .qbarrierEvaluation _ _ => []
  | .qsignal _ => []
  | .qcopy _ => []
  | .qpost _ => []
  | .qmark _ => []
  | .qdebug _ => []
  | .packetCompletion _ _ => []
  | .halt _ _ => []
  | .cont _ _ => []
  | .step _ _ _ => []
  | .read _ _ _ => []
  | .write _ _ _ _ => []
  | .barrd _ _ _ => []
  | .setbp _ _ _ => []
  | .setwp _ _ _ _ => []
  | .list _ => []
  | .counterOverflow _ _ => []
  | .hostBar2Access _ _ _ _ => []
  | .hostMemoryWrite _ _ _ => []
  | .remoteAccess _ _ _ _ => []
  | .flitReceive _ _ => []
  | .flitResend _ => []
  | .timeSyncInterval _ _ => []
  | .timeSourceLoss => []
  | .heatSample _ _ => []
  | .powerCheck _ _ => []
  | .junctionTrip _ => []
  | .hotReset => []
  | .linkDown => []
  | .getMeasurements _ _ _ => []
  | .challenge _ _ => []
  | .keyExchange _ _ => []
  | .finish _ _ => []
  | .ideKm _ _ => []
  | .lockInterface _ => []
  | .startInterface _ => []
  | .uncorrectableError _ => []
  | .memoryLinePoison _ => []
  | .integrityNodeError _ _ => []
  | .processionSlotPoison _ => []
  | .sliceAccessPerformed _ _ => []
  | .pcieCompletion _ _ => []
  | .exchangeWriteLands _ => []
  | .liveMigrationQuiesce _ => []
  | .qbarrierRearm _ _ => []
  | .negotiateAlgorithms _ _ _ _ _ => []
  | .getCertificate _ _ => []

/-- The row is an instruction with words, not an event. -/
def Instr.isWord (i : Instr) : Bool := !(encode i).isEmpty

end Sys2Proof
end

