-- ==== Sys2Proof/Machine/Regs.lean ====
section
/-! DEFINITION. Which vector and scalar registers each instruction reads and writes: for the check of register blocks
(R60), lookahead (R43 to R45) and poisoned registers (R429). -/

namespace Sys2Proof.Machine

/-- Registers by number: vector register n is n, scalar register n is 64 + n. -/
abbrev Regs := List Nat

/-- Consecutive vector registers. -/
def vRange (n k : Nat) : Regs := (List.range k).map (· + n)

/-- Consecutive scalar registers; a group that runs past s63 is illegal and never comes here. -/
def sRange (n k : Nat) : Regs := (List.range k).map (· + (64 + n))

/-- A scalar register. -/
def sNum (r : Reg) : Regs := [64 + r.val]

/-- An index register: 63 names none (R50). -/
def xNum (r : Reg) : Regs := if r.val = 63 then [] else [r.val]

/-- The registers of a vector second source. -/
def vbRegs : VSrc → Regs
  | .reg r => [r.val]
  | .lit _ => []

/-- The registers of a scalar second source. -/
def sbRegs : SSrc → Regs
  | .reg r => [64 + r.val]
  | .lit _ => []

/-- The registers that address a lane. -/
def mRegs (m : MAddr) : Regs := xNum m.x ++ sNum m.base

/-- The registers an A-format instruction reads (R51, R197). -/
def aReads (x : AArgs) : Regs :=
  xNum x.x ++ sNum x.base ++ vRange x.v.val ((if x.aop = .cas then 2 else 1) * (if x.wide then 2 else 1))

/-- The registers an A-format instruction writes: D = 63 names none (R51). -/
def aWrites (x : AArgs) : Regs := if x.d.val = 63 then [] else vRange x.d.val (if x.wide then 2 else 1)

/-- The registers a copy reads (R53). -/
def cReads (x : CArgs) : Regs :=
  sRange (4 * x.srec.val) 12 ++ sRange (4 * x.drec.val) 12 ++
  (if x.bar.val = 63 then [] else sNum x.bar) ++ (match x.cw with | some r => sRange r.val 2 | none => [])

/-- The conversions that write a part of d and so read it (R148, R149). -/
def cvtKeeps (code : Nat) : Bool :=
  code == 0x0B || code == 0x0D || (0x16 ≤ code && code ≤ 0x21) || (0x26 ≤ code && code ≤ 0x29)

/-- Registers read and registers written (R56 to R59): two lists for each instruction; an event has neither. -/
def regsOf : Instr → Regs × Regs
  | .fadd _ _ d a b | .fsub _ _ d a b | .fmul _ _ d a b | .fmin _ _ d a b | .fmax _ _ d a b | .badd _ _ d a b
  | .bmul _ _ d a b | .iadd _ _ d a b | .isub _ _ d a b | .imul _ _ d a b | .imulhiS _ _ d a b | .imulhiZ _ _ d a b
  | .iminS _ _ d a b | .imaxS _ _ d a b | .iminZ _ _ d a b | .imaxZ _ _ d a b | .iand _ _ d a b | .ior _ _ d a b
  | .ixor _ _ d a b | .ishl _ _ d a b | .ishrZ _ _ d a b | .ishrS _ _ d a b | .iaddsatS _ _ d a b
  | .shflIdx _ _ d a b | .shflXor _ _ d a b | .shflUp _ _ d a b | .shflDn _ _ d a b => (a.val :: vbRegs b, [d.val])
  | .sel _ _ _ d a b => (a.val :: vbRegs b, [d.val])
  | .ffma _ _ d a b | .bfma _ _ d a b | .imad _ _ d a b => (d.val :: a.val :: vbRegs b, [d.val])
  | .fneg _ _ d a | .fabs _ _ d a | .frcp _ _ d a | .frsq _ _ d a | .fex2 _ _ d a | .flg2 _ _ d a | .ftanh _ _ d a
  | .inot _ _ d a | .ipopc _ _ d a | .iclz _ _ d a => ([a.val], [d.val])
  | .redfAdd _ _ d a | .rediAdd _ _ d a | .redfMax _ _ d a => ([a.val], sNum d)
  | .cvt _ _ d a code => (a.val :: (if cvtKeeps code.val then [d.val] else []), [d.val])
  | .fcmpEq _ _ _ a b | .fcmpNe _ _ _ a b | .fcmpLt _ _ _ a b | .fcmpLe _ _ _ a b | .fcmpUn _ _ _ a b
  | .icmpEq _ _ _ a b | .icmpNe _ _ _ a b | .icmpLtS _ _ _ a b | .icmpLeS _ _ _ a b | .icmpLtZ _ _ _ a b
  | .icmpLeZ _ _ _ a b => (a.val :: vbRegs b, [])
  | .mov _ _ d b => (vbRegs b, [d.val])
  | .vbcast _ _ d a _ => (sNum a, [d.val])
  | .vlane _ _ d => ([], [d.val])
  | .ballot _ _ d _ => ([], sRange (2 * d.val) 2)
  | .sadd _ d a b | .ssub _ d a b | .smul _ d a b | .sand _ d a b | .sor _ d a b | .sxor _ d a b | .sshl _ d a b
  | .sshrZ _ d a b | .sshrS _ d a b | .sbfx _ d a b => (sNum a ++ sbRegs b, sNum d)
  | .sbfi _ d a b => (sNum d ++ sNum a ++ sbRegs b, sNum d)
  | .smov _ d b => (sbRegs b, sNum d)
  | .smov64 _ d _ _ => ([], sNum d)
  | .scmpEq _ _ a b | .scmpNe _ _ a b | .scmpLtS _ _ a b | .scmpLtZ _ _ a b | .scmpLeS _ _ a b | .scmpLeZ _ _ a b =>
    (sNum a ++ sbRegs b, [])
  | .srds _ d n => ([], if n.val = 16 then sRange d.val 2 else sNum d)
  | .swrs _ _ a => (sNum a, [])
  | .exsave _ d _ | .exif _ d _ => ([], sRange (2 * d.val) 2)
  | .exload _ a | .exelse _ a => (sRange (2 * a.val) 2, [])
  | .excnt _ d _ | .clock _ d | .cycles _ d => ([], sNum d)
  | .bri _ a _ => (sNum a, [])
  | .call _ d _ => ([], sNum d)
  | .loop _ a _ => (sNum a, sNum a)
  | .ensJoin _ d a | .ensLeave _ d a | .ensFree _ d a => (sNum a, sNum d)
  | .ensNew _ d => ([], sNum d)
  | .timerset _ a b => (sNum a ++ sbRegs b, [])
  | .ldg8z _ _ d m _ | .ldg8s _ _ d m _ | .ldg16z _ _ d m _ | .ldg16s _ _ d m _ | .ldg32 _ _ d m _
  | .lds32 _ _ d m _ => (mRegs m, [d.val])
  | .ldg64 _ _ d m _ | .lds64 _ _ d m _ => (mRegs m, vRange (2 * d.val) 2)
  | .ldg128 _ _ d m _ | .lds128 _ _ d m _ => (mRegs m, vRange (4 * d.val) 4)
  | .stg8 _ _ d m _ | .stg16 _ _ d m _ | .stg32 _ _ d m _ | .sts32 _ _ d m _ | .xst32 _ _ d m _ => (d.val :: mRegs m, [])
  | .stg64 _ _ d m _ | .sts64 _ _ d m _ => (vRange (2 * d.val) 2 ++ mRegs m, [])
  | .stg128 _ _ d m _ | .sts128 _ _ d m _ | .xst128 _ _ d m _ => (vRange (4 * d.val) 4 ++ mRegs m, [])
  | .sld _ d m _ | .slds _ d m _ | .pin _ d m _ => (sNum m.base, sNum d)
  | .sst _ d m _ | .ssts _ d m _ => (sNum d ++ sNum m.base, [])
  | .pref _ _ m _ | .unpin _ m _ => (sNum m.base, [])
  | .amog _ _ x | .amos _ _ x | .redg _ _ x => (aReads x, aWrites x)
  | .pboard _ d slot _ => (sRange (4 * d.val) 4, sNum slot)
  | .palight _ d slot _ | .pread _ d slot _ => (sNum slot, sRange (4 * d.val) 4)
  | .pwrite _ d slot _ => (sRange (4 * d.val) 4 ++ sNum slot, [])
  | .prmw _ d slot o _ op _ =>
    (sNum slot ++ sRange o.val (if op = .bnd ∨ op = .cas then 2 else 1), sRange (4 * d.val) 1)
  | .barInit _ a b | .barExpect _ a b | .barWait _ a b | .asts _ a b | .valid _ a b | .cntcfg _ a b =>
    (sNum a ++ sbRegs b, [])
  | .barArrive _ d a b | .barTest _ d a b | .ebarArrive _ d a b | .revive _ d a b => (sNum a ++ sbRegs b, sNum d)
  | .cpy _ x | .cpyg _ x => (cReads x, [])
  | .mbxPost _ d a b => (sNum a ++ sRange (8 * b.val) 7, sNum d)
  | .mbxTake _ d a b => (sNum a ++ (if b.val = 63 then [] else sNum b), sRange (8 * d.val) 8)
  | .mwait _ a | .aswap _ a | .azero _ a | .tlbi _ a _ | .lossclr _ a => (sNum a, [])
  | .oclaim _ d | .aclaim _ d | .mfence _ d => ([], sNum d)
  | .orelease _ d a | .arelease _ d a | .frameq _ d a | .yieldres _ d a _ | .resume _ d a _ | .suspend _ d a
  | .cntrd _ d a => (sNum a, sNum d)
  | .owrite _ _ slot (.half _ g) => (sNum slot ++ vRange (8 * g.val) 8, [])
  | .owrite _ _ slot (.side v) => (sNum slot ++ [v.val], [])
  | .oread _ _ slot (.half _ g) => (sNum slot, vRange (8 * g.val) 8)
  | .oread _ _ slot (.side v) => (sNum slot, [v.val])
  | .mma _ _ x => (sNum x.acc ++ sNum x.aslot ++ sNum x.bslot ++ sRange (2 * x.fb.val) 2, [])
  | .ard _ _ d a _ => (sNum a, vRange (16 * d.val) 16)
  | .awr _ _ acc v _ => (sNum acc ++ vRange (16 * v.val) 16, [])
  | .tlbw _ a b | .wraparm _ a b => (sRange (2 * a.val) 2 ++ sbRegs b, [])
  | .tlbr _ d a => (sNum a, sRange (2 * d.val) 2)
  | .lossrd _ d b => (sbRegs b, sNum d)
  | .wrapdone _ b | .trap _ b => (sbRegs b, [])
  | .faultrd _ d a => (sNum a, sRange (8 * d.val) 8)
  | .fstat _ _ d => ([], [d.val])
  | _ => ([], [])

/-- The vector registers an instruction names. -/
def vregsOf (i : Instr) : List Nat := ((regsOf i).1 ++ (regsOf i).2).filter (· < 64)

/-- The predicate that a guard reads. -/
def guardPreds : Guard → List Nat
  | .always => []
  | .pos p | .neg p => [p.val]

/-- The guard of an instruction that carries one; `sel` acts in `exec` alone (R36, R85). -/
def guardOf? : Instr → Option Guard
  | .fadd _ g .. | .fsub _ g .. | .fmul _ g .. | .ffma _ g .. | .fmin _ g .. | .fmax _ g .. | .fneg _ g .. | .fabs _ g ..
  | .frcp _ g .. | .frsq _ g .. | .fex2 _ g .. | .flg2 _ g .. | .ftanh _ g .. | .fcmpEq _ g .. | .fcmpNe _ g ..
  | .fcmpLt _ g .. | .fcmpLe _ g .. | .fcmpUn _ g .. | .badd _ g .. | .bmul _ g .. | .bfma _ g .. | .cvt _ g ..
  | .iadd _ g .. | .isub _ g .. | .imul _ g .. | .imulhiS _ g .. | .imulhiZ _ g .. | .imad _ g .. | .iminS _ g ..
  | .imaxS _ g .. | .iminZ _ g .. | .imaxZ _ g .. | .iand _ g .. | .ior _ g .. | .ixor _ g .. | .inot _ g ..
  | .ishl _ g .. | .ishrZ _ g .. | .ishrS _ g .. | .ipopc _ g .. | .iclz _ g .. | .iaddsatS _ g .. | .icmpEq _ g ..
  | .icmpNe _ g .. | .icmpLtS _ g .. | .icmpLeS _ g .. | .icmpLtZ _ g .. | .icmpLeZ _ g .. | .mov _ g ..
  | .vbcast _ g .. | .vlane _ g .. | .shflIdx _ g .. | .shflXor _ g .. | .shflUp _ g .. | .shflDn _ g ..
  | .redfAdd _ g .. | .rediAdd _ g .. | .redfMax _ g .. | .pand _ g .. | .por _ g .. | .pxor _ g .. | .pnot _ g ..
  | .ballot _ g .. | .ldg8z _ g .. | .ldg8s _ g .. | .ldg16z _ g .. | .ldg16s _ g .. | .ldg32 _ g .. | .ldg64 _ g ..
  | .ldg128 _ g .. | .stg8 _ g .. | .stg16 _ g .. | .stg32 _ g .. | .stg64 _ g .. | .stg128 _ g .. | .lds32 _ g ..
  | .lds64 _ g .. | .lds128 _ g .. | .sts32 _ g .. | .sts64 _ g .. | .sts128 _ g .. | .xst32 _ g .. | .xst128 _ g ..
  | .amog _ g .. | .amos _ g .. | .redg _ g .. | .owrite _ g .. | .oread _ g .. | .mma _ g .. | .ard _ g ..
  | .awr _ g .. | .fstat _ g .. => some g
  | .sel .. => some .always
  | _ => none

/-- The shuffles, the reductions and `ballot`: class 0 instructions that look across lanes (R390). -/
def crossLane : Instr → Bool
  | .shflIdx .. | .shflXor .. | .shflUp .. | .shflDn .. | .redfAdd .. | .rediAdd .. | .redfMax .. | .ballot .. => true
  | _ => false

/-- A class 0 instruction (R20). -/
def isVector (i : Instr) : Bool := (encode i).headD 0 >>> 28 &&& 3 == 0 && i.isWord

/-- A class 2 instruction of the M or A format with guard kind Lane (R58). -/
def isLaneMemory : Instr → Bool
  | .ldg8z .. | .ldg8s .. | .ldg16z .. | .ldg16s .. | .ldg32 .. | .ldg64 .. | .ldg128 .. | .stg8 .. | .stg16 ..
  | .stg32 .. | .stg64 .. | .stg128 .. | .lds32 .. | .lds64 .. | .lds128 .. | .sts32 .. | .sts64 .. | .sts128 ..
  | .xst32 .. | .xst128 .. | .amog .. | .amos .. | .redg .. => true
  | _ => false

/-- A member that a debug step takes lane by lane (R390). -/
def laneSteppable (i : Instr) : Bool := (isVector i && !crossLane i) || isLaneMemory i

/-- C = 1: the next instruction word belongs to the same chain (R28, R37). -/
def chains (i : Instr) : Bool := ((encode i).headD 0).getLsbD 31

/-- The class of an instruction, which is that of its pipe (R20, R37). -/
def classOf (i : Instr) : Nat := ((encode i).headD 0).toNat / 2 ^ 28 % 4

/-! ## Protected words of slot state (R429) -/

/-- The special registers that an instruction reads, by number (R103). -/
def specialsOf : Instr → List Nat
  | .srds _ _ n => [n.val]
  | .tret _ => [13]
  | .mma .. | .mfence .. => [17]
  | .fstat .. | .exit .. | .lexit .. | .barWait .. => [15]
  | i => if isLaneMemory i then [16] else if isVector i then [14] else []

/-- Predicates read and predicates written. -/
def predsOf : Instr → List Nat × List Nat
  | .fcmpEq _ g p .. | .fcmpNe _ g p .. | .fcmpLt _ g p .. | .fcmpLe _ g p .. | .fcmpUn _ g p .. | .icmpEq _ g p ..
  | .icmpNe _ g p .. | .icmpLtS _ g p .. | .icmpLeS _ g p .. | .icmpLtZ _ g p .. | .icmpLeZ _ g p .. =>
    (guardPreds g, [p.val])
  | .pand _ g d a b | .por _ g d a b | .pxor _ g d a b => (guardPreds g ++ [a.val, b.val], [d.val])
  | .pnot _ g d a => (guardPreds g ++ [a.val], [d.val])
  | .ballot _ g _ a => (guardPreds g ++ [a.val], [])
  | .sel _ _ p .. => ([p.val], [])
  | .exand _ p | .exandn _ p | .exif _ _ p => ([p.val], [])
  | i => (((guardOf? i).map guardPreds).getD [], [])

/-- The words of slot state that hold a special register. The protected words are numbered as the eight-byte words of a
troupe image (R345). -/
def specialWords (n : Nat) : List Nat :=
  match n with
  | 0 | 1 | 5 => [160]
  | 7 => [163, 167]
  | 9 => [138]
  | 10 => [139]
  | 11 => [135]
  | 12 => [136]
  | 13 => [137]
  | 14 => [140]
  | 15 => vRange 144 16
  | 16 => [132, 133]
  | 17 => [141]
  | _ => []

/-- The special register that a word of slot state belongs to. -/
def wordSpecial (k : Nat) : Option Nat := (vRange 9 9).find? fun n => (specialWords n).contains k

/-- Masks and other slot state that an instruction reads, by word: every instruction the program counter and what the
troupe is (R429; log 77). -/
def otherWords (i : Instr) : List Nat :=
  [134, 143, 160] ++
  (match i with
   | .exsave _ _ live | .excnt _ _ live => if live then [130, 131] else [128, 129]
   | .exload .. => [130, 131]
   | .exand .. | .exandn .. | .exif .. | .exelse .. | .bexz .. | .bexnz .. => [128, 129]
   | .exit .. | .lexit .. => [128, 129, 130, 131]
   | .mwait .. => [142]
   | .wraparm .. | .wrapdone .. => vRange 163 5
   | .ensJoin .. | .ensLeave .. | .ensNew .. | .ensFree .. | .ebarArrive .. | .xst32 .. | .xst128 .. => [168, 169]
   | _ => []) ++
  (if (guardOf? i).isSome then [128, 129] else []) ++ (if vregsOf i = [] then [] else [161]) ++
  if classOf i = 2 then [162] else []

/-- Both words of a predicate. -/
def predWords (p : Nat) : List Nat := [64 + 2 * p, 65 + 2 * p]

/-- The words of slot state that an instruction reads. -/
def wordsOf (i : Instr) : List Nat :=
  ((regsOf i).1.filter (64 ≤ ·)).map (· - 64) ++ (predsOf i).1.flatMap predWords ++ (specialsOf i).flatMap specialWords ++
  otherWords i

/-- The words of slot state that an instruction which acts in some lanes writes whole. -/
def wordsWritten (i : Instr) (lanes : Mask) : List Nat :=
  let halves := (if lanes.toNat % 2 ^ 64 = 2 ^ 64 - 1 then [0] else []) ++ if 2 ^ 64 - 1 ≤ lanes.toNat / 2 ^ 64 then [1] else []
  ((regsOf i).2.filter (64 ≤ ·)).map (· - 64) ++ (predsOf i).2.flatMap (fun p => halves.map (64 + 2 * p + ·)) ++
  match i with
  | .exload .. => [128, 129]
  | .swrs _ .timerent _ => [136]
  | .swrs _ .trappc _ => [137]
  | .swrs _ .fpctl _ => [140]
  | .timerset .. | .timerclr .. => [135]
  | _ => []

end Sys2Proof.Machine
end

