-- ==== Sys2Proof/Machine/Issue.lean ====
section
/-! DEFINITION. Fetch, decode and issue: a turn of an issue slot (R28 to R47, R60, R61, R84, R86, R90, R387, R390, R429). -/

namespace Sys2Proof.Machine

/-! ## Fetch (R30 to R32) -/

/-- Where a word of code stands. -/
inductive WordAt where
  | bad (cause : Nat)
  | miss
  /-- In the host's or a peer's memory. -/
  | far (pa : Nat)
  | here (pa : Nat) (w : W32)
  deriving DecidableEq, Repr

/-- Why a chain cannot be fetched and decoded now. -/
inductive Stop where
  | fault (cause access : Nat) (va : W64)
  | miss (va : W64)
  | wait
  deriving DecidableEq, Repr

/-- An instruction of a chain: its word index and its length in words. -/
structure Member where
  instr : Instr
  pos : W32
  len : Nat
  deriving DecidableEq, Repr

/-- The virtual address of the word at an index (R30). -/
def State.wordVa (s : State) (t : Troupe) (i : W32) : W64 := w64 ((s.launch t.launch).code + 4 * i.toNat)

/-- Translate the word at an index as a fetch, which needs execute permission (R30, R184). -/
def State.wordAt (s : State) (t : Troupe) (i : W32) : WordAt :=
  match s.checkVa t.core t.world { bytes := 4, x := true, access := 4 } (s.wordVa t i) with
  | .bad _ c => .bad c
  | .miss => .miss
  | .ok pa _ => if inModule pa then .here pa (w32 (leNat (s.memRead pa 4))) else .far pa

/-- Code that the host or a peer has answered: the address, and the words from there or the cause of a refusal. -/
abbrev FarCode := List (Nat × Except Nat (List W32))

/-- The word at an address, if it has been answered. -/
def FarCode.word (far : FarCode) (pa : Nat) : Option (Except Nat W32) :=
  far.findSome? fun x =>
    match x.2 with
    | .error c => if x.1 ≤ pa ∧ pa < x.1 + 12 then some (.error c) else none
    | .ok ws => if x.1 ≤ pa ∧ pa < x.1 + 4 * ws.length then some (.ok (ws.getD ((pa - x.1) / 4) 0)) else none

/-- The word indices of a packet (R32). -/
def packetWords (p : Nat) : List W32 := ((List.range 3).filter fun j => 3 * p + j < 2 ^ 32).map fun j => w32 (3 * p + j)

/-- The packets from which a chain at the program counter takes its words: its own, and the next, which may hold
extension and literal words (R39). -/
def codePackets (pc : W32) : List Nat := let p := pc.toNat / 3; [p, if p = (2 ^ 32 - 1) / 3 then 0 else p + 1]

/-- Join ranges that lie side by side in one 4 KiB page. -/
def joinPieces : List (Nat × Nat) → List (Nat × Nat)
  | [] => []
  | x :: rest =>
    match joinPieces rest with
    | y :: ys => if x.1 + x.2 = y.1 ∧ x.1 / 4096 = y.1 / 4096 then (x.1, x.2 + y.2) :: ys else x :: y :: ys
    | [] => [x]

/-- The pieces of a packet at the host or at a peer: one, or two where a page ends in it (R32). -/
def State.piecesOf (s : State) (t : Troupe) (p : Nat) : List (Nat × Nat) :=
  joinPieces ((packetWords p).filterMap fun i => match s.wordAt t i with | .far pa => some (pa, 4) | _ => none)

/-- What a chain's packets hold at the host or at a peer (R31, R32; log 75). -/
def State.farPieces (s : State) (t : Troupe) : List LaneOp :=
  (codePackets t.pc).flatMap fun p => (s.piecesOf t p).map fun x => { lane := 0, va := 0, pa := x.1, x := w64 x.2 }

/-- Packets of a chain that lie in several pieces, one of them at the host or a peer: reading them takes several
accesses (R31). -/
def State.splitPackets (s : State) (t : Troupe) : List Nat :=
  (codePackets t.pc).filter fun p =>
    let here := (packetWords p).any fun i => match s.wordAt t i with | .here _ _ => true | _ => false
    decide (2 ≤ (s.piecesOf t p).length + b2n here) && !(s.piecesOf t p).isEmpty

/-- What that code holds, once all is answered; a refused piece carries its cause, and one whose binding is moving is
asked for again (R187, R172). -/
def State.askFar (s : State) (t : Troupe) : State × Option FarCode :=
  let os := s.farPieces t
  let mine := s.ext.filter fun x => x.opId == agentOp (fetchOp t)
  let clear : State := { s with ext := s.ext.filter fun x => x.opId != agentOp (fetchOp t) }
  let moving := mine.filter fun x => x.reply == some .retry
  if os.isEmpty then (s, some [])
  else if !(os.all fun o => mine.any fun x => x.pa == o.pa) then (clear.askAgent (fetchOp t) t.world 1 os, none)
  else if mine.any fun x => x.reply.isNone then (s, none)
  else if !moving.isEmpty then
    (({ s with ext := s.ext.filter fun x => !moving.contains x } : State).askAgent (fetchOp t) t.world 1
      (os.filter fun o => moving.any fun x => x.pa == o.pa), none)
  else
    (clear, some (mine.map fun x =>
      (x.pa, if x.reply == some .refused then .error (if x.peer.isNone then 3 else 4)
        else .ok ((List.range (x.bytes.length / 4)).map fun j => w32 (leNat ((x.bytes.drop (4 * j)).take 4))))))

/-- The words of a packet that can be fetched, as they are now (R32). -/
def State.packetNow (s : State) (t : Troupe) (far : FarCode) (p : Nat) : List (Nat × W32) :=
  (packetWords p).filterMap fun i =>
    match s.wordAt t i with
    | .here pa w => some (pa, w)
    | .far pa => (match far.word pa with | some (.ok w) => some (pa, w) | _ => none)
    | _ => none

/-- The code of a chain's packets outside the module. A packet that lies in several pieces is read until two readings
agree word for word, so that its words are those of one moment (R31; DESIGN CHOICE, log 75). -/
def State.fetchFar (s : State) (t : Troupe) : State × Option FarCode :=
  match s.askFar t with
  | (s, none) => (s, none)
  | (s, some far) =>
    let now := (s.splitPackets t).flatMap (s.packetNow t far)
    let last := (s.launch t.launch).reading.find t.uid
    let keep (f : Table (List (Nat × W32)) → Table (List (Nat × W32))) : State :=
      s.modLaunch t.launch fun l => { l with reading := f l.reading }
    if now.isEmpty then (s, some far)
    else if last = some now then (keep fun r => r.del t.uid, some far)
    else (keep fun r => r.put t.uid now, none)

/-- The words of a packet as they were when the launch last fetched it; in module memory, as they were at its
placement if it has not (R31). -/
def Launch.packetOld (l : Launch) (p : Nat) (now : List (Nat × W32)) : List (Nat × W32) :=
  l.fetched.get p (now.map fun x => if inModule x.1 then (x.1, w32 (leNat (l.codeMem.read x.1 4))) else x)

/-- A packet is fetched: where it has changed since the launch last fetched it, or was placed, as the old or as the new
words, all three alike, and no rule says which (R31). -/
def State.openPacket (s : State) (t : Troupe) (far : FarCode) (p : Nat) : State :=
  let now := s.packetNow t far p
  let old := (s.launch t.launch).packetOld p now
  let keep (ws : List (Nat × W32)) (s : State) : State :=
    s.modLaunch t.launch fun l => { l with fetched := l.fetched.put p ws }
  if old = now ∨ !(now.all fun x => old.any fun y => y.1 == x.1) then keep now s
  else
    let (b, s) := (Config.freeBit s.book.fresh, s.modBook fun k => { k with fresh := k.fresh + 1 })
    keep (if b then old else now) s

/-- The packets of a chain are fetched. -/
def State.openPackets (s : State) (t : Troupe) (far : FarCode) : State :=
  (codePackets t.pc).foldl (fun s p => s.openPacket t far p) s

/-- The word at an index as it is fetched. -/
def State.codeWord (s : State) (t : Troupe) (far : FarCode) (i : W32) : Except Stop W32 :=
  let fetched (pa : Nat) : Option W32 :=
    (((s.launch t.launch).fetched.get (i.toNat / 3) []).find? fun x => x.1 == pa).map (·.2)
  match s.wordAt t i with
  | .bad c => .error (.fault c 4 (s.wordVa t i))
  | .miss => .error (.miss (s.wordVa t i))
  | .far pa =>
    match far.word pa with
    | some (.ok w) => .ok ((fetched pa).getD w)
    | some (.error c) => .error (.fault c 4 (s.wordVa t i))
    | none => .error .wait
  | .here pa w => .ok ((fetched pa).getD w)

/-! ## Decode of a chain (R37 to R39, R60, R61) -/

/-- The illegal-instruction fault for the word at an index (R61). -/
def State.illegal (s : State) (t : Troupe) (i : W32) : Except Stop Member := .error (.fault 1 0 (s.wordVa t i))

/-- Fetch and decode the instruction at a word index, taking words as the decoder asks for them. Where a later word
misses or may not be executed and the instruction is illegal as well, no rule gives an order: the words are fetched
first, as far as the decoder asks for them (R60; DESIGN CHOICE, log 76). -/
def State.memberAt (s : State) (t : Troupe) (far : FarCode) (i : W32) : Except Stop Member :=
  match s.codeWord t far i with
  | .error e => .error e
  | .ok w =>
    match decode [w] with
    | .ok (x, n) => .ok ⟨x, i, n⟩
    | .error .truncated =>
      (match s.codeWord t far (i + 1) with
       | .error e => .error e
       | .ok y =>
         match decode [w, y] with
         | .ok (x, n) => .ok ⟨x, i, n⟩
         | .error .truncated =>
           (match s.codeWord t far (i + 2) with
            | .error e => .error e
            | .ok z =>
              match decode [w, y, z] with
              | .ok (x, n) => .ok ⟨x, i, n⟩
              | .error _ => s.illegal t i)
         | .error _ => s.illegal t i)
    | .error _ => s.illegal t i

/-- Fetch and decode a chain: at most three members, within one packet (R39), naming only registers of the troupe's
blocks (R60). A member's fault comes before those of the members behind it, a miss among them (DESIGN CHOICE, log
76). -/
def State.chainAt (s : State) (t : Troupe) (far : FarCode) (i : W32) : Nat → Except Stop (List Member)
  | 0 => .ok []
  | n + 1 =>
    match s.memberAt t far i with
    | .error e => .error e
    | .ok m =>
      if (vregsOf m.instr).any (8 * t.blocks.length ≤ ·) then .error (.fault 1 0 (s.wordVa t i))
      else if !chains m.instr then .ok [m]
      else
        let j := i + w32 m.len
        if j.toNat / 3 ≠ i.toNat / 3 then .error (.fault 1 0 (s.wordVa t i))
        else match s.chainAt t far j n with
          | .error e => .error e
          | .ok ms => .ok (m :: ms)

/-- Words of a chain, extension and literal words included (R42). -/
def chainLen (ms : List Member) : Nat := (ms.map (·.len)).foldl (· + ·) 0

/-- Micro-buffer copies that the fetch of a chain used (R182). -/
def State.touchCode (s : State) (t : Troupe) (ms : List Member) : State :=
  let is := ms.flatMap fun m => (List.range m.len).map fun j => m.pos + w32 j
  let ways := is.filterMap fun i => (s.cluster (clusterOf t.core)).lookup t.world (s.wordVa t i).toNat
  (nub (ways.map fun x => 16 * x.1 + x.2)).foldl (fun s k => s.touchUtlb t.core t.world (k / 16, k % 16)) s

/-! ## Lookahead (R43 to R45) -/

/-- The registers that an issued operation is still to write; a part of an atomic instruction writes none (R187). -/
def State.targets (s : State) (t : Troupe) (o : Op) : Regs :=
  if o.part then [] else match o.kind with
  | .load n _ d => vRange d ((n + 3) / 4)
  | .sload d => [64 + d]
  | .atomic _ wide (some d) => vRange d (if wide then 2 else 1)
  | .ring true =>
    (match (s.core t.core).stopQ.find? fun x => x.id == o.id with
     | none => []
     | some x => match x.kind with
       | 0 => [64 + x.sd]
       | 1 | 2 => sRange x.d 4
       | _ => [64 + x.d])
  | _ => []

/-- The scalar register that a release of the troupe is still to write (R211, R260, R283). -/
def Op.releaseTarget (o : Op) : Regs :=
  match o.kind with
  | .post d | .arrive _ _ d | .mpost _ _ d => [64 + d]
  | _ => []

/-- The chain uses the result of a release that is not there yet: it waits for it as a source that is not ready (R84).
-/
def Troupe.needsRelease (t : Troupe) (ms : List Member) : Bool :=
  let used := ms.flatMap fun m => (regsOf m.instr).1 ++ (regsOf m.instr).2
  t.ops.any fun o => o.releaseTarget.any used.contains

/-- Some operation that is not complete has a window that ends before the last member of the chain (R43). -/
def State.gated (s : State) (t : Troupe) (ms : List Member) : Bool :=
  t.ops.any fun o => !(s.targets t o).isEmpty && decide (o.la < ms.length)

/-- Operations whose promise the chain breaks (R43, R45). -/
def State.broken (s : State) (t : Troupe) (ms : List Member) : List Nat :=
  let used := ms.flatMap fun m => (regsOf m.instr).1 ++ (regsOf m.instr).2
  (t.ops.filter fun o => (s.targets t o).any used.contains).map (·.id)

/-! ## Poisoned registers (R429) -/

/-- The lanes of vector registers that an instruction reads, as the troupe stands before the chain. -/
def State.lanesRead (s : State) (i : Instr) : Mask :=
  match i with
  | .shflIdx .. | .shflXor .. | .shflUp .. | .shflDn .. => BitVec.allOnes 128
  | _ =>
    match guardOf? i with
    | none => BitVec.allOnes 128
    | some g => if isLaneMemory i then s.effective g &&& ~~~ s.src.sp.replay else s.effective g

/-- The first poisoned state that an instruction reads: lanes and virtual address of the fault. Slot state comes before
vector registers, where no rule gives an order (DESIGN CHOICE, log 77). -/
def State.poisonRead (s : State) (i : Instr) : Option (Mask × W64) :=
  let t := s.src
  match (if t.ctl.sPoison.isEmpty then none else (wordsOf i).find? fun k => t.ctl.sPoison.contains k) with
    | some k => some (t.live, match wordSpecial k with | some n => w64 (0x100 + n) | none => ones64)
    | none =>
      let m := s.lanesRead i
      let hit := t.ctl.vPoison.filter fun x => (regsOf i).1.contains x.1 && inMask m x.2
      match least (fun x => x.1) hit with
      | none => none
      | some x => some (maskOf fun l => hit.any fun y => y.1 == x.1 && y.2 == l, w64 x.1)

/-- What is written whole is no longer poisoned. -/
def State.unpoison (s : State) (m : Member) (c : Ctl) : Ctl :=
  let lanes := match guardOf? m.instr with | some g => s.effective g | none => BitVec.allOnes 128
  { c with vPoison := c.vPoison.filter fun x => !((regsOf m.instr).2.contains x.1 && inMask lanes x.2)
           sPoison := c.sPoison.filter fun k => !(wordsWritten m.instr lanes).contains k }

/-! ## Breakpoints and steps (R387, R390) -/

/-- The enabled breakpoint that matches the troupe's program counter. -/
def State.breakpoint (s : State) (t : Troupe) : Option Nat :=
  if !(s.launch t.launch).debug ∨ t.ctl.exempt then none
  else findBelow 4 fun n =>
    let b := (s.world t.world).bkpt.get n 0
    bit b 45 && fld b 31 0 == t.pc.toNat && (bit b 44 || fld b 43 32 == t.launch)

/-- The lanes in which the lane-steppable members of a chain would still act (R390). -/
def State.stepLanes (s : State) (ms : List Member) : Mask :=
  (ms.filter fun m => laneSteppable m.instr).foldl
    (fun k m => k ||| (s.effective ((guardOf? m.instr).getD .always) &&& ~~~ s.src.sp.replay)) 0

/-! ## Execution and accounts (R37, R86, R90, R376) -/

/-- Execute the members of a chain in order: all read the troupe as it stood before the chain (R37). `keep` restricts a
lane-steppable member to lanes, and says whether troupe-level members act (R390). -/
def State.runChain (s : State) (keep : Option (Mask × Bool)) : List Member → Res
  | [] => .next s
  | m :: ms =>
    let lanes := match keep with | some (k, _) => if laneSteppable m.instr then some k else none | none => none
    let acts := match keep with | some (_, all) => all || laneSteppable m.instr | none => true
    if !acts then s.runChain keep ms
    else match exec m.instr (s.modBook fun b => { b with lanes := lanes }) with
      | .next s => s.runChain keep ms
      | r => r

/-- Cycles in which a chain issues: members of one pipe issue one after the other (R37). -/
def chainCycles (ms : List Member) : Nat :=
  (List.range 4).foldl (fun n c => max n (ms.filter fun m => classOf m.instr == c).length) 1

/-- Beats of a chain's vector members, executed and in all (R85). -/
def State.chainBeats (s : State) (ms : List Member) : Nat × Nat :=
  (ms.filter fun m => isVector m.instr).foldl
    (fun n m => (n.1 + beats (s.effective ((guardOf? m.instr).getD .always)), n.2 + 8)) (0, 0)

/-- The events of cycles, words and beats of a run are counted (R376). -/
def State.countRun (s : State) (t : Troupe) (cycles words : Nat) (beats : Nat × Nat) : State :=
  (((s.count t.world 1 t.core cycles).count t.world 2 t.core words).count t.world 5 t.core beats.1).count t.world 6 t.core
    (beats.2 - beats.1)

/-- Issue cycles of a troupe: its own, its launch's and its act's (R86, R87, R119). -/
def State.spend (s : State) (t : Troupe) (n : Nat) : State :=
  let s := s.modTroupe t.key fun x =>
    if x.uid = t.uid then
      { x with ctl := { x.ctl with cycles := x.ctl.cycles + n }
               act := if x.act.armed && t.act.armed then { x.act with used := x.act.used + n } else x.act }
    else x
  s.modLaunch t.launch fun l => { l with used := l.used + n }

/-- A cycle of a run in which nothing issues (R86, R376). -/
def State.idleCycle (s : State) (t : Troupe) : State :=
  ((s.spend t 1).count t.world 1 t.core 1).count t.world 0x14 t.core 1

/-- Words issued: the run's, and the world's tokens (R42, R90). -/
def State.charge (s : State) (t : Troupe) (n : Nat) : State :=
  let i := t.tslot % 4
  let s := s.modCore t.core fun c =>
    let sl := c.islots.get i {}
    if sl.holder = some t.tslot then { c with islots := c.islots.put i { sl with words := sl.words + n } } else c
  s.modWorld t.world fun w =>
    { w with limits := { w.limits with balance := w.limits.balance.put t.core (w.limits.balance.get t.core 0 - n) } }

/-- Something has issued on the slot in this cycle. -/
def State.markIssued (s : State) (core islot : Nat) : State :=
  s.modCore core fun c => { c with islots := c.islots.put islot { c.islots.get islot {} with issued := true } }

/-- The troupe's cycle goes by without an instruction that issues; it is a cycle of its run if that has begun (R41, R86;
log 42). -/
def State.idle (s : State) (t : Troupe) : State :=
  (if s.book.begun then s.idleCycle t else s).markIssued t.core (t.tslot % 4)

/-- A run ends, if the troupe still holds the slot. -/
def State.cutRun (s : State) (t : Troupe) : State :=
  if s.holding t then (s.dropHold t.core t.tslot).boundary t.key else s

/-- A chain arms an act: its own cycle is not one of the act's (R87, R363). -/
def armsAct (ms : List Member) : Bool := ms.any fun m => match m.instr with | .wraparm .. => true | _ => false

/-- The instruction did not issue: the troupe waits for room, or halted before it (R183, R275, R388). -/
def heldBack (t t' : Troupe) : Bool :=
  t'.ctl.wait == .missRoom || (match t'.ctl.wait with | .exchange _ => true | _ => false) ||
  (t'.ctl.debug && !t.ctl.debug && t'.pc == t.pc)

/-- What an issued chain leaves in its troupe: windows are shorter, exemptions used, and a replay is over unless the
troupe parked or halted (R43, R188, R386), also of an instruction that acted in no lane (DESIGN CHOICE, log 78). -/
def Troupe.afterIssue (t : Troupe) (before : Troupe) (n : Nat) : Troupe :=
  let old := before.ops.map (·.id)
  let parked := match t.ctl.wait with | .parked _ => true | _ => false
  let done := t.ctl.replayPc == some before.pc && !parked && !t.ctl.halted
  { t with
    ops := t.ops.map fun o => if old.contains o.id then { o with la := o.la - n } else o
    sp := if done then { t.sp with replay := 0 } else t.sp
    ctl := { t.ctl with exempt := false, replayPc := if done then none else t.ctl.replayPc } }

/-- The end of a partial step: the lanes that acted are in %replay, and the program counter stays (R390). -/
def Troupe.partialStep (t before : Troupe) (acted : Mask) : Troupe :=
  match t.ctl.wait with
  | .no =>
    { t with pc := before.pc, sp := { t.sp with replay := before.sp.replay ||| acted }
             ctl := { t.ctl with replayPc := some before.pc } }
  | _ => t

/-- The chain has not issued. -/
def State.unissued (s : State) (t : Troupe) : Bool :=
  match s.requester t.key t.uid with
  | none => false
  | some t' => t'.ctl.stalled || heldBack t t'

/-- A step is over: the troupe is halted again, at once or, behind a Procession or matrix instruction, when that is
performed (R250, R318, R390). -/
def State.stepOver (s : State) (t : Troupe) : Troupe :=
  let now := s.haltReady t
  { t with ctl := { t.ctl with stepReq := none, exempt := false, debug := now, haltReq := !now } }

/-- Questions of admission that an instruction has put (R187; log 64). -/
def State.dropQueries (s : State) (uid : Nat) : State :=
  { s with ext := s.ext.filter fun x => !(x.uid == uid && x.errand == Errand.query) }

/-- What stands when a chain has executed: its accounts, and the end of a run that is full or was a step. -/
def State.finish (s : State) (t : Troupe) (ms : List Member) (part : Option Mask) : State :=
  let s := s.modBook fun b => { b with chain := none, lanes := none }
  match s.requester t.key t.uid with
  | none => s.markIssued t.core (t.tslot % 4)
  | some t' =>
    if t'.ctl.stalled then s
    else if heldBack t t' then (s.dropQueries t.uid).idle t
    else
      let n := chainLen ms
      let s := s.dropQueries t.uid
      let t' := t'.afterIssue t ms.length
      let t' := if t'.ctl.halted then t' else { t' with ctl := ms.foldl (fun c m => (s.setMe t).unpoison m c) t'.ctl }
      let t' := match part with | some a => t'.partialStep t a | none => t'
      let t' := if t.ctl.stepReq.isSome then s.stepOver t' else t'
      let s := ((s.putTroupe t').charge t n).spend (if armsAct ms then { t with act := {} } else t) (chainCycles ms)
      let s := s.markIssued t.core (t.tslot % 4)
      let full := decide (24 ≤ ((s.core t.core).islots.get (t.tslot % 4) {}).words)
      if t.ctl.stepReq.isSome then s.dropHold t.core t.tslot else if full then s.cutRun t' else s

/-- What a chain counts as issued, if it has. -/
def State.countIssue (s : State) (t : Troupe) (ms : List Member) (beats : Nat × Nat) : State :=
  if s.unissued t then s else s.countRun t (chainCycles ms) (chainLen ms) beats

/-- The chain holds a `cntcfg`, whose own words and cycle are no events under what it writes (R382). -/
def setsCounter (ms : List Member) : Bool := ms.any fun m => match m.instr with | .cntcfg .. => true | _ => false

/-! ## A turn of an issue slot -/

/-- The troupe as it stands when it is about to issue: %replay of an abandoned instruction is cleared (R188). -/
def Troupe.poised (t : Troupe) : Troupe :=
  if t.ctl.replayPc = some t.pc then t
  else { t with sp := { t.sp with replay := 0 }, ctl := { t.ctl with replayPc := none, gathered := [] } }

/-- The run of the troupe that holds its slot has begun: it has issued some word (R41). -/
def State.runBegun (s : State) (t : Troupe) : Bool := decide (((s.core t.core).islots.get (t.tslot % 4) {}).words ≠ 0)

/-- Make a troupe the one that issues, with itself as what the chain reads. -/
def State.poise (s : State) (t : Troupe) : State :=
  (s.putTroupe t).modBook fun b => { b with cur := t.key, chain := some t, lanes := none, begun := s.runBegun t }

/-- What a troupe asked of the host for an instruction that it has abandoned is dropped (R188, R199). -/
def State.dropAbandoned (s : State) (t : Troupe) : State :=
  if t.ctl.replayPc = some t.pc then s
  else
    { s with ext := s.ext.filter fun x => !(x.uid == t.uid && x.sync && x.errand != Errand.query && !s.ofCopy x)
             clusters := s.clusters.mapVals fun _ c =>
               { c with reqQ := c.reqQ.filter fun r => !(r.uid == t.uid && r.sync) } }

/-- Mark operations whose promise is broken (R45). -/
def Troupe.clashing (t : Troupe) (ids : List Nat) : Troupe :=
  { t with ops := t.ops.map fun o => if ids.contains o.id then { o with clash := true } else o }

/-- Beats of the members that act: a partial step leaves out the others, and acts in its lanes alone (R85, R390). -/
def State.stepBeats (s : State) (keep : Option (Mask × Bool)) (ms : List Member) : Nat × Nat :=
  match keep with
  | none => s.chainBeats ms
  | some (l, all) =>
    (s.modBook fun b => { b with lanes := some l }).chainBeats (ms.filter fun m => all || laneSteppable m.instr)

/-- Execute a chain that may issue, as a step or as usual (R390), and settle its accounts. -/
def State.issueChain (s : State) (t : Troupe) (ms : List Member) : Res :=
  let go (s : State) (keep : Option (Mask × Bool)) (part : Option Mask) : Res :=
    let beats := s.stepBeats keep ms
    match s.runChain keep ms with
    | .next r =>
      if setsCounter ms && !r.unissued t then
        (match (s.countRun t (chainCycles ms) (chainLen ms) beats).runChain keep ms with
         | .next r => .next (r.finish t ms part)
         | r => r)
      else .next ((r.countIssue t ms beats).finish t ms part)
    | r => r
  match t.ctl.stepReq with
  | none => go s none none
  | some l =>
    let k := s.stepLanes ms
    if k &&& ~~~ l ≠ 0 then go s (some (l &&& ~~~ t.sp.replay, false)) (some (k &&& l))
    else go s (some (~~~ t.sp.replay, true)) none

/-- A chain that has been decoded: the limit of the run, the waits of lookahead, poison, and then its execution
(R42, R43, R45, R429). -/
def State.tryChain (s : State) (t : Troupe) (words : Nat) (ms : List Member) : Res :=
  if 24 < words + chainLen ms then .next ((s.modBook fun b => { b with chain := none }).cutRun t)
  else if s.gated t ms || t.needsRelease ms || (t.ctl.stepReq.isSome && t.ops.any fun o => !(s.targets t o).isEmpty) then s.stall
  else match ms.findSome? fun m => s.poisonRead m.instr with
    | some (lanes, va) =>
      (match s.fault 0x14 0 lanes va with
       | .next s => .next ((s.countIssue t ms (0, 0)).finish t ms none)
       | r => r)
    | none =>
      let ids := s.broken t ms
      if ids.isEmpty then s.issueChain t ms
      else
        let t := t.clashing ids
        let wait := Config.freeBit s.book.fresh
        let s := (s.poise t).modBook fun b => { b with fresh := b.fresh + 1 }
        if wait then s.stall else s.issueChain t ms

/-- A word could not be fetched or decoded: the cycle has issued nothing, and no word is charged, for none has issued
(R90; DESIGN CHOICE, log 42). A step that has parked or halted its troupe is over (R390). -/
def State.noFetch (s : State) (t : Troupe) : State :=
  let f (x : Troupe) : Troupe :=
    if x.uid = t.uid ∧ x.ctl.wait ≠ .missRoom then { x with ctl := { x.ctl with stepReq := none } } else x
  (s.modTroupe t.key f).idle t

/-- The troupe that holds the slot fetches, decodes and issues its next chain. -/
def State.issueTroupe (s : State) (t0 : Troupe) (words : Nat) : Res :=
  let t := t0.poised
  let s := (s.dropAbandoned t0).poise t
  match s.breakpoint t with
  | some n =>
    if s.haltReady t then .next ((s.debugHalt t 0x0F 0 t.live (w64 n)).markIssued t.core (t.tslot % 4)) else s.stall
  | none =>
    match s.fetchFar t with
    | (s, none) => s.stall
    | (s, some far) =>
      let s := s.openPackets t far
      match s.chainAt t far t.pc 4 with
      | .error .wait => s.stall
      | .error (.miss va) =>
        (match s.miss t 4 true [(0, va)] id with
         | .next s => .next (s.noFetch t)
         | r => r)
      | .error (.fault c a va) =>
        (match s.faultAll c a va with
         | .next s => .next (s.noFetch t)
         | r => r)
      | .ok ms => (s.touchCode t ms).tryChain t words ms

/-- The troupe may go on with its run: what keeps its world from a core, or its troupe from being ready, does not cut it
(R41, R42, R84). -/
def Troupe.mayIssue (t : Troupe) : Bool :=
  t.ctl.wait == .no && !t.ctl.halted && (!t.ctl.debug || t.ctl.stepReq.isSome) && !t.ctl.exited && !t.ctl.stopped

/-- A turn of an issue slot: at most one chain in a cycle; a slot that no troupe holds chooses one (R84, R92). -/
def State.issue (s : State) (core islot : Nat) : Res :=
  let sl := (s.core core).islots.get islot {}
  if sl.issued then .next s
  else match sl.holder with
    | none => exec (.runArbitration core islot) s
    | some k =>
      match s.troupe (keyOf core k) with
      | none => .next (s.dropHold core k)
      | some t => if t.mayIssue then s.issueTroupe t sl.words else .next (s.cutRun t)

end Sys2Proof.Machine
end

