-- ==== Sys2Proof/Machine/Place.lean ====
section
/-! DEFINITION. A program loaded from outside: a world with a launch whose one troupe holds an issue slot at the words
(log 27). -/

namespace Sys2Proof.Machine

/-- The descriptor of the launch: code window at 0x10000, eight blocks, one thread, every core, no deadline (R74). -/
def placedDesc : List W64 :=
  [0x10000, w64 (8 * 2 ^ 32 + 2 ^ 38), 1, ones64, ones64, ones64, 0, 0, 0, 0, 0, 0, 0, 0, 0, 0]

/-- The translation entry of the code page: V, 4 KiB, read, write and execute, the first SRAM page, world 1 (R178). -/
def placedEntry : Entry := (w64 (1 + 0x10000), w64 (0 + 2 ^ 6 + 7))

/-- World 1, live, with troupe slot 0 and eight register blocks of core 0, and the first SRAM page; its launch 0 of one
troupe, which holds issue slot 0 with the words at its program counter; and the issue of that slot as the next turn. -/
def State.placeWords (s : State) (n : Nat) : State :=
  let t : Troupe := { Troupe.blank with uid := 1, world := 1, blocks := List.range 8, exec := 1, live := 1 }
  let mem := s.mem.write 0 (leBytes 12 n)
  let l : Launch :=
    { world := 1, desc := placedDesc, order := 0, nextTid := 1, alive := 1, coreCount := [(0, 1)], codeMem := mem }
  let s := s.modWorld 1 fun w => { w with st := .live }
  let s := s.modCore 0 fun c =>
    { c with tslotOwner := c.tslotOwner.put 0 1, blockOwner := (List.range 8).map fun b => (b, 1)
             islots := c.islots.put 0 { holder := some 0 } }
  let s := s.modCluster 0 fun c => { c with tlb := c.tlb.put (16 * tlbSet 0x10000 0 1) placedEntry }
  { s with
    extents := s.extents ++ [{ base := 0, size := 0, world := 1 }]
    mem := mem, launches := s.launches.put 0 l, troupes := s.troupes.put 0 t
    book := { s.book with due := [], agenda := [.issue 0 0], nextUid := max s.book.nextUid 2 } }

end Sys2Proof.Machine
end

