-- ==== Sys2Proof/WellFormed.lean ====
section
/-! DEFINITION. Which terms of `Instr` are instructions or events of the NX4: the constraints that the types of the
constructors do not carry already (R39, R41, R191, R196, R197, R104, R15, R322). -/

namespace Sys2Proof

/-- C and E are not both set (R41). -/
def Hdr.ok (h : Hdr) : Bool := !(h.c && h.e)

/-- Operations of floating type take W = 0 only (R197). -/
def AOp.floating : AOp → Bool
  | .fadd | .fmin | .fmax | .badd => true
  | _ => false

/-- The commutative operations that `redg` admits (R197). -/
def AOp.commutes : AOp → Bool
  | .swap | .cas | .inc | .dec => false
  | _ => true

/-- Operands of `amog` and `amos` (R197): a 64-bit form has even register pairs, `cas` a group of two or four. -/
def AArgs.ok (x : AArgs) : Bool :=
  !(x.aop.floating && x.wide) &&
  (x.d.val == 63 || !x.wide || x.d.val % 2 == 0) &&
  (if x.aop == .cas then (if x.wide then x.v.val % 4 == 0 else x.v.val % 2 == 0)
   else (!x.wide || x.v.val % 2 == 0))

/-- The well-formedness of an instruction or event, as one decidable question. -/
def Instr.wf : Instr → Bool
  | .fadd h .. | .fsub h .. | .fmul h .. | .ffma h .. | .fmin h .. | .fmax h .. | .fneg h .. | .fabs h ..
  | .frcp h .. | .frsq h .. | .fex2 h .. | .flg2 h .. | .ftanh h .. | .fcmpEq h .. | .fcmpNe h .. | .fcmpLt h ..
  | .fcmpLe h .. | .fcmpUn h .. | .badd h .. | .bmul h .. | .bfma h .. | .cvt h .. | .iadd h .. | .isub h ..
  | .imul h .. | .imulhiS h .. | .imulhiZ h .. | .imad h .. | .iminS h .. | .imaxS h .. | .iminZ h .. | .imaxZ h ..
  | .iand h .. | .ior h .. | .ixor h .. | .inot h .. | .ishl h .. | .ishrZ h .. | .ishrS h .. | .ipopc h ..
  | .iclz h .. | .iaddsatS h .. | .icmpEq h .. | .icmpNe h .. | .icmpLtS h .. | .icmpLeS h .. | .icmpLtZ h ..
  | .icmpLeZ h .. | .sel h .. | .mov h .. | .vbcast h .. | .vlane h .. | .shflIdx h .. | .shflXor h .. | .shflUp h ..
  | .shflDn h .. | .redfAdd h .. | .rediAdd h .. | .redfMax h .. | .pand h .. | .por h .. | .pxor h .. | .pnot h ..
  | .ballot h .. => h.ok
  | .sadd h .. | .ssub h .. | .smul h .. | .sand h .. | .sor h .. | .sxor h .. | .sshl h .. | .sshrZ h ..
  | .sshrS h .. | .smov h .. | .smov64 h .. | .scmpEq h .. | .scmpNe h .. | .scmpLtS h .. | .scmpLtZ h ..
  | .scmpLeS h .. | .scmpLeZ h .. | .sbfi h .. | .sbfx h .. | .swrs h .. | .exsave h .. | .exload h ..
  | .exand h .. | .exandn h .. | .exif h .. | .exelse h .. | .excnt h .. | .nop h | .clock h .. | .cycles h .. => h.ok
  | .srds h d n => h.ok && (n.val != 16 || d.val % 2 == 0)
  | .amog _ _ x | .amos _ _ x => x.ok
  | .redg _ _ x => x.ok && x.d.val == 63 && x.aop.commutes
  | .prmw _ _ _ o _ op _ => !((op == .bnd || op == .cas) && o.val == 63)
  | .runArbitration c i => c < 192 && i < 4
  | .troupeRetirement c t | .actDivert c t | .timerTrap c t | .missRetry c t | .atomicReturn c t
  | .sliceAccessPerformed c t => c < 192 && t < 32
  | .processionPassage c _ | .pboardExhausted c _ => c < 192
  | .mmaExecute c | .mmaComplete c | .aswapExecute c => c < 192
  | .visibleBankComplete c a => c < 192 && a < 4
  | .serviceRequest c _ => c < 24
  | .heatSample c _ => c < 24
  | .processionOwnerChange s | .processionSlotPoison s => s < 768
  | .ensemblePhaseComplete e => e < 4096
  | .launchDivert l | .deadlineStop l | .nodeEventPost l _ => l < 4096
  | .create w _ | .destroy w | .bind w _ | .revoke w _ | .limitsTokenBudget w _ | .limitsDways w _
  | .limitsPinQuota w _ | .limitsMissQuota w _ | .limitsRequestQuota w _ | .limitsWatchdog w _
  | .limitsTimingFence w _ | .limitsReservedCycles w _ | .switch w _ | .remote w _ | .restart w _ | .launch w _ => w < 64
  | .noticePost w | .noticeExpiry w _ | .liveMigrationQuiesce w => w < 64
  | .halt w _ | .cont w _ | .step w _ _ | .read w _ _ | .write w _ _ _ | .barrd w _ _ | .setbp w _ _
  | .setwp w _ _ _ | .list w | .counterOverflow w _ => w < 64
  | .qWptrDoorbell x q _ | .queueStop x q | .queueRun x q _ => x.fn < 64 && q < 64
  | .feEntryWrite x e _ => x.fn < 64 && e.index < 64
  | .registerWrite x _ _ | .hostBar2Access x _ _ _ => x.fn < 64
  | .allocDoorbell f _ => f < 64
  | .qnop q | .qlaunch q | .qprolog q | .qpred q | .qbarrier q | .qsignal q | .qcopy q | .qpost q | .qmark q
  | .qdebug q | .prologueRepeat q _ | .prologueOverrun q _ | .qbarrierEvaluation q _ | .packetCompletion q _ => q < 64
  | .qbarrierRearm q r => q < 64 && r.words.length == 8
  | .remoteAccess p w _ _ => p < 16 && w < 64
  | .flitReceive l _ | .flitResend l => l < 512
  | .getMeasurements x _ _ | .challenge x _ | .ideKm x _ | .getCertificate x _ => x.fn < 64
  | .keyExchange f _ | .finish f _ | .lockInterface f | .startInterface f | .negotiateAlgorithms f _ _ _ _ => f < 64
  | _ => true

/-- An instruction or event of the NX4. -/
abbrev Instr.WellFormed (i : Instr) : Prop := i.wf = true

end Sys2Proof
end

