-- ==== Sys2Proof/Machine/Tick.lean ====
section
/-! DEFINITION. A cycle of time and what falls due in it, and the order in which the units of the module take their turns
where nothing else orders them (R79, R87, R90, R242, R249, R340, R354 to R360, R372, R373; log 1). -/

namespace Sys2Proof.Machine

/-! ## Time (R7, R354, R355) -/

/-- A core's copy of the Almanac after the Almanac has moved by d ns: it is at most 2 ns from any other, never goes
back, and no rule fixes it further (R354, log 3). -/
def nextSkew (f old d : Nat) : Nat :=
  let low := min 2 (old - d)
  low + f % (3 - low)

/-- One cycle at 1.05 GHz, at the Almanac's rate (R7, R355). -/
def State.passTime (s : State) : State :=
  let x := s.almFrac + (20 * (1000000 + s.ppm)).toNat
  let d := x / 21000000
  let f (k : Nat) (c : Core) : Core := { c with almSkew := nextSkew (Config.freeNat (s.book.fresh + k)) c.almSkew d }
  { s with cycle := s.cycle + 1, alm := (s.alm + d) % 2 ^ 64, almFrac := x % 21000000, cores := s.cores.mapVals f
           book := { s.book with fresh := s.book.fresh + 192, rotor := 0 } }

/-- The cycle ends on an issue slot: a troupe that holds it and has issued nothing has stalled, from the cycle after
that of the arbitration (R84, R86, R92, R376). -/
def State.endSlot (s : State) (core islot : Nat) : State :=
  let sl := (s.core core).islots.get islot {}
  let s := match sl.holder with
    | none => s
    | some k =>
      if sl.issued || sl.won.find sl.last == some s.cycle then s
      else match s.troupe (keyOf core k) with
        | none => s
        | some t => s.idleCycle t
  if sl.issued then
    s.modCore core fun c => { c with islots := c.islots.put islot { c.islots.get islot {} with issued := false } }
  else s

/-- The cycle ends on every issue slot that holds a run or has issued. -/
def State.endSlots (s : State) : State :=
  (s.cores.flatMap fun c => c.2.islots.map fun i => (c.1, i.1)).foldl (fun s x => s.endSlot x.1 x.2) s

/-! ## What falls due -/

/-- Let an event fall due where a condition holds. -/
def State.raiseIf (s : State) (c : Bool) (i : Instr) : State := if c then s.raiseEvent i else s

/-- Launches whose divert or deadline has come (R88, R356, R358). -/
def State.dueLaunches (s : State) : State :=
  s.launches.foldl (fun s x =>
    let l := x.2
    let s := s.raiseIf (l.deadline != 0 && ((!l.reachedV && decide (l.divertTime ≤ s.alm)) || !(s.toDivert x.1).isEmpty))
      (.launchDivert x.1)
    s.raiseIf (l.deadline != 0 && !l.reachedD && decide (l.deadline ≤ s.almMost)) (.deadlineStop x.1)) s

/-- Troupes whose act divert or timer has come (R360, R373). -/
def State.dueTroupes (s : State) : State :=
  s.troupes.foldl (fun s x =>
    let t := x.2
    let s := s.raiseIf (t.act.armed && t.wrap == .no && decide (t.act.divertTime ≤ s.almOf t.core) && !s.holding t)
      (.actDivert t.core t.tslot)
    s.raiseIf (t.sp.timer != 0 && decide (t.sp.timer.toNat ≤ s.cycle) && !s.holding t && t.ctl.wait == .no)
      (.timerTrap t.core t.tslot)) s

/-- The Procession moves by two steps: stops with entries see two slots pass, slots that change hands may stand at
stop 0, and a `pboard` may have lost every race (R242, R245, R249). -/
def State.dueRing (s : State) : State :=
  let s := s.ringMoves.foldl (fun s m => s.raiseIf (s.atStopZero m.slot) (.processionOwnerChange m.slot)) s
  s.cores.foldl (fun s c =>
    if c.2.stopQ.isEmpty then s
    else
      let s := (s.raiseEvent (.processionPassage c.1 false)).raiseEvent (.processionPassage c.1 true)
      (c.2.stopQ.filter fun x => x.kind == 0).foldl (fun s x => s.raiseEvent (.pboardExhausted c.1 x.id)) s) s

/-- Notices that expire, and drains that give up (R337, R340). -/
def State.dueNotices (s : State) : State :=
  let s := s.worlds.foldl (fun s w => w.2.notices.foldl (fun s n =>
    s.raiseIf (n.posted && !n.closing && decide (n.expiryNs ≤ s.alm)) (.noticeExpiry w.1 n.id)) s) s
  s.copies.foldl (fun s c =>
    s.raiseIf (match c.drainBy with | some y => decide (y ≤ s.cycle) | none => false) (.copyDrainTimeout c.id)) s

/-- A cycle of time: what its end brings, and what falls due in the next. -/
def State.tick (s : State) : State :=
  let before := s.alm
  let s := s.endSlots.passTime
  let s := s.raiseIf (s.cycle % 4096 == 0) .tokenRefill
  let s := s.raiseIf (s.alm / 1000 != before / 1000) .slackRecompute
  let s := s.retireAways.dueRing.dueLaunches.dueTroupes
  let s := s.raiseIf (s.alm / 1000000 != before / 1000000) .watchdog
  let s := s.dueNotices
  if s.clusters.any fun c => c.2.lastPlace.any fun y => y + 4 == s.cycle then s.opportunity else s

/-! ## Units with something to do -/

/-- A turn of a unit: its place in the order of a cycle, and what it does. -/
abbrev UnitTurn := Nat × (State → Res)

/-- A turn that a unit wants only if it has something to do. -/
def unitIf (b : Bool) (k : Nat) (f : State → Res) : List UnitTurn := if b then [(k, f)] else []

/-- The issue slots that hold a run, or have a candidate for one. -/
def State.slotUnits (s : State) : List UnitTurn :=
  (sortAsc (s.troupes.map fun x => 4 * x.2.core + x.2.tslot % 4)).filterMap fun k =>
    let sl := (s.core (k / 4)).islots.get (k % 4) {}
    if !sl.issued && (sl.holder.isSome || !(s.cand (k / 4) (k % 4)).isEmpty) then
      some (k, fun s => s.issue (k / 4) (k % 4))
    else none

/-- The troupe has an access to perform, a result to receive, a halt to take, or is to retire. -/
def State.troupeUnits (s : State) : List UnitTurn :=
  s.troupes.flatMap fun x =>
    let t := x.2
    let plain := !(s.turns t).isEmpty
    let back := t.ops.any fun o => o.performed && (match o.kind with | .atomic _ _ (some _) => true | _ => false)
    let gone := (t.ctl.exited || t.ctl.stopped) && !s.outstanding t
    let at_ (j : Nat) : Nat := 1000 + 4 * x.1 + j
    unitIf plain (at_ 0) (exec (.sliceAccessPerformed t.core t.tslot)) ++
    unitIf back (at_ 1) (exec (.atomicReturn t.core t.tslot)) ++
    unitIf t.ctl.haltReq (at_ 2) (fun s => .next (match s.troupe x.1 with | some t => s.takeHalt t | none => s)) ++
    unitIf gone (at_ 3) (exec (.troupeRetirement t.core t.tslot))

/-- Service troupes with a request that may be performed. -/
def State.serviceUnits (s : State) : List UnitTurn :=
  s.clusters.filterMap fun c =>
    (findBelow c.2.reqQ.length fun i => match c.2.reqQ[i]? with | some r => s.requestReady r | none => false).map fun i =>
      (26000 + c.1, fun s => exec (.serviceRequest c.1 i) s)

/-- The next chunk of a copy. -/
def chunkTurn (c : Copy) (s : State) : Res :=
  match c.taking.or c.todo.head? with
  | some k => exec (.copyChunk c.id k) s
  | none => .next s

/-- Copies: the four engines of each cluster, copies that need none, and ends (R263, R403). -/
def State.copyUnits (s : State) : List UnitTurn :=
  ((sortAsc (s.copies.map (·.cluster))).flatMap fun k =>
    match s.nextCopy k with
    | some c => (List.range 4).map fun j => (100000 + 4 * k + j, chunkTurn c)
    | none => []) ++
  ((s.copies.zipIdx.filter fun x => !x.1.usesEngine && !x.1.todo.isEmpty && s.copyReady x.1 && !s.copyPending x.1).map
    fun x => (110000 + x.2, chunkTurn x.1)) ++
  ((s.copies.zipIdx.filter fun x => x.1.todo.isEmpty && x.1.waiting.isEmpty).map
    fun x => (150000 + x.2, fun s => exec (.copyCompletion x.1.id) s))

/-- An exchange write may land, or be discarded with its pair (R275). -/
def State.mayLand (s : State) (h : Held) : Bool :=
  !(h.phase.any (· == (s.ensemble h.ens).phase + 1)) || (s.core h.core).plotOwner.get (2 * h.pair) 0 != h.world

/-- Exchange writes on their way, and phases that are complete. -/
def State.exchangeUnits (s : State) : List UnitTurn :=
  ((s.held.zipIdx.filter fun x => s.mayLand x.1).map fun x => (200000 + x.2, fun s => exec (.exchangeWriteLands x.1.id) s)) ++
  ((s.ens.filter fun e => s.arrivalDue e.2).map fun e => (300000 + e.1, fun s => .next (s.settleArrivals e.1))) ++
  (s.ens.filter fun e => e.2.ready).map fun e => (300000 + e.1, fun s => exec (.ensemblePhaseComplete e.1) s)

/-- Matrix arrays and visible banks. -/
def State.matrixUnits (s : State) : List UnitTurn :=
  s.cores.flatMap fun c =>
    let at_ (j : Nat) : Nat := 400000 + 8 * c.1 + j
    let swap := (c.2.mq.head?.map (·.swap)).getD false
    unitIf c.2.array.isSome (at_ 0) (exec (.mmaComplete c.1)) ++
    unitIf (c.2.array.isNone && !c.2.mq.isEmpty && !swap) (at_ 1) (exec (.mmaExecute c.1)) ++
    unitIf (c.2.array.isNone && swap) (at_ 1) (exec (.aswapExecute c.1)) ++
    c.2.visBusy.map fun a => (at_ (4 + a.1), exec (.visibleBankComplete c.1 a.1))

/-- The placer: the first launch presented that it may take up. -/
def State.placerUnits (s : State) : List UnitTurn :=
  let ok (i : Nat) : Bool := match s.presented[i]? with | some p => s.placerOpen p.world | none => false
  match findBelow s.presented.length ok with
  | some i => [(500000, exec (.launchAcceptance i))]
  | none => []

/-- The harts of queues that have something to do. -/
def State.hartUnits (s : State) : List UnitTurn :=
  s.queues.flatMap fun q => unitIf (s.hartBusy q.1) (500001 + q.1) fun s => .next (s.hartTurn q.1 s.cycle)

/-- The allocator goes on with its command. -/
def State.allocUnits (s : State) : List UnitTurn :=
  if s.mgmt.running.isEmpty then []
  else match commandOf s.mgmt.running with
    | some i => [(500100, exec i)]
    | none => []

/-- A world that is being quiesced, debug requests that wait, and notices that are closing. -/
def worldUnits (w : Nat × World) : List UnitTurn :=
  let at_ (j : Nat) : Nat := 500200 + 256 * w.1 + j
  unitIf w.2.moving (at_ 0) (execLiveMigrationQuiesce w.1) ++
  unitIf (!w.2.debugs.isEmpty) (at_ 1) (fun s => .next (s.debugTurn w.1)) ++
  (w.2.notices.filter fun n => n.closing).zipIdx.map fun n => (at_ (2 + n.2), exec (.noticeExpiry w.1 n.1.id))

/-- Firmware that rebuilds memory, reads through BAR2, flits to send again, and measurements that waited. -/
def State.linkUnits (s : State) : List UnitTurn :=
  unitIf (!s.rebuild.isEmpty) 600000 (fun s => .next s.rebuildTurn) ++
  unitIf (!s.bar2.isEmpty) 600001 (fun s => .next s.bar2Turn) ++
  (match s.resendDue with
   | some n => [(600002, fun s => .next (s.resendFlit n))]
   | none => []) ++
  unitIf (!s.mgmt.asked.isEmpty && !s.mgmt.begun) 600003 (fun s => .next s.snapshotTurn)

/-- Every unit with something to do, in the order of a cycle. -/
def State.units (s : State) : List UnitTurn :=
  s.slotUnits ++ s.troupeUnits ++ s.serviceUnits ++ s.copyUnits ++ s.exchangeUnits ++ s.matrixUnits ++
  s.placerUnits ++ s.hartUnits ++ s.allocUnits ++ s.worlds.flatMap worldUnits ++ s.linkUnits

/-- The default order: each unit with something to do has a turn in every cycle, and then the cycle ends (log 1). -/
def State.defaultTurn (s : State) : Res :=
  match s.units.find? fun u => s.book.rotor ≤ u.1 with
  | some u => u.2 (s.modBook fun b => { b with rotor := u.1 + 1 })
  | none => .next s.tick

/-! ## Turns that the agenda names -/

/-- An event or command of the agenda; an instruction word is no event. -/
def State.eventTurn (s : State) (i : Instr) : Res := if i.isWord || !i.wf then .next s else exec i s

/-- A choice of the caches: lines may leave L1 at any time, and unpinned lines L2 (R165, R170, R171). -/
def State.evictTurn2 (s : State) (ln : Nat) : State :=
  match (s.slice (sliceOf (ln * 128))).lines.find ln with
  | some l => if l.pinned.isSome then s else s.evictLine ln
  | none => s

/-- The issue slot of a core that has its turn: no later one before a lower one that holds a run and has had no turn in
this cycle (R85; log 1). -/
def State.firstSlot (s : State) (core islot : Nat) : Nat :=
  (findBelow islot fun j =>
    let sl := (s.core core).islots.get j {}
    sl.holder.isSome && !sl.issued && sl.asked != some s.cycle).getD islot

/-- An issue slot has its turn of the cycle. -/
def State.asking (s : State) (core islot : Nat) : State :=
  s.modCore core fun c => { c with islots := c.islots.put islot { c.islots.get islot {} with asked := some s.cycle } }

/-- A turn of an issue slot that the agenda names: a lower slot that has not had its own goes first. -/
def State.issueTurn (s : State) (core islot : Nat) : Res :=
  let j := s.firstSlot core islot
  let s := if j = islot then s else s.modBook fun b => { b with agenda := .issue core islot :: b.agenda }
  (s.asking core j).issue core j

/-- A turn that the agenda names. -/
def State.turn (s : State) : Turn → Res
  | .issue c i => s.issueTurn c i
  | .event i => s.eventTurn i
  | .tick => .next s.tick
  | .hart q => .next (s.hartTurn q s.cycle)
  | .evictL1 c ln => .next (s.modCore c fun x => { x with l1 := x.l1.del ln })
  | .evictL2 ln => .next (s.evictTurn2 ln)

/-- Take the first event that has fallen due. -/
def State.takeDue (s : State) (rest : List Instr) : State := s.modBook fun b => { b with due := rest }

/-- Take the first turn of the agenda. -/
def State.takeTurn (s : State) (rest : List Turn) : State := s.modBook fun b => { b with agenda := rest }

/-- A module without power does nothing but wait for hot reset (R440). -/
def State.dark (s : State) : Res :=
  match s.book.agenda with
  | .event .hotReset :: rest => execHotReset (s.takeTurn rest)
  | _ => .fault .unpowered

/-- What the module does next: events that have fallen due, then the agenda, then the default order. -/
def State.nextTurn (s : State) : Res :=
  match s.book.due with
  | i :: rest => exec i (s.takeDue rest)
  | [] =>
    match s.book.agenda with
    | x :: rest => (s.takeTurn rest).turn x
    | [] => s.defaultTurn

end Sys2Proof.Machine
end

