-- ==== Sys2Proof/Machine/Step.lean ====
section
/-! DEFINITION. One step of the module, and the placing of an instruction where the next step fetches. -/

namespace Sys2Proof.Machine

/-- One step: one turn of one unit. -/
def step (s : State) : Host.Outcome State Fault Refusal := if s.powered then s.nextTurn else s.dark

/-- The state with an instruction's words where the next step fetches and issues them (log 27). -/
def State.withFetchWord (s : State) (nbits w : Nat) : State := s.placeWords (w % 2 ^ nbits)

end Sys2Proof.Machine
end

