-- ==== Sys2Proof/Claims.lean ====
section
/-! DEFINITION. The words in which the statements are made: what an instruction's next state keeps, and the usual shapes
of what it changes. -/

namespace Sys2Proof.Claims

open Sys2Proof.Machine

/-- The outcome is a next state, and it satisfies P. -/
def Gives (r : Res) (P : State → Prop) : Prop := ∃ t, r = .next t ∧ P t

/-- The state with the run of the issuing troupe ended, where E = 1 (R41). -/
def ended (e : Bool) (t : State) : State := if e then t.endRun else t

/-- The troupe n words further. -/
def behind (t : Troupe) (n : Nat) : Troupe := { t with pc := t.pc + w32 n, ctl := { t.ctl with stalled := false } }

/-- Nothing of the module differs but the issuing troupe: memory, scratchpads, caches, bindings, mailboxes, every other
troupe and the model's own bookkeeping are the same. -/
def OnlyIssuer (s t : State) : Prop :=
  { t with troupes := s.troupes } = s ∧ ∀ k, k ≠ s.book.cur → t.troupe k = s.troupe k

/-- The instruction completes: it answers a next state which, up to the end of the run that E = 1 asks for, differs
from `s` in the issuing troupe alone, and there satisfies P. -/
def Completes (i : Instr) (e : Bool) (s : State) (P : Troupe → Prop) : Prop :=
  ∃ t, exec i s = .next (ended e t) ∧ OnlyIssuer s t ∧ P t.me

/-- Vector register d holds `f l` in the lanes of m; its other lanes and every other register are as before, and so is
the rest of the troupe, but for the sticky bits: lane l of m has gained the exceptions `x l` (R135, R139). -/
def VectorWritten (s : State) (m : Mask) (d len : Nat) (f : Nat → W32) (x : Nat → Exc) (u : Troupe) : Prop :=
  u = { behind s.me len with v := u.v, sticky := u.sticky } ∧
  (∀ l, l < 128 → (u.vreg d).lane l = if inMask m l then f l else (s.me.vreg d).lane l) ∧
  (∀ r, r ≠ d → u.vreg r = s.me.vreg r) ∧
  ∀ l, l < 128 →
    inMask u.sticky.inv l = (inMask s.me.sticky.inv l || (inMask m l && (x l).getLsbD 0)) ∧
    inMask u.sticky.dz l = (inMask s.me.sticky.dz l || (inMask m l && (x l).getLsbD 1)) ∧
    inMask u.sticky.ovf l = (inMask s.me.sticky.ovf l || (inMask m l && (x l).getLsbD 2)) ∧
    inMask u.sticky.unf l = (inMask s.me.sticky.unf l || (inMask m l && (x l).getLsbD 3)) ∧
    inMask u.sticky.nx l = (inMask s.me.sticky.nx l || (inMask m l && (x l).getLsbD 4))

/-- As `VectorWritten`, for a predicate. -/
def PredWritten (s : State) (m : Mask) (d len : Nat) (f : Nat → Bool) (x : Nat → Exc) (u : Troupe) : Prop :=
  u = { behind s.me len with p := u.p, sticky := u.sticky } ∧
  (∀ l, l < 128 → inMask (u.preg d) l = if inMask m l then f l else inMask (s.me.preg d) l) ∧
  (∀ r, r ≠ d → u.preg r = s.me.preg r) ∧
  ∀ l, l < 128 →
    inMask u.sticky.inv l = (inMask s.me.sticky.inv l || (inMask m l && (x l).getLsbD 0)) ∧
    inMask u.sticky.dz l = (inMask s.me.sticky.dz l || (inMask m l && (x l).getLsbD 1)) ∧
    inMask u.sticky.ovf l = (inMask s.me.sticky.ovf l || (inMask m l && (x l).getLsbD 2)) ∧
    inMask u.sticky.unf l = (inMask s.me.sticky.unf l || (inMask m l && (x l).getLsbD 3)) ∧
    inMask u.sticky.nx l = (inMask s.me.sticky.nx l || (inMask m l && (x l).getLsbD 4))

/-- Scalar register d holds x; every other scalar and the rest of the troupe are as before. -/
def ScalarWritten (s : State) (d len : Nat) (x : W64) (u : Troupe) : Prop :=
  u = { behind s.me len with s := u.s } ∧ u.sreg d = x ∧ ∀ r, r ≠ d → u.sreg r = s.me.sreg r

/-- The pair of scalars at n holds a mask, its low half in s[n] (R111); all else of the troupe is as before. -/
def PairWritten (s : State) (n len : Nat) (m : Mask) (u : Troupe) : Prop :=
  u = { behind s.me len with s := u.s } ∧ u.sreg (n + 1) ++ u.sreg n = m ∧
  ∀ r, r ≠ n → r ≠ n + 1 → u.sreg r = s.me.sreg r

/-- Flag i holds x; every other flag and the rest of the troupe are as before. -/
def FlagWritten (s : State) (i len : Nat) (x : Bool) (u : Troupe) : Prop :=
  u = { behind s.me len with f := u.f } ∧ u.flag i = x ∧ ∀ k, k < 8 → k ≠ i → u.flag k = s.me.flag k

/-- A class 0 instruction of two sources that sets no status computes `f a b` in each lane of its mask. -/
def Computes2 (op : Hdr → Guard → Reg → Reg → VSrc → Instr) (f : W32 → W32 → W32) : Prop :=
  ∀ h g d a b s, Completes (op h g d a b) h.e s
    (VectorWritten s (s.effective g) d.val (vlen b) (fun l => f (vsrc s.src a l) (vval b s.src l)) fun _ => 0)

/-- A class 0 instruction of one source that sets no status. -/
def Computes1 (op : Hdr → Guard → Reg → Reg → Instr) (f : W32 → W32) : Prop :=
  ∀ h g d a s, Completes (op h g d a) h.e s
    (VectorWritten s (s.effective g) d.val 1 (fun l => f (vsrc s.src a l)) fun _ => 0)

/-- An integer compare writes the predicate with whether `f a b` holds. -/
def Compares (op : Hdr → Guard → Pred → Reg → VSrc → Instr) (f : W32 → W32 → Bool) : Prop :=
  ∀ h g pd a b s, Completes (op h g pd a b) h.e s
    (PredWritten s (s.effective g) pd.val (vlen b) (fun l => f (vsrc s.src a l) (vval b s.src l)) fun _ => 0)

/-- A floating-point instruction: `f rm a b d` gives the lane's bits and its exceptions, rm being RM. -/
def ComputesFp (op : Hdr → Guard → Reg → Reg → VSrc → Instr) (f : Rm → W32 → W32 → W32 → W32 × Exc) : Prop :=
  ∀ h g d a b s, Completes (op h g d a b) h.e s
    (VectorWritten s (s.effective g) d.val (vlen b)
      (fun l => (f s.src.rm (vsrc s.src a l) (vval b s.src l) (vsrc s.src d l)).1)
      (fun l => (f s.src.rm (vsrc s.src a l) (vval b s.src l) (vsrc s.src d l)).2))

/-- A floating-point instruction of one source. -/
def ComputesFp1 (op : Hdr → Guard → Reg → Reg → Instr) (f : Rm → W32 → W32 × Exc) : Prop :=
  ∀ h g d a s, Completes (op h g d a) h.e s
    (VectorWritten s (s.effective g) d.val 1 (fun l => (f s.src.rm (vsrc s.src a l)).1)
      (fun l => (f s.src.rm (vsrc s.src a l)).2))

/-- A floating-point compare: from the relation of the values and whether either operand is a signalling NaN. -/
def ComparesFp (op : Hdr → Guard → Pred → Reg → VSrc → Instr) (f : Rel → Bool) (inv : Rel → Bool → Bool) : Prop :=
  ∀ h g pd a b s, Completes (op h g pd a b) h.e s
    (PredWritten s (s.effective g) pd.val (vlen b)
      (fun l => f (compareFp (vsrc s.src a l) (vval b s.src l)))
      (fun l => if inv (compareFp (vsrc s.src a l) (vval b s.src l))
          (f32v (vsrc s.src a l) == .nan true || f32v (vval b s.src l) == .nan true) then 1 else 0))

/-- A scalar instruction of two sources. -/
def ComputesS (op : Hdr → Reg → Reg → SSrc → Instr) (f : W64 → W64 → W64) : Prop :=
  ∀ h d a b s, Completes (op h d a b) h.e s (ScalarWritten s d.val (slen b) (f (s.src.sreg a.val) (sval b s.src)))

/-- A scalar compare writes its flag with whether `f a b` holds. -/
def ComparesS (op : Hdr → Fin 8 → Reg → SSrc → Instr) (f : W64 → W64 → Bool) : Prop :=
  ∀ h i a b s, Completes (op h i a b) h.e s (FlagWritten s i.val (slen b) (f (s.src.sreg a.val) (sval b s.src)))

/-- The lanes pass every check of R187 without a miss, no watchpoint matches, and none lies at a peer: `ok` is where
they go. -/
def Translated (s : State) (n : Need) (lanes : List (Nat × W64)) (ok : List LaneOp) : Prop :=
  s.checkLanes s.src n lanes = .go ok [] ∧ s.watchHits s.src n ok = [] ∧ ∀ o ∈ ok, o.atPeer = false

/-- Beside the issuing troupe, the module has changed in the translations that the cores used most recently, in counters
and in the model's own bookkeeping alone: memory, scratchpads, caches and bindings are as before. -/
def OnlyTranslations (s t : State) : Prop :=
  { t with troupes := s.troupes, cores := s.cores, worlds := s.worlds, book := s.book } = s ∧
  (∀ k, k ≠ s.book.cur → t.troupe k = s.troupe k) ∧
  (∀ c, { t.core c with utlb := (s.core c).utlb } = s.core c) ∧
  ∀ w, { t.world w with counters := (s.world w).counters } = s.world w

/-- The instruction completes by issuing an operation on `lanes`, which later events perform: the troupe's registers are
as before, and %replay is cleared (R187, R195). -/
def Issues (i : Instr) (e : Bool) (la : Nat) (kind : OpKind) (lanes : List LaneOp) (s : State) : Prop :=
  ∃ t id, exec i s = .next (ended e t) ∧ OnlyTranslations s t ∧
    t.me = { behind s.me 2 with
      sp := { s.me.sp with replay := 0 }
      ops := s.me.ops ++ [{ id := id, kind := kind, lanes := lanes, la := la }]
      ctl := { (behind s.me 2).ctl with replayPc := none } }

/-- Record r is posted in the fault mailbox of world w, or counted there as dropped, unless mailbox 0 of world 0
belongs to another world; every other mailbox is as before (R283, R352, R368). -/
def Posted (s t : State) (w : Nat) (r : List W64) : Prop :=
  let m := (s.world w).areas.faultMbx
  (∀ k, k ≠ m → t.mailbox k = s.mailbox k) ∧
  t.mailbox m = (if w = 0 ∧ (s.mailbox m).owner ≠ 0 then s.mailbox m else if (s.mailbox m).entries.length < 64
    then { s.mailbox m with entries := (s.mailbox m).entries ++ [r] }
    else { s.mailbox m with drops := min ((s.mailbox m).drops + 1) 0xFFFF })

/-- The record of an event that names troupe u (R369): the cause, the access, u's place, whether it halted, the program
counter, the lanes, the address and the time. -/
def recordAt (s : State) (u : Troupe) (cause access : Nat) (halted : Bool) (pc : W32) (lanes : Mask) (va : W64) : List W64 :=
  [ BitVec.ofNat 64 (4 + cause * 2 ^ 8 + access * 2 ^ 16 + u.world * 2 ^ 24 + u.core * 2 ^ 32 + u.tslot * 2 ^ 40 +
      if halted then 2 ^ 47 else 0),
    BitVec.ofNat 64 (pc.toNat + u.tid * 2 ^ 32), lanes.extractLsb' 0 64, lanes.extractLsb' 64 64, va,
    BitVec.ofNat 64 (s.alm + (s.core u.core).almSkew), BitVec.ofNat 64 u.launch, 0 ]

/-- Troupe u is halted where it stood, with every register as it was; its record r is kept and posted; its issue slot is
free. Beside the world's counters, nothing else has changed (R368). -/
def HaltedWith (s t : State) (u : Troupe) (r : List W64) : Prop :=
  { t with troupes := s.troupes, cores := s.cores, worlds := s.worlds, mbx := s.mbx, book := s.book } = s ∧
  t.troupe u.key = some { u with
    ctl := { u.ctl with wait := .no, halted := true, record := r, stalled := false, head := none, since := none } } ∧
  (∀ k, k ≠ u.key → t.troupe k = s.troupe k) ∧
  (∀ c, { t.core c with islots := (s.core c).islots } = s.core c) ∧
  ((t.core u.core).islots.get (u.tslot % 4) {}).holder ≠ some u.tslot ∧
  (∀ w, { t.world w with counters := (s.world w).counters } = s.world w) ∧ Posted s t u.world r

/-- Troupe u has taken a precise fault (R40, R368, R369). -/
def FaultTaken (s t : State) (u : Troupe) (cause access : Nat) (lanes : Mask) (va : W64) : Prop :=
  HaltedWith s t u (recordAt s u cause access true u.pc lanes va)

/-- The issuing troupe belongs to no runtime launch, and its world's fault mailbox arms no barrier. -/
def Plain (s : State) : Prop :=
  s.isRuntime s.src = false ∧ (s.mailbox (s.world s.src.world).areas.faultMbx).arming = none

/-- The lanes pass every check of R187, but those of `missed` find no translation; `ok` is where the others go, no
watchpoint matches, and none lies at a peer. -/
def Missed (s : State) (n : Need) (lanes : List (Nat × W64)) (ok : List LaneOp) (missed : List (Nat × W64)) : Prop :=
  s.checkLanes s.src n lanes = .go ok missed ∧ missed ≠ [] ∧ s.watchHits s.src n ok = [] ∧ ∀ o ∈ ok, o.atPeer = false

/-- The lanes `missed` of an instruction have no translation, all of them in page g of their world (R183, R186, R367).
The troupe is parked on the page's entry, at its chain's head: on one that is there it joins the others, and a new one
comes with a record of cause 2; what else the instruction does then is `rest`. Without room it waits for some, and
nothing changes. A world without a miss quota faults with cause 0x13. -/
def Misses (i : Instr) (s : State) (access : Nat) (scalar : Bool) (missed : List (Nat × W64))
    (rest : State → Troupe → Troupe → Prop) : Prop :=
  let u := s.src
  let c := clusterOf u.core
  let table := (s.cluster c).miss
  let quota := (s.world u.world).limits.missQuota.get c 0
  let mine (g : Nat) (e : MissEntry) : Prop := e.world = u.world ∧ e.page = g
  let mask : Mask := if scalar then u.live else maskOf fun l => missed.any fun x => x.1 == l
  let parked (t : State) (g : Nat) (table' : List MissEntry) (r : List W64) : Prop :=
    { t with troupes := s.troupes, cores := s.cores, worlds := s.worlds, clusters := s.clusters, mbx := s.mbx, book := s.book } = s ∧
    (∀ k, k ≠ u.key → t.troupe k = s.troupe k) ∧
    (∀ k, { t.core k with utlb := (s.core k).utlb, islots := (s.core k).islots } = s.core k) ∧
    (∀ k, { t.cluster k with miss := (s.cluster k).miss, reqQ := (s.cluster k).reqQ } = s.cluster k) ∧
    (∀ k, k ≠ c → (t.cluster k).miss = (s.cluster k).miss) ∧ (t.cluster c).miss = table' ∧
    ∃ v, t.troupe u.key = some v ∧ rest t { u with
      ctl := { u.ctl with wait := .parked [g], replayPc := some u.pc, stalled := false, stepReq := none, record := r } } v
  ∀ g va, Plain s → (∀ x ∈ missed, x.2.toNat / 4096 = g) → missed.head?.map (·.2) = some va →
    (0 < quota → (∃ e ∈ table, mine g e) → ∃ t, exec i s = .next t ∧ t.mbx = s.mbx ∧ parked t g
      (table.map fun e => if e.world = u.world ∧ e.page = g then { e with parked := e.parked ++ [u.key] } else e) u.ctl.record) ∧
    ((∀ e ∈ table, ¬ mine g e) →
      let held := (table.filter fun e => e.world == u.world).length
      let r := recordAt s u 2 access false u.pc mask va
      (table.length < 256 → held < quota →
        ∃ t, exec i s = .next t ∧ Posted s t u.world r ∧
          parked t g (table ++ [{ world := u.world, page := g, parked := [u.key] }]) r) ∧
      (0 < quota → (256 ≤ table.length ∨ quota ≤ held) → ∃ t, exec i s = .next t ∧
        { t with troupes := s.troupes, cores := s.cores, worlds := s.worlds, book := s.book } = s ∧
        (∀ k, k ≠ u.key → t.troupe k = s.troupe k) ∧
        t.troupe u.key = some { u with ctl := { u.ctl with wait := .missRoom, stalled := false } }) ∧
      (quota = 0 →
        let f := recordAt s u 0x13 (if access = 3 then 3 else 0) true u.pc mask va
        ∃ t, exec i s = .next t ∧ t.mem = s.mem ∧ Posted s t u.world f ∧ t.troupe u.key = some { u with
          ctl := { u.ctl with wait := .no, halted := true, record := f, stalled := false, head := none, since := none } }))

/-- A load that misses performs no lane (R187). -/
def LoadMisses (i : Instr) (n : Nat) (scalar : Bool) (lanes : State → List (Nat × W64)) : Prop :=
  ∀ s ok missed, lanes s ≠ [] → Missed s { bytes := n, r := true, access := 1 } (lanes s) ok missed →
    Misses i s 1 scalar missed fun t u v => v = u ∧ ∀ k, (t.cluster k).reqQ = (s.cluster k).reqQ

/-- A store that misses performs the lanes that translated, and %replay gains them (R187). -/
def StoreMisses (i : Instr) (n : Nat) (scalar : Bool) (lanes : State → List (Nat × W64)) (data : Troupe → Nat → List Byte) :
    Prop :=
  ∀ s ok missed, lanes s ≠ [] → Missed s { bytes := n, w := true, access := 2 } (lanes s) ok missed →
    Misses i s 2 scalar missed fun t u v => (∀ k, (t.cluster k).reqQ = (s.cluster k).reqQ) ∧
      ∃ id, v = { u with
        ops := if ok = [] then u.ops else
          u.ops ++ [{ id := id, kind := .store n, lanes := ok.map fun o => { o with data := data s.src o.lane } }]
        sp := { u.sp with replay := u.sp.replay ||| maskOf fun l => ok.any fun o => o.lane == l } }

/-- A vector load of n bytes for each lane. -/
def LoadIssues (i : Instr) (e : Bool) (g : Guard) (m : MAddr) (la n : Nat) (sext : Bool) (d : Nat) : Prop :=
  (∀ s ok, s.memLanes g ≠ [] →
    Translated s { bytes := n, r := true, access := 1 } ((s.memLanes g).map fun l => (l, laneAddr s.src m l)) ok →
    Issues i e la (.load n sext d) ok s) ∧
  LoadMisses i n false (fun s => (s.memLanes g).map fun l => (l, laneAddr s.src m l)) ∧
  ∀ s, s.memLanes g = [] → Completes i e s fun u => u = behind s.me 2

/-- A vector store of n bytes for each lane, from registers from d. -/
def StoreIssues (i : Instr) (e : Bool) (g : Guard) (m : MAddr) (la n d : Nat) : Prop :=
  (∀ s ok, s.memLanes g ≠ [] →
    Translated s { bytes := n, w := true, access := 2 } ((s.memLanes g).map fun l => (l, laneAddr s.src m l)) ok →
    Issues i e la (.store n)
      (ok.map fun o => { o with data := (laneBytes s.src d o.lane ((n + 3) / 4)).take n }) s) ∧
  StoreMisses i n false (fun s => (s.memLanes g).map fun l => (l, laneAddr s.src m l))
    (fun t l => (laneBytes t d l ((n + 3) / 4)).take n) ∧
  ∀ s, s.memLanes g = [] → Completes i e s fun u => u = behind s.me 2

/-- Beside the issuing troupe, only the scratchpads' times and, in core c, bytes of the scratchpad differ. -/
def OnlyScratchpad (s t : State) : Prop :=
  { t with troupes := s.troupes, cores := s.cores, maxTs := s.maxTs } = s ∧
  (∀ k, k ≠ s.book.cur → t.troupe k = s.troupe k) ∧
  ∀ c, { t.core c with spad := (s.core c).spad, spadBad := (s.core c).spadBad, swts := (s.core c).swts
                       srts := (s.core c).srts } = s.core c

/-- A scratchpad load of n bytes for each lane: each lane's bytes go to its lanes of n / 4 registers from d (R193). -/
def SpadLoads (i : Instr) (e : Bool) (g : Guard) (m : MAddr) (n d : Nat) : Prop :=
  (∀ s ok missed, s.memLanes g ≠ [] → s.src.busyOps = false →
    s.checkSpad s.src n ((s.memLanes g).map fun l => (l, laneAddr s.src m l)) = .go ok missed →
    ∃ t, exec i s = .next (ended e t) ∧ OnlyScratchpad s t ∧
      (∀ c a, (t.core c).spad.byte a = (s.core c).spad.byte a) ∧
      t.me = { behind s.me 2 with v := t.me.v, pts := t.me.pts } ∧
      (∀ o ∈ ok, ∀ j, j < n / 4 → (t.me.vreg (d + j)).lane o.lane =
        BitVec.ofNat 32 (leNat (((s.core s.me.core).spadRead (o.pa + 4 * j) 4)))) ∧
      ∀ r l, (r < d ∨ d + n / 4 ≤ r ∨ ∀ o ∈ ok, o.lane ≠ l) → (t.me.vreg r).lane l = (s.me.vreg r).lane l) ∧
  ∀ s, s.memLanes g = [] → Completes i e s fun u => u = behind s.me 2

/-- A scratchpad store of n bytes for each lane: the bytes of a lane stand at its address, unless a higher lane has
written there (R194), and every other byte of every scratchpad is as before. -/
def SpadStores (i : Instr) (e : Bool) (g : Guard) (m : MAddr) (n d : Nat) : Prop :=
  (∀ s ok missed, s.memLanes g ≠ [] → s.src.busyOps = false → (s.core s.src.core).spad.wf = true →
    s.checkSpad s.src n ((s.memLanes g).map fun l => (l, laneAddr s.src m l)) = .go ok missed →
    ∃ t, exec i s = .next (ended e t) ∧ OnlyScratchpad s t ∧
      t.me = { behind s.me 2 with pts := t.me.pts } ∧
      (∀ c a, (c = s.src.core → ∀ o ∈ ok, ¬ ((s.core c).phys o.pa ≤ a ∧ a < (s.core c).phys o.pa + n)) →
        (t.core c).spad.byte a = (s.core c).spad.byte a) ∧
      ∀ o ∈ ok, (∀ p ∈ ok, p.lane > o.lane → p.pa ≠ o.pa) →
        (t.core s.src.core).spadRead o.pa n = laneBytes s.src d o.lane (n / 4)) ∧
  ∀ s, s.memLanes g = [] → Completes i e s fun u => u = behind s.me 2

/-- What an operation of the barrier unit does when no troupe waits for the object: the object's sixteen bytes hold the
object after the operation, and no other byte of any scratchpad changes (R253, R254). -/
def BarDone (s t : State) (n : Nat) (op : BarOp) : Prop :=
  (∀ c a, ¬ (c = s.me.core ∧ (s.core c).phys n ≤ a ∧ a < (s.core c).phys n + 16) →
    (t.core c).spad.byte a = (s.core c).spad.byte a) ∧
  (t.core s.me.core).bar n = ((s.core s.me.core).bar n).after op

/-- The operand of a barrier instruction names a usable object, on which no troupe waits (R259). -/
def BarReady (s : State) (a : Reg) : Prop :=
  s.barCause s.src (s.src.sreg a.val) = none ∧ s.src.busyOps = false ∧ (s.core s.me.core).spad.wf = true ∧
  (s.core s.me.core).spadBad.contains ((s.core s.me.core).phys (s.src.sreg a.val).toNat / 16) = false ∧
  s.waiters s.me.core (s.src.sreg a.val).toNat = []

/-- The instruction takes a precise fault. -/
def Faults (i : Instr) (s : State) (cause access : Nat) (lanes : Mask) (va : W64) : Prop :=
  ∃ t, exec i s = .next t ∧ FaultTaken s t s.src cause access lanes va

/-- A report point with new exceptions (R137, R138): a record of cause 0x0D names them and the lanes that raised them.
With HALT set the troupe halts at the chain's head before the point takes effect; otherwise the record is posted, the
exceptions count as reported, and `effect` holds of the troupe after the point. -/
def Reports (i : Instr) (s : State) (effect : Troupe → Prop) : Prop :=
  let n := s.src.newExceptions
  let r (halted : Bool) := recordAt s s.src 0x0D 0 halted s.me.pc (s.src.sticky.having n) (n.setWidth 64)
  n ≠ 0 → Plain s → s.me.key = s.book.cur → s.me.world = s.src.world →
    (s.src.haltEnabled = true →
      ∃ t, exec i s = .next t ∧ HaltedWith s t { s.src with reported := s.src.reported ||| n } (r true)) ∧
    (s.src.haltEnabled = false →
      ∃ t u, exec i s = .next t ∧ Posted s t s.me.world (r false) ∧ t.troupe s.me.key = some u ∧
        u.reported = s.me.reported ||| n ∧ u.v = s.me.v ∧ u.s = s.me.s ∧ u.sticky = s.me.sticky ∧ effect u)

/-- Of an access to `lanes`, whose checks give each address `out`, step `st` of R187 is the first that fails in some
lane, with `cause` the lowest code there; the lanes of `mask` are those that fail it, and `va` is the address of the
lowest. -/
def FailsAt (out : W64 → LaneOut) (lanes : List (Nat × W64)) (st cause : Nat) (mask : Mask) (va : W64) : Prop :=
  let fails (a : W64) : Bool := match out a with | .bad k _ => k == st | _ => false
  (∀ x ∈ lanes, ∀ k c, out x.2 = .bad k c → st ≤ k ∧ (k = st → cause ≤ c)) ∧ (∃ x ∈ lanes, out x.2 = .bad st cause) ∧
  (∀ l, l < 128 → inMask mask l = lanes.any fun x => x.1 == l && fails x.2) ∧
  (lanes.find? fun x => fails x.2).map (·.2) = some va

/-- A vector access to memory that fails a check faults at the earliest step, once no peer is to be asked (R187). -/
def AccessFaults (i : Instr) (g : Guard) (n : Need) (addr : Troupe → Nat → W64) : Prop :=
  ∀ s st cause mask va, Plain s → s.hostPending s.src = false → s.hostAnswers s.src = [] →
    (n.access = 3 → s.fenceChanging = false ∧ ∀ o ∈ s.src.ops, ∀ aop wide d, o.kind ≠ .atomic aop wide (some d)) →
    let lanes := (s.memLanes g).map fun l => (l, addr s.src l)
    let out := s.checkVa s.src.core s.src.world n
    (st = 6 → ∀ x ∈ lanes, ∀ pa na, out x.2 = .ok pa na → (pa < 0x600000000000 ∨ 0xA00000000000 ≤ pa)) →
    FailsAt out lanes st cause mask va → Faults i s cause n.access mask va

/-- The same for the scratchpad. -/
def SpadFaults (i : Instr) (g : Guard) (n access : Nat) (m : MAddr) : Prop :=
  ∀ s st cause mask va, Plain s →
    FailsAt (s.checkPlace s.src.core s.src.world n) ((s.memLanes g).map fun l => (l, laneAddr s.src m l)) st cause mask va →
    Faults i s cause access mask va

/-- The same for a scalar access of eight bytes, whose lanes are those of `live` (R194). -/
def ScalarFaults (i : Instr) (out : State → W64 → LaneOut) (access : Nat) (m : SAddr) : Prop :=
  ∀ s st cause, Plain s → out s (scalarAddr s.src m) = .bad st cause →
    Faults i s cause access s.src.live (scalarAddr s.src m)

/-- The interface of a function takes a TLP, which came on the function's IDE stream or did not: the function is there,
and an interface that is locked or running takes it on its stream alone (R422). -/
def Reached (s : State) (f : Nat) (ide : Bool) : Prop :=
  s.fnPresent f = true ∧ ((s.fn f).trust.tdisp = 1 ∨ (s.fn f).trust.tdisp = 2 → ide = true ∧ (s.fn f).trust.ide = true)

/-- No line of L2 holds lost data (R176). -/
def Clean (s : State) : Prop := ∀ i, ∀ e ∈ (s.slice i).lines, e.2.bad = false

/-- Queue q of world w may start a packet, and the slot at RPTR stands in module memory at `pa` (R392, R393, R397);
`p` is the packet there, before anything of it is done and before it has a name. -/
def AtRptr (s : State) (q w pa : Nat) (p : Packet) : Prop :=
  let x := s.queue q
  x.mayStart = true ∧ x.overfull = false ∧ x.qmap = some w ∧ x.arm = none ∧ slotsOf p.type ≤ x.avail ∧ Clean s ∧
  s.feParts w (x.slotVa x.rptr) 64 true false false = .ok [(pa, 64)] ∧ inModule pa = true ∧
  (∀ y ∈ x.started, y.id < s.book.nextId) ∧ (∀ y ∈ s.ext, y.opId ≠ agentOp (pairKey q)) ∧
  p = { world := w, slot := x.rptr.toNat, words := toWords 8 (s.memRead pa 64), barrier := bit ((toWords 8 (s.memRead pa 64)).headD 0) 8 }

/-- The packet has started, and stands in its queue as `p` with a new name; RPTR has passed its slots, and every other
queue is as it was. -/
def Started (s t : State) (q id : Nat) (p : Packet) : Prop :=
  s.book.nextId ≤ id ∧ id < t.book.nextId ∧
  t.queue q = { s.queue q with
    rptr := (s.queue q).rptr + BitVec.ofNat 32 (slotsOf p.type)
    started := (s.queue q).started ++ [{ p with id := id }] } ∧
  (∀ k, k ≠ q → t.queue k = s.queue k) ∧ t.troupes = s.troupes ∧ t.launches = s.launches

/-- Instruction m stands in the words from its index on, all of which can be fetched, and names registers that the
troupe has (R30, R60). -/
def IsMember (s : State) (p : Troupe) (m : Member) : Prop :=
  ∃ ws : List W32, ws.length = m.len ∧ (∀ j, j < m.len → s.codeWord p [] (m.pos + BitVec.ofNat 32 j) = .ok (ws.getD j 0)) ∧
    (∀ j, 0 < j → j < m.len → decode (ws.take j) = .error .truncated) ∧ decode ws = .ok (m.instr, m.len) ∧
    ∀ r ∈ vregsOf m.instr, r < 8 * p.blocks.length

/-- A chain of instructions stands at word index i: each but the last chains to the next, which follows it in the same
packet (R37, R39). -/
def IsChain (s : State) (p : Troupe) : W32 → List Member → Prop
  | _, [] => False
  | i, m :: ms => m.pos = i ∧ IsMember s p m ∧
    match ms with
    | [] => chains m.instr = false
    | n :: ns => chains m.instr = true ∧ (i + BitVec.ofNat 32 m.len).toNat / 3 = i.toNat / 3 ∧
      IsChain s p (i + BitVec.ofNat 32 m.len) (n :: ns)

/-- A command stands in the allocator as it was submitted, or none is in progress, and the management core runs its
firmware (R327, R413). -/
def Submitted (s : State) (code w : Nat) (ops : List W64) : Prop :=
  s.mgmt.booted = true ∧ (s.mgmt.running = [] ∨ s.mgmt.running = cmdWords code w ops ∧ s.mgmt.begun = false)

/-- The command has begun, and now waits. -/
def Begun (s : State) (code w : Nat) (ops : List W64) : Prop :=
  s.mgmt.booted = true ∧ s.mgmt.running = cmdWords code w ops ∧ s.mgmt.begun = true

/-- The command has ended with a status, and PF vector 6 is raised (R327, R434). -/
def Ended (s t : State) (status : Nat) : Prop :=
  t.mgmt.running = [] ∧ t.mgmt.begun = false ∧ t.mgmt.allocStatus = status ∧
  (t.fn 0).irqStatus = (s.fn 0).irqStatus ||| 64 ∧ ∀ f, f ≠ 0 → t.fn f = s.fn f

/-- The command has ended with a status, whatever else it did. -/
def Done (t : State) (status : Nat) : Prop :=
  t.mgmt.running = [] ∧ t.mgmt.begun = false ∧ t.mgmt.allocStatus = status ∧ (t.fn 0).irqStatus.getLsbD 6 = true

/-- Nothing differs but the worlds' own records, the management core's and the model's bookkeeping, and what PF
vector 6 changes. -/
def OnlyWorlds (s t : State) : Prop :=
  { t with worlds := s.worlds, mgmt := s.mgmt, fns := s.fns, out := s.out, book := s.book } = s

/-- The command is performed: it ends with status 0, only world w differs, and that is now `f` of what it was. -/
def SetsWorld (i : Instr) (s : State) (w : Nat) (f : World → World) : Prop :=
  ∃ t, exec i s = .next t ∧ Ended s t 0 ∧ OnlyWorlds s t ∧ t.world w = f (s.world w) ∧ ∀ v, v ≠ w → t.world v = s.world v

/-- A LIMITS command of a kind that takes its operands as they stand. -/
def Limit (s : State) (kind w : Nat) (ops : List W64) : Prop :=
  Submitted s 5 w ops ∧ s.present w = true ∧ opw ops 1 = BitVec.ofNat 64 kind ∧ restZero ops 6 = true

/-- Nothing differs but what has been sent to the outside. -/
def Sends (i : Instr) (s : State) (xs : List Out) : Prop := exec i s = .next { s with out := s.out ++ xs }

/-- The bytes from pa on are `bs`, and every other byte of memory is as it was. -/
def MemoryPut (s t : State) (pa : Nat) (bs : List Byte) : Prop :=
  t.mem.read pa bs.length = bs ∧ ∀ a, (a < pa ∨ pa + bs.length ≤ a) → t.mem.byte a = s.mem.byte a

/-- An entry of the remote ownership table admits the access, and is not MOVING (R351). -/
def Admitted (s : State) (peer rworld : Nat) (kind : RemoteKind) : Prop :=
  ∃ e ∈ s.remoteEntries peer rworld kind, e.getLsbD 1 = false

end Sys2Proof.Claims
end

