-- ==== Sys2Proof/Certificates/Slice0/Obligations.lean ====
section
/-! DEFINITION. The statements about the model that are to be proved. -/

open Sys2Proof Sys2Proof.Machine Sys2Proof.Claims

/-- R151: the integer arithmetic of the lanes, modulo 2^32; the high products are bits 63 to 32 of the 64-bit product,
and the saturating sum is clamped. No status is set (R135). R152: minima, maxima, logic, shifts and bit counts; a
shift of 32 or more gives zeros, or copies of the sign. -/
def Obligations.IntegerLanes : Prop :=
  (Computes2 .iadd (fun a b => a + b) ∧ Computes2 .isub (fun a b => a - b) ∧ Computes2 .imul (fun a b => a * b) ∧
   Computes2 .imulhiS (fun a b => (a.signExtend 64 * b.signExtend 64).extractLsb' 32 32) ∧
   Computes2 .imulhiZ (fun a b => (a.setWidth 64 * b.setWidth 64).extractLsb' 32 32) ∧
   ComputesFp .imad (fun _ a b d => (a * b + d, 0)) ∧
   Computes2 .iaddsatS (fun a b =>
     if 2 ^ 31 ≤ a.toInt + b.toInt then 0x7FFFFFFF else if a.toInt + b.toInt < -2 ^ 31 then 0x80000000 else a + b)) ∧
  (Computes2 .iminS (fun a b => if a.toInt < b.toInt then a else b) ∧
   Computes2 .imaxS (fun a b => if a.toInt < b.toInt then b else a) ∧
   Computes2 .iminZ (fun a b => if a.toNat < b.toNat then a else b) ∧
   Computes2 .imaxZ (fun a b => if a.toNat < b.toNat then b else a) ∧
   Computes2 .iand (fun a b => a &&& b) ∧ Computes2 .ior (fun a b => a ||| b) ∧ Computes2 .ixor (fun a b => a ^^^ b) ∧
   Computes1 .inot (fun a => ~~~ a) ∧
   Computes2 .ishl (fun a b => BitVec.ofNat 32 (a.toNat * 2 ^ b.toNat)) ∧
   Computes2 .ishrZ (fun a b => BitVec.ofNat 32 (a.toNat / 2 ^ b.toNat)) ∧
   Computes2 .ishrS (fun a b => BitVec.ofInt 32 (a.toInt / 2 ^ b.toNat)) ∧
   Computes1 .ipopc (fun a => BitVec.ofNat 32 ((List.range 32).countP a.getLsbD)) ∧
   Computes1 .iclz (fun a => BitVec.ofNat 32 ((List.range 32).findIdx fun i => a.getLsbD (31 - i))))

/-- R142, R143, R147: sums, products and fused products of FP32 values and of packed BF16 pairs, each rounded once under
RM with its exceptions; and `fmin` and `fmax`, which return an operand bit for bit, −0 below +0. A NaN operand gives
the canonical NaN in every sum, product and fused product (R126, R142). -/
def Obligations.FloatArithmetic : Prop :=
  (ComputesFp .fadd (fun rm a b _ => asLane (fp32.add rm (f32v a) (f32v b))) ∧
   ComputesFp .fsub (fun rm a b _ => asLane (fp32.add rm (f32v a) (f32v b).neg)) ∧
   ComputesFp .fmul (fun rm a b _ => asLane (fp32.mul rm (f32v a) (f32v b))) ∧
   ComputesFp .ffma (fun rm a b d => asLane (fp32.fma rm (f32v a) (f32v b) (f32v d))) ∧
   ComputesFp .fmin (fun _ a b _ =>
     (if (f32v a).isNan && (f32v b).isNan then 0x7FC00000
      else if (f32v a).isNan then b else if (f32v b).isNan then a
      else if compareFp a b = .lt ∨ (compareFp a b = .eq ∧ a.msb = true) then a else b, invOf [f32v a, f32v b])) ∧
   ComputesFp .fmax (fun _ a b _ =>
     (if (f32v a).isNan && (f32v b).isNan then 0x7FC00000
      else if (f32v a).isNan then b else if (f32v b).isNan then a
      else if compareFp a b = .gt ∨ (compareFp a b = .eq ∧ b.msb = true) then a else b, invOf [f32v a, f32v b])) ∧
   ComputesFp .badd (fun rm a b d => pairOp (fun x y _ => bf16.add rm x y) a b d) ∧
   ComputesFp .bmul (fun rm a b d => pairOp (fun x y _ => bf16.mul rm x y) a b d) ∧
   ComputesFp .bfma (fun rm a b d => pairOp (fun x y z => bf16.fma rm x y z) a b d)) ∧
  (∀ rm x y, (x.isNan || y.isNan) = true →
     (fp32.add rm x y).1 = 0x7FC00000 ∧ (fp32.mul rm x y).1 = 0x7FC00000 ∧
     (∀ z, (fp32.fma rm x y z).1 = 0x7FC00000 ∧ (fp32.fma rm x z y).1 = 0x7FC00000 ∧ (fp32.fma rm z x y).1 = 0x7FC00000) ∧
     (bf16.add rm x y).1 = 0x7FC0 ∧ (bf16.mul rm x y).1 = 0x7FC0)

/-- R144, R145, R148 to R150: `fneg`, `fabs`, `frcp`, `frsq`, `fex2`, `flg2`, `ftanh` and `cvt` of every code complete
in every state, with every operand and guard; a lane of the effective mask gets the function of its source, and all
else of the troupe is as it was. Of the functions: R145's table of special cases, NaN operands, `flg2` of +1, and
`fex2` of an integer from −149 to 127, which is exact. Of the conversions: which bits of d are kept, the truncations
to integers with their ends of range and exceptions, NaN sources, and the integer codes. -/
def Obligations.FloatFunctions : Prop :=
 (let isNaN (a : W32) : Prop := 0x7F800000 < a.toNat % 2 ^ 31
  let quiet (a : W32) : Bool := a.getLsbD 22
  (∀ (g : Rm → Fp → Nat × Exc), g = fpRcp ∨ g = fpRsq ∨ g = fpEx2 ∨ g = fpLg2 ∨ g = fpTanh →
    ∀ rm a, isNaN a → asLane (g rm (f32v a)) = (0x7FC00000, if quiet a then 0 else 1)) ∧
  (∀ rm,
    let table (g : Rm → Fp → Nat × Exc) (xs : List (W32 × W32 × Exc)) : Prop :=
      ∀ x ∈ xs, asLane (g rm (f32v x.1)) = x.2
    let ninf : W32 := 0xFF800000
    let pinf : W32 := 0x7F800000
    let nzero : W32 := 0x80000000
    table fpRcp [(ninf, nzero, 0), (nzero, ninf, 2), (0, pinf, 2), (pinf, 0, 0)] ∧
    table fpRsq [(ninf, 0x7FC00000, 1), (nzero, ninf, 2), (0, pinf, 2), (pinf, 0, 0)] ∧
    table fpEx2 [(ninf, 0, 0), (nzero, 0x3F800000, 0), (0, 0x3F800000, 0), (pinf, pinf, 0)] ∧
    table fpLg2 [(ninf, 0x7FC00000, 1), (nzero, ninf, 2), (0, ninf, 2), (0x3F800000, 0, 0), (pinf, pinf, 0)] ∧
    table fpTanh [(ninf, 0xBF800000, 0), (nzero, nzero, 0), (0, 0, 0), (pinf, 0x3F800000, 0)]) ∧
  (∀ rm (a : W32), 0x80000000 < a.toNat → a.toNat < 0xFF800000 →
    asLane (fpRsq rm (f32v a)) = (0x7FC00000, 1) ∧ asLane (fpLg2 rm (f32v a)) = (0x7FC00000, 1)) ∧
  (∀ rm a neg m e (n : Int), f32v a = .num neg m e → -149 ≤ n → n ≤ 127 →
    signed neg m * 2 ^ (e + 149).toNat = n * 2 ^ 149 →
    asLane (fpEx2 rm (f32v a)) =
      (if -126 ≤ n then BitVec.ofInt 32 ((n + 127) * 2 ^ 23) else 1#32 <<< (n + 149).toNat, 0)) ∧
  (∀ rm a d,
    (∀ code, code = 0x0A ∨ code = 0x0C → (convert code rm a d).1.extractLsb' 16 16 = 0) ∧
    (∀ code, code = 0x0B ∨ code = 0x0D → (convert code rm a d).1.extractLsb' 0 16 = d.extractLsb' 0 16) ∧
    (∀ code k j, j < 4 → j ≠ k → k < 4 →
      code = 0x16 + k ∨ code = 0x1A + k ∨ code = 0x1E + k ∨ code = 0x26 + k →
      (convert code rm a d).1.extractLsb' (8 * j) 8 = d.extractLsb' (8 * j) 8) ∧
    (∀ k, k < 4 → convert (0x22 + k) rm a d = ((a.extractLsb' (8 * k) 8).signExtend 32, 0)) ∧
    (∀ k, k < 4 → (convert (0x26 + k) rm a d).2 = 0 ∧
      (convert (0x26 + k) rm a d).1.extractLsb' (8 * k) 8 = BitVec.ofInt 8 (max (-128) (min 127 a.toInt))) ∧
    (isNaN a →
      (∀ code, 2 ≤ code → code ≤ 5 → convert code rm a d = (0, 1)) ∧
      (∀ k, k < 4 → (convert (0x16 + k) rm a d).1.extractLsb' (8 * k) 8 = 0x7F ∧
        (convert (0x1A + k) rm a d).1.extractLsb' (8 * k) 8 = 0x7E ∧
        (convert (0x1E + k) rm a d).1.extractLsb' (8 * k) 8 = 0x7E) ∧
      (convert 0x0A rm a d).1.extractLsb' 0 16 = 0x7E00 ∧ (convert 0x0C rm a d).1.extractLsb' 0 16 = 0x7FC0 ∧
      ∀ code, 0x0A ≤ code → code ≤ 0x21 → code < 0x0E ∨ 0x16 ≤ code →
        (convert code rm a d).2 = if quiet a then 0 else 1) ∧
    ∀ neg m e, f32v a = .num neg m e →
      let whole : Int := signed neg (if 0 ≤ e then m * 2 ^ e.toNat else m / 2 ^ (-e).toNat)
      let exact : Bool := decide (0 ≤ e ∨ m % 2 ^ (-e).toNat = 0)
      let goes (lo hi : Int) (r : W32 × Exc) : Prop :=
        r = (BitVec.ofInt 32 (max lo (min hi whole)),
          if whole < lo ∨ hi < whole then 1 else if exact then 0 else 16)
      goes (-2 ^ 31) (2 ^ 31 - 1) (convert 4 rm a d) ∧ goes 0 (2 ^ 32 - 1) (convert 5 rm a d))) ∧
  Computes1 .fneg (fun a => BitVec.ofBool (!a.msb) ++ a.extractLsb' 0 31) ∧
  Computes1 .fabs (fun a => BitVec.ofBool false ++ a.extractLsb' 0 31) ∧
  ComputesFp1 .frcp (fun rm a => asLane (fpRcp rm (f32v a))) ∧ ComputesFp1 .frsq (fun rm a => asLane (fpRsq rm (f32v a))) ∧
  ComputesFp1 .fex2 (fun rm a => asLane (fpEx2 rm (f32v a))) ∧ ComputesFp1 .flg2 (fun rm a => asLane (fpLg2 rm (f32v a))) ∧
  ComputesFp1 .ftanh (fun rm a => asLane (fpTanh rm (f32v a))) ∧
  ∀ h g d a code s, Completes (.cvt h g d a code) h.e s
    (VectorWritten s (s.effective g) d.val 1
      (fun l => (convert code.val s.src.rm (vsrc s.src a l) (vsrc s.src d l)).1)
      (fun l => (convert code.val s.src.rm (vsrc s.src a l) (vsrc s.src d l)).2))

/-- R153: the integer compares. R146: the floating-point compares; `fcmp.lt` and `fcmp.le` raise INV on any NaN, the
others on a signalling one. -/
def Obligations.VectorCompares : Prop :=
  (Compares .icmpEq (fun a b => decide (a = b)) ∧ Compares .icmpNe (fun a b => decide (a ≠ b)) ∧
   Compares .icmpLtS (fun a b => decide (a.toInt < b.toInt)) ∧ Compares .icmpLeS (fun a b => decide (a.toInt ≤ b.toInt)) ∧
   Compares .icmpLtZ (fun a b => decide (a.toNat < b.toNat)) ∧ Compares .icmpLeZ (fun a b => decide (a.toNat ≤ b.toNat))) ∧
  (ComparesFp .fcmpEq (fun r => decide (r = .eq)) (fun _ snan => snan) ∧
   ComparesFp .fcmpNe (fun r => decide (r ≠ .eq)) (fun _ snan => snan) ∧
   ComparesFp .fcmpLt (fun r => decide (r = .lt)) (fun r _ => decide (r = .un)) ∧
   ComparesFp .fcmpLe (fun r => decide (r = .lt ∨ r = .eq)) (fun r _ => decide (r = .un)) ∧
   ComparesFp .fcmpUn (fun r => decide (r = .un)) (fun _ snan => snan))

/-- R154, R155: select, moves, the lane index, and the shuffles, which read v[A] as it stood in every lane. R156:
`redi.add` adds the signed lanes of its mask exactly; `redf.add` and `redf.max` deliver the root of the fixed tree
over them, and its exceptions go to the lowest lane. Nothing is written for an empty mask. -/
def Obligations.MovesShufflesReductions : Prop :=
  ((∀ h neg p d a b s, Completes (.sel h neg p d a b) h.e s
     (VectorWritten s (s.effective .always) d.val (vlen b)
       (fun l => if inMask (s.src.preg p.val) l != neg then vsrc s.src a l else vval b s.src l) fun _ => 0)) ∧
   (∀ h g d b s, Completes (.mov h g d b) h.e s
     (VectorWritten s (s.effective g) d.val (vlen b) (fun l => vval b s.src l) fun _ => 0)) ∧
   (∀ h g d a hi s, Completes (.vbcast h g d a hi) h.e s
     (VectorWritten s (s.effective g) d.val 1
       (fun _ => (s.src.sreg a.val).extractLsb' (if hi then 32 else 0) 32) fun _ => 0)) ∧
   (∀ h g d s, Completes (.vlane h g d) h.e s
     (VectorWritten s (s.effective g) d.val 1 (fun l => BitVec.ofNat 32 l) fun _ => 0)) ∧
   (∀ h g d a b s, Completes (.shflIdx h g d a b) h.e s
     (VectorWritten s (s.effective g) d.val (vlen b)
       (fun l => vsrc s.src a ((vval b s.src l).setWidth 7).toNat) fun _ => 0)) ∧
   (∀ h g d a b s, Completes (.shflXor h g d a b) h.e s
     (VectorWritten s (s.effective g) d.val (vlen b)
       (fun l => vsrc s.src a (BitVec.ofNat 7 l ^^^ (vval b s.src l).setWidth 7).toNat) fun _ => 0)) ∧
   (∀ h g d a b s, Completes (.shflUp h g d a b) h.e s
     (VectorWritten s (s.effective g) d.val (vlen b)
       (fun l => vsrc s.src a (if (vval b s.src l).toNat ≤ l then l - (vval b s.src l).toNat else l)) fun _ => 0)) ∧
   (∀ h g d a b s, Completes (.shflDn h g d a b) h.e s
     (VectorWritten s (s.effective g) d.val (vlen b)
       (fun l => vsrc s.src a (if l + (vval b s.src l).toNat ≤ 127 then l + (vval b s.src l).toNat else l)) fun _ => 0))) ∧
  ((∀ h g d a s, s.effective g ≠ 0 → Completes (.rediAdd h g d a) h.e s (ScalarWritten s d.val 1
     (BitVec.ofInt 64 (((lanesOf (s.effective g)).map fun l => (vsrc s.src a l).toInt).sum)))) ∧
   (∀ h g d a s, s.effective g ≠ 0 →
     ∃ x k rest, tree (fun x y => asLane (fp32.add s.src.rm (f32v x) (f32v y))) 7
         ((List.range 128).map fun l => if inMask (s.effective g) l then some (vsrc s.src a l) else none) 0 =
           (some x :: rest, k) ∧
       Completes (.redfAdd h g d a) h.e s fun u =>
         ScalarWritten s d.val 1 (x.setWidth 64) { u with sticky := s.me.sticky } ∧
         u.sticky = s.me.sticky.gather (1#128 <<< ((lanesOf (s.effective g)).headD 0)) fun _ => k) ∧
   (∀ h g d a s, s.effective g ≠ 0 →
     ∃ x k rest, tree (fun x y => minMax true x y) 7
         ((List.range 128).map fun l => if inMask (s.effective g) l then some (vsrc s.src a l) else none) 0 =
           (some x :: rest, k) ∧
       Completes (.redfMax h g d a) h.e s fun u =>
         ScalarWritten s d.val 1 (x.setWidth 64) { u with sticky := s.me.sticky } ∧
         u.sticky = s.me.sticky.gather (1#128 <<< ((lanesOf (s.effective g)).headD 0)) fun _ => k) ∧
   ∀ h g d a s, s.effective g = 0 →
     Completes (.rediAdd h g d a) h.e s (fun u => u = behind s.me 1) ∧
     Completes (.redfAdd h g d a) h.e s (fun u => u = behind s.me 1) ∧
     Completes (.redfMax h g d a) h.e s (fun u => u = behind s.me 1))

/-- R110: a scalar compare writes its flag with 1 when its condition holds and with 0 when it does not. R157, R158:
logic on predicates, lane by lane, and `ballot`, which writes its pair only when its mask has a lane. -/
def Obligations.FlagsAndPredicates : Prop :=
  (ComparesS .scmpEq (fun a b => decide (a = b)) ∧ ComparesS .scmpNe (fun a b => decide (a ≠ b)) ∧
   ComparesS .scmpLtS (fun a b => decide (a.toInt < b.toInt)) ∧ ComparesS .scmpLtZ (fun a b => decide (a.toNat < b.toNat)) ∧
   ComparesS .scmpLeS (fun a b => decide (a.toInt ≤ b.toInt)) ∧ ComparesS .scmpLeZ (fun a b => decide (a.toNat ≤ b.toNat))) ∧
  ((∀ h g pd pa pb s, Completes (.pand h g pd pa pb) h.e s (PredWritten s (s.effective g) pd.val 1
     (fun l => inMask (s.src.preg pa.val) l && inMask (s.src.preg pb.val) l) fun _ => 0)) ∧
   (∀ h g pd pa pb s, Completes (.por h g pd pa pb) h.e s (PredWritten s (s.effective g) pd.val 1
     (fun l => inMask (s.src.preg pa.val) l || inMask (s.src.preg pb.val) l) fun _ => 0)) ∧
   (∀ h g pd pa pb s, Completes (.pxor h g pd pa pb) h.e s (PredWritten s (s.effective g) pd.val 1
     (fun l => inMask (s.src.preg pa.val) l != inMask (s.src.preg pb.val) l) fun _ => 0)) ∧
   (∀ h g pd pa s, Completes (.pnot h g pd pa) h.e s (PredWritten s (s.effective g) pd.val 1
     (fun l => !inMask (s.src.preg pa.val) l) fun _ => 0)) ∧
   ∀ h g d pa s,
     (s.effective g ≠ 0 → Completes (.ballot h g d pa) h.e s
       (PairWritten s (2 * d.val) 1 (s.src.preg pa.val &&& s.effective g))) ∧
     (s.effective g = 0 → Completes (.ballot h g d pa) h.e s fun u => u = behind s.me 1))

/-- R108: 64-bit arithmetic, logic and moves of scalars; shifts are by the low six bits of the second operand. R109: a
bit field is taken from its place, or put into its place, bit by bit; bits above 63 do not exist. -/
def Obligations.ScalarArithmetic : Prop :=
  (ComputesS .sadd (fun a b => a + b) ∧ ComputesS .ssub (fun a b => a - b) ∧ ComputesS .smul (fun a b => a * b) ∧
   ComputesS .sand (fun a b => a &&& b) ∧ ComputesS .sor (fun a b => a ||| b) ∧ ComputesS .sxor (fun a b => a ^^^ b) ∧
   ComputesS .sshl (fun a b => a <<< (b.setWidth 6)) ∧ ComputesS .sshrZ (fun a b => a >>> (b.setWidth 6)) ∧
   ComputesS .sshrS (fun a b => BitVec.ofInt 64 (a.toInt / 2 ^ (b.setWidth 6).toNat)) ∧
   (∀ h d b s, Completes (.smov h d b) h.e s (ScalarWritten s d.val (slen b) (sval b s.src))) ∧
   ∀ h d lo hi s, Completes (.smov64 h d lo hi) h.e s
     (ScalarWritten s d.val 3 (BitVec.ofNat 64 (hi.toNat * 2 ^ 32 + lo.toNat)))) ∧
  (∀ h d a b s, let lo := ((sval b s.src).setWidth 6).toNat
     let width := ((sval b s.src).extractLsb' 8 6).toNat + 1
     (∃ x, Completes (.sbfx h d a b) h.e s (ScalarWritten s d.val (slen b) x) ∧
       ∀ i, i < 64 → x.getLsbD i = (decide (i < width ∧ lo + i ≤ 63) && (s.src.sreg a.val).getLsbD (lo + i))) ∧
     ∃ x, Completes (.sbfi h d a b) h.e s (ScalarWritten s d.val (slen b) x) ∧
       ∀ i, i < 64 → x.getLsbD i =
         if lo ≤ i ∧ i < lo + width then (s.src.sreg a.val).getLsbD (i - lo) else (s.src.sreg d.val).getLsbD i)

/-- R103, R104, R119: `srds` copies each special register; `clock` and `cycles` read their counts. R104, R105, R137:
`swrs` writes the writable fields of its target and nothing else; writing 1 to a bit of %fstat clears it in every lane
and in REPORTED, and to bit 32 of %mbatch clears SPECIAL. -/
def Obligations.SpecialRegisters : Prop :=
  (∀ h d s, let t := s.src
     let reads (n : Fin 18) (x : W64) : Prop := Completes (.srds h d n) h.e s (ScalarWritten s d.val 1 x)
     let l := s.launch t.launch
     reads 0 (BitVec.ofNat 64 t.tid) ∧ reads 1 (BitVec.ofNat 64 ((l.threads + 127) / 128)) ∧
     reads 2 (BitVec.ofNat 64 t.core) ∧ reads 3 (BitVec.ofNat 64 t.tslot) ∧ reads 4 (BitVec.ofNat 64 t.world) ∧
     reads 5 (BitVec.ofNat 64 t.launch) ∧ reads 6 (BitVec.ofNat 64 s.cycle) ∧
     reads 7 (if t.act.armed then t.act.ad else l.word 7) ∧ reads 8 ((l.word 8).extractLsb' 0 32 |>.setWidth 64) ∧
     reads 9 (t.sp.divpc.setWidth 64) ∧ reads 10 (t.sp.divcause.setWidth 64) ∧ reads 11 t.sp.timer ∧
     reads 12 (t.sp.timerent.setWidth 64) ∧ reads 13 (t.sp.trappc.setWidth 64) ∧ reads 14 (t.sp.fpctl.setWidth 64) ∧
     reads 15 (t.sticky.summary.setWidth 64) ∧
     reads 17 (BitVec.ofNat 64 (t.sp.batch.toNat + (if t.sp.special then 2 ^ 32 else 0))) ∧
     (d.val % 2 = 0 → Completes (.srds h d 16) h.e s (PairWritten s d.val 1 t.sp.replay)) ∧
     Completes (.clock h d) h.e s (ScalarWritten s d.val 1 (BitVec.ofNat 64 (s.alm + (s.core t.core).almSkew))) ∧
     Completes (.cycles h d) h.e s (ScalarWritten s d.val 1 (BitVec.ofNat 64 t.ctl.cycles))) ∧
  (∀ h a s, let x := s.src.sreg a.val
     let u := behind s.me 1
     Completes (.swrs h .timerent a) h.e s (fun t => t = { u with sp := { u.sp with timerent := x.setWidth 32 } }) ∧
     Completes (.swrs h .trappc a) h.e s (fun t => t = { u with sp := { u.sp with trappc := x.setWidth 32 } }) ∧
     Completes (.swrs h .fpctl a) h.e s (fun t => t = { u with sp := { u.sp with fpctl := x.setWidth 8 } }) ∧
     Completes (.swrs h .mbatch a) h.e s
       (fun t => t = { u with sp := { u.sp with special := u.sp.special && !x.getLsbD 32 } }) ∧
     Completes (.swrs h .fstat a) h.e s (fun t =>
       t = { u with sticky := t.sticky, reported := t.reported } ∧
       (∀ i, i < 5 → t.reported.getLsbD i = (s.me.reported.getLsbD i && !x.getLsbD i)) ∧
       ∀ l, inMask t.sticky.inv l = (inMask s.me.sticky.inv l && !x.getLsbD 0) ∧
         inMask t.sticky.dz l = (inMask s.me.sticky.dz l && !x.getLsbD 1) ∧
         inMask t.sticky.ovf l = (inMask s.me.sticky.ovf l && !x.getLsbD 2) ∧
         inMask t.sticky.unf l = (inMask s.me.sticky.unf l && !x.getLsbD 3) ∧
         inMask t.sticky.nx l = (inMask s.me.sticky.nx l && !x.getLsbD 4)))

/-- R111: the mask instructions; pair(x) is s[x + 1] × 2^64 + s[x]. -/
def Obligations.MaskInstructions : Prop :=
  (∀ h d live s, Completes (.exsave h d live) h.e s
    (PairWritten s (2 * d.val) 1 (if live then s.src.live else s.src.exec))) ∧
  (∀ h a s, Completes (.exload h a) h.e s fun u =>
    u = { behind s.me 1 with exec := (s.src.sreg (2 * a.val + 1) ++ s.src.sreg (2 * a.val)) &&& s.src.live }) ∧
  (∀ h p s, Completes (.exand h p) h.e s fun u => u = { behind s.me 1 with exec := s.src.exec &&& s.src.preg p.val }) ∧
  (∀ h p s, Completes (.exandn h p) h.e s fun u =>
    u = { behind s.me 1 with exec := s.src.exec &&& ~~~ s.src.preg p.val }) ∧
  (∀ h d p s, Completes (.exif h d p) h.e s fun u =>
    PairWritten s (2 * d.val) 1 s.src.exec { u with exec := s.me.exec } ∧ u.exec = s.src.exec &&& s.src.preg p.val) ∧
  (∀ h a s, Completes (.exelse h a) h.e s fun u => u = { behind s.me 1 with
    exec := (s.src.sreg (2 * a.val + 1) ++ s.src.sreg (2 * a.val)) &&& ~~~ s.src.exec &&& s.src.live }) ∧
  ∀ h d live s, Completes (.excnt h d live) h.e s (ScalarWritten s d.val 1
    (BitVec.ofNat 64 ((List.range 128).countP fun l => inMask (if live then s.src.live else s.src.exec) l)))

/-- R113, R114, R123: where each branch goes, and that a taken branch ends the run whatever E holds. -/
def Obligations.Branches : Prop :=
  let goes (i : Instr) (e taken : Bool) (target : W32) (s : State) : Prop :=
    Completes i (taken || e) s fun u => u = { behind s.me 2 with pc := if taken then target else s.me.pc + 2 }
  (∀ e off s, goes (.br e off) e true (s.me.pc + off) s) ∧
  (∀ e off s, goes (.bexz e off) e (decide (s.src.exec = 0)) (s.me.pc + off) s) ∧
  (∀ e off s, goes (.bexnz e off) e (decide (s.src.exec ≠ 0)) (s.me.pc + off) s) ∧
  (∀ e f off s, goes (.bf e f off) e (s.src.f.getLsbD f.val) (s.me.pc + off) s) ∧
  (∀ e f off s, goes (.bnf e f off) e (!s.src.f.getLsbD f.val) (s.me.pc + off) s) ∧
  (∀ e a off s, goes (.bri e a off) e true ((s.src.sreg a.val).setWidth 32 + off) s) ∧
  (∀ e d off s, Completes (.call e d off) true s fun u =>
    u.pc = s.me.pc + off ∧ ScalarWritten s d.val 2 ((s.me.pc + 2).setWidth 64) { u with pc := s.me.pc + 2 }) ∧
  (∀ e a off s, Completes (.loop e a off) (decide (s.src.sreg a.val ≠ 1) || e) s fun u =>
    u.pc = (if s.src.sreg a.val ≠ 1 then s.me.pc + off else s.me.pc + 2) ∧
    ScalarWritten s a.val 2 (s.src.sreg a.val - 1) { u with pc := s.me.pc + 2 }) ∧
  ∀ h s, Completes (.nop h) h.e s fun u => u = behind s.me 1

/-- R119 to R122, R373: the timer instructions, `tret` and `yield`, which end the run; and `lexit` and `exit`, which
retire lanes. R137, R138: with new exceptions `exit`, `lexit` of the last lanes and `bar.wait` report them first, and
halt the troupe instead of taking effect where HALT is set; that `bar.wait` makes all its checks before it reports is
the model's choice (log 79). -/
def Obligations.TimeAndRetirement : Prop :=
  (∀ e a b s, Completes (.timerset e a b) e s fun u => u = { behind s.me (slen b) with
    sp := { s.me.sp with
      timer := if BitVec.ofNat 64 s.cycle + s.src.sreg a.val = 0 then 1 else BitVec.ofNat 64 s.cycle + s.src.sreg a.val
      timerent := (sval b s.src).setWidth 32 } }) ∧
  (∀ e s, Completes (.timerclr e) e s fun u => u = { behind s.me 1 with sp := { s.me.sp with timer := 0 } }) ∧
  (∀ e s, Completes (.tret e) true s fun u => u = { behind s.me 1 with pc := s.src.sp.trappc, handler := false }) ∧
  (∀ e s, Completes (.yield e) true s fun u =>
    u = { behind s.me 1 with ctl := { (behind s.me 1).ctl with yielded := true } }) ∧
  (∀ e s, s.src.live &&& ~~~ s.src.exec ≠ 0 → Completes (.lexit e) e s fun u =>
    u = { behind s.me 1 with live := s.src.live &&& ~~~ s.src.exec, exec := 0 }) ∧
  (∀ e i s, (i = .exit e ∨ (i = .lexit e ∧ s.src.live &&& ~~~ s.src.exec = 0)) → s.src.newExceptions = 0 →
    Gives (exec i s) fun t =>
      { t with troupes := s.troupes, cores := s.cores, book := s.book } = s ∧
      (∀ k, k ≠ s.me.key → t.troupe k = s.troupe k) ∧
      (∃ u, t.troupe s.me.key = some u ∧ u.ctl.exited = true ∧
        u = { s.me with live := 0, exec := 0, ctl := u.ctl }) ∧
      ((t.core s.me.core).islots.get (s.me.tslot % 4) {}).holder ≠ some s.me.tslot) ∧
  (∀ e i s, (i = .exit e ∨ (i = .lexit e ∧ s.src.live &&& ~~~ s.src.exec = 0)) →
    Reports i s fun u => u.ctl.exited = true ∧ u.live = 0 ∧ u.exec = 0) ∧
  ∀ e a b s, BarReady s a → ((s.core s.me.core).bar (s.src.sreg a.val).toNat).error = false →
    Reports (.barWait e a b) s fun u => u.ctl.exited = s.me.ctl.exited ∧ u.live = s.me.live

/-- R41, R356, R357: what the end of a run does to the troupe: it gives up its issue slot; a divert that is due takes
effect, with `exec` made `live` and the program counter saved and set to the launch's wrap-up entry; and its
registers, its other troupes, memory and scratchpads are as they were. -/
def Obligations.RunEnd : Prop :=
  ∀ (s : State) (k : Nat) (m : Troupe), s.book.cur = k → s.troupe k = some m → let t := s.endRun
    { t with cores := s.cores, troupes := s.troupes, worlds := s.worlds, book := s.book } = s ∧
    (∀ j, j ≠ k → t.troupe j = s.troupe j) ∧
    (∀ c, { t.core c with islots := (s.core c).islots } = s.core c) ∧
    ((t.core m.core).islots.get (m.tslot % 4) {}).holder ≠ some m.tslot ∧
    (∀ w, { t.world w with counters := (s.world w).counters } = s.world w) ∧
    ∃ u, t.troupe k = some u ∧
      u = { m with exec := u.exec, pc := u.pc, sp := u.sp, handler := u.handler, wrap := u.wrap, ctl := u.ctl } ∧
      (m.ctl.divert = false → m.act.armed = false →
        u = { m with ctl := { m.ctl with readyAt := s.cycle, stalled := false } }) ∧
      (m.ctl.divert = true → m.wrap ≠ .launch → m.ctl.exited = false → m.ctl.stopped = false → m.ctl.halted = false →
        m.ctl.debug = false → u.exec = m.live ∧ u.pc = (s.launch m.launch).wrapEntry ∧ u.wrap = .launch ∧ u.sp.divpc = m.pc ∧
        u.sp.divcause = 1 ∧ u.sp.replay = 0 ∧ u.sp.timer = 0 ∧ u.handler = false)

/-- R115 to R117: the ensemble instructions: a new ensemble is the lowest-numbered free one of the world, or all ones
without one; joining adds the troupe to the member set, leaving removes it, and freeing clears the allocated bit, with
status 0, and every other ensemble and register is as before. With another status nothing changes: 1 for an ensemble not
allocated, 2 for a member that joins or another troupe that leaves, 3 for a full ensemble or troupe, 4 for an ensemble
with members; that 2 comes before 3 is the model's choice (log 82). A number that is out of range or not bound to the
world faults with cause 4; access type and address of its record are the model's (log 12). -/
def Obligations.EnsembleInstructions : Prop :=
  let named (s : State) (a : Reg) (n : Nat) : Prop :=
    s.src.sreg a.val = BitVec.ofNat 64 n ∧ n < 4096 ∧ (s.ensemble n).owner = s.src.world
  (∀ e d s, (∀ n, n < 4096 → (s.ensemble n).owner = s.me.world → (s.ensemble n).allocated = true) →
    Completes (.ensNew e d) e s (ScalarWritten s d.val 1 ones64)) ∧
  (∀ e d a s n, named s a n →
    ((s.ensemble n).allocated = false →
      Completes (.ensJoin e d a) e s (ScalarWritten s d.val 1 1) ∧
      Completes (.ensLeave e d a) e s (ScalarWritten s d.val 1 1) ∧
      Completes (.ensFree e d a) e s (ScalarWritten s d.val 1 1)) ∧
    ((s.ensemble n).allocated = true →
      (n ∈ s.me.ctl.ens → Completes (.ensJoin e d a) e s (ScalarWritten s d.val 1 2)) ∧
      (n ∉ s.me.ctl.ens → 4095 ≤ (s.ensemble n).members.length ∨ 8 ≤ s.me.ctl.ens.length →
        Completes (.ensJoin e d a) e s (ScalarWritten s d.val 1 3)) ∧
      (n ∉ s.me.ctl.ens → Completes (.ensLeave e d a) e s (ScalarWritten s d.val 1 2)) ∧
      ((s.ensemble n).members ≠ [] → Completes (.ensFree e d a) e s (ScalarWritten s d.val 1 4)))) ∧
  (∀ e d a i s, (i = .ensJoin e d a ∨ i = .ensLeave e d a ∨ i = .ensFree e d a) → Plain s →
    (4096 ≤ (s.src.sreg a.val).toNat ∨ (s.ensemble (s.src.sreg a.val).toNat).owner ≠ s.src.world) →
    ∃ va, Faults i s 4 0 s.src.live va) ∧
  (∀ e d s n, n < 4096 → (s.ensemble n).owner = s.me.world → (s.ensemble n).allocated = false →
    (∀ k, k < n → (s.ensemble k).owner = s.me.world → (s.ensemble k).allocated = true) →
    ∃ t, exec (.ensNew e d) s = .next (ended e t) ∧ { t with troupes := s.troupes, ens := s.ens } = s ∧
      (∀ k, k ≠ s.book.cur → t.troupe k = s.troupe k) ∧ ScalarWritten s d.val 1 (BitVec.ofNat 64 n) t.me ∧
      (t.ensemble n).allocated = true ∧ (t.ensemble n).members = [] ∧ (t.ensemble n).owner = s.me.world ∧
      ∀ k, k ≠ n → t.ensemble k = s.ensemble k) ∧
  (∀ e d a s n, s.src.sreg a.val = BitVec.ofNat 64 n → n < 4096 → (s.ensemble n).owner = s.src.world →
    (s.ensemble n).allocated = true → n ∉ s.me.ctl.ens → (s.ensemble n).members.length < 4095 →
    s.me.ctl.ens.length < 8 →
    ∃ t, exec (.ensJoin e d a) s = .next (ended e t) ∧ { t with troupes := s.troupes, ens := s.ens } = s ∧
      (∀ k, k ≠ s.book.cur → t.troupe k = s.troupe k) ∧
      ScalarWritten s d.val 1 0 { t.me with ctl := (behind s.me 1).ctl } ∧ t.me.ctl.ens = s.me.ctl.ens ++ [n] ∧
      (t.ensemble n).members = (s.ensemble n).members ++ [s.me.uid] ∧ ∀ k, k ≠ n → t.ensemble k = s.ensemble k) ∧
  (∀ e d a s n, s.src.sreg a.val = BitVec.ofNat 64 n → n < 4096 → (s.ensemble n).owner = s.src.world →
    (s.ensemble n).allocated = true → n ∈ s.me.ctl.ens →
    ∃ t, exec (.ensLeave e d a) s = .next (ended e t) ∧
      { t with troupes := s.troupes, ens := s.ens, book := s.book } = s ∧
      (∀ k, k ≠ s.book.cur → t.troupe k = s.troupe k) ∧
      ScalarWritten s d.val 1 0 { t.me with ctl := (behind s.me 1).ctl } ∧ n ∉ t.me.ctl.ens ∧
      (∀ u, u ∈ (t.ensemble n).members ↔ u ∈ (s.ensemble n).members ∧ u ≠ s.me.uid) ∧
      ∀ k, k ≠ n → t.ensemble k = s.ensemble k) ∧
  ∀ e d a s n, s.src.sreg a.val = BitVec.ofNat 64 n → n < 4096 → (s.ensemble n).owner = s.src.world →
    (s.ensemble n).allocated = true → (s.ensemble n).members = [] →
    ∃ t, exec (.ensFree e d a) s = .next (ended e t) ∧ { t with troupes := s.troupes, ens := s.ens } = s ∧
      (∀ k, k ≠ s.book.cur → t.troupe k = s.troupe k) ∧ ScalarWritten s d.val 1 0 t.me ∧
      (t.ensemble n).allocated = false ∧ ∀ k, k ≠ n → t.ensemble k = s.ensemble k

/-- R187, R193, R194: the global loads. With every lane translated they issue, their results come later, and nothing is
read or written yet; guarded off in every lane, or under `exec` = 0, they make no access (R112). R187, R193, R194: the
global stores, with the bytes of each lane taken when they issue. R183, R186 to R188, R367: where lanes have no
translation, the troupe is parked on their page's entry, which is created with a record or joined; a load performs no
lane then, and a store those that translated, which %replay gains. -/
def Obligations.GlobalAccessesIssue : Prop :=
  ((∀ e g d m la, LoadIssues (.ldg8z e g d m la) e g m la.val 1 false d.val) ∧
   (∀ e g d m la, LoadIssues (.ldg8s e g d m la) e g m la.val 1 true d.val) ∧
   (∀ e g d m la, LoadIssues (.ldg16z e g d m la) e g m la.val 2 false d.val) ∧
   (∀ e g d m la, LoadIssues (.ldg16s e g d m la) e g m la.val 2 true d.val) ∧
   (∀ e g d m la, LoadIssues (.ldg32 e g d m la) e g m la.val 4 false d.val) ∧
   (∀ e g d m la, LoadIssues (.ldg64 e g d m la) e g m la.val 8 false (2 * d.val)) ∧
   (∀ e g d m la, LoadIssues (.ldg128 e g d m la) e g m la.val 16 false (4 * d.val)) ∧
   (∀ e d m la s ok, Translated s { bytes := 8, r := true, access := 1 } [(0, scalarAddr s.src m)] ok →
     Issues (.sld e d m la) e la.val (.sload d.val) ok s) ∧
   ∀ e d m la, LoadMisses (.sld e d m la) 8 true (fun s => [(0, scalarAddr s.src m)])) ∧
  ((∀ e g d m la, StoreIssues (.stg8 e g d m la) e g m la.val 1 d.val) ∧
   (∀ e g d m la, StoreIssues (.stg16 e g d m la) e g m la.val 2 d.val) ∧
   (∀ e g d m la, StoreIssues (.stg32 e g d m la) e g m la.val 4 d.val) ∧
   (∀ e g d m la, StoreIssues (.stg64 e g d m la) e g m la.val 8 (2 * d.val)) ∧
   (∀ e g d m la, StoreIssues (.stg128 e g d m la) e g m la.val 16 (4 * d.val)) ∧
   (∀ e d m la s ok, Translated s { bytes := 8, w := true, access := 2 } [(0, scalarAddr s.src m)] ok →
     Issues (.sst e d m la) e la.val (.store 8) (ok.map fun o => { o with data := wordBytes (s.src.sreg d.val) }) s) ∧
   ∀ e d m la, StoreMisses (.sst e d m la) 8 true (fun s => [(0, scalarAddr s.src m)])
     (fun t _ => wordBytes (t.sreg d.val)))

/-- R161 to R164, R193, R194: the scratchpad loads return the bytes of their lanes, and the scratchpad stores write the
lanes' bytes and nothing else. That they wait until no earlier operation of the troupe is outstanding, and are complete
when they issue, is the model's choice (logs 26 and 59). -/
def Obligations.ScratchpadAccesses : Prop :=
  ((∀ e g d m la, SpadLoads (.lds32 e g d m la) e g m 4 d.val) ∧
   (∀ e g d m la, SpadLoads (.lds64 e g d m la) e g m 8 (2 * d.val)) ∧
   (∀ e g d m la, SpadLoads (.lds128 e g d m la) e g m 16 (4 * d.val)) ∧
   ∀ e d m la s o missed, s.src.busyOps = false →
     s.checkSpad s.src 8 [(0, scalarAddr s.src m)] = .go [o] missed →
     ∃ t, exec (.slds e d m la) s = .next (ended e t) ∧ OnlyScratchpad s t ∧
       (∀ c a, (t.core c).spad.byte a = (s.core c).spad.byte a) ∧
       ScalarWritten s d.val 2 (BitVec.ofNat 64 (leNat ((s.core s.me.core).spadRead o.pa 8))) { t.me with pts := s.me.pts }) ∧
  ((∀ e g d m la, SpadStores (.sts32 e g d m la) e g m 4 d.val) ∧
   (∀ e g d m la, SpadStores (.sts64 e g d m la) e g m 8 (2 * d.val)) ∧
   (∀ e g d m la, SpadStores (.sts128 e g d m la) e g m 16 (4 * d.val)) ∧
   ∀ e d m la s o missed, s.src.busyOps = false → (s.core s.src.core).spad.wf = true →
     s.checkSpad s.src 8 [(0, scalarAddr s.src m)] = .go [o] missed →
     ∃ t, exec (.ssts e d m la) s = .next (ended e t) ∧ OnlyScratchpad s t ∧
       t.me = { behind s.me 2 with pts := t.me.pts } ∧
       (∀ c a, (c = s.src.core → ¬ ((s.core c).phys o.pa ≤ a ∧ a < (s.core c).phys o.pa + 8)) →
         (t.core c).spad.byte a = (s.core c).spad.byte a) ∧
       (t.core s.src.core).spadRead o.pa 8 = wordBytes (s.src.sreg d.val))

/-- R189, R190, R196, R200: an atomic or reduction whose requests fit is split into one request for each line, each
queued at the service troupe that the line selects; memory and every register are as before, and `amog` and `amos` are
outstanding until their requests have been performed. With no lane it makes no access (R112), and what it performed
before a miss is forgotten, which is the model's choice for an empty mask (R188; log 78). R183, R187: where lanes have
no translation, the requests of the others are queued all the same, %replay gains them, and the troupe is parked. -/
def Obligations.AtomicsIssue : Prop :=
  ∀ e g x s ok i moduleOnly reduces,
    (i = .amog e g x ∧ moduleOnly = true ∧ reduces = false) ∨ (i = .amos e g x ∧ moduleOnly = false ∧ reduces = false) ∨
      (i = .redg e g x ∧ moduleOnly = false ∧ reduces = true) →
    s.hostPending s.src = false → s.hostAnswers s.src = [] → s.src.ctl.gathered = [] → s.me.ctl.gathered = [] →
    (s.memLanes g = [] → Completes i e s fun u =>
      u = behind (if s.src.sp.replay = 0 then s.me else
        { s.me with sp := { s.me.sp with replay := 0 }, ctl := { s.me.ctl with replayPc := none } }) 2) ∧
   (s.memLanes g ≠ [] → s.fenceChanging = false →
    (x.d.val = 63 ∨ ∀ o ∈ s.src.ops, ∀ aop wide d, o.kind ≠ .atomic aop wide (some d)) →
    ∀ missed, Missed s { bytes := if x.wide then 8 else 4, r := true, w := true, moduleOnly := moduleOnly
                         noHost := !reduces && !hostOp x.aop, watchR := !reduces, access := 3 }
      ((s.memLanes g).map fun l => (l, atomicAddr s.src x l)) ok missed →
    (∀ o ∈ ok, inModule o.pa = true) →
    let requests := s.splitRequests (clusterOf s.src.core) (ok.map (atomicData s.src x))
    s.overQuota s.src.world requests = false → s.requestsFit s.src.world requests = true →
    Misses i s 3 false missed fun t u v => v = { u with
        ops := v.ops, sp := { u.sp with replay := u.sp.replay ||| maskOf fun l => ok.any fun o => o.lane == l } } ∧
      ∀ c, ((t.cluster c).reqQ.drop (s.cluster c).reqQ.length).map (fun r => (r.world, r.aop, r.wide, r.reduces, r.lanes)) =
        (requests.filter fun r => r.1 == c).map fun r => (s.src.world, x.aop, x.wide, reduces, r.2)) ∧
   (s.memLanes g ≠ [] → s.fenceChanging = false →
    (x.d.val = 63 ∨ ∀ o ∈ s.src.ops, ∀ aop wide d, o.kind ≠ .atomic aop wide (some d)) →
    Translated s { bytes := if x.wide then 8 else 4, r := true, w := true, moduleOnly := moduleOnly
                   noHost := !reduces && !hostOp x.aop, watchR := !reduces, access := 3 }
      ((s.memLanes g).map fun l => (l, atomicAddr s.src x l)) ok →
    (∀ o ∈ ok, inModule o.pa = true) →
    s.overQuota s.src.world (s.splitRequests (clusterOf s.src.core) (ok.map (atomicData s.src x))) = false →
    s.requestsFit s.src.world (s.splitRequests (clusterOf s.src.core) (ok.map (atomicData s.src x))) = true →
    ∃ t, exec i s = .next (ended e t) ∧
      { t with troupes := s.troupes, cores := s.cores, clusters := s.clusters, worlds := s.worlds, book := s.book } = s ∧
      t.me.v = s.me.v ∧ t.me.s = s.me.s ∧ t.me.p = s.me.p ∧ t.me.exec = s.me.exec ∧ t.me.pc = s.me.pc + 2 ∧
      ∀ c, ((t.cluster c).reqQ.drop (s.cluster c).reqQ.length).map (fun r => (r.world, r.aop, r.wide, r.reduces, r.lanes)) =
        ((s.splitRequests (clusterOf s.me.core) (ok.map (atomicData s.src x))).filter fun r => r.1 == c).map
          fun r => (s.me.world, x.aop, x.wide, reduces, r.2))

/-- R254, R260, R262: the barrier instructions on an object of their core that no troupe waits for; after each the
unit applies the completion test. `bar.arrive` with earlier operations outstanding becomes an operation of the troupe,
which goes on (R211). `bar.wait` on a phase that has passed goes on and ends the run, and so it does when its own
completion test ends the phase; on another phase it waits. `bar.test` delivers 2 for an object that has failed or
stands in a poisoned row, else 1 or 0. R254, R256: the object's rule as laws of its own: it completes when every
expected arrival has come and nothing is pending, PHASE then advances and ARRIVED returns to 0; too many arrivals fail
it with code 8, and a failed object keeps its first code and its PHASE. -/
def Obligations.Barriers : Prop :=
  ((∀ e a b s, BarReady s a → 1 ≤ fld (sval b s.src) 11 0 → (sval b s.src &&& ~~~ (0x1000FFF : W64)) = 0 →
     ∃ t, exec (.barInit e a b) s = .next (ended e t) ∧ OnlyScratchpad s t ∧
       BarDone s t (s.src.sreg a.val).toNat (.init (fld (sval b s.src) 11 0) (bit (sval b s.src) 24)) ∧
       t.me = { behind s.me (slen b) with pts := t.me.pts }) ∧
   (∀ e d a b s, BarReady s a → 1 ≤ (sval b s.src).toNat → (sval b s.src).toNat ≤ 4095 →
     s.redIds s.src = [] →
     ∃ t, exec (.barArrive e d a b) s = .next (ended e t) ∧ OnlyScratchpad s t ∧
       BarDone s t (s.src.sreg a.val).toNat (.arrive (sval b s.src).toNat) ∧
       ScalarWritten s d.val (slen b)
         (((s.core s.me.core).bar (s.src.sreg a.val).toNat).phase.setWidth 64) { t.me with pts := s.me.pts }) ∧
   (∀ e d a b s, s.barCause s.src (s.src.sreg a.val) = none → 1 ≤ (sval b s.src).toNat → (sval b s.src).toNat ≤ 4095 →
     s.src.busyOps = true ∨ s.redIds s.src ≠ [] →
     ∃ t id, exec (.barArrive e d a b) s = .next (ended e t) ∧ { t with troupes := s.troupes, book := s.book } = s ∧
       (∀ k, k ≠ s.book.cur → t.troupe k = s.troupe k) ∧
       t.me = { behind s.me (slen b) with ops := s.me.ops ++
         [{ id := id, kind := .arrive (s.src.sreg a.val).toNat (sval b s.src).toNat d.val, after := s.redIds s.me }] }) ∧
   (∀ e a b s, BarReady s a → -(2 ^ 27) ≤ (sval b s.src).toInt → (sval b s.src).toInt < 2 ^ 27 →
     ∃ t, exec (.barExpect e a b) s = .next (ended e t) ∧ OnlyScratchpad s t ∧
       BarDone s t (s.src.sreg a.val).toNat (.expect (sval b s.src).toInt) ∧
       t.me = { behind s.me (slen b) with pts := t.me.pts }) ∧
   (∀ e a b s, BarReady s a → s.src.newExceptions = 0 →
     let o := (s.core s.me.core).bar (s.src.sreg a.val).toNat
     let q : W32 := (sval b s.src).setWidth 32
     o.error = false →
     (o.passed q = true →
       ∃ t, exec (.barWait e a b) s = .next ((ended true t).modTroupe s.book.cur fun u =>
           { u with ctl := { u.ctl with readyAt := s.cycle + 8 } }) ∧
         OnlyScratchpad s t ∧ BarDone s t (s.src.sreg a.val).toNat .test ∧
         t.me = { behind s.me (slen b) with pts := t.me.pts } ∧ s.me.pts ≤ t.me.pts) ∧
     (o.passed q = false → s.me.ctl.debug = true ∨ s.me.ctl.divert = false ∧ s.me.act.armed = false →
       s.book.cur = s.me.key → s.me.tslot < 32 →
       ∃ t, exec (.barWait e a b) s = .next t ∧ { t with troupes := s.troupes, cores := s.cores, maxTs := s.maxTs } = s ∧
         (∀ k, k ≠ s.book.cur → t.troupe k = s.troupe k) ∧
         (∀ c, { t.core c with
           spad := (s.core c).spad, spadBad := (s.core c).spadBad, swts := (s.core c).swts, srts := (s.core c).srts
           islots := (s.core c).islots } = s.core c) ∧
         BarDone s t (s.src.sreg a.val).toNat .test ∧
         ((t.core s.me.core).islots.get (s.me.tslot % 4) {}).holder ≠ some s.me.tslot ∧
         ((o.after .test).passed q = false → t.me = { s.me with ctl := { s.me.ctl with
           wait := .bar (s.src.sreg a.val).toNat q (s.almOf s.me.core) (s.me.pc + w32 (slen b))
           head := if s.src.pc = s.me.pc then none else some s.src.saved
           stalled := false } }) ∧
         ((o.after .test).passed q = true → t.me = { behind s.me (slen b) with
           pts := t.me.pts
           ctl := { (behind s.me (slen b)).ctl with wait := .no, head := none, readyAt := s.cycle + 8 } }))) ∧
   ∀ e d a b s, s.barCause s.src (s.src.sreg a.val) = none → s.src.busyOps = false →
     s.waiters s.me.core (s.src.sreg a.val).toNat = [] →
     let o := (s.core s.me.core).bar (s.src.sreg a.val).toNat
     let bad := (s.core s.me.core).spadBad.contains ((s.core s.me.core).phys (s.src.sreg a.val).toNat / 16)
     ∃ t, exec (.barTest e d a b) s = .next (ended e t) ∧ OnlyScratchpad s t ∧
       (BarReady s a → BarDone s t (s.src.sreg a.val).toNat .test) ∧
       ScalarWritten s d.val (slen b)
         (if o.error ∨ bad then 2 else if o.passed ((sval b s.src).setWidth 32) then 1 else 0)
         { t.me with pts := s.me.pts }) ∧
  ((∀ (b : Bar) (n : Nat), b.error = false → b.arrived + n = b.expected → b.pending = 0 →
     b.after (.arrive n) = { b with arrived := 0, phase := b.phase + 1 }) ∧
   (∀ (b : Bar) (n : Nat), b.error = false → b.arrived + n < b.expected →
     b.after (.arrive n) = { b with arrived := b.arrived + n }) ∧
   (∀ (b : Bar) (n : Nat), b.error = false → b.expected < b.arrived + n →
     b.after (.arrive n) = { b with error := true, lastErr := 8 }) ∧
   (∀ (b : Bar) (n : Nat) (c : Option Nat), b.error = true →
     b.after (.arrive n) = b ∧ b.after (.expect n) = b ∧ b.after (.land n c) = b) ∧
   ∀ (b : Bar), b.expected < 4096 → b.arrived < 4096 → -(2 ^ 27) ≤ b.pending → b.pending < 2 ^ 27 → b.lastErr < 256 →
     Bar.ofBytes b.toBytes = b)

/-- R240, R241: the five instructions of the Procession enter the queue of their core's stop, in order, with the
scalars they carry; later passages perform them. One entry of a core is accepted in a cycle, while its queue has room,
and the others hold their issue slots (R84, R85). R274, R275, R277: an exchange store whose lanes name pairs of its
world, for an open phase or for no phase, puts one write for each lane on its way, of lanes at one place the highest
(R194); and `ebar.arrive` of a member records its arrival in the open phase, whose number it returns, and marks its
echo barrier EXTERNAL. -/
def Obligations.RingAndExchangeIssue : Prop :=
  (let enters (i : Instr) (e : Bool) (la : Nat) (x : RingOp) (s : State) : Prop :=
     (s.mayEnter s.src 2 = true → (s.core s.me.core).stopQ.length < 16 → ∃ t id, exec i s = .next (ended e t) ∧
       { t with troupes := s.troupes, cores := s.cores, book := s.book } = s ∧
       (∀ k, k ≠ s.book.cur → t.troupe k = s.troupe k) ∧
       (∀ c, t.core c = { s.core c with
         stopQ := (s.core c).stopQ ++ (if c = s.me.core then
           [{ x with id := id, tkey := s.me.key, uid := s.me.uid, world := s.me.world, issued := s.cycle }] else [])
         taken := if c = s.src.core then (s.core c).taken.put 2 s.cycle else (s.core c).taken }) ∧
       t.me = { behind s.me 2 with
         ops := s.me.ops ++ [{ id := id, kind := .ring (x.kind != 3), la := la }]
         ctl := { (behind s.me 2).ctl with since := none } }) ∧
     (s.mayEnter s.src 2 = false ∨ 16 ≤ (s.core s.me.core).stopQ.length → Gives (exec i s) fun t =>
       { t with troupes := s.troupes, book := s.book } = s ∧ (∀ k, k ≠ s.book.cur → t.troupe k = s.troupe k) ∧
       t.me = { s.src with ctl := { s.src.ctl with stalled := true, since := some (2, s.waitsSince s.src 2) } })
   let slotOk (slot : Reg) (s : State) : Prop :=
     (s.src.sreg slot.val).toNat ≤ 767 ∧ (s.ringTag (s.src.sreg slot.val).toNat).owner = s.src.world ∧
     (s.ringTag (s.src.sreg slot.val).toNat).poisoned = false ∧ (s.ringTag (s.src.sreg slot.val).toNat).boarded = true
   (∀ e d slot la s, s.holdsSlot s.src.world = true →
     enters (.pboard e d slot la) e la.val { RingOp.blank 0 (4 * d.val) slot.val with
       payload := [s.src.sreg (4 * d.val), s.src.sreg (4 * d.val + 1), s.src.sreg (4 * d.val + 2), s.src.sreg (4 * d.val + 3)]
       vacated := !s.freeSlotShown s.src.world } s) ∧
   (∀ e d slot la s, slotOk slot s →
     enters (.palight e d slot la) e la.val
       { RingOp.blank 1 (4 * d.val) slot.val with slot := (s.src.sreg slot.val).toNat } s ∧
     enters (.pread e d slot la) e la.val
       { RingOp.blank 2 (4 * d.val) slot.val with slot := (s.src.sreg slot.val).toNat } s ∧
     enters (.pwrite e d slot la) e la.val { RingOp.blank 3 (4 * d.val) slot.val with
       slot := (s.src.sreg slot.val).toNat
       payload := [s.src.sreg (4 * d.val), s.src.sreg (4 * d.val + 1), s.src.sreg (4 * d.val + 2), s.src.sreg (4 * d.val + 3)] } s ∧
     ∀ opnd op wsel, enters (.prmw e d slot opnd la op wsel) e la.val { RingOp.blank 4 (4 * d.val) slot.val with
       slot := (s.src.sreg slot.val).toNat, qop := op, wsel := wsel.val
       x := s.src.sreg opnd.val, y := s.src.sreg (opnd.val + 1) } s)) ∧
  (let sends (i : Instr) (e : Bool) (g : Guard) (n d : Nat) (m : MAddr) (s : State) : Prop :=
     s.memLanes g ≠ [] →
     (∀ l ∈ s.memLanes g, (laneAddr s.src m l).toNat < 2 ^ 29 ∧ (xTarget (laneAddr s.src m l).toNat).1 < 192 ∧
       (laneAddr s.src m l).toNat % n = 0 ∧
       ∃ x, s.xPair s.src.world (laneAddr s.src m l).toNat = some x ∧
         ∀ p, s.xPhase s.src.uid x.ens = some p → p = (s.ensemble x.ens).phase) →
     ∃ t, exec i s = .next (ended e t) ∧ { t with troupes := s.troupes, held := s.held, book := s.book } = s ∧
       (∀ k, k ≠ s.book.cur → t.troupe k = s.troupe k) ∧ t.me = behind s.me 2 ∧
       t.held.take s.held.length = s.held ∧
       (t.held.drop s.held.length).map (fun h => (h.core, h.pair, h.off, h.bytes, h.world, h.uid, h.copy)) =
         ((s.memLanes g).filter fun l => (s.memLanes g).all fun k =>
           decide (k ≤ l) || laneAddr s.src m k != laneAddr s.src m l).map fun l => let a := (laneAddr s.src m l).toNat
           (a / 2 ^ 21 % 256, a % 2 ^ 21 / 32768, a % 16384, (laneBytes s.src d l ((n + 3) / 4)).take n, s.src.world,
             s.src.uid, none)
   (∀ e g d m la s, sends (.xst32 e g d m la) e g 4 d.val m s) ∧
   (∀ e g d m la s, sends (.xst128 e g d m la) e g 16 (4 * d.val) m s) ∧
   ∀ e d a b s, s.ensOk s.src (s.src.sreg a.val) = true → s.barCause s.src (sval b s.src) = none →
     s.me.busyOps = false → s.redIds s.me = [] →
     let n := (s.src.sreg a.val).toNat
     (s.ensemble n).allocated = true → s.me.uid ∈ (s.ensemble n).members → (s.ensemble n).pending = [] →
     (∀ x ∈ (s.ensemble n).arrived, x.1 ≠ s.me.uid) → (∀ h ∈ s.held, h.uid ≠ s.me.uid) →
     (∀ c ∈ s.copies, c.uid = s.me.uid → c.toExchange = false) →
     (s.core s.me.core).spad.wf = true →
     (s.core s.me.core).spadBad.contains ((s.core s.me.core).phys (sval b s.src).toNat / 16) = false →
     ∃ t, exec (.ebarArrive e d a b) s = .next (ended e t) ∧
       { t with troupes := s.troupes, cores := s.cores, ens := s.ens, maxTs := s.maxTs, book := s.book } = s ∧
       (∀ k, k ≠ s.book.cur → t.troupe k = s.troupe k) ∧
       ScalarWritten s d.val (slen b) ((s.ensemble n).phase.setWidth 64) { t.me with pts := s.me.pts } ∧
       BarDone s t (sval b s.src).toNat .external ∧ (∀ k, k ≠ n → t.ensemble k = s.ensemble k) ∧
       t.ensemble n = { s.ensemble n with
         arrived := (s.ensemble n).arrived ++ [(s.me.uid, s.me.core, (sval b s.src).toNat)] })

/-- R263, R269, R271: a copy that passes its checks is accepted: it joins the copies of its core with the records its
scalars hold, and every chunk still to be taken; a gather reads its index table as it issues. One copy of a core is
accepted in a cycle, and the others hold their issue slots (R85). -/
def Obligations.CopyIssue : Prop :=
  ∀ (e : Bool) (x : CArgs) (s : State) (gather : Bool),
    s.copyChecks s.src x gather = none → (gather = true → s.src.busyOps = false) →
    (s.copies.filter fun c => c.core == s.src.core && c.queue.isNone).length < 16 →
    (s.mayEnter s.src 1 = false → Gives (exec (if gather then .cpyg e x else .cpy e x) s) fun t =>
      { t with troupes := s.troupes, book := s.book } = s ∧ (∀ k, k ≠ s.book.cur → t.troupe k = s.troupe k) ∧
      t.me = { s.src with ctl := { s.src.ctl with stalled := true, since := some (1, s.waitsSince s.src 1) } }) ∧
    (s.mayEnter s.src 1 = true → ∃ t c, exec (if gather then .cpyg e x else .cpy e x) s = .next (ended e t) ∧
      { t with troupes := s.troupes, cores := s.cores, copies := s.copies, maxTs := s.maxTs, book := s.book } = s ∧
      (∀ k, k ≠ s.book.cur → t.troupe k = s.troupe k) ∧
      (∀ k, { t.core k with srts := (s.core k).srts, taken := (s.core k).taken } = s.core k) ∧
      t.me = { behind s.me 2 with pts := t.me.pts, ctl := { (behind s.me 2).ctl with since := none } } ∧
      t.copies = s.copies ++ [c] ∧ c.src = scalarRec s.src x.srec.val ∧ c.dst = scalarRec s.src x.drec.val ∧
      c.uid = s.src.uid ∧ c.world = s.src.world ∧ c.launch = s.src.launch ∧ c.core = s.src.core ∧ c.gather = gather ∧
      c.bar = (if x.bar.val = 63 then none else some (s.src.sreg x.bar.val).toNat) ∧
      c.cw = x.cw.map (fun r => (s.src.sreg r.val, s.src.sreg (r.val + 1))) ∧
      c.todo = chunksOf (scalarRec s.src x.srec.val) ∧ c.started = false ∧ c.landed = 0 ∧ c.cause = none ∧
      (gather = true → c.index = (List.range (recWin (scalarRec s.src x.srec.val) 3)).map fun i =>
        w32 (leNat ((s.core s.src.core).spadRead (rfld (scalarRec s.src x.srec.val) 11 20 0 + 4 * i) 4))))

/-- R173, R174, R278, R279: `pref` never faults and changes no byte; `pin` returns 1, 2, 4 or 3 for a line that is
pinned, a quota that is used up, a world with no data way there or a set with no way left, 5 outside the module, and 0
for a line in L2 that it pins, where the order of 1, 2, 4 and 3 is the model's choice (log 83); `unpin` undoes the
world's own pin and no other. R208, R227, R281 to R285: `fence` with nothing covered outstanding, after which the
troupe's time follows its reductions; `mbx.post` into a mailbox of the world, with status 0 or, when it is full, 1, and
as an operation of the troupe while earlier ones are outstanding (R211); a post to a peer that is not reached, with
status 3, and one that is sent; `mbx.take` of an entry, and of nothing; both with a bad mailbox address or barrier,
which fault (R282; that the record's address is then s[A] is the model's choice, log 84); and `mwait`, for a batch that
is open, complete, or to come. -/
def Obligations.LinesFencesMailboxes : Prop :=
  ((∀ e l1 m la s, ∃ t, exec (.pref e l1 m la) s = .next (ended e t) ∧ t.mem = s.mem ∧
     t.troupes = (s.setMe (behind s.me 2)).troupes ∧ ∀ c a, (t.core c).spad.byte a = (s.core c).spad.byte a) ∧
   (∀ e d m la s o, s.src.busyOps = false → o.atPeer = false →
     s.checkLanes s.src { bytes := 1, r := true, access := 1 } [(0, scalarAddr s.src m)] = .go [o] [] →
     let i := sliceOf (lineNo o.pa * 128)
     let w := s.world s.me.world
     let status (n : W64) (P : State → Prop) : Prop :=
       ∃ t, exec (.pin e d m la) s = .next (ended e t) ∧ P t ∧ t.mem = s.mem ∧
         (∀ k, k ≠ s.book.cur → t.troupe k = s.troupe k) ∧ t.me.sreg d.val = n ∧
         (∀ r, r ≠ d.val → t.me.sreg r = s.me.sreg r) ∧
         t.me = { behind s.me 2 with
           s := t.me.s, sp := { s.me.sp with replay := 0 }
           ctl := { (behind s.me 2).ctl with replayPc := none } }
     (inModule o.pa = false → status 5 fun t => { t with troupes := s.troupes } = s) ∧
     (inModule o.pa = true → ∀ l, (s.slice i).lines.find (lineNo o.pa) = some l →
       (l.pinned.isSome = true → status 1 fun t => { t with troupes := s.troupes } = s) ∧
       (l.pinned = none → w.limits.pinQuota.get i 0 ≤ (s.slice i).pinsOf s.me.world →
         status 2 fun t => { t with troupes := s.troupes } = s) ∧
       (l.pinned = none → (s.slice i).pinsOf s.me.world < w.limits.pinQuota.get i 0 → w.limits.dways.get i 0 = 0 →
         status 4 fun t => { t with troupes := s.troupes } = s) ∧
       (l.pinned = none → (s.slice i).pinsOf s.me.world < w.limits.pinQuota.get i 0 → w.limits.dways.get i 0 ≠ 0 →
         let left := freeWayLeft ((s.slice i).inSet (setOf (lineNo o.pa))) (w.limits.dways.get i 0) (l.way.map (· / 2))
         (left = false → status 3 fun t => { t with troupes := s.troupes } = s) ∧
         (left = true → status 0 fun t =>
           { t with
             troupes := s.troupes, slices := s.slices, worlds := s.worlds, book := s.book, maxTs := s.maxTs } = s ∧
           (∀ k, { t.world k with counters := (s.world k).counters } = s.world k) ∧
           (∃ u, (t.slice i).lines.find (lineNo o.pa) = some { l with pinned := some s.me.world, used := u }) ∧
           ∀ k, k ≠ lineNo o.pa → (t.slice i).lines.find k = (s.slice i).lines.find k)))) ∧
   ∀ e m la s o, s.src.busyOps = false → o.atPeer = false →
     s.checkLanes s.src { bytes := 1, r := true, access := 1 } [(0, scalarAddr s.src m)] = .go [o] [] →
     ∃ t, exec (.unpin e m la) s = .next (ended e t) ∧ { t with troupes := s.troupes, slices := s.slices } = s ∧
       (∀ k, k ≠ s.book.cur → t.troupe k = s.troupe k) ∧
       t.me = { behind s.me 2 with
         sp := { s.me.sp with replay := 0 }
         ctl := { (behind s.me 2).ctl with replayPc := none } } ∧
       ∀ i k, (t.slice i).lines.find k = ((s.slice i).lines.find k).map fun l =>
         if i = sliceOf o.pa ∧ k = lineNo o.pa ∧ l.pinned = some s.me.world then { l with pinned := none } else l) ∧
  ((∀ e sc s, s.covered s.src sc = false →
     Completes (.fence e sc) e s fun u => u = { behind s.me 1 with pts := max s.me.pts s.me.ctl.redTs }) ∧
   (∀ e d a b s m, mbxAddr (s.src.sreg a.val) = some (m, none) → (s.mailbox m).owner = s.src.world →
     s.src.busyOps = true ∨ s.redIds s.src ≠ [] →
     let entry : List W64 :=
       w64 (1 + s.src.world * 2 ^ 8 + s.src.core * 2 ^ 16 + s.src.tslot * 2 ^ 24 + s.src.launch * 2 ^ 32) ::
         (List.range 7).map fun i => s.src.sreg (8 * b.val + i)
     ∃ t id, exec (.mbxPost e d a b) s = .next (ended e t) ∧ { t with troupes := s.troupes, book := s.book } = s ∧
       (∀ k, k ≠ s.book.cur → t.troupe k = s.troupe k) ∧
       t.me = { behind s.me 1 with
         ops := s.me.ops ++ [{ id := id, kind := .mpost m entry d.val, after := s.redIds s.me }] }) ∧
   (∀ e d a b s m, mbxAddr (s.src.sreg a.val) = some (m, none) → (s.mailbox m).owner = s.src.world →
     s.src.busyOps = false → s.redIds s.src = [] → (s.mailbox m).arming = none →
     ((s.mailbox m).entries.length < 64 →
       ∃ t, exec (.mbxPost e d a b) s = .next (ended e t) ∧ { t with troupes := s.troupes, mbx := s.mbx } = s ∧
         (∀ k, k ≠ s.book.cur → t.troupe k = s.troupe k) ∧ ScalarWritten s d.val 1 0 { t.me with pts := s.me.pts } ∧
         t.me.pts = max s.me.pts s.me.ctl.redTs ∧
         (∀ k, k ≠ m → t.mailbox k = s.mailbox k) ∧
         t.mailbox m = { s.mailbox m with entries := (s.mailbox m).entries ++
           [w64 (1 + s.src.world * 2 ^ 8 + s.src.core * 2 ^ 16 + s.src.tslot * 2 ^ 24 + s.src.launch * 2 ^ 32) ::
             (List.range 7).map fun i => s.src.sreg (8 * b.val + i)] }) ∧
     (64 ≤ (s.mailbox m).entries.length → Completes (.mbxPost e d a b) e s (ScalarWritten s d.val 1 1))) ∧
   (∀ e d a b s m p, mbxAddr (s.src.sreg a.val) = some (m, some p) →
     (s.reaches s.src.world p = false → Completes (.mbxPost e d a b) e s (ScalarWritten s d.val 1 3)) ∧
     (s.reaches s.src.world p = true → s.src.busyOps = false → s.redIds s.src = [] →
       ∃ t o, exec (.mbxPost e d a b) s = .next (ended e t) ∧ t.mem = s.mem ∧ t.mbx = s.mbx ∧
         (∀ k, k ≠ s.book.cur → t.troupe k = s.troupe k) ∧
         t.me = { behind s.me 1 with ops := s.me.ops ++ [o], pts := max s.me.pts s.me.ctl.redTs } ∧
         o.kind = .post d.val ∧ o.performed = true ∧
         ∃ x, t.ext = s.ext ++ [x] ∧ x.peer = some p ∧ x.opId = o.id ∧ x.uid = s.src.uid)) ∧
   (∀ e a b s, Plain s → (∀ m p, mbxAddr (s.src.sreg a.val) = some (m, p) → p = none ∧ (s.mailbox m).owner ≠ s.src.world) →
     (∀ d, Faults (.mbxPost e d a b) s 4 6 s.src.live (s.src.sreg a.val))) ∧
   (∀ e d a b s, Plain s →
     let x := s.src.sreg b.val
     ((∀ m, mbxAddr (s.src.sreg a.val) = some (m, none) → (s.mailbox m).owner ≠ s.src.world) →
       (b.val = 63 ∨ s.barCause s.src x ≠ some 3) → Faults (.mbxTake e d a b) s 4 6 s.src.live (s.src.sreg a.val)) ∧
     (b.val ≠ 63 → s.barCause s.src x = some 3 → Faults (.mbxTake e d a b) s 3 6 s.src.live x) ∧
     ∀ m c, mbxAddr (s.src.sreg a.val) = some (m, none) → (s.mailbox m).owner = s.src.world → b.val ≠ 63 →
       s.barCause s.src x = some c → Faults (.mbxTake e d a b) s c 6 s.src.live x) ∧
   (∀ e d a b s m, mbxAddr (s.src.sreg a.val) = some (m, none) → (s.mailbox m).owner = s.src.world →
     (b.val = 63 ∨ s.barCause s.src (s.src.sreg b.val) = none) → s.src.busyOps = false →
     (∀ w0 ws rest, (s.mailbox m).entries = (w0 :: ws) :: rest →
       ∃ t, exec (.mbxTake e d a b) s = .next (ended e t) ∧
         { t with troupes := s.troupes, mbx := s.mbx, book := s.book } = s ∧
         (∀ k, k ≠ s.book.cur → t.troupe k = s.troupe k) ∧
         t.me = { behind s.me 1 with s := t.me.s, pts := max s.me.pts s.maxTs } ∧
         (∀ i, i < 8 → i < ws.length + 1 → t.me.sreg (8 * d.val + i) =
           if i = 0 then w64 (fld w0 47 0 + (s.mailbox m).drops * 2 ^ 48) else ws.getD (i - 1) 0) ∧
         (∀ r, (r < 8 * d.val ∨ 8 * d.val + 8 ≤ r) → t.me.sreg r = s.me.sreg r) ∧
         (∀ k, k ≠ m → t.mailbox k = s.mailbox k) ∧
         t.mailbox m = { s.mailbox m with entries := rest, drops := 0 }) ∧
     ((s.mailbox m).entries = [] → b.val = 63 →
       Completes (.mbxTake e d a b) e s fun u => u = { behind s.me 1 with s := u.s } ∧
         (∀ i, i < 8 → u.sreg (8 * d.val + i) = 0) ∧
         ∀ r, (r < 8 * d.val ∨ 8 * d.val + 8 ≤ r) → u.sreg r = s.me.sreg r)) ∧
   ∀ e a s, let n : W32 := (s.src.sreg a.val).setWidth 32
     (batchClosed s.src.sp.batch n = false → Completes (.mwait e a) true s fun u => u = behind s.me 1) ∧
     (batchClosed s.src.sp.batch n = true → batchDone s.src.done n = true →
       ∃ t, exec (.mwait e a) s = .next (ended true t) ∧ OnlyScratchpad s t ∧
         (∀ c a, (t.core c).spad.byte a = (s.core c).spad.byte a) ∧
         t.me = { behind s.me 1 with pts := max s.me.pts (s.core s.me.core).swts }) ∧
     (batchClosed s.src.sp.batch n = true → batchDone s.src.done n = false →
       s.me.ctl.debug = true ∨ s.me.ctl.divert = false ∧ s.me.act.armed = false →
       Gives (exec (.mwait e a) s) fun t => { t with troupes := s.troupes, cores := s.cores } = s ∧
         (∀ k, k ≠ s.book.cur → t.troupe k = s.troupe k) ∧
         t.me = { s.me with ctl := { s.me.ctl with wait := .batch n (s.me.pc + 1), stalled := false } }))

/-- R312: claims and releases: the lowest number bound to the world and not claimed is claimed and returned, and all
ones when there is none; a release answers 0, or 1 for a number that is not claimed. -/
def Obligations.ClaimsAndReleases : Prop :=
  let core (s : State) := s.core s.src.core
  let others (s t : State) : Prop := { t with troupes := s.troupes, cores := s.cores } = s ∧
    (∀ k, k ≠ s.book.cur → t.troupe k = s.troupe k) ∧ ∀ k, k ≠ s.src.core → t.core k = s.core k
  (∀ e d s i, i < 64 → (core s).oslotOwner.get i 0 = s.src.world → i ∉ (core s).oClaimed →
    (∀ j, j < i → (core s).oslotOwner.get j 0 = s.src.world → j ∈ (core s).oClaimed) →
    ∃ t, exec (.oclaim e d) s = .next (ended e t) ∧ others s t ∧ ScalarWritten s d.val 1 (BitVec.ofNat 64 i) t.me ∧
      t.core s.src.core = { core s with oClaimed := (t.core s.src.core).oClaimed } ∧
      ∀ j, j ∈ (t.core s.src.core).oClaimed ↔ j ∈ (core s).oClaimed ∨ j = i) ∧
  (∀ e d s, (∀ j, j < 64 → (core s).oslotOwner.get j 0 = s.src.world → j ∈ (core s).oClaimed) →
    Completes (.oclaim e d) e s (ScalarWritten s d.val 1 ones64)) ∧
  (∀ e d s i, i < 4 → (core s).accOwner.get i 0 = s.src.world → i ∉ (core s).aClaimed →
    (∀ j, j < i → (core s).accOwner.get j 0 = s.src.world → j ∈ (core s).aClaimed) →
    ∃ t, exec (.aclaim e d) s = .next (ended e t) ∧ others s t ∧ ScalarWritten s d.val 1 (BitVec.ofNat 64 i) t.me ∧
      t.core s.src.core = { core s with aClaimed := (t.core s.src.core).aClaimed } ∧
      ∀ j, j ∈ (t.core s.src.core).aClaimed ↔ j ∈ (core s).aClaimed ∨ j = i) ∧
  (∀ e d s, (∀ j, j < 4 → (core s).accOwner.get j 0 = s.src.world → j ∈ (core s).aClaimed) →
    Completes (.aclaim e d) e s (ScalarWritten s d.val 1 ones64)) ∧
  (∀ e d a s n, s.src.sreg a.val = BitVec.ofNat 64 n → n < 64 → (core s).oslotOwner.get n 0 = s.src.world →
    (∀ m ∈ (core s).mxUses, m.swap = true ∨ (m.aslot ≠ n ∧ m.bslot ≠ n)) →
    (n ∉ (core s).oClaimed → Completes (.orelease e d a) e s (ScalarWritten s d.val 1 1)) ∧
    (n ∈ (core s).oClaimed →
      ∃ t, exec (.orelease e d a) s = .next (ended e t) ∧ others s t ∧ ScalarWritten s d.val 1 0 t.me ∧
        t.core s.src.core = { core s with oClaimed := (core s).oClaimed.filter (· ≠ n) })) ∧
  ∀ e d a s n, s.src.sreg a.val = BitVec.ofNat 64 n → n < 4 → (core s).accOwner.get n 0 = s.src.world →
    (∀ m ∈ (core s).mxUses, m.acc ≠ n) → (core s).visBusy.find n = none →
    (n ∉ (core s).aClaimed → Completes (.arelease e d a) e s (ScalarWritten s d.val 1 1)) ∧
    (n ∈ (core s).aClaimed →
      ∃ t, exec (.arelease e d a) s = .next (ended e t) ∧ others s t ∧ ScalarWritten s d.val 1 0 t.me ∧
        t.core s.src.core = { core s with aClaimed := (core s).aClaimed.filter (· ≠ n) })

/-- R286, R313: `owrite` puts each lane's registers into its place of the slot, and `oread` gets them back; a slot's
other bytes and the registers' other lanes are as before. -/
def Obligations.OperandSlots : Prop :=
  (∀ e g slot x s n, s.src.sreg slot.val = BitVec.ofNat 64 n → n < 64 →
    (s.core s.src.core).oslotOwner.get n 0 = s.src.world → s.src.busyOps = false → s.mxLanes g ≠ 0 →
    (s.core s.src.core).oslots.wf = true →
    ∃ t, exec (.owrite e g slot x) s = .next (ended e t) ∧
      { t with troupes := s.troupes, cores := s.cores, maxTs := s.maxTs } = s ∧
      (∀ k, k ≠ s.book.cur → t.troupe k = s.troupe k) ∧ t.me = { behind s.me 1 with pts := t.me.pts } ∧
      (∀ k, { t.core k with
        oslots := (s.core k).oslots, oslotBad := (s.core k).oslotBad, srts := (s.core k).srts, swts := (s.core k).swts
        mq := (s.core k).mq, array := (s.core k).array } = s.core k) ∧
      (let alike (m : MmaEntry) : MmaEntry := { m with seen := [] }
       ∀ k, (t.core k).mq.map alike = (s.core k).mq.map alike ∧ (t.core k).array.map alike = (s.core k).array.map alike) ∧
      (∀ k, ∀ x ∈ (t.core k).oslotBad, x ∈ (s.core k).oslotBad) ∧
      (∀ l, inMask (s.mxLanes g) l = true →
        (t.core s.src.core).oslots.read (8448 * n + (selPlace x l).1) (selPlace x l).2 =
          (laneBytes s.src (selReg x) l 8).take (selPlace x l).2) ∧
      ∀ k a, (k = s.src.core → ∀ l, inMask (s.mxLanes g) l = true →
          ¬ (8448 * n + (selPlace x l).1 ≤ a ∧ a < 8448 * n + (selPlace x l).1 + (selPlace x l).2)) →
        (t.core k).oslots.byte a = (s.core k).oslots.byte a) ∧
  (∀ e g slot x s n, s.src.sreg slot.val = BitVec.ofNat 64 n → n < 64 →
    (s.core s.src.core).oslotOwner.get n 0 = s.src.world → s.src.busyOps = false → s.mxLanes g ≠ 0 →
    (∀ l, inMask (s.mxLanes g) l = true → (n, (selPlace x l).1 / 64) ∉ (s.core s.src.core).oslotBad) →
    ∃ t, exec (.oread e g slot x) s = .next (ended e t) ∧ OnlyScratchpad s t ∧
      (∀ c a, (t.core c).spad.byte a = (s.core c).spad.byte a) ∧
      t.me = { behind s.me 1 with v := t.me.v, pts := t.me.pts } ∧
      (∀ hi v l j, x = .half hi v → l < 128 → j < 8 → (t.me.vreg (8 * v.val + j)).lane l =
        if inMask (s.mxLanes g) l then BitVec.ofNat 32 (leNat ((s.core s.src.core).oslots.read
          (8448 * n + 64 * l + (if hi then 32 else 0) + 4 * j) 4)) else (s.me.vreg (8 * v.val + j)).lane l) ∧
      (∀ v l, x = .side v → l < 128 → (t.me.vreg v.val).lane l =
        if inMask (s.mxLanes g) l then BitVec.ofNat 32 (leNat ((s.core s.src.core).oslots.read
          (8448 * n + 8192 + 2 * l) 2)) else (s.me.vreg v.val).lane l) ∧
      ∀ r, (r < selReg x ∨ selReg x + ((selPlace x 0).2 + 3) / 4 ≤ r) → t.me.vreg r = s.me.vreg r) ∧
  ∀ e g slot x s, s.oslotOk (s.src.sreg slot.val) = true → s.mxLanes g = 0 →
    Completes (.owrite e g slot x) e s (fun u => u = behind s.me 1) ∧
    Completes (.oread e g slot x) e s (fun u => u = behind s.me 1)

/-- R302 to R306, R314, R315: `mma` joins its core's queue with the operands as they stand and is counted in the open
batch; `aswap` joins the queue and ends the run; the queue takes one entry in a cycle, and the others hold their issue
slots (R85); `mfence` closes the batch, whose number it returns, and which is
complete at once when no `mma` is outstanding. R288, R306, R307, R315, R316: `ard`, `awr`, `azero` and `asts` act on
the visible bank, and never on the working bank. Element (r, c) of a bank is lane c of its row r. -/
def Obligations.MatrixInstructions : Prop :=
  ((∀ e g x s, let t := s.src
     let fa := t.sreg (2 * x.fb.val)
     let fb := t.sreg (2 * x.fb.val + 1)
     let c := s.core t.core
     s.accOk (t.sreg x.acc.val) = true → s.oslotOk (t.sreg x.aslot.val) = true → s.oslotOk (t.sreg x.bslot.val) = true →
     fbOffends fa fb = none → c.scaleCause t.world fa (fbK fa fb) = none → c.scaleCause t.world fb (fbK fa fb) = none →
     t.busyOps = false → c.mq.length < 32 → s.mayEnter t 0 = true →
     ∃ (u : State) (m : MmaEntry), exec (.mma e g x) s = .next (ended e u) ∧
       { u with troupes := s.troupes, cores := s.cores, maxTs := s.maxTs, book := s.book } = s ∧
       (∀ k, k ≠ s.book.cur → u.troupe k = s.troupe k) ∧
       (∀ k, { u.core k with mq := (s.core k).mq, srts := (s.core k).srts, taken := (s.core k).taken } = s.core k) ∧
       (∀ k, k ≠ t.core → (u.core k).mq = (s.core k).mq) ∧ (u.core t.core).mq = c.mq ++ [m] ∧
       m.uid = t.uid ∧ m.world = t.world ∧ m.swap = false ∧ m.acc = (t.sreg x.acc.val).toNat ∧
       m.aslot = (t.sreg x.aslot.val).toNat ∧ m.bslot = (t.sreg x.bslot.val).toNat ∧ m.fb = fb ++ fa ∧ m.z = x.z ∧
       m.bd = x.bd ∧ m.rows = s.mxLanes g ∧ m.batch = nextBatch t.sp.batch ∧ m.ops = [c.oslot m.aslot, c.oslot m.bslot] ∧
       m.ss = [c.scales fa (fbK fa fb), c.scales fb (fbK fa fb)] ∧
       u.me = { behind s.me 2 with
         pts := u.me.pts
         ctl := { (behind s.me 2).ctl with
           since := none, batches := countBatch (nextBatch t.sp.batch) s.me.ctl.batches } }) ∧
   (∀ e a s, s.accOk (s.src.sreg a.val) = true → s.src.busyOps = false → (s.core s.src.core).mq.length < 32 →
     (s.mayEnter s.src 0 = false → Gives (exec (.aswap e a) s) fun t =>
       { t with troupes := s.troupes, book := s.book } = s ∧ (∀ k, k ≠ s.book.cur → t.troupe k = s.troupe k) ∧
       t.me = { s.src with ctl := { s.src.ctl with stalled := true, since := some (0, s.waitsSince s.src 0) } }) ∧
     (s.mayEnter s.src 0 = true → ∃ (u : State) (m : MmaEntry), exec (.aswap e a) s = .next (ended true u) ∧
       { u with troupes := s.troupes, cores := s.cores, book := s.book } = s ∧
       (∀ k, k ≠ s.book.cur → u.troupe k = s.troupe k) ∧
       u.me = { behind s.me 1 with ctl := { (behind s.me 1).ctl with since := none } } ∧
       (∀ k, u.core k = { s.core k with
         mq := (s.core k).mq ++ (if k = s.src.core then [m] else [])
         taken := if k = s.src.core then (s.core k).taken.put 0 s.cycle else (s.core k).taken }) ∧
       m.swap = true ∧ m.acc = (s.src.sreg a.val).toNat ∧ m.uid = s.src.uid)) ∧
   ∀ e d s, let n := nextBatch s.src.sp.batch
     Completes (.mfence e d) e s fun u =>
       u = { behind s.me 1 with
         s := u.s, sp := { s.me.sp with batch := n }, done := u.done
         ctl := { (behind s.me 1).ctl with batches := s.me.ctl.batches.filter fun b => b.2 != 0 } } ∧
       u.sreg d.val = n.setWidth 64 ∧ (∀ r, r ≠ d.val → u.sreg r = s.me.sreg r) ∧
       ((∀ b ∈ s.me.ctl.batches, b.2 = 0) → u.done = n)) ∧
  (let free (s : State) (n : Nat) : Prop := n < 4 ∧ (s.core s.src.core).accOwner.get n 0 = s.src.world ∧
     s.src.busyOps = false ∧ (s.core s.src.core).swapping n = false ∧ (s.core s.src.core).visBusy.find n = none
   let elem (c : Core) (n r k : Nat) : W32 := (bankRow (c.acc n).visible r).lane k
   let others (s t : State) : Prop :=
     { t with troupes := s.troupes, cores := s.cores, maxTs := s.maxTs } = s ∧
     (∀ k, k ≠ s.book.cur → t.troupe k = s.troupe k) ∧ ∀ k, k ≠ s.me.core → k ≠ s.src.core → t.core k = s.core k
   (∀ e g d a grp s n, s.src.sreg a.val = BitVec.ofNat 64 n → free s n → s.mxLanes g ≠ 0 →
     (∀ x ∈ (s.core s.src.core).accBad, x.1 ≠ n) →
     ∃ t, exec (.ard e g d a grp) s = .next (ended e t) ∧ OnlyScratchpad s t ∧
       (∀ c x, (t.core c).spad.byte x = (s.core c).spad.byte x) ∧
       t.me = { behind s.me 1 with v := t.me.v, pts := t.me.pts } ∧
       (∀ i l, i < 16 → l < 128 → (t.me.vreg (16 * d.val + i)).lane l =
         if inMask (s.mxLanes g) l then elem (s.core s.src.core) n l (16 * grp.val + i)
         else (s.me.vreg (16 * d.val + i)).lane l) ∧
       ∀ r, r / 16 ≠ d.val → t.me.vreg r = s.me.vreg r) ∧
   (∀ e g acc v grp s n, s.src.sreg acc.val = BitVec.ofNat 64 n → free s n → s.mxLanes g ≠ 0 →
     ∃ t, exec (.awr e g acc v grp) s = .next (ended e t) ∧ others s t ∧ t.me = { behind s.me 1 with pts := t.me.pts } ∧
       (∀ r k, r < 128 → k < 128 → elem (t.core s.src.core) n r k =
         if inMask (s.mxLanes g) r = true ∧ k / 16 = grp.val then (s.src.vreg (16 * v.val + k % 16)).lane r
         else elem (s.core s.src.core) n r k) ∧
       ((t.core s.src.core).acc n).working = ((s.core s.src.core).acc n).working ∧
       ∀ j, j ≠ n → (t.core s.src.core).acc j = (s.core s.src.core).acc j) ∧
   (∀ e a s n, s.src.sreg a.val = BitVec.ofNat 64 n → free s n →
     ∃ t, exec (.azero e a) s = .next (ended e t) ∧ others s t ∧ t.me = { behind s.me 1 with pts := t.me.pts } ∧
       (∀ r k, elem (t.core s.src.core) n r k = 0) ∧
       ((t.core s.src.core).acc n).working = ((s.core s.src.core).acc n).working ∧
       (t.core s.src.core).visBusy.find n = some .zero ∧
       ∀ j, j ≠ n → (t.core s.src.core).acc j = (s.core s.src.core).acc j) ∧
   (∀ e a b s n dst, s.src.sreg a.val = BitVec.ofNat 64 n → free s n →
     (match b with | .reg r => s.src.sreg r.val | .lit w => w.setWidth 64) = BitVec.ofNat 64 dst →
     (s.core s.src.core).astsCause s.src.world (BitVec.ofNat 64 dst) = none → dst < 2 ^ 21 →
     (∀ x ∈ (s.core s.src.core).accBad, x.1 ≠ n) → (s.core s.src.core).spad.wf = true →
     ∃ t, exec (.asts e a b) s = .next (ended e t) ∧ others s t ∧
       t.me = { behind s.me (slen b) with pts := t.me.pts } ∧
       (∀ r k, r < 128 → k < 128 → (t.core s.src.core).spadRead (dst + 512 * r + 4 * k) 4 =
         leBytes 4 (elem (s.core s.src.core) n r k).toNat) ∧
       (∀ x, (∀ y, dst ≤ y → y < dst + 65536 → x ≠ (s.core s.src.core).phys y) →
         (t.core s.src.core).spad.byte x = (s.core s.src.core).spad.byte x) ∧
       (t.core s.src.core).visBusy.find n = some (.store dst) ∧ (t.core s.src.core).accs = (s.core s.src.core).accs) ∧
   ∀ e g d a grp s v, s.accOk (s.src.sreg a.val) = true → s.mxLanes g = 0 →
     Completes (.ard e g d a grp) e s (fun u => u = behind s.me 1) ∧
     Completes (.awr e g a v grp) e s (fun u => u = behind s.me 1))

/-- R40, R366 to R370, R389: `trap` takes a fault with cause 0x0E and its operand; `brk` halts the troupe for debugging
behind itself, with a record of cause 0x0F; `faultrd` returns the latest record of a troupe of the world, or zeros;
`fstat` returns the sticky bits of each lane. R40, R368, R369 for every precise fault: the record and the halt; and
R186, R321: a fault of the runtime launch halts its live world and raises an interrupt of function 0, unless that is
masked. -/
def Obligations.FaultsAndTraps : Prop :=
  ((∀ e b s, Plain s → Faults (.trap e b) s 0x0E 0 s.src.live (sval b s.src)) ∧
   (∀ e s, s.haltReady s.src = true → s.me.key = s.book.cur → s.me.ctl.divert = false → s.me.act.armed = false →
     s.me.sp.timer = 0 → s.me.ctl.exited = false → s.me.ctl.stopped = false → s.me.ctl.halted = false →
     (s.mailbox (s.world s.me.world).areas.faultMbx).arming = none →
     let m := (s.world s.me.world).areas.faultMbx
     ∃ t r, exec (.brk e) s = .next t ∧
       { t with troupes := s.troupes, cores := s.cores, worlds := s.worlds, mbx := s.mbx, book := s.book } = s ∧
       (∀ k, k ≠ s.book.cur → t.troupe k = s.troupe k) ∧
       t.me = { behind s.me 1 with ctl := { (behind s.me 1).ctl with
         readyAt := s.cycle, debug := true, stepReq := none, record := r } } ∧
       r = [BitVec.ofNat 64 (4 + 0x0F * 2 ^ 8 + s.me.world * 2 ^ 24 + s.me.core * 2 ^ 32 + s.me.tslot * 2 ^ 40 + 2 ^ 47),
         BitVec.ofNat 64 (s.me.pc.toNat + s.me.tid * 2 ^ 32), s.me.live.extractLsb' 0 64, s.me.live.extractLsb' 64 64,
         ones64, BitVec.ofNat 64 (s.alm + (s.core s.me.core).almSkew), BitVec.ofNat 64 s.me.launch, 0] ∧
       (s.me.world ≠ 0 ∨ (s.mailbox m).owner = 0 → (s.mailbox m).entries.length < 64 →
         (t.mailbox m).entries = (s.mailbox m).entries ++ [r])) ∧
   (∀ e d a s u, (s.src.sreg a.val = ones64 ∧ u = some s.src ∨
       s.src.sreg a.val ≠ ones64 ∧ u = s.atLocator s.src.world (s.src.sreg a.val)) →
     let r : List W64 := match u with | some x => x.ctl.record | none => []
     r.length = 8 ∨ r = [] →
     Completes (.faultrd e d a) e s fun t => t = { behind s.me 1 with s := t.s } ∧
       (∀ i, i < 8 → t.sreg (8 * d.val + i) = r.getD i 0) ∧
       ∀ k, (k < 8 * d.val ∨ 8 * d.val + 8 ≤ k) → t.sreg k = s.me.sreg k) ∧
   ∀ e g d s, Completes (.fstat e g d) e s (VectorWritten s (s.src.exec &&& guardMask g s.src) d.val 1
     (fun l => (if inMask s.src.sticky.inv l then 1 else 0) + (if inMask s.src.sticky.dz l then 2 else 0) +
       (if inMask s.src.sticky.ovf l then 4 else 0) + (if inMask s.src.sticky.unf l then 8 else 0) +
       (if inMask s.src.sticky.nx l then 16 else 0)) fun _ => 0)) ∧
  ((∀ (s : State) cause access lanes va, Plain s → ∃ t, s.fault cause access lanes va = .next t ∧
     FaultTaken s t s.src cause access lanes va) ∧
   ∀ (s : State) cause access lanes va, s.isRuntime s.src = true → (s.world s.src.world).st = .live →
     (s.mailbox (s.world s.src.world).areas.faultMbx).arming = none →
     ∃ t u, s.fault cause access lanes va = .next t ∧ (t.world s.src.world).st = .halted ∧
       t.troupe s.src.key = some u ∧ u.ctl.halted = true ∧ u.pc = s.src.pc ∧ u.v = s.src.v ∧ u.s = s.src.s ∧
       ((s.fn 0).irqMask.getLsbD 4 = false → Out.irq 0 4 ∈ t.out))

/-- R331: an instruction of the runtime, issued by another launch, takes a fault with cause 3 and access type 8, and has
no effect besides. R382: so does `cntcfg`, with cause 3 and access type 0. -/
def Obligations.RuntimeOnly : Prop :=
  ∀ s, Plain s →
    (∀ e a b, Faults (.tlbw e a b) s 3 8 s.src.live (sval b s.src)) ∧
    (∀ e a mode, Faults (.tlbi e a mode) s 3 8 s.src.live (s.src.sreg a.val)) ∧
    (∀ e a, Faults (.lossclr e a) s 3 8 s.src.live (s.src.sreg a.val)) ∧
    (∀ e d a cls, Faults (.yieldres e d a cls) s 3 8 s.src.live (s.src.sreg a.val)) ∧
    (∀ e d a, Faults (.suspend e d a) s 3 8 s.src.live (s.src.sreg a.val)) ∧
    (∀ e d a b, Faults (.revive e d a b) s 3 8 s.src.live (s.src.sreg a.val)) ∧
    (∀ e d a mode, Faults (.resume e d a mode) s 3 8 s.src.live (s.src.sreg a.val)) ∧
    ∀ e a b, Faults (.cntcfg e a b) s 3 0 s.src.live (s.src.sreg a.val)

/-- R187, R194, R366: a load, a store, an atomic or a reduction that fails a check in some lane takes the precise fault
of the earliest step at which one fails, with the lanes that fail there, the lowest cause among them, and the address
of the lowest; the steps for an address of memory and of the scratchpad are range, alignment, plot, permission, frame
and poison. Lanes in a peer window, for which the peer is asked first, are left out where the step is the sixth. R181,
R332 to R336: `tlbw` stores its entry, with the world in it, in every cluster its location names, and an older entry of
the same page in the set loses V; `tlbr` returns an entry of a way of the world; `tlbi` with no access of the world
under way invalidates the entries it names in every cluster, and no other; `frameq` returns the extent, or all ones for
a frame of another world. -/
def Obligations.AddressesAndTranslation : Prop :=
  ((∀ e g d m la, AccessFaults (.ldg8z e g d m la) g { bytes := 1, r := true, access := 1 } (laneAddr · m) ∧
      AccessFaults (.ldg8s e g d m la) g { bytes := 1, r := true, access := 1 } (laneAddr · m) ∧
      AccessFaults (.ldg16z e g d m la) g { bytes := 2, r := true, access := 1 } (laneAddr · m) ∧
      AccessFaults (.ldg16s e g d m la) g { bytes := 2, r := true, access := 1 } (laneAddr · m) ∧
      AccessFaults (.ldg32 e g d m la) g { bytes := 4, r := true, access := 1 } (laneAddr · m)) ∧
   (∀ e g d m la, AccessFaults (.ldg64 e g d m la) g { bytes := 8, r := true, access := 1 } (laneAddr · m)) ∧
   (∀ e g d m la, AccessFaults (.ldg128 e g d m la) g { bytes := 16, r := true, access := 1 } (laneAddr · m)) ∧
   (∀ e g d m la, AccessFaults (.stg8 e g d m la) g { bytes := 1, w := true, access := 2 } (laneAddr · m) ∧
      AccessFaults (.stg16 e g d m la) g { bytes := 2, w := true, access := 2 } (laneAddr · m) ∧
      AccessFaults (.stg32 e g d m la) g { bytes := 4, w := true, access := 2 } (laneAddr · m)) ∧
   (∀ e g d m la, AccessFaults (.stg64 e g d m la) g { bytes := 8, w := true, access := 2 } (laneAddr · m)) ∧
   (∀ e g d m la, AccessFaults (.stg128 e g d m la) g { bytes := 16, w := true, access := 2 } (laneAddr · m)) ∧
   (∀ e g x, let n : Need := { bytes := if x.wide then 8 else 4, r := true, w := true, access := 3 }
      AccessFaults (.amog e g x) g { n with moduleOnly := true, noHost := !hostOp x.aop } (atomicAddr · x) ∧
      AccessFaults (.amos e g x) g { n with noHost := !hostOp x.aop } (atomicAddr · x) ∧
      AccessFaults (.redg e g x) g { n with watchR := false } (atomicAddr · x)) ∧
   (∀ e d m la,
      ScalarFaults (.sld e d m la) (fun s => s.checkVa s.src.core s.src.world { bytes := 8, r := true, access := 1 }) 1 m ∧
      ScalarFaults (.sst e d m la) (fun s => s.checkVa s.src.core s.src.world { bytes := 8, w := true, access := 2 }) 2 m ∧
      ScalarFaults (.slds e d m la) (fun s => s.checkPlace s.src.core s.src.world 8) 1 m ∧
      ScalarFaults (.ssts e d m la) (fun s => s.checkPlace s.src.core s.src.world 8) 2 m) ∧
   (∀ e g d m la, SpadFaults (.lds32 e g d m la) g 4 1 m ∧ SpadFaults (.sts32 e g d m la) g 4 2 m) ∧
   (∀ e g d m la, SpadFaults (.lds64 e g d m la) g 8 1 m ∧ SpadFaults (.sts64 e g d m la) g 8 2 m) ∧
   (∀ e g d m la, SpadFaults (.lds128 e g d m la) g 16 1 m ∧ SpadFaults (.sts128 e g d m la) g 16 2 m) ∧
   (∀ (s : State) core w n (va : W64), let out := s.checkVa core w n va
      (2 ^ 56 ≤ va.toNat → out = .bad 1 3) ∧ (va.toNat < 2 ^ 56 → va.toNat % n.bytes ≠ 0 → out = .bad 2 5) ∧
      (va.toNat < 2 ^ 56 → va.toNat % n.bytes = 0 → (s.cluster (clusterOf core)).lookup w va.toNat = none → out = .miss) ∧
      ∀ set way, va.toNat < 2 ^ 56 → va.toNat % n.bytes = 0 →
        (s.cluster (clusterOf core)).lookup w va.toNat = some (set, way) →
        let y := (s.cluster (clusterOf core)).entry set way
        let pa := entryTarget y va.toNat
        (n.permits y = false → out = .bad 5 3) ∧
        (n.permits y = true → inModule pa = true → s.frameOwner pa ≠ w → out = .bad 6 4) ∧
        (n.permits y = true → inModule pa = true → s.frameOwner pa = w → s.poisoned pa n.bytes = true → out = .bad 6 0x14) ∧
        (n.permits y = true → inModule pa = true → s.frameOwner pa = w → s.poisoned pa n.bytes = false →
          out = .ok pa (bit y.2 3))) ∧
   ∀ (s : State) core w n (a : W64), let out := s.checkPlace core w n a
      let ok := (s.core core).plotOk w a.toNat
      let bad := (s.core core).spadBad.contains ((s.core core).phys a.toNat / 16)
      (2 ^ 21 ≤ a.toNat → out = .bad 1 3) ∧ (a.toNat < 2 ^ 21 → a.toNat % n ≠ 0 → out = .bad 2 5) ∧
      (a.toNat < 2 ^ 21 → a.toNat % n = 0 → ok = false → out = .bad 3 4) ∧
      (a.toNat < 2 ^ 21 → a.toNat % n = 0 → ok = true → out = if bad then .bad 6 0x14 else .ok a.toNat false)) ∧
  ((∀ e a b s cs set way, let x : W64 × W64 := (s.src.sreg (2 * a.val), s.src.sreg (2 * a.val + 1))
     s.isRuntime s.src = true → locOf (sval b s.src) = some (cs, set, way) →
     s.entryCause s.src.world x (sval b s.src) = none →
     ∃ t, exec (.tlbw e a b) s = .next (ended e t) ∧
       { t with troupes := s.troupes, cores := s.cores, clusters := s.clusters, book := s.book } = s ∧
       (∀ k, k ≠ s.book.cur → t.troupe k = s.troupe k) ∧ t.me = behind s.me (slen b) ∧
       (∀ c, { t.core c with utlb := (s.core c).utlb } = s.core c) ∧
       (∀ c, c ∉ cs → (t.cluster c).tlb = (s.cluster c).tlb) ∧
       ∀ c ∈ cs, ((t.cluster c).entry set way).1 = x.1 ∧
         ((t.cluster c).entry set way).2 = (x.2 &&& ~~~ (0xFC0 : W64)) ||| BitVec.ofNat 64 (s.src.world * 64) ∧
         ∀ i, i ≠ 16 * set + way → let old := (s.cluster c).tlb.get i (0, 0)
           (t.cluster c).tlb.get i (0, 0) =
             if entryValid x ∧ entryValid old ∧ i / 16 = set ∧ entryWorld old = s.src.world ∧ entrySize old = entrySize x ∧
               entryVa old = entryVa x then (old.1 &&& ~~~ (1 : W64), old.2) else old) ∧
   (∀ e d a s c set way, locOf (s.src.sreg a.val) = some ([c], set, way) →
     (s.cluster c).wayOwner.get way 0 = s.src.world →
     Completes (.tlbr e d a) e s fun u => u = { behind s.me 1 with s := u.s } ∧
       u.sreg (2 * d.val) = ((s.cluster c).entry set way).1 ∧
       (2 * d.val + 1 < 64 → u.sreg (2 * d.val + 1) = ((s.cluster c).entry set way).2) ∧
       ∀ r, r ≠ 2 * d.val → r ≠ 2 * d.val + 1 → u.sreg r = s.me.sreg r) ∧
   (∀ e a mode s, s.isRuntime s.src = true →
     (∀ t ∈ s.troupes, t.2.world = s.src.world → t.2.ops = []) →
     (∀ c ∈ s.clusters, ∀ r ∈ c.2.reqQ, r.world ≠ s.src.world) → (∀ c ∈ s.copies, c.world ≠ s.src.world) →
     (∀ x ∈ s.ext, x.world ≠ s.src.world ∧ ∀ t ∈ s.troupes, x.opId ≠ agentOp (fetchOp t.2)) →
     (∀ l, s.src.ctl.tlbi ≠ some (s.src.pc, l)) →
     (mode = .loc → ∃ x, s.oneWay s.src.world (s.src.sreg a.val) = .ok x) →
     ∃ t, exec (.tlbi e a mode) s = .next (ended e t) ∧
       { t with troupes := s.troupes, cores := s.cores, clusters := s.clusters } = s ∧
       (∀ k, k ≠ s.book.cur → t.troupe k = s.troupe k) ∧
       t.me = { behind s.me 1 with ctl := { (behind s.me 1).ctl with tlbi := none } } ∧
       (∀ c, { t.core c with utlb := (s.core c).utlb } = s.core c) ∧
       ∀ c i, c < 24 → let old := (s.cluster c).tlb.get i (0, 0)
         let named : Prop := match mode with
           | .loc => s.oneWay s.src.world (s.src.sreg a.val) = .ok (c, i / 16, i % 16)
           | .va => entryCovers old (s.src.sreg a.val).toNat = true
           | .all => True
         (t.cluster c).tlb.get i (0, 0) = old ∧ ¬ (entryValid old = true ∧ entryWorld old = s.src.world ∧ named) ∨
         (t.cluster c).tlb.get i (0, 0) = (old.1 &&& ~~~ (1 : W64), old.2) ∧ entryValid old = true ∧
           entryWorld old = s.src.world ∧ named) ∧
   ∀ e d a s, let pa := (s.src.sreg a.val).toNat
     (inModule pa = true → s.frameOwner pa ≠ s.src.world → Completes (.frameq e d a) e s (ScalarWritten s d.val 1 ones64)) ∧
     (inModule pa = true → s.frameOwner pa = s.src.world → ∀ x, s.extentOf pa = some x →
       Completes (.frameq e d a) e s (ScalarWritten s d.val 1
         (BitVec.ofNat 64 ((s.ownerByte pa).toNat + x.size * 256 + x.base / 4096 * 4096)))) ∧
     (inModule pa = false → ∀ x, (s.world s.src.world).apertures.find? (fun y =>
         decide (y.base ≤ pa) && decide (pa < y.base + pageSize y.size)) = some x →
       Completes (.frameq e d a) e s (ScalarWritten s d.val 1
         (BitVec.ofNat 64 (s.src.world + x.size * 256 + x.base / 4096 * 4096)))) ∧
     (inModule pa = false → (∀ y ∈ (s.world s.src.world).apertures, ¬ (y.base ≤ pa ∧ pa < y.base + pageSize y.size)) →
       Completes (.frameq e d a) e s (ScalarWritten s d.val 1 ones64)))

/-- R339, R340, R343, R344: `lossrd` reads the loss summary and the areas; `lossclr` clears what its mask names;
`yieldres` gives up a resource that the world holds, is not in use and needs no draining any more: its owner is world
0, and a frame is cleared; where several of its statuses apply, the order 5, 1, 4 is the model's (log 18). R345, R347,
R348: `suspend` of a troupe that has come to rest writes its image and empties its slot; `revive` brings it back with
what the image holds; `resume` lets a halted troupe go on, at the same place or at another, or retires it. -/
def Obligations.LossAndSuspension : Prop :=
  ((∀ e d b s, let w := s.world s.src.world
     let reads (n : Nat) (x : W64) : Prop := (sval b s.src).toNat = n →
       Completes (.lossrd e d b) e s fun u =>
         ScalarWritten s d.val (slen b) x { u with pts := s.me.pts } ∧ u.pts = max s.me.pts s.maxTs
     reads 0 (BitVec.ofNat 64 (w.lossBits.toNat + w.lossCount * 2 ^ 32)) ∧ reads 1 (BitVec.ofNat 64 w.lossTotal) ∧
     reads 2 (BitVec.ofNat 64 w.areas.lossBase) ∧ reads 3 (BitVec.ofNat 64 w.areas.lossCap) ∧
     reads 4 (BitVec.ofNat 64 w.areas.repBase) ∧ reads 5 (BitVec.ofNat 64 w.areas.repSize) ∧
     reads 6 (BitVec.ofNat 64 w.areas.repOff) ∧ reads 7 (BitVec.ofNat 64 w.areas.susBase) ∧
     reads 8 (BitVec.ofNat 64 w.areas.susCap) ∧ reads 9 (BitVec.ofNat 64 w.areas.faultMbx) ∧
     reads 10 (BitVec.ofNat 64 w.areas.noticeMbx) ∧ ∀ n, 10 < n → reads n ones64) ∧
   (∀ e a s, s.isRuntime s.src = true → let m := s.src.sreg a.val
     ∃ t, exec (.lossclr e a) s = .next (ended e t) ∧ { t with troupes := s.troupes, worlds := s.worlds } = s ∧
       (∀ k, k ≠ s.book.cur → t.troupe k = s.troupe k) ∧ t.me = behind s.me 1 ∧
       (∀ k, k ≠ s.src.world → t.world k = s.world k) ∧
       t.world s.src.world = { s.world s.src.world with
         lossBits := (s.world s.src.world).lossBits &&& ~~~ (m.setWidth 12)
         lossCount := if m.getLsbD 32 then 0 else (s.world s.src.world).lossCount
         areas := { (s.world s.src.world).areas with
           repOff := if m.getLsbD 33 then 0 else (s.world s.src.world).areas.repOff } }) ∧
   (∀ e d a cls s, s.isRuntime s.src = true → (s.world s.src.world).takes = [] →
     let n := (s.src.sreg a.val).toNat
     let seized : Prop := cls.val = 1 ∧ resOk 1 n = true ∧ s.ownerOf 1 n = s.src.world + 64
     (seized → Completes (.yieldres e d a cls) e s (ScalarWritten s d.val 1 5)) ∧
     (¬ seized → s.holdsRes s.src.world cls.val n = false →
       Completes (.yieldres e d a cls) e s (ScalarWritten s d.val 1 1)) ∧
     (s.holdsRes s.src.world cls.val n = true → s.protected s.src.world cls.val n = true →
       Completes (.yieldres e d a cls) e s (ScalarWritten s d.val 1 4))) ∧
   ∀ e d a cls s, s.isRuntime s.src = true → (s.world s.src.world).takes = [] → (s.world s.src.world).notices = [] →
     let n := (s.src.sreg a.val).toNat
     let take := s.newTake s.src.world cls.val n false 0
     s.yieldStatus s.src.world cls.val n = 0 → cls.val ≠ 5 →
     (cls.val = 1 ∨ (s.closeTake s.src.world take).drained s.src.world take = true) → s.mem.wf = true →
     (cls.val = 2 → ∀ t ∈ s.troupes, t.2.ctl.wait = .no) →
     ∃ t, exec (.yieldres e d a cls) s = .next (ended e t) ∧ t.me.sreg d.val = 0 ∧
       (∀ r, r ≠ d.val → t.me.sreg r = s.me.sreg r) ∧ t.me.v = s.me.v ∧ t.me.p = s.me.p ∧ t.me.f = s.me.f ∧
       t.me.exec = s.me.exec ∧ t.me.live = s.me.live ∧ t.me.pc = s.me.pc + 1 ∧
       (cls.val ≠ 0 → t.ownerOf cls.val n = 0) ∧
       ∀ x, t.mem.byte x = if cls.val = 0 ∧ n ≤ x ∧ x < n + 4096 then 0 else s.mem.byte x) ∧
  ((∀ e d a s u k, s.isRuntime s.src = true → s.atLocator s.src.world (s.src.sreg a.val) = some u →
     s.isRuntime u = false → s.freeImage s.src.world = some k → u.ctl.exited = false → u.ctl.stopped = false →
     u.ctl.leaving = true → u.ctl.wait = .no → s.quiet u = true → u.key ≠ s.book.cur →
     u.key = keyOf (fld (s.src.sreg a.val) 7 0) (fld (s.src.sreg a.val) 12 8) → s.mem.wf = true →
     let base := (s.world s.src.world).areas.susBase + k * 0x9000
     ∃ t, exec (.suspend e d a) s = .next (ended e t) ∧ ScalarWritten s d.val 1 (BitVec.ofNat 64 k) t.me ∧
       t.troupe u.key = none ∧ (∀ j, j ≠ u.key → j ≠ s.book.cur → t.troupe j = s.troupe j) ∧
       t.away = s.away ++ [{ uid := u.uid, world := u.world, launch := u.launch, tid := u.tid, core := u.core
                             base := base, image := some k, tslot := none, cycles := u.ctl.cycles, record := u.ctl.record
                             pts := u.pts, redTs := u.ctl.redTs, gathered := u.ctl.gathered }] ∧
       t.mem.read base (troupeImage u).length = troupeImage u ∧
       ∀ x, (x < base ∨ base + (troupeImage u).length ≤ x) → t.mem.byte x = s.mem.byte x) ∧
   (∀ e d a s, s.isRuntime s.src = true →
     (s.atLocator s.src.world (s.src.sreg a.val) = none → Completes (.suspend e d a) e s (ScalarWritten s d.val 1 ones64)) ∧
     ∀ u, s.atLocator s.src.world (s.src.sreg a.val) = some u →
       (s.isRuntime u = true → Completes (.suspend e d a) e s (ScalarWritten s d.val 1 (-3))) ∧
       (s.isRuntime u = false → s.freeImage s.src.world = none →
         Completes (.suspend e d a) e s (ScalarWritten s d.val 1 (-4)))) ∧
   (∀ e d a b s i slot, s.isRuntime s.src = true → s.imageNamed s.src.world (s.src.sreg a.val) = some i →
     let core := if fld (sval b s.src) 7 0 = 255 then i.core else fld (sval b s.src) 7 0
     let n := min 8 (leNat (s.memRead (i.base + 0x501) 1))
     (s.launches.find i.launch).isSome = true → (s.launch i.launch).deadline = 0 →
     s.poisoned i.base (4096 * (n + 1)) = false → core < 192 → (s.launch i.launch).mayUse core = true →
     n ≤ (s.freeBlocks s.src.world core).length → s.chooseSlot s.src.world core = some slot →
     keyOf core slot ≠ s.book.cur →
     ∃ t u, exec (.revive e d a b) s = .next (ended e t) ∧ t.mem = s.mem ∧
       ScalarWritten s d.val (slen b) 0 t.me ∧ t.troupe (keyOf core slot) = some u ∧
       (∀ j, j ≠ keyOf core slot → j ≠ s.book.cur → t.troupe j = s.troupe j) ∧
       t.away = s.away.filter (fun x => x.uid != i.uid) ∧
       u.uid = i.uid ∧ u.tid = i.tid ∧ u.launch = i.launch ∧ u.core = core ∧ u.tslot = slot ∧
       u.blocks = (s.freeBlocks s.src.world core).take n ∧
       (∀ r, r < 64 → u.sreg r = BitVec.ofNat 64 (leNat (s.memRead (i.base + 8 * r) 8))) ∧
       (∀ r, r < 32 → u.preg r = BitVec.ofNat 128 (leNat (s.memRead (i.base + 0x200 + 16 * r) 16))) ∧
       u.exec = BitVec.ofNat 128 (leNat (s.memRead (i.base + 0x400) 16)) &&&
         BitVec.ofNat 128 (leNat (s.memRead (i.base + 0x410) 16)) ∧
       u.live = BitVec.ofNat 128 (leNat (s.memRead (i.base + 0x410) 16)) ∧
       u.pc = BitVec.ofNat 32 (leNat (s.memRead (i.base + 0x430) 8))) ∧
   ∀ e d a mode s u, s.isRuntime s.src = true →
     s.atLocator s.src.world (BitVec.ofNat 64 (fld (s.src.sreg a.val) 12 0)) = some u → u.key ≠ s.book.cur →
     s.troupe u.key = some u →
     (u.ctl.halted = false → Completes (.resume e d a mode) e s (ScalarWritten s d.val 1 1)) ∧
     (u.ctl.halted = true → u.ctl.divert = false → u.act.armed = false → u.sp.timer = 0 → u.ctl.exited = false →
       u.ctl.stopped = false →
       ∃ t v, exec (.resume e d a mode) s = .next (ended e t) ∧ ScalarWritten s d.val 1 0 t.me ∧
         t.troupe u.key = some v ∧ (∀ j, j ≠ u.key → j ≠ s.book.cur → t.troupe j = s.troupe j) ∧ t.mem = s.mem ∧
         match mode with
         | .retry => v = { u with ctl := { u.ctl with halted := false, readyAt := s.cycle, stalled := false } }
         | .at => v = { u with
             pc := (s.src.sreg a.val).extractLsb' 32 32
             ctl := { u.ctl with halted := false, readyAt := s.cycle, stalled := false } }
         | .retire => v = { u with live := 0, exec := 0, ctl := v.ctl } ∧ v.ctl.exited = true ∧ v.ctl.resumeRetired = true ∧
             v.ctl.halted = false))

/-- R360, R363 to R365: `wraparm` arms an act with AD, AW and its work, or disarms it; `wrapdone` ends wrap-up and
goes on at its operand; `valid` asks for the OR of its mask into word 1 of the result record, and leaves no operation
that the troupe's later accesses would wait for. R375, R377, R379, R381, R382: `cntcfg` writes a counter's
configuration, whose OVF a 1 clears, or its count; `cntrd` reads them back, and nothing of fabric events in a tenant;
an overflow sets OVF and interrupts once. -/
def Obligations.ActsAndCounters : Prop :=
  ((∀ e a b s, (s.launch s.src.launch).standing = true → s.src.wrap ≠ .act →
     (s.src.sreg (2 * a.val) = 0 → Completes (.wraparm e a b) e s fun u =>
       u = { behind s.me (slen b) with act := { s.me.act with armed := false } }) ∧
     (s.src.sreg (2 * a.val) ≠ 0 → Completes (.wraparm e a b) e s fun u =>
       u = { behind s.me (slen b) with act := { armed := true, ad := s.src.sreg (2 * a.val), aw := s.src.sreg (2 * a.val + 1)
                                                work := sval b s.src, used := 0, slack := u.act.slack } })) ∧
   (∀ e b s, s.me.wrap = .act ∨ s.me.act.armed = true →
     Completes (.wrapdone e b) true s fun u =>
       u = { behind s.me 0 with
         pc := (sval b s.src).setWidth 32, wrap := .no, act := { s.me.act with armed := false } }) ∧
   ∀ e a b s ok, let rec_ := if s.src.sreg a.val = 0 then (s.launch s.src.launch).word 11 else s.src.sreg a.val
     let lanes := ok.map fun (o : LaneOp) => { o with x := sval b s.src }
     rec_ ≠ 0 → rec_.toNat % 64 = 0 → s.hostPending s.src = false → s.hostAnswers s.src = [] →
     s.covered s.src .system = false → s.fenceChanging = false →
     Translated s { bytes := 8, r := true, w := true, watchR := false, watchW := false, access := 3 } [(0, rec_ + 8)] ok →
     (∀ o ∈ ok, inModule o.pa = true) →
     s.overQuota s.src.world (s.splitRequests (clusterOf s.src.core) lanes) = false →
     s.requestsFit s.src.world (s.splitRequests (clusterOf s.src.core) lanes) = true →
     ∃ t, exec (.valid e a b) s = .next (ended e t) ∧
       { t with troupes := s.troupes, cores := s.cores, clusters := s.clusters, worlds := s.worlds, book := s.book } = s ∧
       t.me.v = s.me.v ∧ t.me.s = s.me.s ∧ t.me.p = s.me.p ∧ t.me.exec = s.me.exec ∧ t.me.ops = s.me.ops ∧
       t.me.pc = s.me.pc + w32 (slen b) ∧
       ∀ c, ((t.cluster c).reqQ.drop (s.cluster c).reqQ.length).map
           (fun r => (r.world, r.aop, r.wide, r.reduces, r.commit, r.lanes)) =
         ((s.splitRequests (clusterOf s.src.core) lanes).filter fun r => r.1 == c).map
           fun r => (s.src.world, AOp.or, true, false, true, r.2)) ∧
  ((∀ e a b s i, s.isRuntime s.src = true → let x := sval b s.src
     let c := (s.world s.src.world).counter i
     let sets (c' : Counter) : Prop := ∃ t, exec (.cntcfg e a b) s = .next (ended e t) ∧
       { t with troupes := s.troupes, worlds := s.worlds } = s ∧ (∀ k, k ≠ s.book.cur → t.troupe k = s.troupe k) ∧
       t.me = behind s.me (slen b) ∧ (∀ k, k ≠ s.src.world → t.world k = s.world k) ∧
       { t.world s.src.world with counters := (s.world s.src.world).counters } = s.world s.src.world ∧
       (t.world s.src.world).counter i = c' ∧
       ∀ j, j ≠ i → (t.world s.src.world).counter j = (s.world s.src.world).counter j
     (selOf (s.src.sreg a.val) = some (i, true) → fld x 63 48 = 0 →
       sets { c with count := x.setWidth 48, pending := 0 }) ∧
     (selOf (s.src.sreg a.val) = some (i, false) → cfgOk x = true →
       sets { c with event := fld x 7 0, en := x.getLsbD 8, irq := x.getLsbD 9, core := fld x 19 12
                     ovf := c.ovf && !x.getLsbD 20 })) ∧
   (∀ e d a s i, let c := (s.world s.src.world).counter i
     (selOf (s.src.sreg a.val) = some (i, false) → Completes (.cntrd e d a) e s (ScalarWritten s d.val 1
       (BitVec.ofNat 64 (c.event + (if c.en then 2 ^ 8 else 0) + (if c.irq then 2 ^ 9 else 0) + c.core * 2 ^ 12 +
         (if c.ovf then 2 ^ 20 else 0))))) ∧
     (selOf (s.src.sreg a.val) = some (i, true) → Completes (.cntrd e d a) e s (ScalarWritten s d.val 1
       (if s.src.world ≠ 0 ∧ 0x20 ≤ c.event then 0 else c.count.setWidth 64)))) ∧
   ∀ w i s, let c := (s.world w).counter i
     c.pending ≠ 0 → 2 ^ 48 ≤ c.count.toNat + c.pending →
     ∃ t, exec (.counterOverflow w i) s = .next t ∧
       { t with worlds := s.worlds, fns := s.fns, out := s.out } = s ∧
       (t.world w).counter i = { c with count := c.count + BitVec.ofNat 48 c.pending, pending := 0, ovf := true } ∧
       (∀ j, j ≠ i → (t.world w).counter j = (s.world w).counter j) ∧ (∀ k, k ≠ w → t.world k = s.world k) ∧
       (c.ovf = false ∧ c.irq = true ∧ s.fnPresent w = true → (t.fn w).irqStatus = (s.fn w).irqStatus ||| 2 ∧
         ((s.fn w).irqMask.getLsbD 1 = false → t.out = s.out ++ [.irq w 1])) ∧
       (c.ovf = true ∨ c.irq = false ∨ s.fnPresent w = false → t.fns = s.fns ∧ t.out = s.out))

/-- R383 to R390: what the requests of a debugger do to a troupe that is halted for debugging, or is to be, where no
earlier request to the world waits; each stands in its world's response. -/
def Obligations.DebugRequests : Prop :=
  let ok (i : Instr) (w : Nat) (s : State) (data : List Byte) (P : State → Prop) : Prop :=
    (s.world w).debugs = [] → s.debugging w s.book.nextId = false →
    ∃ t, exec i s = .next t ∧ (t.world w).response = leBytes 8 0 ++ data ∧ t.mem = s.mem ∧ P t
  let only (s t : State) (w : Nat) (u v : Troupe) : Prop :=
    { t with troupes := s.troupes, worlds := s.worlds } = s ∧ t.troupe u.key = some v ∧
    (∀ k, k ≠ u.key → t.troupe k = s.troupe k) ∧ ∀ k, k ≠ w → t.world k = s.world k
  (∀ w loc s u, s.debugee w loc = .ok u → s.troupe u.key = some u →
    (u.ctl.debug = false → s.holding u = false → s.haltReady u = true → u.ctl.exited = false → u.ctl.stopped = false →
      ok (.halt w loc) w s [] fun t => only s t w u { u with
        ctl := { u.ctl with debug := true, haltReq := false, stepReq := none } }) ∧
    (u.ctl.debug = true →
      (u.ctl.wait ≠ .no → s.divertDue u = false → ok (.cont w loc) w s [] fun t => only s t w u { u with
        ctl := { u.ctl with debug := false, stepReq := none, exempt := true } }) ∧
      (u.ctl.wait = .no → u.ctl.divert = false → u.act.armed = false → u.sp.timer = 0 →
        ok (.cont w loc) w s [] fun t => only s t w u { u with
          ctl := { u.ctl with debug := false, stepReq := none, exempt := true, readyAt := s.cycle, stalled := false } }) ∧
      (∀ lanes, ok (.step w loc lanes) w s [] fun t => only s t w u { u with
        ctl := { u.ctl with stepReq := some lanes, exempt := true } }) ∧
      (∀ item bs, s.item u item.toNat = some bs → u.resultsIn = true →
        ok (.read w loc item) w s bs fun t => { t with worlds := s.worlds } = s) ∧
      ∀ item bs v, u.writeItem item.toNat bs = some v →
        ok (.write w loc item bs) w s [] fun t => only s t w u v)) ∧
  (∀ w core addr s, addr.toNat < 2 ^ 21 → addr.toNat % 16 = 0 → core.toNat < 192 →
    (s.core core.toNat).plotOk w addr.toNat = true →
    ok (.barrd w core addr) w s ((s.core core.toNat).spadRead addr.toNat 16) fun t => t.troupes = s.troupes ∧
      ∀ c, (t.core c).spad = (s.core c).spad) ∧
  (∀ w n value s, n.toNat < 4 → fld value 63 46 = 0 → ok (.setbp w n value) w s [] fun t =>
    { t with worlds := s.worlds } = s ∧ (t.world w).bkpt.find n.toNat = some value ∧
    ∀ k, k ≠ n.toNat → (t.world w).bkpt.find k = (s.world w).bkpt.find k) ∧
  (∀ w n w0 w1 s, n.toNat < 4 → fld w0 63 56 = 0 → fld w1 63 7 = 0 → 3 ≤ fld w1 3 0 → fld w1 3 0 ≤ 12 →
    w0.toNat % 2 ^ fld w1 3 0 = 0 → ok (.setwp w n w0 w1) w s [] fun t =>
    { t with worlds := s.worlds } = s ∧ (t.world w).watch.find n.toNat = some (w0, w1) ∧
    ∀ k, k ≠ n.toNat → (t.world w).watch.find k = (s.world w).watch.find k) ∧
  ∀ w (s : State), let ts := (s.troupes.filter fun t => t.2.world == w && t.2.ctl.debug).map fun t => t.2.core + t.2.tslot * 256
    ok (.list w) w s (leBytes 8 ts.length ++ (ts.take 64).flatMap (leBytes 8)) fun t => { t with worlds := s.worlds } = s

/-- R90 to R93: an issue slot that no troupe holds goes to the most urgent candidate of the worlds it is chosen from;
and at the end of a period every balance is refilled from its budget, a debt being carried over. R87: every slack
class is computed anew from the deadline, the work left and the time now; a troupe that its class admits again in a
hot cluster is ready from now on (R27, R89). -/
def Obligations.ArbitrationAndSlack : Prop :=
  ((∀ core islot s t, islot < 4 →
     let sl := (s.core core).islots.get islot {}
     let cand := s.cand core islot
     let pool := (s.pool core sl.overdue cand).1
     sl.holder = none → s.winner sl.last pool cand = some t →
     t ∈ cand ∧ t.world ∈ pool ∧ (∀ x ∈ cand, x.world ∈ pool → s.urgency t ≤ s.urgency x) ∧
     ∃ u, exec (.runArbitration core islot) s = .next u ∧
       { u with troupes := s.troupes, cores := s.cores, worlds := s.worlds, book := s.book } = s ∧
       u.core core = { s.core core with islots := (u.core core).islots } ∧
       (u.core core).islots.get islot {} = { sl with
         holder := some t.tslot, words := 0, last := t.world, overdue := sl.overdue.filter (· != t.world)
         won := sl.won.put t.world s.cycle } ∧
       (∀ k, k ≠ core → u.core k = s.core k) ∧
       ∀ w, { u.world w with counters := (s.world w).counters } = s.world w) ∧
   ∀ s, s.cycle % 4096 = 0 →
     ∃ t, exec .tokenRefill s = .next t ∧ { t with worlds := s.worlds, cores := s.cores } = s ∧
       (∀ c, { t.core c with islots := (s.core c).islots } = s.core c) ∧
       ∀ w, (s.world w).limits.nextBudget = [] →
         t.world w = { s.world w with limits := { (s.world w).limits with balance := (t.world w).limits.balance } } ∧
         ∀ c, (t.world w).limits.balance.get c 0 =
           max 0 (((s.world w).limits.budget.get c 0 : Int) + min ((s.world w).limits.balance.get c 0) 0)) ∧
  ((∀ s, ∃ t, exec .slackRecompute s = .next t ∧
     { t with launches := s.launches, troupes := s.troupes, book := s.book } = s ∧
     (∀ n l, s.launches.find n = some l → t.launches.find n = some { l with slack := s.slackOf n }) ∧
     ∀ k u, s.troupe k = some u →
       let v := { u with act := if u.act.armed then { u.act with slack := s.actSlack u.act } else u.act }
       t.troupe k = some { v with ctl := { u.ctl with
         readyAt := if s.coolFor u = false ∧ t.coolFor v = true then max u.ctl.readyAt s.cycle else u.ctl.readyAt } }) ∧
   (∀ work used n alm, slackClass 0 work used n alm = 3) ∧
   ∀ (deadline work : W64) (used n alm : Nat), deadline ≠ 0 → 0 < n → deadline.toNat < 2 ^ 62 → work.toNat < 2 ^ 50 →
     alm < 2 ^ 62 → used ≤ work.toNat →
     let time : Int := ((work.toNat - used) * 20 + 21 * n - 1) / (21 * n)
     let slack : Int := deadline.toNat - alm - time
     slackClass deadline work used n alm = if slack < 0 then 0 else if slack < 100000 then 1 else if slack < 1000000 then 2 else 3)

/-- R75 to R78: a presented launch that breaks no rule is accepted under a number that no launch has, with every troupe
still to place; one that breaks a rule is rejected with one record of the least cause, and no launch comes of it. R72,
R79 to R83: a placement leaves every troupe that is placed as it is; and the next troupe of the only launch starts in
a slot of its world on a core that can take it, with its lanes live, its registers zero but for s[0], and its program
counter at the launch's entry, at the time sampled at acceptance (R205). -/
def Obligations.LaunchesPlaced : Prop :=
  (∀ (s : State) (i : Nat) (p : Presented), s.presented[i]? = some p → s.placerOpen p.world = true →
     let l := describe p.world p.desc
     let rest := s.presented.take i ++ s.presented.drop (i + 1)
     let s1 := { s with presented := rest }
     l.result = 0 → l.signal = 0 → l.deadline = 0 → p.packet = none → fld (l.word 1) 37 36 ≠ 2 →
     (s1.launchCauses l [] = [] → ∃ t n l', exec (.launchAcceptance i) s = .next t ∧ n < 4096 ∧
       s.launches.find n = none ∧ t.launches.find n = some l' ∧ l'.world = p.world ∧ l'.desc = p.desc ∧
       l'.alive = l.troupes ∧ l'.nextTid = 0 ∧ l'.used = 0 ∧ l'.slack = 3 ∧ l'.floor = s.maxTs ∧
       (∀ k, k ≠ n → t.launches.find k = s.launches.find k) ∧ t.presented = rest ∧ t.troupes = s.troupes ∧ t.mem = s.mem ∧
       (bit (l.word 1) 39 = true → (t.world p.world).runtime = some n)) ∧
     (∀ c, least id (s1.launchCauses l []) = some c → (s.world p.world).st ≠ .absent →
       let m := (s.world p.world).areas.faultMbx
       (s.mailbox m).arming = none → (s.mailbox m).entries.length < 64 → p.world ≠ 0 ∨ (s.mailbox m).owner = 0 →
       ∃ t r, exec (.launchAcceptance i) s = .next t ∧ t.launches = s.launches ∧ t.presented = rest ∧
         t.troupes = s.troupes ∧ t.mem = s.mem ∧ (t.mailbox m).entries = (s.mailbox m).entries ++ [r] ∧
         r.headD 0 = BitVec.ofNat 64 (4 + c * 2 ^ 8 + p.world * 2 ^ 24 + 255 * 2 ^ 32))) ∧
  ((∀ s, ∃ t, exec .placementOpportunity s = .next t ∧ t.mem = s.mem ∧ t.worlds = s.worlds ∧
     ∀ k u, s.troupe k = some u → t.troupe k = some u) ∧
   ∀ (s : State) n l c slot, s.launches = [(n, l)] → l.allPlaced = false → s.recordPending n = false → s.chooseCore n l = some c →
     s.chooseSlot l.world c = some slot →
     slot < 32 ∧ (s.core c).tslotOwner.get slot 0 = l.world ∧ s.troupe (keyOf c slot) = none ∧
     ∃ t u, exec .placementOpportunity s = .next t ∧ t.troupe (keyOf c slot) = some u ∧
       u.world = l.world ∧ u.launch = n ∧ u.tid = l.nextTid ∧ u.core = c ∧ u.tslot = slot ∧
       u.blocks = (s.freeBlocks l.world c).take l.blocks ∧ u.pc = BitVec.ofNat 32 (fld (l.word 1) 31 0) ∧ u.pts = l.floor ∧
       (∀ i, i < 128 → inMask u.live i = decide (128 * l.nextTid + i < l.threads)) ∧ u.exec = u.live ∧
       u.sreg 0 = l.word 10 ∧ (∀ r, r ≠ 0 → u.sreg r = 0) ∧ (∀ r i, (u.vreg r).lane i = 0) ∧ (∀ r, u.preg r = 0) ∧ u.f = 0)

/-- R73, R96 to R98: a troupe that has issued its last instruction and has nothing under way leaves its slot and is
counted; with the last one the launch node fires; and a node that has fired posts its event, steps its signal down and
interrupts, as EVENTS selects. -/
def Obligations.RetirementAndEvents : Prop :=
  (∀ core tslot s u, s.troupe (keyOf core tslot) = some u → u.key = keyOf core tslot → u.ctl.exited = true →
    u.ctl.stopped = false → s.outstanding u = false → u.ctl.ens = [] → (s.launch u.launch).result = 0 →
    (s.launches.find u.launch).isSome = true → s.recordPending u.launch = false → (s.launch u.launch).written = false →
    let l := s.launch u.launch
    ∃ t, exec (.troupeRetirement core tslot) s = .next t ∧ t.mem = s.mem ∧ t.troupe (keyOf core tslot) = none ∧
      (∀ k, k ≠ keyOf core tslot → t.troupe k = s.troupe k) ∧
      (t.launch u.launch).retired = l.retired + 1 ∧ (t.launch u.launch).alive = l.alive - 1 ∧
      (t.launch u.launch).faulted = (l.faulted || u.ctl.resumeRetired) ∧
      (l.alive = 1 → (3, 0) ∈ (t.launch u.launch).fired) ∧
      ∀ n, n ≠ u.launch → t.launches.find n = s.launches.find n) ∧
  ∀ n i s, let l := s.launch n
    let level := i / 256
    let node := i % 256
    let m := fld (l.word 13) 25 16
    let sel (b : Nat) : Prop := l.events / 2 ^ (3 * level + b) % 2 = 1
    (level, node) ∈ l.toPost → l.alive ≠ 0 →
    (sel 0 → ¬ sel 1 → ¬ sel 2 → (s.mailbox m).owner = l.world → (s.mailbox m).arming = none →
      (s.mailbox m).entries.length < 64 →
      ∃ t, exec (.nodeEventPost n i) s = .next t ∧ { t with launches := s.launches, mbx := s.mbx } = s ∧
        (t.launch n).toPost = l.toPost.filter (· != (level, node)) ∧
        (t.mailbox m).entries = (s.mailbox m).entries ++
          [[BitVec.ofNat 64 (3 + level * 2 ^ 8 + l.world * 2 ^ 16 + n * 2 ^ 32), BitVec.ofNat 64 node,
            BitVec.ofNat 64 s.alm, 0, 0, 0, 0, 0]] ∧
        ∀ k, k ≠ m → t.mailbox k = s.mailbox k) ∧
    (¬ sel 0 → sel 1 → ¬ sel 2 → l.signal ≠ 0 → s.mem.wf = true →
      ∀ pa, s.feTranslate l.world l.signal 8 true true false = .ok pa → inModule pa = true → pa % 8 = 0 →
      ∃ t, exec (.nodeEventPost n i) s = .next t ∧ t.troupes = s.troupes ∧
        t.mem.read pa 8 = wordBytes (s.memWord pa - 1) ∧
        ∀ x, (x < pa ∨ pa + 8 ≤ x) → t.mem.byte x = s.mem.byte x) ∧
    (¬ sel 0 → ¬ sel 1 → sel 2 → s.fnPresent l.world = true → ∃ t, exec (.nodeEventPost n i) s = .next t ∧
      { t with launches := s.launches, fns := s.fns, out := s.out } = s ∧
      (t.fn l.world).irqStatus = (s.fn l.world).irqStatus ||| 1 ∧
      ((s.fn l.world).irqMask.getLsbD 0 = false → t.out = s.out ++ [.irq l.world 0]))

/-- R356, R357, R360, R373: a divert that comes while a troupe is between runs takes effect at once, and otherwise it
waits; a due timer goes to the handler, and inside a handler it is lost with a record. R358, R372: at the deadline the
troupes of a launch that are left are stopped where they stand, with one record; so are those of a launch that waits
on its own barriers for longer than the world's limit. -/
def Obligations.TimeEvents : Prop :=
  (let diverted (s : State) (u : Troupe) (entry : W32) (cause : Nat) : Troupe := { u with
     exec := u.live, pc := entry, handler := false, wrap := if cause = 1 then .launch else .act
     sp := { u.sp with divpc := u.pc, divcause := BitVec.ofNat 8 cause, replay := 0, timer := 0 }
     ctl := { u.ctl with
       wait := .no, head := none, divert := false, replayPc := none, gathered := [], stalled := false
       readyAt := if s.coolFor u = true then u.ctl.readyAt else max u.ctl.readyAt s.cycle } }
   let only (s t : State) (u v : Troupe) : Prop :=
     { t with troupes := s.troupes, worlds := s.worlds, book := s.book } = s ∧ t.troupe u.key = some v ∧
     (∀ k, k ≠ u.key → t.troupe k = s.troupe k) ∧ ∀ w, { t.world w with counters := (s.world w).counters } = s.world w
   (∀ n s u, (s.launch n).reachedV = true → s.toDivert n = [u] → u.launch = n → u.ctl.halted = false → u.ctl.debug = false →
     (u.ctl.wait = .no → s.holding u = false →
       ∃ t, exec (.launchDivert n) s = .next t ∧ only s t u (diverted s u (s.launch n).wrapEntry 1)) ∧
     (u.ctl.wait = .no → s.holding u = true →
       ∃ t, exec (.launchDivert n) s = .next t ∧ only s t u { u with ctl := { u.ctl with divert := true } })) ∧
   (∀ core tslot s u, s.troupe (keyOf core tslot) = some u → u.act.armed = true → u.wrap = .no →
     u.act.divertTime ≤ s.almOf core → u.ctl.exited = false → u.ctl.stopped = false → u.ctl.halted = false →
     u.ctl.debug = false → u.ctl.wait = .no → s.holding u = false →
     ∃ t, exec (.actDivert core tslot) s = .next t ∧ only s t u (diverted s u (s.launch u.launch).wrapEntry 2)) ∧
   ∀ core tslot s u, s.troupe (keyOf core tslot) = some u → u.sp.timer ≠ 0 → u.sp.timer.toNat ≤ s.cycle →
     u.ctl.wait = .no → u.ctl.halted = false → u.ctl.debug = false → u.ctl.leaving = false → u.ctl.exited = false →
     u.ctl.stopped = false → u.ctl.divert = false → s.holding u = false → (s.ready u = true ∨ u.ctl.readyAt = s.cycle) →
     (u.handler = false → ∃ t, exec (.timerTrap core tslot) s = .next t ∧ only s t u { u with
       pc := u.sp.timerent, handler := true, sp := { u.sp with trappc := u.pc, timer := 0 } }) ∧
     (u.handler = true → (s.mailbox (s.world u.world).areas.faultMbx).arming = none →
       (u.world = 0 → (s.mailbox (s.world u.world).areas.faultMbx).owner = 0) →
       (s.mailbox (s.world u.world).areas.faultMbx).entries.length < 64 →
       ∃ t r, exec (.timerTrap core tslot) s = .next t ∧
         t.troupe u.key = some { u with sp := { u.sp with timer := 0 }, ctl := { u.ctl with record := r } } ∧
         (t.mailbox (s.world u.world).areas.faultMbx).entries =
           (s.mailbox (s.world u.world).areas.faultMbx).entries ++ [r] ∧
         r.headD 0 = BitVec.ofNat 64 (4 + 0x11 * 2 ^ 8 + u.world * 2 ^ 24 + u.core * 2 ^ 32 + u.tslot * 2 ^ 40))) ∧
  (let ends (s t : State) (n : Nat) (u : Troupe) (cause : Nat) : Prop :=
     let m := (s.world (s.launch n).world).areas.faultMbx
     (∃ v, t.troupe u.key = some v ∧ v.ctl.stopped = true ∧
       v = { u with ops := v.ops, ctl := v.ctl }) ∧
     (t.launch n).stopped = (s.launch n).stopped + 1 ∧ t.mem = s.mem ∧
     ∃ r, (t.mailbox m).entries = (s.mailbox m).entries ++ [r] ∧
       r.headD 0 = BitVec.ofNat 64 (4 + cause * 2 ^ 8 + (s.launch n).world * 2 ^ 24 + 255 * 2 ^ 32)
   let room (s : State) (n : Nat) : Prop :=
     let w := (s.launch n).world
     let m := (s.world w).areas.faultMbx
     (s.world w).st ≠ .absent ∧ (w = 0 → (s.mailbox m).owner = 0) ∧ (s.mailbox m).arming = none ∧
     (s.mailbox m).entries.length < 64
   let alone (s : State) (n : Nat) (u : Troupe) : Prop :=
     s.residents n = [u] ∧ u.launch = n ∧ s.troupe u.key = some u ∧ u.ctl.exited = false ∧ u.ctl.stopped = false ∧
     s.troupes.Pairwise (fun a b => a.1 < b.1) ∧ ∀ a ∈ s.away, a.launch ≠ n ∧ a.stopped = false
   (∀ s n u, alone s n u → room s n → (s.launch n).deadline ≠ 0 → (s.launch n).reachedD = false →
     (s.launch n).reachedV = true → (s.launch n).dogged = false → (s.launch n).deadline ≤ s.alm →
     (s.launch n).deadline ≤ s.almOf u.core →
     ∃ t, exec (.deadlineStop n) s = .next t ∧ ends s t n u 0x12 ∧ (t.launch n).reachedD = true) ∧
   ∀ s n l u, alone s n u → room s n → s.launches.find n = some l → s.alm / 1000000 ≠ s.almBefore / 1000000 →
     s.launches.filter (fun l => s.deadlocked l.1 l.2) = [(n, l)] →
     ∃ t, exec .watchdog s = .next t ∧ ends s t n u 0x16 ∧ (t.launch n).dogged = true)

/-- R193, R194, R200, R204: when a slice performs a troupe's load, each lane gets the bytes at its address, extended as
its form says, and when it performs a store the bytes are in memory, a later lane over an earlier; nothing else
changes in memory or in the registers; where several of its operations may be performed, it is one of them (log 10).
R183, R188, R222, R229: a troupe whose missing pages have been mapped issues
its instruction again; an answer from the host is kept for the instruction that waits for it, or ends what was sent.
R198, R199: what the host answers to the read of a reduction leads to the write of its result. R365: so it does for the
OR of `valid`, with a CompareAndSwap that is repeated until it succeeds. -/
def Obligations.AccessesAndAnswers : Prop :=
  (∀ core tslot s u o, s.troupe (keyOf core tslot) = some u → u.key = keyOf core tslot →
     s.turns u = [(o, none)] → o.external = [] → (∀ l ∈ o.lanes, inModule l.pa = true ∧ l.lane < 128) →
     o.clash = false → o.results = [] → o.lanes.Pairwise (fun a b => a.lane ≠ b.lane) →
     (∀ n sext d, o.kind = .load n sext d → n = 1 ∨ n = 2 ∨ n = 4 ∨ n = 8 ∨ n = 16 → (sext = true → n < 4) →
       d + (n + 3) / 4 ≤ 64 →
       (∀ l ∈ o.lanes, l.pa % n = 0 ∧ (s.core u.core).l1.find (l.pa / 128) = none) →
       ∃ t v, exec (.sliceAccessPerformed core tslot) s = .next t ∧ t.mem = s.mem ∧ t.troupe u.key = some v ∧
         (∀ k, k ≠ u.key → t.troupe k = s.troupe k) ∧
         v = { u with v := v.v, pts := v.pts, ops := u.ops.filter fun x => x.id != o.id } ∧
         (∀ l ∈ o.lanes, ∀ j, j < (n + 3) / 4 → (v.vreg (d + j)).lane l.lane =
           if sext = true ∧ n = 1 then (BitVec.ofNat 8 (leNat (s.memRead l.pa 1))).signExtend 32
           else if sext = true ∧ n = 2 then (BitVec.ofNat 16 (leNat (s.memRead l.pa 2))).signExtend 32
           else if n < 4 then BitVec.ofNat 32 (leNat (s.memRead l.pa n))
           else BitVec.ofNat 32 (leNat (s.memRead (l.pa + 4 * j) 4))) ∧
         ∀ r i, (r < d ∨ d + (n + 3) / 4 ≤ r ∨ ∀ l ∈ o.lanes, l.lane ≠ i) → (v.vreg r).lane i = (u.vreg r).lane i) ∧
     (∀ d l, o.kind = .sload d → o.lanes = [l] → l.pa % 8 = 0 → (s.core u.core).l1.find (l.pa / 128) = none → d < 64 →
       ∃ t v, exec (.sliceAccessPerformed core tslot) s = .next t ∧ t.mem = s.mem ∧ t.troupe u.key = some v ∧
         v = { u with s := v.s, pts := v.pts, ops := u.ops.filter fun x => x.id != o.id } ∧
         v.sreg d = BitVec.ofNat 64 (leNat (s.memRead l.pa 8)) ∧ ∀ r, r ≠ d → v.sreg r = u.sreg r) ∧
     ∀ n, o.kind = .store n → (∀ l ∈ o.lanes, l.data.length = n) → s.mem.wf = true →
       ∃ t v, exec (.sliceAccessPerformed core tslot) s = .next t ∧ t.mem.wf = true ∧ t.troupe u.key = some v ∧
         (∀ k, k ≠ u.key → t.troupe k = s.troupe k) ∧
         v = { u with pts := v.pts, ops := u.ops.filter fun x => x.id != o.id } ∧
         (∀ a, (∀ l ∈ o.lanes, ¬ (l.pa ≤ a ∧ a < l.pa + n)) → t.mem.byte a = s.mem.byte a) ∧
         ∀ xs l ys, o.lanes = xs ++ l :: ys → (∀ m ∈ ys, m.pa + n ≤ l.pa ∨ l.pa + n ≤ m.pa) →
           t.mem.read l.pa n = l.data) ∧
  (∀ core tslot s u, s.troupe (keyOf core tslot) = some u → s.turns u ≠ [] →
     ∃ x ∈ s.turns u, ∃ b, exec (.sliceAccessPerformed core tslot) s = .next (({ s with book := b } : State).performTurn u x)) ∧
  ((∀ core tslot s u, s.troupe (keyOf core tslot) = some u → u.key = keyOf core tslot →
     (u.ctl.wait = .missRoom ∨ ∃ ps, u.ctl.wait = .parked ps ∧
       ∀ e ∈ (s.cluster (clusterOf core)).miss, u.key ∉ e.parked) →
     u.ctl.divert = false → u.act.armed = false → u.sp.timer = 0 →
     ∃ t, exec (.missRetry core tslot) s = .next t ∧ { t with troupes := s.troupes } = s ∧
       (∀ k, k ≠ u.key → t.troupe k = s.troupe k) ∧
       t.troupe u.key = some { u with ctl := { u.ctl with wait := .no, readyAt := s.cycle, stalled := false } }) ∧
   (∀ id r s x, s.ext.find? (fun y => y.id == id) = some x → x.sync = true → (∀ m, x.errand ≠ .swapRead m) →
     (∀ m old, x.errand ≠ .swap m old) →
     ∃ t, exec (.pcieCompletion id r) s = .next t ∧
       { t with ext := s.ext, worlds := s.worlds, book := s.book } = s ∧
       (∀ w, { t.world w with counters := (s.world w).counters } = s.world w) ∧
       t.ext.find? (fun y => y.id == id) = some { x with reply := some r }) ∧
   (∀ id bs s x o mask, s.ext.find? (fun y => y.id == id) = some x → x.sync = true → x.lanes = [o] →
     regionOf o.pa = .host → bs.length = 8 →
     (x.errand = .swapRead mask ∨ ∃ old, x.errand = .swap mask old ∧ w64 (leNat bs) ≠ old) →
     ∃ t, exec (.pcieCompletion id (.data bs)) s = .next t ∧ t.troupes = s.troupes ∧ t.mem = s.mem ∧
       t.out = s.out ++ [.request s.book.nextId none (17 + 2 * AOp.cas.ctorIdx) o.pa
         (o.data ++ wordBytes (w64 (leNat bs) ||| mask) ++ bs)] ∧
       ∃ y, t.ext = s.ext.filter (fun y => y.id != id) ++ [y] ∧ y.id = s.book.nextId ∧ y.sync = true ∧
         y.errand = .swap mask (w64 (leNat bs))) ∧
   (∀ id s x, s.ext.find? (fun y => y.id == id) = some x → x.sync = false → x.reduces = false →
     (∀ n k, x.errand ≠ .record n k) →
     ∃ t, exec (.pcieCompletion id .ack) s = .next t ∧ t.ext = s.ext.filter (fun y => y.id != id) ∧
       t.troupes = s.troupes ∧ t.mem = s.mem) ∧
   ∀ id s x bs aop wide o rest, s.ext.find? (fun y => y.id == id) = some x → x.sync = false →
     x.errand = .reduceRead aop wide (o :: rest) → regionOf o.pa = .host →
     (∀ u, s.requester x.tkey x.uid = some u → ∀ p ∈ u.ops, p.id ≠ x.opId) →
     bs.length = (if wide then 8 else 4) →
     ∃ t, exec (.pcieCompletion id (.data bs)) s = .next t ∧ t.troupes = s.troupes ∧ t.mem = s.mem ∧
       t.out = s.out ++ [.request s.book.nextId none 2 o.pa
         (atomicBytes aop wide bs o.x 0 ++ List.replicate 16 0)] ∧
       ∃ y, t.ext = s.ext.filter (fun y => y.id != id) ++ [y] ∧ y.id = s.book.nextId ∧
         y.errand = .reduceWrite aop wide rest)

/-- R189 to R192, R197, R198, R200: a service troupe performs a request on one location: the function of R197 of what is
there, which nothing comes between; an operation that returns values gets the old ones, through its return slot. What
the lanes returned that translated before a miss waits for the others, at the instruction that is to issue again. -/
def Obligations.AtomicsPerformed : Prop :=
  (∀ cluster i s r l, (s.cluster cluster).reqQ[i]? = some r → s.requestReady r = true → r.lanes = [l] →
    inModule l.pa = true → s.together r = [r] → s.mem.wf = true →
    ∃ t, exec (.serviceRequest cluster i) s = .next t ∧ t.mem.wf = true ∧
      (t.cluster cluster).reqQ = (s.cluster cluster).reqQ.take i ++ (s.cluster cluster).reqQ.drop (i + 1) ∧
      (r.wide = false → t.mem.read l.pa 4 = leBytes 4
        (atomicFn r.aop (BitVec.ofNat 32 (leNat (s.memRead l.pa 4))) (l.x.setWidth 32) (l.c.setWidth 32)).toNat) ∧
      (r.wide = true → t.mem.read l.pa 8 = wordBytes
        (atomicFn r.aop (BitVec.ofNat 64 (leNat (s.memRead l.pa 8))) l.x l.c)) ∧
      (∀ a, (a < l.pa ∨ l.pa + (if r.wide then 8 else 4) ≤ a) → t.mem.byte a = s.mem.byte a) ∧
      ∀ u o, s.troupe r.tkey = some u → u.key = r.tkey → u.uid = r.uid → r.reduces = false → r.commit = false →
        r.returns = true →
        u.ops.find? (fun x => x.id == r.opId) = some o →
        ∃ v p, t.troupe r.tkey = some v ∧ v = { u with pts := v.pts, ops := v.ops } ∧
          v.ops.find? (fun x => x.id == r.opId) = some p ∧
          p.results = o.results ++ [(l.lane, s.memRead l.pa (if r.wide then 8 else 4))]) ∧
  (∀ core tslot s u o aop wide d, s.troupe (keyOf core tslot) = some u → u.key = keyOf core tslot →
    u.ops.find? (fun o => o.performed && o.external.isEmpty &&
      (match o.kind with | .atomic _ _ (some _) => true | _ => false)) = some o →
    o.kind = .atomic aop wide (some d) → o.part = false → o.clash = false →
    (∀ x ∈ o.results, x.1 < 128 ∧ x.2.length = if wide then 8 else 4) →
    o.results.Pairwise (fun a b => a.1 ≠ b.1) → d + (if wide then 2 else 1) ≤ 64 →
    ∃ t v, exec (.atomicReturn core tslot) s = .next t ∧ { t with troupes := s.troupes, book := s.book } = s ∧
      t.troupe u.key = some v ∧ (∀ k, k ≠ u.key → t.troupe k = s.troupe k) ∧
      v = { u with v := v.v, ops := u.ops.filter fun x => x.id != o.id } ∧
      (∀ x ∈ o.results, (v.vreg d).lane x.1 = BitVec.ofNat 32 (leNat (x.2.take 4)) ∧
        (wide = true → (v.vreg (d + 1)).lane x.1 = BitVec.ofNat 32 (leNat (x.2.drop 4)))) ∧
      ∀ r i, (r < d ∨ d + (if wide then 2 else 1) ≤ r ∨ ∀ x ∈ o.results, x.1 ≠ i) → (v.vreg r).lane i = (u.vreg r).lane i) ∧
  (∀ core tslot s u o, s.troupe (keyOf core tslot) = some u → u.key = keyOf core tslot →
    u.ops.find? (fun o => o.performed && o.external.isEmpty &&
      (match o.kind with | .atomic _ _ (some _) => true | _ => false)) = some o →
    o.part = true →
    ∃ t, exec (.atomicReturn core tslot) s = .next t ∧ { t with troupes := s.troupes, book := s.book } = s ∧
      (∀ k, k ≠ u.key → t.troupe k = s.troupe k) ∧
      t.troupe u.key = some { u with
        ops := u.ops.filter fun x => x.id != o.id
        ctl := { u.ctl with gathered :=
          if u.ctl.replayPc = some u.pc then u.ctl.gathered ++ o.results else u.ctl.gathered } }) ∧
  (∀ {n : Nat} (old x c : BitVec n),
    atomicFn .add old x c = old + x ∧ atomicFn .swap old x c = x ∧
    atomicFn .cas old x c = (if old = c then x else old) ∧
    atomicFn .minS old x c = (if x.toInt < old.toInt then x else old) ∧
    atomicFn .maxS old x c = (if old.toInt < x.toInt then x else old) ∧
    atomicFn .minZ old x c = (if x.toNat < old.toNat then x else old) ∧
    atomicFn .maxZ old x c = (if old.toNat < x.toNat then x else old) ∧
    atomicFn .and old x c = old &&& x ∧ atomicFn .or old x c = old ||| x ∧ atomicFn .xor old x c = old ^^^ x ∧
    atomicFn .inc old x c = (if x.toNat ≤ old.toNat then 0 else old + 1) ∧
    atomicFn .dec old x c = (if old = 0 ∨ x.toNat < old.toNat then x else old - 1))

/-- R215, R216, R264, R267, R268, R270, R272, R340: a chunk of a copy within a scratchpad moves its elements, each to
the place that the destination record gives it; a copy whose chunks have landed counts its bytes at its barrier and
leaves; and one that is late for a drain fails with a record of cause 0x04. R273, R275, R276: an exchange write of the
open phase lands in the incoming bank of its pair; when every member has arrived the phase number advances, every pair
of the ensemble swaps its banks, and troupes that waited go on. -/
def Obligations.CopiesAndExchange : Prop :=
  ((∀ id chunk s c, s.copies.find? (fun x => x.id == id) = some c → chunk ∈ c.todo → s.copyReady c = true →
     s.copyTurn c = true → (∀ k, c.taking = some k → k = chunk) → s.drainOver c = false → c.cause = none →
     recSpace c.src = 1 → recSpace c.dst = 1 → (s.core c.core).spad.wf = true →
     (∀ x ∈ s.ext, x.opId ≠ id) →
     (∀ i b, sourceOf c i = .at b → (s.core c.core).spadBad.contains ((s.core c.core).phys b / 16) = false) →
     let n := recSize c.src
     let per := 512 / n
     let k := s.core c.core
     let moves : List (Nat × List Byte) := (List.range per).filterMap fun j =>
       let i := winIndex c.src (chunk * per + j)
       if chunk * per + j < winCount c.src then
         match destOf c i, sourceOf c i with
         | some a, .at b => some (a, k.spadRead b n)
         | some a, .value v => some (a, leBytes n v)
         | _, _ => none
       else none
     moves.Pairwise (fun x y => k.phys x.1 + n ≤ k.phys y.1 ∨ k.phys y.1 + n ≤ k.phys x.1) →
     ∃ t c', exec (.copyChunk id chunk) s = .next t ∧ t.mem = s.mem ∧ t.troupes = s.troupes ∧
       (∀ m ∈ moves, (t.core c.core).spadRead m.1 n = m.2) ∧
       (∀ a, (∀ m ∈ moves, ¬ (k.phys m.1 ≤ a ∧ a < k.phys m.1 + n)) → (t.core c.core).spad.byte a = k.spad.byte a) ∧
       (∀ j, j ≠ c.core → t.core j = s.core j) ∧
       t.copies.find? (fun x => x.id == id) = some c' ∧ c'.started = true ∧ c'.todo = c.todo.filter (· != chunk) ∧
       c'.landed = c.landed + n * moves.length ∧ c'.cause = none) ∧
   (∀ id s c b, s.copies.find? (fun x => x.id == id) = some c → c.todo = [] → c.waiting = [] →
     (∀ i ∈ c.relAfter, s.idLive i = false) → c.queue = none → c.cw = none → c.bar = some b →
     (s.core c.core).plotOk c.world b = true → s.waiters c.core b = [] → (s.core c.core).spad.wf = true →
     (s.core c.core).spadBad.contains ((s.core c.core).phys b / 16) = false →
     ∃ t, exec (.copyCompletion id) s = .next t ∧ t.copies = s.copies.filter (fun x => x.id != id) ∧
       t.troupes = s.troupes ∧ t.mem = s.mem ∧
       (t.core c.core).bar b = ((s.core c.core).bar b).after (.land c.landed c.cause)) ∧
   (∀ id s c va v pa na, s.copies.find? (fun x => x.id == id) = some c → c.todo = [] → c.waiting = [] →
     (∀ i ∈ c.relAfter, s.idLive i = false) → c.queue = none → c.bar = none → c.cause = none → c.cw = some (va, v) →
     s.copyTarget c true va.toNat 8 = .ok (pa, na) → inModule pa = true → s.mem.wf = true →
     ∃ t, exec (.copyCompletion id) s = .next t ∧ t.copies = s.copies.filter (fun x => x.id != id) ∧
       t.troupes = s.troupes ∧ t.mem.read pa 8 = wordBytes v ∧
       ∀ a, (a < pa ∨ pa + 8 ≤ a) → t.mem.byte a = s.mem.byte a) ∧
   ∀ id s c y, s.copies.find? (fun x => x.id == id) = some c → c.drainBy = some y → y ≤ s.cycle → c.cause = none →
     c.todo ≠ [] → c.plan = [] → (s.world c.world).st ≠ .absent →
     let m := (s.world c.world).areas.faultMbx
     (c.world = 0 → (s.mailbox m).owner = 0) → (s.mailbox m).arming = none → (s.mailbox m).entries.length < 64 →
     ∃ t c' r, exec (.copyDrainTimeout id) s = .next t ∧ t.copies.find? (fun x => x.id == id) = some c' ∧
       c'.cause = some 4 ∧ c'.todo = [] ∧ t.troupes = s.troupes ∧ t.mem = s.mem ∧
       (t.mailbox m).entries = (s.mailbox m).entries ++ [r] ∧
       r.headD 0 = BitVec.ofNat 64 (4 + 4 * 2 ^ 8 + 1 * 2 ^ 16 + c.world * 2 ^ 24 + 255 * 2 ^ 32)) ∧
  ((∀ i s h x, s.held.find? (fun y => y.id == i) = some h → h.copy = none →
     (s.core h.core).plotOwner.get (2 * h.pair) 0 = h.world → (s.core h.core).xtab.find h.pair = some x →
     (∀ p, h.phase = some p → p = (s.ensemble h.ens).phase) → (s.core h.core).spad.wf = true →
     let a := (2 * h.pair + (if x.side then 0 else 1)) * 16384 + h.off
     ∃ t, exec (.exchangeWriteLands i) s = .next t ∧ t.held = s.held.filter (fun y => y.id != i) ∧
       t.troupes = s.troupes ∧ t.mem = s.mem ∧ (t.core h.core).spad.read a h.bytes.length = h.bytes ∧
       (∀ k, (k < a ∨ a + h.bytes.length ≤ k) → (t.core h.core).spad.byte k = (s.core h.core).spad.byte k) ∧
       ∀ c, c ≠ h.core → t.core c = s.core c) ∧
   ∀ (e : Nat) (s : State), (s.ensemble e).ready = true → (s.cores.map (·.1)).Nodup →
     ∃ t, exec (.ensemblePhaseComplete e) s = .next t ∧ (t.ensemble e).phase = (s.ensemble e).phase + 1 ∧
       (t.ensemble e).arrived = [] ∧ (t.ensemble e).members = (s.ensemble e).members ∧ t.mem = s.mem ∧
       (∀ k, k ≠ e → t.ensemble k = s.ensemble k) ∧
       (∀ c j, (t.core c).xtab.find j = ((s.core c).xtab.find j).map fun x => if x.ens = e then { x with side := !x.side } else x) ∧
       ∀ k u, s.troupe k = some u → u.ctl.wait = .exchange e → ∃ v, t.troupe k = some v ∧ v.ctl.wait = .no)

/-- R234, R242 to R246, R249, R252: what a stop performs on the slot that passes: the five operations, a `pboard` that
finds no slot, a slot that changes hands, and one that is poisoned. That the stops' table shows the poison in the same
step is the model's choice, where R234 allows 12 cycles (log 66). -/
def Obligations.ProcessionEvents : Prop :=
  (∀ core half s x u o, let step := 2 * s.cycle + (if half then 1 else 0)
    let n := slotAt core step
    (s.core core).stopQ = [x] → s.ringEligible core step x = true → x.vacated = false →
    s.requester x.tkey x.uid = some u → u.key = x.tkey → u.ops = [o] → o.id = x.id → o.clash = false →
    (s.ringSlot n).w.length = 4 →
    let done (t : State) (v : Troupe) : Prop := (t.core core).stopQ = [] ∧ t.troupe u.key = some v ∧
      v = { u with s := v.s, pts := v.pts, ops := [] } ∧ t.mem = s.mem ∧
      (∀ k, k ≠ u.key → t.troupe k = s.troupe k) ∧ ∀ k, k ≠ n → t.ringSlot k = s.ringSlot k
    (x.kind = 0 → s.slotFree n x.world = true → x.payload.length = 4 → x.sd < 64 →
      (∀ f, x.from? = some f → step < f + 768) →
      ∃ t v, exec (.processionPassage core half) s = .next t ∧ done t v ∧ (t.ringSlot n).w = x.payload ∧
        (t.ringSlot n).boarded = true ∧ (t.ringSlot n).owner = (s.ringSlot n).owner ∧ v.sreg x.sd = BitVec.ofNat 64 n ∧
        ∀ r, r ≠ x.sd → v.sreg r = u.sreg r) ∧
    (x.kind ≠ 0 → x.kind < 5 → x.slot = n → s.slotBoarded n x.world = true → x.d + 4 ≤ 64 → x.wsel < 4 →
      ∃ t v, exec (.processionPassage core half) s = .next t ∧ done t v ∧
        (t.ringSlot n).owner = (s.ringSlot n).owner ∧ (t.ringSlot n).boarded = (x.kind != 1) ∧
        (t.ringSlot n).w = (match x.kind with
          | 1 => [0, 0, 0, 0]
          | 2 => (s.ringSlot n).w
          | 3 => x.payload
          | _ => (s.ringSlot n).w.set x.wsel (qopFn x.qop ((s.ringSlot n).w.getD x.wsel 0) x.x x.y)) ∧
        (∀ r, v.sreg r =
          if (x.kind = 1 ∨ x.kind = 2) ∧ x.d ≤ r ∧ r < x.d + 4 then (s.ringSlot n).w.getD (r - x.d) 0
          else if x.kind = 4 ∧ r = x.d then (s.ringSlot n).w.getD x.wsel 0
          else u.sreg r))) ∧
  (∀ core i s x u o, (s.core core).stopQ.find? (fun y => y.id == i) = some x → x.kind = 0 → x.vacated = true →
    x.issued + 3 ≤ s.cycle → s.requester x.tkey x.uid = some u → u.key = x.tkey → x.sd < 64 → x.id = i →
    u.ops.find? (fun y => y.id == i) = some o → (∀ y ∈ u.ops, y.id = i → y.clash = false) →
    ∃ t v, exec (.pboardExhausted core i) s = .next t ∧ t.ring = s.ring ∧
      (t.core core).stopQ = (s.core core).stopQ.filter (fun y => y.id != i) ∧ t.troupe u.key = some v ∧
      v.sreg x.sd = ones64 ∧ (∀ r, r ≠ x.sd → v.sreg r = u.sreg r) ∧ v = { u with s := v.s, ops := v.ops }) ∧
  (∀ slot s m, s.ringMoves.find? (fun y => y.slot == slot) = some m → s.atStopZero slot = true → m.save = false →
    ∃ t, exec (.processionOwnerChange slot) s = .next t ∧ (t.ringSlot slot).owner = m.owner ∧
      (t.ringSlot slot).w = [0, 0, 0, 0] ∧ (t.ringSlot slot).boarded = false ∧ (t.ringSlot slot).poisoned = ((s.ringSlot slot).poisoned && m.owner != 0) ∧
      (t.ringTag slot).owner = m.owner ∧ (∀ k, k ≠ slot → t.ringSlot k = s.ringSlot k) ∧ t.mem = s.mem ∧
      t.ringMoves = s.ringMoves.filter fun x => x.slot != slot) ∧
  ∀ slot s, slot ≤ 767 → ∃ t, exec (.processionSlotPoison slot) s = .next t ∧
    { t with ring := s.ring, ringTab := s.ringTab } = s ∧ t.ringSlot slot = { s.ringSlot slot with poisoned := true } ∧
    (t.ringTag slot).poisoned = true ∧ ∀ k, k ≠ slot → t.ringSlot k = s.ringSlot k

/-- R301 to R307, R314, R315: the matrix array takes the queue's head when it is free, leaves its result in the
working bank and reports its batch; `aswap` changes which bank is visible and neither bank's contents. R308: a byte of
a slot that has been written since the `mma` issued is read as it stood then, or as some write since has left it. -/
def Obligations.MatrixEvents : Prop :=
  (∀ f old later a, (mixBytes f old later).byte a = old.byte a ∨ ∃ b ∈ later, (mixBytes f old later).byte a = b.byte a) ∧
  (∀ core s m rest, (s.core core).array = none → (s.core core).mq = m :: rest → m.swap = false →
    ∃ t, exec (.mmaExecute core) s = .next t ∧ { t with cores := s.cores } = s ∧
      (t.core core) = { s.core core with mq := rest, array := some m } ∧ ∀ k, k ≠ core → t.core k = s.core k) ∧
  (∀ core s m, (s.core core).array = some m → m.seen = [] →
    m.ops = [(s.core core).oslot m.aslot, (s.core core).oslot m.bslot] →
    ∃ t, exec (.mmaComplete core) s = .next t ∧ t.mem = s.mem ∧ (t.core core).array = none ∧
      ((t.core core).acc m.acc).working = (m.drain ((s.core core).acc m.acc).working).1 ∧
      ((t.core core).acc m.acc).visible = ((s.core core).acc m.acc).visible ∧
      (∀ j, j ≠ m.acc → (t.core core).acc j = (s.core core).acc j) ∧ (∀ k, k ≠ core → t.core k = s.core k) ∧
      ∀ u, s.troupe m.tkey = some u → u.key = m.tkey → u.uid = m.uid → u.ctl.batches = [(m.batch, 1)] → u.ctl.wait = .no →
        ∃ v, t.troupe m.tkey = some v ∧ v.done = u.sp.batch ∧ v.ctl.batches = [] ∧
          v.sp = { u.sp with special := u.sp.special || (m.drain ((s.core core).acc m.acc).working).2 } ∧
          v = { u with sp := v.sp, done := v.done, ctl := v.ctl }) ∧
  (∀ core s m rest, (s.core core).array = none → (s.core core).mq = m :: rest → m.swap = true →
    (s.core core).visBusy.find m.acc = none →
    ∃ t, exec (.aswapExecute core) s = .next t ∧ t.mem = s.mem ∧ t.troupes = s.troupes ∧ (t.core core).mq = rest ∧
      ((t.core core).acc m.acc).visible = ((s.core core).acc m.acc).working ∧
      ((t.core core).acc m.acc).working = ((s.core core).acc m.acc).visible ∧
      (∀ j, j ≠ m.acc → (t.core core).acc j = (s.core core).acc j) ∧ ∀ k, k ≠ core → t.core k = s.core k) ∧
  ∀ core acc s, ∃ t, exec (.visibleBankComplete core acc) s = .next t ∧ { t with cores := s.cores } = s ∧
    t.core core = { s.core core with visBusy := (t.core core).visBusy } ∧ (t.core core).visBusy.find acc = none ∧
    (∀ j, j ≠ acc → (t.core core).visBusy.find j = (s.core core).visBusy.find j) ∧ ∀ k, k ≠ core → t.core k = s.core k

/-- R337, R338, R340 to R343: a held notice is posted when its mailbox has room, with an expiry whose Almanac time is
at the rate of now, which is the model's choice (log 85); when it expires, what is still wanted is seized: once its
uses have ended, its image is in the repossession area, if it fits there, and a loss record in the loss ring; it is
cleared and free, and the closing entry follows. -/
def Obligations.NoticeEvents : Prop :=
  ∀ (w : Nat) (s : State) (n : Notice), (s.world w).notices = [n] →
    let m := (s.world w).areas.noticeMbx
    (s.mailbox m).arming = none → (s.mailbox m).entries.length < 64 →
    (n.posted = false → (s.world w).st ≠ .halted → n.count ≠ 0 →
      ∃ t, exec (.noticePost w) s = .next t ∧ t.troupes = s.troupes ∧ t.mem = s.mem ∧
        (t.world w).notices = [{ n with posted := true, expiry := s.cycle + n.life, expiryNs := s.almAfter n.life }] ∧
        (t.mailbox m).entries = (s.mailbox m).entries ++ [[BitVec.ofNat 64 (5 + n.cls * 2 ^ 8 + n.count * 2 ^ 16 + n.id * 2 ^ 32),
          0, BitVec.ofNat 64 (s.cycle + n.life), BitVec.ofNat 64 (s.almAfter n.life)] ++ n.cand]) ∧
    ∀ x, n.posted = true → n.closing = false → n.expiryNs ≤ s.alm → n.cls ∈ [0, 2, 3, 4, 7, 8] → n.cand = [x] →
      n.count = n.yielded + 1 → n.evict = [] → n.seized = [] → (s.world w).takes = [] →
      s.holdsRes w n.cls x.toNat = true →
      let k := x.toNat % 256
      let i := x.toNat / 256
      let take := s.newTake w n.cls x.toNat true n.id
      let bs := (s.image take).1
      let a := (s.world w).areas
      let off := (a.repOff + 4095) / 4096 * 4096
      let saved := !bs.isEmpty && decide (off + bs.length ≤ a.repSize)
      let ring := a.lossBase + 32 * ((s.world w).lossTotal % a.lossCap)
      let loss : List W64 := [BitVec.ofNat 64 (n.cls + (if saved then 2 ^ 8 else 0) + n.id * 2 ^ 16), x, BitVec.ofNat 64 s.alm,
        if saved then BitVec.ofNat 64 off else ones64]
      (s.closeTake w take).drained w take = true → s.mem.wf = true → (s.core k).spad.wf = true → (s.core k).oslots.wf = true →
      (∀ u ∈ s.troupes, ∀ b q since next, u.2.ctl.wait ≠ .bar b q since next) →
      (n.cls = 0 → (∀ j, ∀ e ∈ (s.slice j).lines, e.2.pinned = none) ∧
        (x.toNat + 4096 ≤ a.repBase + off ∨ a.repBase + off + bs.length ≤ x.toNat) ∧
        (x.toNat + 4096 ≤ ring ∨ ring + 32 ≤ x.toNat)) →
      (n.cls = 8 → x.toNat ≠ m) → 0 < a.lossCap →
      (a.repBase + off + bs.length ≤ ring ∨ ring + 32 ≤ a.repBase + off) →
      ∃ t, exec (.noticeExpiry w n.id) s = .next t ∧ (t.world w).notices = [] ∧ t.mem.wf = true ∧
        (saved = true → t.mem.read (a.repBase + off) bs.length = bs) ∧ t.mem.read ring 32 = loss.flatMap wordBytes ∧
        (∀ p, ¬ (saved = true ∧ a.repBase + off ≤ p ∧ p < a.repBase + off + bs.length) → (p < ring ∨ ring + 32 ≤ p) →
          ¬ (n.cls = 0 ∧ x.toNat ≤ p ∧ p < x.toNat + 4096) → t.mem.byte p = s.mem.byte p) ∧
        (t.world w).lossTotal = (s.world w).lossTotal + 1 ∧ (t.world w).lossBits.getLsbD n.cls = true ∧
        (match n.cls with
         | 0 => (∀ p, x.toNat ≤ p → p < x.toNat + 4096 → t.mem.byte p = 0) ∧
            ∀ e ∈ t.extents, ¬ (e.base = x.toNat ∧ e.size = 0 ∧ e.world = w)
         | 2 => ∀ j ∈ s.plotUnit x.toNat, t.ownerOf 2 j = 0 ∧
            ∀ p, 16384 * (j / 256) ≤ p → p < 16384 * (j / 256) + 16384 → (t.core k).spad.byte p = 0
         | 3 => t.ownerOf 3 x.toNat = 0 ∧ ∀ p, 8448 * i ≤ p → p < 8448 * i + 8448 → (t.core k).oslots.byte p = 0
         | 4 => t.ownerOf 4 x.toNat = 0 ∧ (t.core k).accs.find i = none
         | 7 => t.ownerOf 7 x.toNat = 0 ∧ (t.ensemble x.toNat).members = [] ∧ (t.ensemble x.toNat).allocated = false
         | _ => t.ownerOf 8 x.toNat = 0 ∧ (t.mailbox x.toNat).entries = [] ∧ (t.mailbox x.toNat).drops = 0) ∧
        (t.mailbox m).entries = (s.mailbox m).entries ++ [[BitVec.ofNat 64 (5 + n.cls * 2 ^ 8 + 1 * 2 ^ 16 + n.id * 2 ^ 32),
          1, BitVec.ofNat 64 s.cycle, BitVec.ofNat 64 s.alm, x, ones64, ones64, ones64]]

/-- R392 to R394, R434: what writes to a function's registers do: WPTR and its doorbell, STATE, an entry of the
front-end table, the interrupt registers, QMAP, the command buffer. R6, R178: the zero fields of FE_HI read as zero,
and its WORLD as the function of the entry. R422, R423: a function that is locked or running takes a TLP on its IDE
stream alone, and another moves it to ERROR, as does a write of its front-end table by the PF. A queue that is mapped
anew, or stopped and run again, has its slot at RPTR read again (R397); what becomes of packets that it had started
for another function is the model's choice (log 74). -/
def Obligations.RegisterWrites : Prop :=
  let asks (q : Nat) (x : Ext) : Bool := x.opId != agentOp q && x.opId != agentOp (pairKey q)
  (∀ f q v ide s, Reached s f ide → q < 64 → (s.queue q).qmap = some f →
    ((v.setWidth 32 - (s.queue q).rptr : W32).toNat ≤ 2 ^ (s.queue q).log2 →
      ∃ t, exec (.qWptrDoorbell ⟨f, ide⟩ q v) s = .next t ∧ { t with queues := s.queues } = s ∧
        t.queue q = { s.queue q with wptr := v.setWidth 32 } ∧ ∀ k, k ≠ q → t.queue k = s.queue k) ∧
    ((s.queue q).log2 < 16 → ∃ t, exec (.queueStop ⟨f, ide⟩ q) s = .next t ∧
      { t with queues := s.queues, ext := s.ext } = s ∧ t.ext = s.ext.filter (asks q) ∧
      t.queue q = { s.queue q with state := 1 } ∧ ∀ k, k ≠ q → t.queue k = s.queue k) ∧
    ((s.queue q).state ≠ 0 → 4 ≤ fld v 3 0 → ((s.queue q).wptr - (s.queue q).rptr).toNat ≤ 2 ^ fld v 3 0 →
      ∃ t, exec (.queueRun ⟨f, ide⟩ q v) s = .next t ∧
        { t with queues := s.queues, ext := s.ext } = s ∧ t.ext = s.ext.filter (asks q) ∧
        t.queue q = { s.queue q with state := 0, log2 := fld v 3 0 } ∧ ∀ k, k ≠ q → t.queue k = s.queue k)) ∧
  (∀ f e lo ide s, Reached s f ide → e < 64 → let hi := (s.fn f).feHi.get e 0
    let x : W64 × W64 := (lo, (hi &&& ~~~ (0xFC0 : W64)) ||| BitVec.ofNat 64 (f * 64))
    (entryBad (lo, hi) = false → (entryValid x = true → s.admits f x = true) →
      ∃ t, exec (.feEntryWrite ⟨f, ide⟩ ⟨e, false⟩ lo) s = .next t ∧ { t with fns := s.fns } = s ∧
        (t.fn f).fe.find e = some x ∧ (t.fn f).feRefused = false ∧
        (∀ k, k ≠ e → (t.fn f).fe.find k = (s.fn f).fe.find k) ∧ ∀ k, k ≠ f → t.fn k = s.fn k) ∧
    (entryBad (lo, hi) = true → ∃ t, exec (.feEntryWrite ⟨f, ide⟩ ⟨e, false⟩ lo) s = .next t ∧ { t with fns := s.fns } = s ∧
      t.fn f = { s.fn f with feRefused := true } ∧ ∀ k, k ≠ f → t.fn k = s.fn k)) ∧
  (∀ f e lo ide s, Reached s 0 ide → f ≠ 0 → ((s.fn f).trust.tdisp = 1 ∨ (s.fn f).trust.tdisp = 2) →
    ∃ t, exec (.feEntryWrite ⟨f, ide⟩ ⟨e, true⟩ lo) s = .next t ∧ { t with fns := s.fns } = s ∧
      (t.fn f).trust = { (s.fn f).trust with tdisp := 3 } ∧ ∀ k, k ≠ f → t.fn k = s.fn k) ∧
  (∀ f off v ide s, s.fnPresent f = true → ((s.fn f).trust.tdisp = 1 ∨ (s.fn f).trust.tdisp = 2) →
    (ide = false ∨ (s.fn f).trust.ide = false) →
    ∃ t, exec (.registerWrite ⟨f, ide⟩ off v) s = .next t ∧ { t with fns := s.fns } = s ∧
      t.fn f = { s.fn f with trust := { (s.fn f).trust with tdisp := 3 } } ∧ ∀ k, k ≠ f → t.fn k = s.fn k) ∧
  (∀ f v ide s, Reached s f ide →
    (∃ t, exec (.registerWrite ⟨f, ide⟩ 0x0008 v) s = .next t ∧ { t with fns := s.fns } = s ∧
      t.fn f = { s.fn f with irqStatus := (s.fn f).irqStatus &&& ~~~ (v.setWidth 8) }) ∧
    (∃ t, exec (.registerWrite ⟨f, ide⟩ 0x0010 v) s = .next t ∧ { t with fns := s.fns } = s ∧
      t.fn f = { s.fn f with irqMask := v.setWidth 8 }) ∧
    (∃ t, exec (.registerWrite ⟨f, ide⟩ 0x0018 v) s = .next t ∧ { t with fns := s.fns } = s ∧
      t.fn f = { s.fn f with apbase := v &&& 0x00FFFFFFFFFFF000 }) ∧
    (∀ e, e < 64 → ∃ t, exec (.registerWrite ⟨f, ide⟩ (0x2000 + 16 * e + 8) v) s = .next t ∧ { t with fns := s.fns } = s ∧
      t.fn f = { s.fn f with feHi := (t.fn f).feHi } ∧ (t.fn f).feHi.find e = some v ∧
      (let x := t.readReg f (0x2000 + 16 * e + 8)
       x.extractLsb' 48 16 = 0 ∧ x.extractLsb' 4 2 = 0 ∧ x.extractLsb' 12 36 = v.extractLsb' 12 36 ∧
       x.extractLsb' 0 4 = v.extractLsb' 0 4 ∧
       x.extractLsb' 6 6 = ((s.fn f).fe.get e (0, 0)).2.extractLsb' 6 6)) ∧
    (f ≠ 0 → exec (.registerWrite ⟨f, ide⟩ 0x8500 v) s = .next s)) ∧
  (∀ v ide s, Reached s 0 ide →
    (∀ i, i < 32 → ∃ t, exec (.registerWrite ⟨0, ide⟩ (0x8400 + 8 * i) v) s = .next t ∧
      { t with mgmt := s.mgmt } = s ∧ t.mgmt.allocCmd.find i = some v ∧
      ∀ k, k ≠ i → t.mgmt.allocCmd.find k = s.mgmt.allocCmd.find k) ∧
    ∀ q, q < 64 → (s.queue q).state = 1 → (s.queue q).qmap = none → v.getLsbD 6 = true →
      (s.fn (fld v 5 0)).trust.tdisp = 0 →
      ∃ t, exec (.registerWrite ⟨0, ide⟩ (0x8000 + 8 * q) v) s = .next t ∧ t.queue q = { s.queue q with
        qfn := fld v 5 0, qmap := some (fld v 5 0)
        started := (s.queue q).started.filter fun p => p.world == fld v 5 0
        recorded := (s.queue q).recorded.filter fun p => p.world == fld v 5 0 }) ∧
  (∀ v s, s.mgmt.booted = false → exec (.allocDoorbell 0 v) s = .next s) ∧
  ∀ v s i, v.getLsbD 0 = true → s.mgmt.booted = true → s.mgmt.running = [] →
    commandOf ((List.range 32).map fun k => s.mgmt.allocCmd.get k 0) = some i →
    ∃ t, exec (.allocDoorbell 0 v) s = .next t ∧ { t with mgmt := s.mgmt, book := s.book } = s ∧
      t.mgmt.running = ((List.range 32).map fun k => s.mgmt.allocCmd.get k 0) ∧ i ∈ t.book.due

/-- R391, R396, R397, R400 to R404: packets start in the order of their ring and do what their type says. -/
def Obligations.Packets : Prop :=
  (∀ q w pa p s, AtRptr s q w pa p → p.type = 1 → p.formed = true → ∃ t id, exec (.qnop q) s = .next t ∧
    Started s t q id { p with acted := true } ∧ t.mem = s.mem ∧ Instr.packetCompletion q p.slot ∈ t.book.due) ∧
  (∀ q w pa p s pb, AtRptr s q w pa p → p.type = 2 → s.feParts w ((s.queue q).slotVa ((s.queue q).rptr + 1)) 64 true false
      false = .ok [(pb, 64)] → inModule pb = true →
    let words := p.words.take 8 ++ toWords 8 (s.memRead pb 64)
    ({ p with words := words } : Packet).formed = true → ∃ t id, exec (.qlaunch q) s = .next t ∧
      Started s t q id { p with words := words, presented := true, acted := true } ∧ t.mem = s.mem ∧
      t.presented = s.presented ++ [{ world := w, desc := (p.word 0 &&& ~~~ (0xFFF : W64)) :: words.drop 1
                                      packet := some (q, id) }]) ∧
  (∀ q w pa p s, AtRptr s q w pa p → p.type = 3 → p.formed = true → ∃ t id, exec (.qprolog q) s = .next t ∧
    Started s t q id { p with hart := some (Hart.start (p.word 1) (p.word 2) (p.word 3)) } ∧ t.mem = s.mem) ∧
  (∀ q w pa p s, AtRptr s q w pa p → p.type = 4 → p.formed = true → p.arms = (0, 0) → ∃ t id, exec (.qpred q) s = .next t ∧
    Started s t q id { p with made := 1 } ∧ t.mem = s.mem) ∧
  (∀ q w pa p s, AtRptr s q w pa p → p.type = 5 → p.formed = true →
    (∀ va ∈ p.sigs, ∃ pb, s.feTranslate w va 8 true false false = .ok pb ∧ inModule pb = true ∧ s.memWord pb = 0) →
    ∃ t id, exec (.qbarrier q) s = .next t ∧ Started s t q id { p with acted := true } ∧ t.mem = s.mem ∧
      Instr.packetCompletion q p.slot ∈ t.book.due) ∧
  (∀ q w pa p s, AtRptr s q w pa p → p.type = 5 → p.formed = true →
    (∀ va ∈ p.sigs, ∃ pb, s.feTranslate w va 8 true false false = .ok pb ∧ inModule pb = true ∧ (s.memWord pb).msb = false) →
    (∃ va ∈ p.sigs, ∃ pb, s.feTranslate w va 8 true false false = .ok pb ∧ s.memWord pb ≠ 0) →
    ∃ t id, exec (.qbarrier q) s = .next t ∧ Started s t q id { p with seen := s.alm } ∧ t.mem = s.mem) ∧
  (∀ q w pa p s pb, AtRptr s q w pa p → p.type = 6 → p.formed = true →
    s.feTranslate w (p.word 1).toNat 8 true true false = .ok pb → inModule pb = true → s.mem.wf = true →
    ∃ t id, exec (.qsignal q) s = .next t ∧ Started s t q id { p with acted := true } ∧
      t.mem.read pb 8 = wordBytes (if fld (p.word 0) 19 16 = 0 then p.word 2 else s.memWord pb + p.word 2) ∧
      ∀ a, (a < pb ∨ pb + 8 ≤ a) → t.mem.byte a = s.mem.byte a) ∧
  (∀ q w pa p s pb pc, AtRptr s q w pa p → p.type = 7 → p.formed = true →
    s.feParts w (p.word 1).toNat 96 true false false = .ok [(pb, 96)] → inModule pb = true →
    s.feParts w (p.word 2).toNat 96 true false false = .ok [(pc, 96)] → inModule pc = true →
    let src := toWords 12 (s.memRead pb 96)
    let dst := toWords 12 (s.memRead pc 96)
    qRecBad src true = false → qRecBad dst false = false → recDiffer src dst = none →
    ∃ t id c, exec (.qcopy q) s = .next t ∧ Started s t q id { p with copy := some c.id, acted := true } ∧ t.mem = s.mem ∧
      t.copies = s.copies ++ [c] ∧ c.src = src ∧ c.dst = dst ∧ c.world = w ∧ c.queue = some (q, id) ∧
      c.cluster = fld (p.word 0) 20 16 ∧ c.acq = true ∧ c.todo = chunksOf src ∧ c.bar = none ∧ c.cw = none) ∧
  (∀ q w pa p s, AtRptr s q w pa p → p.type = 8 → p.formed = true → let m := fld (p.word 0) 25 16
    (s.mailbox m).owner = w → (s.mailbox m).arming = none → (s.mailbox m).entries.length < 64 →
    ∃ t id, exec (.qpost q) s = .next t ∧ Started s t q id { p with acted := true } ∧ t.mem = s.mem ∧
      (t.mailbox m).entries = (s.mailbox m).entries ++ [[
        BitVec.ofNat 64 (2 + q * 2 ^ 8 + w * 2 ^ 16 + p.slot % 2 ^ 16 * 2 ^ 32),
        p.word 1, p.word 2, p.word 3, p.word 4, p.word 5, p.word 6, 0]] ∧
      ∀ k, k ≠ m → t.mailbox k = s.mailbox k) ∧
  (∀ q w pa p s pb, AtRptr s q w pa p → p.type = 9 → p.formed = true → (s.queue q).started = [] →
    s.feParts w (p.word 1).toNat 16 false true false = .ok [(pb, 16)] → inModule pb = true → s.mem.wf = true →
    ∃ t id, exec (.qmark q) s = .next t ∧ Started s t q id { p with acted := true } ∧
      t.mem.read pb 16 = leBytes 8 (fld (p.word 0) 47 16) ++ leBytes 8 s.alm ∧
      (∀ a, (a < pb ∨ pb + 16 ≤ a) → t.mem.byte a = s.mem.byte a) ∧ Instr.packetCompletion q p.slot ∈ t.book.due) ∧
  ∀ q w pa p s pb, AtRptr s q w pa p → p.type = 10 → p.formed = true → fld (p.word 0) 23 16 = 7 →
    (p.word 1).toNat < 4 → fld (p.word 2) 63 46 = 0 →
    (∀ y ∈ s.queues, ∀ x ∈ y.2.started, x.world = w → x.type = 10 → x.acted = true) → (s.world w).debugs = [] →
    s.feParts w (p.word 5).toNat 8 false true false = .ok [(pb, 8)] → inModule pb = true → s.mem.wf = true →
    ∃ t id, exec (.qdebug q) s = .next t ∧ Started s t q id { p with acted := true } ∧
      (t.world w).bkpt.find (p.word 1).toNat = some (p.word 2) ∧ t.mem.read pb 8 = wordBytes 0 ∧
      ∀ a, (a < pb ∨ pb + 8 ≤ a) → t.mem.byte a = s.mem.byte a

/-- R396, R399, R405, R406, R408, R411: a packet with nothing left to wait for leaves its queue and steps its completion
signal down; barrier packets are evaluated again, and armed again after a migration; a prologue is repeated, and one
that runs for too long aborts its queue. R411: a world that is quiesced starts nothing from its queues any more; once
it is at rest, peers that name a target of it are held off. -/
def Obligations.PacketEvents : Prop :=
  (let only (s : State) (q slot : Nat) (p : Packet) : Prop := (s.queue q).qmap.isSome = true ∧ s.packetsAt q slot = [p]
   let packets (s t : State) (q : Nat) (p : Packet) (f : Packet → Packet) : Prop :=
     (t.queue q).started = (s.queue q).started.map fun x => if x.id = p.id then f x else x
   (∀ q slot s p, only s q slot p → p.failed = none → s.packetOver q p = true → p.type ≠ 2 →
     let drops (t : State) : Prop := t.troupes = s.troupes ∧
       t.queue q = { s.queue q with started := (s.queue q).started.filter fun x => x.id != p.id } ∧
       ∀ k, k ≠ q → t.queue k = s.queue k
     (p.csig = 0 → ∃ t, exec (.packetCompletion q slot) s = .next t ∧ drops t ∧ t.mem = s.mem ∧
       (p.type = 9 → (p.word 0).getLsbD 48 = true → s.fnPresent p.world = true →
         (t.fn p.world).irqStatus.getLsbD 3 = true)) ∧
     ∀ pa, p.csig ≠ 0 → p.csig.toNat % 8 = 0 → s.mem.wf = true →
       s.feTranslate p.world p.csig.toNat 8 true true false = .ok pa → inModule pa = true →
       ∃ t, exec (.packetCompletion q slot) s = .next t ∧ drops t ∧ t.mem.read pa 8 = wordBytes (s.memWord pa - 1) ∧
         ∀ a, (a < pa ∨ pa + 8 ≤ a) → t.mem.byte a = s.mem.byte a) ∧
   (∀ q slot s p, only s q slot p → p.type = 5 → p.acted = false → p.formed = true →
     (∀ va ∈ p.sigs, ∃ pb, s.feTranslate p.world va 8 true false false = .ok pb ∧ inModule pb = true ∧
       s.memWord pb = 0) →
     ∃ t, exec (.qbarrierEvaluation q slot) s = .next t ∧ t.mem = s.mem ∧ t.troupes = s.troupes ∧
       packets s t q p (fun x => { x with acted := true, poked := false }) ∧ Instr.packetCompletion q slot ∈ t.book.due) ∧
   (∀ q slot words place s w, (s.queue q).qmap = some w →
     let p : Packet := { id := s.book.nextId, world := w, slot := slot, words := words
                         barrier := (words.headD 0).getLsbD 8, place := some place }
     p.type = 5 → p.formed = true → (∀ x ∈ (s.queue q).started, x.id ≠ s.book.nextId) →
     (∀ va ∈ p.sigs, ∃ pb, s.feTranslate p.world va 8 true false false = .ok pb ∧ inModule pb = true ∧
       s.memWord pb = 0) →
     ∃ t, exec (.qbarrierRearm q ⟨slot, words, place⟩) s = .next t ∧ t.mem = s.mem ∧ t.troupes = s.troupes ∧
       (t.queue q).started = insertPlaced { p with acted := true } (s.queue q).started ∧
       (t.queue q).recorded = (s.queue q).recorded.filter fun x => x.slot != slot) ∧
   (∀ q slot s p, only s q slot p → p.again = true → p.presented = false →
     ∃ t, exec (.prologueRepeat q slot) s = .next t ∧ { t with queues := s.queues } = s ∧
       packets s t q p (fun x => { x with again := false
                                          hart := some (Hart.start (x.word 1) (x.word 2) (x.word 3)) }) ∧
       ∀ k, k ≠ q → t.queue k = s.queue k) ∧
   ∀ q slot s p h, only s q slot p → p.hart = some h → 4096 ≤ h.retired → p.type = 3 → p.csig = 0 →
     (s.queue q).state ≠ 2 → s.ownPending q p = false →
     ∃ t, exec (.prologueOverrun q slot) s = .next t ∧ (t.queue q).state = 2 ∧ (t.queue q).cause = 0x13 ∧
       (t.queue q).slot = BitVec.ofNat 32 slot ∧ (∀ x ∈ (t.queue q).started, x.id ≠ p.id) ∧ t.mem = s.mem) ∧
  (∀ w s, s.present w = true → let qs := s.queuesOf w
     (∀ q ∈ qs, (s.queue q).started = []) → (∀ k u, (k, u) ∈ s.troupes → u.world ≠ w) → (∀ c ∈ s.copies, c.world ≠ w) →
     (∀ c ∈ s.cores, (heldBy c.2.accOwner w) = []) → s.coresOf w = [] →
     ∃ t, exec (.liveMigrationQuiesce w) s = .next t ∧ t.mem = s.mem ∧ t.troupes = s.troupes ∧
       (t.world w).moving = false ∧ (∀ q ∈ qs, (t.queue q).state ≠ 0) ∧ (∀ q, q ∉ qs → t.queue q = s.queue q) ∧
       ∀ k e, s.remote.find k = some e → t.remote.find k =
         some (if e.getLsbD 0 = true ∧ fld e 20 15 = w then e ||| 2 else e))

/-- R329, R445: LIMITS sets the limit of its kind, in the cores, slices or clusters that it names, and nothing else.
R329, R327: a command on a world that does not exist ends with status 3, whatever its operands are, which is the model's
choice (log 19), and a LIMITS value out of its range or an ill-formed word with status 1; neither does anything else.
R413: all this once the management core runs its firmware. -/
def Obligations.LimitCommands : Prop :=
  ((∀ w ops s, Limit s 0 w ops → (opw ops 2).toNat < 2 ^ 32 →
     ∃ b, SetsWorld (.limitsTokenBudget w ops) s w (fun x => { x with limits := { x.limits with nextBudget := b } }) ∧
       ∀ k, b.get k 0 = if k < 192 ∧ (opw ops 5 ++ opw ops 4 ++ opw ops 3 : BitVec 192).getLsbD k = true
         then (opw ops 2).toNat else (s.world w).limits.nextBudget.get k 0) ∧
   (∀ w ops s, Limit s 1 w ops → (opw ops 2).toNat < 2 ^ 16 → opw ops 4 = 0 → opw ops 5 = 0 →
     (∀ i, ∀ e ∈ (s.slice i).lines, e.2.pinned ≠ some w) →
     ∃ b, SetsWorld (.limitsDways w ops) s w (fun x => { x with limits := { x.limits with dways := b } }) ∧
       ∀ i, b.get i 0 = if i < 64 ∧ (opw ops 3).getLsbD i = true then (opw ops 2).toNat else
         (s.world w).limits.dways.get i 0) ∧
   (∀ w ops s, Limit s 2 w ops → (opw ops 2).toNat ≤ 16384 → opw ops 4 = 0 → opw ops 5 = 0 →
     ∃ b, SetsWorld (.limitsPinQuota w ops) s w (fun x => { x with limits := { x.limits with pinQuota := b } }) ∧
       ∀ i, b.get i 0 = if i < 64 ∧ (opw ops 3).getLsbD i = true then (opw ops 2).toNat else
         (s.world w).limits.pinQuota.get i 0) ∧
   (∀ w ops s, Limit s 3 w ops → (opw ops 2).toNat ≤ 256 → (opw ops 3).toNat < 2 ^ 24 → opw ops 4 = 0 → opw ops 5 = 0 →
     ∃ b, SetsWorld (.limitsMissQuota w ops) s w (fun x => { x with limits := { x.limits with missQuota := b } }) ∧
       ∀ i, b.get i 0 = if i < 24 ∧ (opw ops 3).getLsbD i = true then (opw ops 2).toNat else
         (s.world w).limits.missQuota.get i 0) ∧
   (∀ w ops s, Limit s 4 w ops → 1 ≤ (opw ops 2).toNat → (opw ops 2).toNat ≤ 256 → (opw ops 3).toNat < 2 ^ 24 →
     opw ops 4 = 0 → opw ops 5 = 0 →
     ∃ b, SetsWorld (.limitsRequestQuota w ops) s w (fun x => { x with limits := { x.limits with reqQuota := b } }) ∧
       ∀ i, b.get i 0 = if i < 24 ∧ (opw ops 3).getLsbD i = true then (opw ops 2).toNat else
         (s.world w).limits.reqQuota.get i 0) ∧
   (∀ w ops s, Limit s 5 w ops → (opw ops 2).toNat ≤ 60000 → opw ops 3 = 0 → opw ops 4 = 0 → opw ops 5 = 0 →
     SetsWorld (.limitsWatchdog w ops) s w fun x => { x with limits := { x.limits with tw := (opw ops 2).toNat } }) ∧
   (∀ w ops s, s.present w = true → opw ops 1 = 6 → (opw ops 2).toNat ≤ 1 → restZero ops 3 = true →
     (∀ c ∈ s.clusters, c.2.reqQ = []) →
     (Submitted s 5 w ops → (opw ops 2).toNat = 0 → ∃ t, exec (.limitsTimingFence w ops) s = .next t ∧
       { t with mgmt := s.mgmt } = s ∧ Begun t 5 w ops) ∧
     (Begun s 5 w ops → SetsWorld (.limitsTimingFence w ops) s w fun x =>
       { x with limits := { x.limits with fenced := decide ((opw ops 2).toNat = 1) } })) ∧
   ∀ w ops s, Limit s 7 w ops → (opw ops 2).toNat ≤ 32 → opw ops 4 = 0 → opw ops 5 = 0 → s.fencedWorlds = [] →
     ∃ b, SetsWorld (.limitsReservedCycles w ops) s w (fun x => { x with limits := { x.limits with reserved := b } }) ∧
       ∀ i, i < 64 → b.get i 0 = if (opw ops 3).getLsbD i = true then (opw ops 2).toNat else
         (s.world w).limits.reserved.get i 0) ∧
  (let ends (i : Instr) (s : State) (n : Nat) : Prop :=
     ∃ t, exec i s = .next t ∧ Ended s t n ∧ OnlyWorlds s t ∧ t.worlds = s.worlds
   (∀ w ops s, s.present w = false →
     (Submitted s 3 w ops → ends (.bind w ops) s 3) ∧ (Submitted s 4 w ops → ends (.revoke w ops) s 3) ∧
     (Submitted s 5 w ops → ends (.limitsTokenBudget w ops) s 3 ∧ ends (.limitsDways w ops) s 3 ∧
       ends (.limitsPinQuota w ops) s 3 ∧ ends (.limitsMissQuota w ops) s 3 ∧ ends (.limitsRequestQuota w ops) s 3 ∧
       ends (.limitsWatchdog w ops) s 3 ∧ ends (.limitsTimingFence w ops) s 3 ∧ ends (.limitsReservedCycles w ops) s 3) ∧
     (Submitted s 6 w ops → ends (.switch w ops) s 3) ∧ (Submitted s 7 w ops → ends (.remote w ops) s 3) ∧
     (Submitted s 8 w ops → ends (.restart w ops) s 3) ∧ (Submitted s 9 w ops → ends (.launch w ops) s 3)) ∧
   (∀ w ops s, s.present w = true → (Submitted s 1 w ops → ends (.create w ops) s 3) ∧
     (Submitted s 5 w ops → 16384 < (opw ops 2).toNat → ends (.limitsPinQuota w ops) s 1) ∧
     (Submitted s 5 w ops → 60000 < (opw ops 2).toNat → ends (.limitsWatchdog w ops) s 1) ∧
     (Submitted s 5 w ops → (opw ops 2).toNat = 0 → ends (.limitsRequestQuota w ops) s 1) ∧
     (Submitted s 9 w ops → launchOk ops = true → (s.world w).st = .halted → ends (.launch w ops) s 3) ∧
     (Submitted s 8 w ops → launchOk ops = true → (s.world w).st = .live → ends (.restart w ops) s 3)) ∧
   ∀ (f : Nat) (v : W64) (s : State), v.getLsbD 0 = true → s.mgmt.booted = true → s.mgmt.running = [] →
     commandOf ((List.range 32).map fun k => s.mgmt.allocCmd.get k 0) = none → ends (.allocDoorbell 0 v) s 1 ∧
     exec (.allocDoorbell (f + 1) v) s = .next s)

/-- R320, R321, R326, R329, R420: CREATE makes a live world of the next epoch, with its areas zero and its two
mailboxes; that its areas follow one another in the order of R326's table is the model's reading (log 20). DESTROY
leaves nothing of a world, and its frames zero. -/
def Obligations.WorldsMadeAndEnded : Prop :=
  (∀ w ops s bases, Submitted s 1 w ops → s.present w = false → createOk ops = true → w ≠ 0 →
    let fm := fld (opw ops 5) 9 0
    let nm := fld (opw ops 5) 25 16
    layAreas (areaSizes ops) 0 ((createExtents ops).map fun x => (extBase x, extBase x + pageSize (extCode x))) 12 =
      some bases →
    (∀ x ∈ createExtents ops, s.extentHeld w x = 0) → (s.mailbox fm).owner = 0 → (s.mailbox nm).owner = 0 →
    let inArea (a : Nat) : Prop := ∃ x ∈ bases.zip (areaSizes ops), x.1 ≤ a ∧ a < x.1 + upFrame x.2
    ∃ t, exec (.create w ops) s = .next t ∧ Ended s t 0 ∧ t.troupes = s.troupes ∧
      (∀ a, inArea a → t.mem.byte a = 0) ∧ (∀ a, ¬ inArea a → t.mem.byte a = s.mem.byte a) ∧
      (∃ k, t.world w = {
        st := .live, epoch := s.mgmt.creates + 1, keys := some k
        areas := { faultMbx := fm, noticeMbx := nm
                   lossBase := bases.getD 0 0, lossCap := 2 ^ (opw ops 1).toNat
                   repBase := bases.getD 1 0, repSize := (opw ops 2).toNat
                   susBase := bases.getD 2 0, susCap := (opw ops 3).toNat
                   swBase := bases.getD 3 0, swSize := (opw ops 4).toNat } }) ∧
      (∀ v, v ≠ w → t.world v = s.world v) ∧ t.mgmt.creates = s.mgmt.creates + 1 ∧
      t.mailbox fm = { owner := w } ∧ t.mailbox nm = { owner := w } ∧
      (∀ m, m ≠ fm → m ≠ nm → t.mailbox m = s.mailbox m) ∧
      ∃ xs, t.extents = s.extents ++ xs ∧ ∀ x ∈ xs, x.world = w ∧ x.area = true) ∧
  (∀ w s, Submitted s 2 w (s.mgmt.running.drop 1) → s.present w = true → w ≠ 0 → w < 64 →
    let mine (a : Nat) : Prop := ∃ x ∈ s.extents, x.world = w ∧ x.base ≤ a ∧ a < x.base + pageSize x.size
    ∃ t, exec (.destroy w) s = .next t ∧ Begun t 2 w (s.mgmt.running.drop 1) ∧ (t.world w).st = .absent ∧ (∀ v, v ≠ w → t.world v = s.world v) ∧
      (∀ x ∈ t.troupes, x.2.world ≠ w) ∧ (∀ x ∈ t.launches, x.2.world ≠ w) ∧ (∀ x ∈ t.extents, x.world ≠ w) ∧
      (∀ x ∈ t.mbx, x.2.owner ≠ w) ∧ (∀ x ∈ t.ens, x.2.owner ≠ w) ∧ (∀ x ∈ t.copies, x.world ≠ w) ∧
      (∀ a, mine a → t.mem.byte a = 0) ∧ ∀ a, ¬ mine a → t.mem.byte a = s.mem.byte a) ∧
  ∀ w s, Begun s 2 w (s.mgmt.running.drop 1) → s.ringMoves = [] → ∃ t, exec (.destroy w) s = .next t ∧ Ended s t 0 ∧ OnlyWorlds s t ∧
    t.worlds = s.worlds

/-- R327, R329, R337, R351: BIND gives resources that nobody holds to its world; extents among them are cleared; REVOKE
opens a notice, in which a candidate that no notice may name is none, which is the model's reading (log 80); REMOTE
writes its table. -/
def Obligations.BindRevokeRemote : Prop :=
  (∀ w ops s, Submitted s 3 w ops → s.present w = true → w ≠ 0 → w < 64 →
    let cls := (opw ops 1).toNat
    let n := (opw ops 2).toNat
    let xs := bindItems ops
    1 ≤ n → n ≤ 29 → restZero ops (n + 3) = true → xs.length = n →
    xs.zipIdx.all (fun p => bindForm cls (xs.take p.2) p.1) = true →
    (cls = 1 ∨ cls = 2 ∨ cls = 3 ∨ cls = 4 ∨ cls = 6 ∨ cls = 7 ∨ cls = 8 ∨ cls = 9 ∨ cls = 10 →
      (∀ x ∈ xs, s.ownerOf cls x.toNat = 0) → (cls = 2 → ∀ x ∈ xs, x.getLsbD 15 = false) →
      (cls = 9 → ∀ x ∈ xs, s.timeLane ≠ some x.toNat) → s.fencedWorlds = [] →
      ∃ t, exec (.bind w ops) s = .next t ∧ Ended s t 0 ∧ t.mem = s.mem ∧ t.worlds = s.worlds ∧
        (∀ x ∈ xs, t.ownerOf cls x.toNat = w) ∧
        (∀ k, resOk cls k = true → (∀ x ∈ xs, x.toNat ≠ k) → t.ownerOf cls k = s.ownerOf cls k) ∧
        ∀ c k, 1 ≤ c → c ≤ 10 → c ≠ cls → t.ownerOf c k = s.ownerOf c k) ∧
    (cls = 0 → (∀ x ∈ xs, s.extentHeld w x = 0) →
      let named (a : Nat) : Prop := ∃ x ∈ xs, extBase x ≤ a ∧ a < extBase x + pageSize (extCode x)
      ∃ t, exec (.bind w ops) s = .next t ∧ Ended s t 0 ∧ t.worlds = s.worlds ∧ t.troupes = s.troupes ∧
        t.extents = s.extents ++ xs.map (fun x => { base := extBase x, size := extCode x, world := w }) ∧
        (∀ a, named a → t.mem.byte a = 0) ∧ ∀ a, ¬ named a → t.mem.byte a = s.mem.byte a) ∧
    (cls = 255 → (s.world w).apertures.length + n ≤ 32 →
      SetsWorld (.bind w ops) s w fun y => { y with apertures := y.apertures ++ xs.map fun x =>
        { base := extBase x, size := extCode x, r := x.getLsbD 4, w := x.getLsbD 5 } }) ∧
    (cls = 5 → (∀ x ∈ xs, (s.ringSlot x.toNat).owner = 0) →
      ∃ t, exec (.bind w ops) s = .next t ∧ Begun t 3 w ops ∧ t.worlds = s.worlds ∧ t.mem = s.mem ∧
        ∀ x ∈ xs, (t.ringTag x.toNat).owner = w ∧ ∃ m ∈ t.ringMoves, m.slot = x.toNat ∧ m.owner = w)) ∧
  (∀ w ops s, Submitted s 4 w ops → s.present w = true →
    let x := opw ops 1
    let cls := fld x 7 0
    (x &&& ~~~ (0xFFFF00FF : W64)) = 0 → cls ≠ 1 → cls ≤ 10 → opw ops 2 ≠ 0 → restZero ops 7 = true →
    (∀ n ∈ (s.world w).notices, n.cls ≠ cls) → (∀ i ∈ [3, 4, 5, 6], s.candStatus w cls (opw ops i) = 0) →
    SetsWorld (.revoke w ops) s w fun y => { y with
      nextNotice := y.nextNotice % 65535 + 1
      notices := y.notices ++ [{
        id := y.nextNotice, cls := cls, count := fld x 31 16, life := (opw ops 2).toNat
        cand := [3, 4, 5, 6].map fun i =>
          if s.protected w cls (opw ops i).toNat then BitVec.allOnes 64 else opw ops i }] }) ∧
  ∀ w ops s, Submitted s 7 w ops → s.present w = true → (opw ops 1).toNat < 1024 → restZero ops 3 = true →
    let x := opw ops 2
    fld x 63 61 = 0 → (x.getLsbD 0 = true → fld x 20 15 = w ∧ s.ownsTarget w x = true ∧
      if x.getLsbD 4 = true then fld x 60 25 < 1024 else
        fld x 24 21 ≤ 11 ∧ fld x 60 25 * 4096 % pageSize (fld x 24 21) = 0) →
    ∃ t, exec (.remote w ops) s = .next t ∧ Ended s t 0 ∧ OnlyWorlds s { t with remote := s.remote } ∧
      t.worlds = s.worlds ∧ t.remote.find (opw ops 1).toNat = some x ∧
      ∀ k, k ≠ (opw ops 1).toNat → t.remote.find k = s.remote.find k

/-- R349, R350: SWITCH asks the troupes of the outgoing world to leave its cores; once they have come to rest, every tag
of the outgoing world on those cores is the incoming world's. That a world is switched out core by core, in its
`outCores`, is the model's reading (log 24). R328, R321: LAUNCH and RESTART start a runtime launch. -/
def Obligations.SwitchAndRuntime : Prop :=
  (∀ w ops s, s.present w = true → let o := (opw ops 1).toNat
    let cores := switchCores ops
    o < 64 → o ≠ w → restZero ops 5 = true → s.present o = true →
    (Submitted s 6 w ops → (∀ k ∈ cores, s.areaHolds w k = true ∧ s.areaHolds o k = true) →
      (∀ k ∈ cores, (s.recordHold w k).within ((s.core k).hold o) = true) → s.fencedWorlds = [] →
      (s.world w).notices = [] → (s.world o).notices = [] →
      ∃ t, exec (.switch w ops) s = .next t ∧ Begun t 6 w ops ∧ t.mem = s.mem ∧
        (∀ k ∈ cores, k ∈ (t.world o).outCores) ∧ (∀ v, v ≠ o → { t.world v with counters := (s.world v).counters } = s.world v) ∧
        ∀ k, t.core k = s.core k) ∧
    (Begun s 6 w ops → s.recordsFit o w cores = true → (∀ k ∈ cores, s.atRest o k = true) → (∀ x ∈ s.troupes, x.1 = x.2.key) →
      ∃ t, exec (.switch w ops) s = .next t ∧ Done t 0 ∧
        (∀ x ∈ t.troupes, x.2.core ∈ cores → x.2.world ≠ o) ∧
        (∀ k ∈ cores, k ∈ (t.world o).outCores ∧ k ∉ (t.world w).outCores) ∧
        ∀ k ∈ cores, let give (old : Table Nat) : Table Nat := old.mapVals fun _ x => if x == o then w else x
          (t.core k).tslotOwner = give (s.core k).tslotOwner ∧ (t.core k).blockOwner = give (s.core k).blockOwner ∧
          (t.core k).plotOwner = give (s.core k).plotOwner ∧ (t.core k).oslotOwner = give (s.core k).oslotOwner ∧
          (t.core k).accOwner = give (s.core k).accOwner)) ∧
  ∀ w ops s, s.present w = true → launchOk ops = true → (opw ops 3).toNat = 0 →
    let d := (opw ops 1).toNat
    inModule d = true → s.placedStatus w d 128 = 0 → s.poisoned d 128 = false → s.launches.length < 4096 →
    let l := describe w (toWords 16 (s.memRead d 128))
    l.result = 0 → l.signal = 0 → l.deadline = 0 → bit (l.word 1) 39 = true → fld (l.word 1) 37 36 ≠ 2 →
    let starts (i : Instr) : Prop := ∃ t n l', exec i s = .next t ∧ Done t 0 ∧ (t.world w).st = .live ∧
      (t.world w).runtime = some n ∧ t.launches.find n = some l' ∧ l'.world = w ∧ l'.desc = l.desc ∧
      l'.alive = l.troupes ∧ l'.nextTid = 0
    ((s.world w).st = .live → Submitted s 9 w ops → s.launchCauses l [] = [] → starts (.launch w ops) ∧
      ∀ t, exec (.launch w ops) s = .next t → t.mem = s.mem ∧ t.troupes = s.troupes) ∧
    ((s.world w).st = .halted → Submitted s 8 w ops →
      (s.modWorld w fun x => { x with runtime := none }).launchCauses l [] = [] → starts (.restart w ops))

/-- R172, R176, R223, R351, R433: what the host and the peers read and write of the module's memory and mailboxes.
(That a peer's access is checked, performed and answered in one step, and what numbers its answers carry, is the model's
choice, log 44; so is the form of the flits that bring the answer, log 29; that a peer asks for admission beforehand is
log 64's, and that it is told of poison log 30's.) -/
def Obligations.HostAndPeerAccesses : Prop :=
  (∀ pa n s, n ≠ 0 → moduleRange pa n = true →
    (s.poisoned pa n = false → ∀ bs : List Byte, bs.length = n → s.mem.wf = true →
      ∃ t, exec (.hostMemoryWrite pa n (some bs)) s = .next t ∧ MemoryPut s t pa bs ∧ t.troupes = s.troupes ∧ t.out = s.out) ∧
    (s.poisoned pa n = false → ∃ t, exec (.hostMemoryWrite pa n none) s = .next t ∧ t.mem = s.mem ∧
      t.troupes = s.troupes ∧ t.out = s.out ++ [.completion true false (s.memRead pa n)]) ∧
    (s.poisoned pa n = true → ∀ data, Sends (.hostMemoryWrite pa n data) s [.completion true true []])) ∧
  (∀ pa n data s, moduleRange pa n = false → Sends (.hostMemoryWrite pa n data) s [.completion false false []]) ∧
  (∀ f off n ide s pa, Reached s f ide → off + n ≤ 2 ^ 36 → inModule pa = true → s.bar2 = [] →
    let va := (s.fn f).apbase.toNat + off
    (s.feParts f va n true false false = .ok [(pa, n)] → ∃ t, exec (.hostBar2Access ⟨f, ide⟩ off n none) s = .next t ∧
      t.mem = s.mem ∧ t.troupes = s.troupes ∧ t.bar2 = [] ∧ t.out = s.out ++ [.completion true false (s.memRead pa n)]) ∧
    ∀ bs : List Byte, bs.length = n → s.mem.wf = true → s.feParts f va n false true false = .ok [(pa, n)] →
      ∃ t, exec (.hostBar2Access ⟨f, ide⟩ off n (some bs)) s = .next t ∧ MemoryPut s t pa bs ∧ t.troupes = s.troupes ∧
        t.out = s.out) ∧
  (∀ f off n ide s, Reached s f ide → 2 ^ 36 < off + n →
    ∀ bs, Sends (.hostBar2Access ⟨f, ide⟩ off n (some bs)) s [.completion false false []]) ∧
  ∀ peer rworld tag s,
    let answers (kind : RemoteKind) (bs : List Byte) (status : Nat) (P : State → Prop) : Prop := ∃ t fs,
      exec (.remoteAccess peer rworld tag kind) s = .next t ∧ t.troupes = s.troupes ∧
      t.out = s.out ++ .peerReply peer tag bs status :: fs ∧ (∀ x ∈ fs, ∃ lane f, x = .flit lane f) ∧ P t
    let only (t : State) : Prop :=
      { t with mbx := s.mbx, lanes := s.lanes, out := s.out, worlds := s.worlds, book := s.book } = s ∧
      ∀ w, { t.world w with counters := (s.world w).counters } = s.world w
    let idle (t : State) : Prop := only t ∧ t.mbx = s.mbx
    (∀ kind, s.remoteEntries peer rworld kind = [] → answers kind [] 1 idle) ∧
    (∀ kind, s.remoteEntries peer rworld kind ≠ [] → (∀ e ∈ s.remoteEntries peer rworld kind, e.getLsbD 1 = true) →
      answers kind [] 2 idle) ∧
    (∀ pa n w, Admitted s peer rworld (.query pa n w) → answers (.query pa n w) [] 0 idle) ∧
    (∀ pa n, Admitted s peer rworld (.read pa n) →
      (s.poisoned pa n = false → answers (.read pa n) (s.memRead pa n) 0 fun t => t.mem = s.mem) ∧
      (s.poisoned pa n = true → answers (.read pa n) [] 3 idle)) ∧
    (∀ pa bs, Admitted s peer rworld (.write pa bs) →
      (s.poisoned pa bs.length = false → s.mem.wf = true → answers (.write pa bs) [] 0 fun t => MemoryPut s t pa bs) ∧
      (s.poisoned pa bs.length = true → answers (.write pa bs) [] 3 idle)) ∧
    (∀ pa op x c, Admitted s peer rworld (.atomic pa op true x c) →
      (s.poisoned pa 8 = false → s.mem.wf = true → answers (.atomic pa op true x c) (s.memRead pa 8) 0
        fun t => MemoryPut s t pa (wordBytes (atomicFn op (s.memWord pa) x c))) ∧
      (s.poisoned pa 8 = true → answers (.atomic pa op true x c) [] 3 idle)) ∧
    ∀ m payload core tslot launch, Admitted s peer rworld (.post m payload core tslot launch) → payload.length = 7 →
      let i := RemoteKind.post m payload core tslot launch
      (64 ≤ (s.mailbox m).entries.length → answers i (leBytes 8 1) 0 idle) ∧
      ((s.mailbox m).entries.length < 64 → (s.mailbox m).arming = none → ∃ x, answers i (leBytes 8 0) 0
        fun t => only t ∧ (t.mailbox m).entries = (s.mailbox m).entries ++ [x :: payload] ∧
          ∀ k, k ≠ m → t.mailbox k = s.mailbox k)

/-- R355, R437, R439: a good flit is acknowledged; one that is not acknowledged is sent again, and after 16 resends
its lane has failed; 16 good intervals lock the Almanac to its source, at first as after a loss (log 31), and 8 missed
ones lose it; an exchange with a Wowen source sends a flit of kind 15 on its lane. (Which CRC a good flit carries and
what it acknowledges is the model's, PRESUMED and a DESIGN CHOICE: log 29.) -/
def Obligations.LanesAndTime : Prop :=
  (∀ lane flit s, let l := s.lanes.get lane {}
    (l.failed = true ∨ flitOk flit = false → exec (.flitReceive lane flit) s = .next s) ∧
    (l.failed = false → flitOk flit = true → ∃ t, exec (.flitReceive lane flit) s = .next t ∧
      { t with lanes := s.lanes, out := s.out } = s ∧ t.out = s.out ++ [.ack lane (leNat (flit.take 2))] ∧
      (∀ k, k ≠ lane → t.lanes.get k {} = s.lanes.get k {}) ∧
      (t.lanes.get lane {}).recvSeq = (if leNat (flit.take 2) = l.recvSeq then (l.recvSeq + 1) % 2 ^ 16 else l.recvSeq) ∧
      (t.lanes.get lane {}).owner = l.owner ∧ (t.lanes.get lane {}).sendSeq = l.sendSeq ∧
      ((t.lanes.get lane {}).unacked = l.unacked ∨
        ∃ a, Config.flitAck ((flit.drop 8).take 52) = some a ∧ (t.lanes.get lane {}).unacked = ackFlits a l.unacked))) ∧
  (∀ lane s, let l := s.lanes.get lane {}
    (l.unacked = [] ∨ l.failed = true → exec (.flitResend lane) s = .next s) ∧
    (∀ f, l.oldest = some f → l.failed = false → l.resends < 16 → f ∈ l.unacked ∧ (∀ g ∈ l.unacked, f.1 ≤ g.1) ∧
      ∃ t, exec (.flitResend lane) s = .next t ∧
      { t with lanes := s.lanes, out := s.out, worlds := s.worlds, book := s.book } = s ∧
      (∀ w, { t.world w with counters := (s.world w).counters } = s.world w) ∧ t.out = s.out ++ [.flit lane f.2] ∧
      t.lanes.get lane {} = { l with
        resends := l.resends + 1, unacked := l.unacked.map fun g => if g = f then (s.alm, f.2) else g } ∧
      ∀ k, k ≠ lane → t.lanes.get k {} = s.lanes.get k {}) ∧
    (l.unacked ≠ [] → l.failed = false → 16 ≤ l.resends → ∃ t, exec (.flitResend lane) s = .next t ∧
      { t with lanes := s.lanes, mgmt := s.mgmt, fns := s.fns, out := s.out, worlds := s.worlds, book := s.book } = s ∧
      (∀ w, { t.world w with counters := (s.world w).counters } = s.world w) ∧
      t.lanes.get lane {} = { l with failed := true, unacked := [] } ∧ t.mgmt = { s.mgmt with laneFail := lane } ∧
      t.fn 0 = { s.fn 0 with irqStatus := (s.fn 0).irqStatus ||| 128 } ∧
      ∀ k, (t.lanes.get k {}).owner = (s.lanes.get k {}).owner)) ∧
  (∀ good ppm s, s.mgmt.timeSrc = 0 → exec (.timeSyncInterval good ppm) s = .next s) ∧
  (∀ ppm s lane, s.mgmt.timeSrc = 1 → s.timeLane = some lane → (s.lanes.get lane {}).failed = false →
    ∃ t f, exec (.timeSyncInterval true ppm) s = .next t ∧ t.out = s.out ++ [.flit lane f] ∧ flitOk f = true ∧
      leNat (f.take 4) / 2 ^ 16 % 16 = 15 ∧ (t.lanes.get lane {}).unacked = (s.lanes.get lane {}).unacked ++ [(s.alm, f)]) ∧
  (∀ ppm s, s.mgmt.timeSrc ≠ 0 → s.almStepped = true → ∃ t, exec (.timeSyncInterval true ppm) s = .next t ∧
    { t with mgmt := s.mgmt, ppm := s.ppm, lanes := s.lanes, out := s.out, worlds := s.worlds, book := s.book } = s ∧
    (∀ w, { t.world w with counters := (s.world w).counters } = s.world w) ∧
    (∀ k, s.timeLane ≠ some k → t.lanes.get k {} = s.lanes.get k {}) ∧
    t.mgmt = { s.mgmt with timeGood := s.mgmt.timeGood + 1, timeMissed := 0, timeLocked := t.mgmt.timeLocked } ∧
    (t.mgmt.timeLocked = true ↔ s.mgmt.timeLocked = true ∨ 16 ≤ s.mgmt.timeGood + 1) ∧
    (t.mgmt.timeLocked = true → -500 ≤ t.ppm ∧ t.ppm ≤ 500 ∧ (-500 ≤ ppm → ppm ≤ 500 → t.ppm = ppm)) ∧
    (t.mgmt.timeLocked = false → t.ppm = s.ppm)) ∧
  (∀ ppm s, s.mgmt.timeSrc ≠ 0 → s.almStepped = false → s.book.nextOrder = 0 → ∃ t,
    exec (.timeSyncInterval true ppm) s = .next t ∧ t.almStepped = true ∧ t.alm < 2 ^ 64 ∧ t.mem = s.mem) ∧
  (∀ ppm s, s.mgmt.timeSrc ≠ 0 → ∃ t, exec (.timeSyncInterval false ppm) s = .next t ∧
    { t with mgmt := s.mgmt, fns := s.fns, lanes := s.lanes, out := s.out, worlds := s.worlds, book := s.book } = s ∧
    (∀ w, { t.world w with counters := (s.world w).counters } = s.world w) ∧
    (∀ k, s.timeLane ≠ some k → t.lanes.get k {} = s.lanes.get k {}) ∧
    t.mgmt.timeMissed = s.mgmt.timeMissed + 1 ∧ t.mgmt.timeGood = 0 ∧
    (s.mgmt.timeMissed + 1 < 8 → t.mgmt.timeLocked = s.mgmt.timeLocked ∧ t.fns = s.fns) ∧
    (8 ≤ s.mgmt.timeMissed + 1 → t.mgmt.timeLocked = false ∧
      (s.mgmt.timeLocked = true → (t.fn 0).irqStatus.getLsbD 5 = true))) ∧
  ∀ s, (s.mgmt.timeLocked = false → exec .timeSourceLoss s = .next s) ∧
    (s.mgmt.timeLocked = true → ∃ t, exec .timeSourceLoss s = .next t ∧
      { t with mgmt := s.mgmt, fns := s.fns, out := s.out } = s ∧ t.ppm = s.ppm ∧
      t.mgmt = { s.mgmt with timeLocked := false, timeGood := 0 } ∧ (t.fn 0).irqStatus.getLsbD 5 = true)

/-- R440 to R443: heat states follow the samples; above the power limit one cluster is raised; the junction trip. Of
the troupes nothing changes but since when they are ready (R89). (That a check withdraws the raise of the check before
it, and one at or below the limit raises nothing, is DEDUCED: log 32.) -/
def Obligations.HeatAndPower : Prop :=
  let readied (s t : State) : Prop := ∀ k, match s.troupe k with
    | none => t.troupe k = none
    | some u => t.troupe k = some u ∨
        t.troupe k = some { u with ctl := { u.ctl with readyAt := max u.ctl.readyAt s.cycle } }
  (∀ (c : Nat) (T : Int) (s : State), c < 24 → (s.cluster c).heat ≤ 3 → (∀ k, 6 ≤ k → k ≤ 8 → s.mgmt.config.get k 0 = 0) →
    let old := (s.cluster c).heat
    let up := if 105 ≤ T then 3 else if 95 ≤ T then 2 else if 85 ≤ T then 1 else 0
    ∃ t, exec (.heatSample c T) s = .next t ∧
      { t with clusters := s.clusters, troupes := s.troupes, book := s.book } = s ∧ readied s t ∧
      t.cluster c = { s.cluster c with
        celsius := T
        heat := if old < up then up else if old ≠ 0 ∧ T < 75 + 10 * (old : Int) - 3 then old - 1 else old } ∧
      ∀ k, k ≠ c → t.cluster k = s.cluster k) ∧
  (∀ watts draws s, s.mgmt.config.get 5 0 = 0 → watts < 2 ^ 32 → ∃ t, exec (.powerCheck watts draws) s = .next t ∧
    { t with clusters := s.clusters, troupes := s.troupes, mgmt := s.mgmt, book := s.book } = s ∧ readied s t ∧ t.mgmt = { s.mgmt with power := watts } ∧
    (∀ c, { t.cluster c with raised := (s.cluster c).raised } = s.cluster c) ∧
    (watts ≤ 4000 → ∀ c, (t.cluster c).raised = 0) ∧
    (4000 < watts → s.fencedWorlds = [] → (∃ c, c < 24 ∧ (s.cluster c).heat < 3) → ∃ c, c < 24 ∧ (s.cluster c).heat < 3 ∧
      (t.cluster c).raised = (s.cluster c).heat + 1 ∧ (∀ d, d ≠ c → (t.cluster d).raised = 0) ∧
      ∀ d, d < 24 → (s.cluster d).heat < 3 → draws.getD d 0 ≤ draws.getD c 0)) ∧
  ∀ T s, (115 ≤ T → exec (.junctionTrip T) s = .next { s with powered := false }) ∧
    (T < 115 → exec (.junctionTrip T) s = .next s)

/-- R413 to R416, R424, R431: hot reset leaves everything as after reset, and boots; a link that goes down ends every
session, and keeps a world whose interface it took from the host window. (What the manual leaves open of the state
after reset is the model's choice: logs 3, 4, 7, 8, 9 and 50; the check that a failed boot reports is log 34's, and
the keys of world 0 are log 48's.) -/
def Obligations.ResetAndLinkDown : Prop :=
  (∀ s, ∃ t, exec .hotReset s = .next t ∧
    { t with worlds := State.reset.worlds, mgmt := State.reset.mgmt, out := [], book := State.reset.book } = State.reset ∧
    (let k := 3 * s.book.nextId
     t.worlds = [(0, { st := .live, keys := some ⟨k, k + 1, k + 2⟩ })] ∧ s.book.nextId < t.book.nextId) ∧ t.out = s.out ∧
    t.mgmt.flash = s.mgmt.flash ∧ t.mgmt.helper = s.mgmt.helper ∧ t.mgmt.running = [] ∧ t.mgmt.creates = 0 ∧
    let secret := pufSecret (Config.sramState s.book.nextId) s.mgmt.helper
    (secret = none → t.mgmt.bootStatus = 0x10500 ∧ t.mgmt.booted = false) ∧
    (∀ uds n c, secret = some uds → s.mgmt.images Config.romKeyHash 0 5 = .error (n, c) →
      t.mgmt.bootStatus = BitVec.ofNat 17 (n + c * 2 ^ 8 + 2 ^ 16) ∧ t.mgmt.booted = false ∧
      t.mgmt.svnFloor = s.mgmt.svnFloor) ∧
    ∀ uds imgs, secret = some uds → s.mgmt.images Config.romKeyHash 0 5 = .ok imgs →
      t.mgmt.bootStatus = 4 ∧ t.mgmt.booted = true ∧
      ∀ k i, imgs[k]? = some i → t.mgmt.measured.get k [] =
        sha3 (List.replicate 32 0 ++ sha3 (imgWhole i))) ∧
  ∀ s, ∃ t, exec .linkDown s = .next t ∧ { t with fns := s.fns } = s ∧
    ∀ f, let x := (s.fn f).trust
      (x.tdisp = 1 ∨ x.tdisp = 2 → t.fn f = { s.fn f with trust := { tdisp := 3, barred := true } }) ∧
      (¬ (x.tdisp = 1 ∨ x.tdisp = 2) → t.fn f = { s.fn f with trust := { tdisp := x.tdisp, barred := x.barred } })

/-- R419 to R423: a responder answers with what it has signed, and within a session it seals what a sealed request asked
for; measurements wait for the command in progress; sessions, stream keys and interfaces move as they are asked to. (The
messages' codes, and when one is sealed, are the model's: log 35. LOCK_INTERFACE from CONFIG_UNLOCKED or ERROR without a
session is DEDUCED: log 36. That a function has one IDE stream, whose keys come in one message, is log 37's.) -/
def Obligations.Attestation : Prop :=
  ∀ f s, s.mgmt.booted = true → s.fnPresent f = true →
    let x := (s.fn f).trust
    let answers (i : Instr) (g : Trust → Trust) : Prop := ∃ t r, exec i s = .next t ∧
      { t with fns := s.fns, out := s.out, book := s.book } = s ∧ t.out = s.out ++ [.spdm f r] ∧
      t.fn f = { s.fn f with trust := g x } ∧ ∀ k, k ≠ f → t.fn k = s.fn k
    let signs (i : Instr) (code : Nat) (bs nonce : List Byte) : Prop :=
      Sends i s [.spdm f (BitVec.ofNat 8 code :: (bs ++ nonce ++ Config.mldsaSign (s.fnSeed f) (bs ++ nonce)))]
    let seals (i : Bool → Instr) : Prop :=
      (x.session = false → Sends (i true) s [.spdm f [0x7F, 2]]) ∧
      ∀ bs, Sends (i false) s [.spdm f bs] → x.session = true →
        ∃ t, exec (i true) s = .next t ∧ { t with fns := s.fns, out := s.out } = s ∧
          t.out = s.out ++ [.spdm f (Config.gcmSeal (x.secret.getD []) x.secured bs)] ∧
          t.fn f = { s.fn f with trust := { x with secured := x.secured + 1 } } ∧ ∀ k, k ≠ f → t.fn k = s.fn k
    answers (.negotiateAlgorithms f true true true true) (fun t => { t with negotiated := true }) ∧
    (∀ a b c d, ¬ (a = true ∧ b = true ∧ c = true ∧ d = true) → answers (.negotiateAlgorithms f a b c d) id) ∧
    (x.negotiated = true →
      Sends (.getCertificate ⟨f, false⟩ 0) s [.spdm f (2 :: (s.fnChain f).flatten)] ∧
      (∀ nonce, signs (.challenge ⟨f, false⟩ nonce) 3 (sha3 (s.fnChain f).flatten) nonce) ∧
      (s.mgmt.begun = false → s.mgmt.asked = [] →
        (∀ k nonce, 1 ≤ k → k ≤ 5 → signs (.getMeasurements ⟨f, false⟩ k nonce) 0x60
          (BitVec.ofNat 8 k :: s.mgmt.measured.get (k - 1) (List.replicate 32 0)) nonce) ∧
        (∀ nonce, f ≠ 0 → signs (.getMeasurements ⟨f, false⟩ 16 nonce) 0x60 (16 :: sha3 (s.configBytes f)) nonce) ∧
        (∀ nonce, f ≠ 0 → signs (.getMeasurements ⟨f, false⟩ 17 nonce) 0x60 (17 :: sha3 (s.bindingBytes f)) nonce) ∧
        (∀ nonce, f ≠ 0 → signs (.getMeasurements ⟨f, false⟩ 18 nonce) 0x60 (18 :: leBytes 8 (s.world f).epoch) nonce) ∧
        (∀ k nonce, 18 < k → answers (.getMeasurements ⟨f, false⟩ k nonce) id) ∧
        ∀ k nonce, seals fun b => .getMeasurements ⟨f, b⟩ k nonce) ∧
      (∀ slot, seals fun b => .getCertificate ⟨f, b⟩ slot) ∧ (∀ nonce, seals fun b => .challenge ⟨f, b⟩ nonce) ∧
      (∀ key, x.session = false →
        ∃ secret, answers (.keyExchange f key) fun t => { t with secret := some secret, secured := 0 }) ∧
      (∀ key, x.session = true → answers (.keyExchange f key) id) ∧
      (∀ secret mac, x.secret = some secret → x.session = false →
        answers (.finish f mac) fun t => if mac = Config.finishMac secret then { t with session := true } else t) ∧
      ∀ keys, answers (.ideKm ⟨f, false⟩ keys) id ∧
        (x.session = false → Sends (.ideKm ⟨f, true⟩ keys) s [.spdm f [0x7F, 2]]) ∧
        (x.session = true → ∃ t, exec (.ideKm ⟨f, true⟩ keys) s = .next t ∧ { t with fns := s.fns, out := s.out } = s ∧
          t.out = s.out ++ [.spdm f (Config.gcmSeal (x.secret.getD []) x.secured [0x7E])] ∧
          t.fn f = { s.fn f with trust := { x with ide := true, ideKeys := keys, secured := x.secured + 1 } } ∧
          ∀ k, k ≠ f → t.fn k = s.fn k)) ∧
    (∀ k nonce b, s.mgmt.begun = true ∨ s.mgmt.asked ≠ [] → exec (.getMeasurements ⟨f, b⟩ k nonce) s =
      .next { s with mgmt := { s.mgmt with asked := s.mgmt.asked ++ [(⟨f, b⟩, k, nonce)] } }) ∧
    let sets (i : Instr) (y : Trust) : Prop := ∃ t, exec i s = .next t ∧ { t with fns := s.fns } = s ∧
      t.fn f = { s.fn f with trust := y } ∧ ∀ k, k ≠ f → t.fn k = s.fn k
    (f ≠ 0 → x.tdisp = 0 ∨ x.tdisp = 3 → sets (.lockInterface f) { x with tdisp := 1 }) ∧
    (f ≠ 0 → x.tdisp = 1 ∨ x.tdisp = 2 → exec (.lockInterface f) s = .next s) ∧
    (x.tdisp = 1 → sets (.startInterface f) { x with tdisp := 2, barred := false }) ∧ (x.tdisp ≠ 1 → exec (.startInterface f) s = .next s)

/-- R428 to R430: what an uncorrectable error does to the store it strikes, and that a damaged integrity node takes
its region away; the worlds whose lines or frames are lost are told, in a loss record and a fault record. An
instruction that reads a poisoned register or word of slot state is known by it, and its fault names what was read.
(What the two records' numbers and addresses are is the model's, logs 11 and 12; that slot state comes before vector
registers is log 77's.) -/
def Obligations.StorageErrors : Prop :=
  let tells (s t : State) (w : Nat) (number va : W64) : Prop :=
    let a := (s.world w).areas
    let ring := a.lossBase + 32 * ((s.world w).lossTotal % a.lossCap)
    (0 < a.lossCap → t.mem.read ring 32 = [(11 : W64), number, BitVec.ofNat 64 s.alm, ones64].flatMap wordBytes) ∧
    (t.world w).lossTotal = (s.world w).lossTotal + 1 ∧ (t.world w).lossBits = (s.world w).lossBits ||| 2 ^ 11 ∧
    ∃ r, t.mailbox a.faultMbx = { s.mailbox a.faultMbx with entries := (s.mailbox a.faultMbx).entries ++ [r] } ∧
      r.headD 0 = BitVec.ofNat 64 (4 + 0x15 * 2 ^ 8 + w * 2 ^ 24 + 255 * 2 ^ 32) ∧ r.getD 4 0 = va ∧
      r.getD 5 0 = BitVec.ofNat 64 s.alm ∧ r.getD 6 0 = 2 ^ 12
  let room (s : State) (w : Nat) : Prop :=
    let m := s.mailbox (s.world w).areas.faultMbx
    (s.world w).st ≠ .absent ∧ m.arming = none ∧ m.entries.length < 64 ∧ (w = 0 → m.owner = 0) ∧ s.mem.wf = true
  (∀ core line s, ∃ t, exec (.uncorrectableError (.l1 core line)) s = .next t ∧ { t with cores := s.cores } = s ∧
    (t.core core).l1.find line = none ∧ ∀ k, k ≠ line → (t.core core).l1.find k = (s.core core).l1.find k) ∧
  (∀ ln l s, (s.slice (sliceOf (ln * 128))).lines.find ln = some l → ∃ t,
    exec (.uncorrectableError (.l2Data ln)) s = .next t ∧ { t with slices := s.slices } = s ∧
    (l.dirty = true → (t.slice (sliceOf (ln * 128))).lines.find ln = some { l with bad := true }) ∧
    (l.dirty = false → l.pinned = none → (t.slice (sliceOf (ln * 128))).lines.find ln = none)) ∧
  (∀ slice set s, exec (.uncorrectableError (.l2Tag slice set false)) s = .next s) ∧
  (∀ slice set s w, (s.slice slice).inSet set ≠ [] → (∀ e ∈ (s.slice slice).inSet set, e.2.world = w) → room s w →
    ∃ t, exec (.uncorrectableError (.l2Tag slice set true)) s = .next t ∧
      tells s t w ones64 (BitVec.ofNat 64 (slice * 2 ^ 11 + set))) ∧
  (∀ c set way s, way < 16 → ∃ t, exec (.uncorrectableError (.tlb c set way)) s = .next t ∧
    (∀ e, (t.cluster c).tlb.find (16 * set + way) = some e → e.1.getLsbD 0 = false) ∧ t.mem = s.mem ∧
    t.troupes = s.troupes) ∧
  (∀ c set way s, ∃ t, exec (.uncorrectableError (.utlb c set way)) s = .next t ∧ { t with cores := s.cores } = s ∧
    (set, way) ∉ (t.core c).utlb) ∧
  (∀ core slot r l s u, s.troupe (keyOf core slot) = some u → ∃ t,
    exec (.uncorrectableError (.vreg core slot r l)) s = .next t ∧ { t with troupes := s.troupes } = s ∧
    t.troupe (keyOf core slot) = some { u with ctl := { u.ctl with vPoison := u.ctl.vPoison ++ [(r, l)] } }) ∧
  (∀ core slot (n : Nat) s u, s.troupe (keyOf core slot) = some u → ∃ t,
    exec (.uncorrectableError (.slotState core slot n)) s = .next t ∧ { t with troupes := s.troupes } = s ∧
    t.troupe (keyOf core slot) = some { u with ctl := { u.ctl with sPoison := u.ctl.sPoison ++ [n] } }) ∧
  (∀ core row s, ∃ t, exec (.uncorrectableError (.spad core row)) s = .next t ∧ { t with cores := s.cores } = s ∧
    row ∈ (t.core core).spadBad ∧ (t.core core).spad = (s.core core).spad) ∧
  (∀ core k n s, ∃ t, exec (.uncorrectableError (.oslot core k n)) s = .next t ∧ { t with cores := s.cores } = s ∧
    t.core core = { s.core core with oslotBad := (s.core core).oslotBad ++ [(k, n)] }) ∧
  (∀ core a b row col s, ∃ t, exec (.uncorrectableError (.acc core a b row col)) s = .next t ∧
    { t with cores := s.cores } = s ∧
    t.core core = { s.core core with accBad := (s.core core).accBad ++ [(a, b, row, col)] }) ∧
  (∀ m i s, i < (s.mailbox m).entries.length → (s.mailbox m).drops < 0xFFFF → ∃ t,
    exec (.uncorrectableError (.mbx m i)) s = .next t ∧ { t with mbx := s.mbx } = s ∧
    t.mailbox m = { s.mailbox m with
      entries := (s.mailbox m).entries.take i ++ (s.mailbox m).entries.drop (i + 1), drops := (s.mailbox m).drops + 1 } ∧
    ∀ k, k ≠ m → t.mailbox k = s.mailbox k) ∧
  (∀ (s : State) i, let c := s.src.ctl
    (∀ k, c.sPoison = [k] → k ∈ wordsOf i → ∃ va, s.poisonRead i = some (s.src.live, va) ∧
      ∀ n, wordSpecial k = some n → va = BitVec.ofNat 64 (0x100 + n)) ∧
    ((∀ k ∈ c.sPoison, k ∉ wordsOf i) →
      let hit (r l : Nat) : Prop := (r, l) ∈ c.vPoison ∧ r ∈ (regsOf i).1 ∧ inMask (s.lanesRead i) l = true
      ((∀ r l, ¬ hit r l) → s.poisonRead i = none) ∧
      ∀ r l, hit r l → (∀ r' l', hit r' l' → r ≤ r') → ∃ m, s.poisonRead i = some (m, BitVec.ofNat 64 r) ∧
        ∀ k, k < 128 → (inMask m k = true ↔ hit r k))) ∧
  (∀ line s, inModule (64 * line) = true → ∃ t, exec (.memoryLinePoison line) s = .next t ∧ { t with poison := s.poison } = s ∧
    ∀ k, k ∈ t.poison ↔ k = line ∨ k ∈ s.poison) ∧
  ∀ level j s, level ≤ 10 → let r := nodeRegion level j
    let lost (x : Extent) : Prop := meets r.1 r.2 x.base (pageSize x.size) = true
    r.1 < 0x30000000000 → ∃ t, exec (.integrityNodeError level j) s = .next t ∧ t.rebuild = s.rebuild ++ [(level, j)] ∧
      (∀ x ∈ s.extents, lost x → (t.world x.world).lossBits.getLsbD 11 = true) ∧
      ∀ w, (∃ x ∈ s.extents, lost x) → (∀ x ∈ s.extents, lost x → x.world = w) → room s w →
        ∃ a, (∀ x ∈ s.extents, lost x → a ≤ max r.1 x.base) ∧ (∃ x ∈ s.extents, lost x ∧ a = max r.1 x.base) ∧
          tells s t w (BitVec.ofNat 64 a) (BitVec.ofNat 64 a)

/-- R28, R48 to R61: words that the manual writes out, and words put together from its tables, decode to the
instructions that they stand for; illegal ones are refused by the name of what is wrong with them. -/
def Obligations.WordsDecode : Prop :=
  decode [0] = .ok (.fadd ⟨false, false⟩ (.pos 0) 0 0 (.reg 0), 1) ∧
  decode [0x859C10BF, 5] = .ok (.iadd ⟨true, false⟩ .always 1 2 (.lit 5), 2) ∧
  decode [0x101C30C4] = .ok (.sadd ⟨false, false⟩ 3 3 (.reg 4), 1) ∧
  decode [0x211C4062, 0x08000040] = .ok (.ldg32 false .always 4 ⟨1, 2, 2, 0x40⟩ 2, 2) ∧
  decode [0x0584827F, 0x64] = .ok (.iadd ⟨false, false⟩ (.pos 1) 8 9 (.lit 100), 2) ∧
  decode [0x58DC01C0, 0xFFFFFFF1] = .ok (.loop true 7 0xFFFFFFF1, 2) ∧
  decode [0x165CA001] = .ok (.exif ⟨false, false⟩ 5 1, 1) ∧
  decode [0x0C2C1083] = .ok (.sel ⟨false, false⟩ true 3 1 2 (.reg 3), 1) ∧
  decode [0x129C9000, 1, 2] = .ok (.smov64 ⟨false, false⟩ 9 1 2, 3) ∧
  decode [0x249C5FC3, 0x04FFFFF8] = .ok (.sld false 5 ⟨1, 0xFFFFF8⟩ 3, 2) ∧
  decode [0x26046FC8, 0x0D12FFF0] = .ok (.amog false (.pos 1) ⟨6, 63, 8, 3, 4, .cas, true, 0x7FF0⟩, 2) ∧
  decode [0x27DC80C4, 0x58800000] = .ok (.prmw false 2 3 4 5 .cas 2, 2) ∧
  decode [0x299CC601, 0x3A4A0000] = .ok (.cpy false ⟨3, 6, 1, 3, true, false, .system, some 10⟩, 2) ∧
  decode [0x319C1083, 0x23A00000] = .ok (.mma false .always ⟨1, 2, 3, 2, 7, true, false⟩, 2) ∧
  decode [0x341C0189] = .ok (.tlbw false 3 (.reg 9), 1) ∧ decode [0x37DD00C0] = .ok (.faultrd false 2 3, 1) ∧
  decode [0xFFFFFFFF] = .error .reservedGuard ∧ decode [0x1C5C0000] = .error .unassigned ∧
  decode [0x003C0000] = .error .reservedGuard ∧ decode [0x10081083] = .error .guardOnAlways ∧
  decode [0x0C1C1083] = .error .selAlways ∧ decode [0x191C1000] = .error .zeroField ∧
  decode [0xA11C0FC0, 0] = .error .chainOnTail ∧ decode [0x215C1FC0, 0] = .error .misaligned ∧
  decode [0x055C10AA] = .error .badSelector ∧ decode [0x2ADC0005] = .error .badSelector

/-- R28 to R59: every well-formed instruction is what its own words decode to, whatever its operands are; and they are
no more than three words. -/
def Obligations.DecodeOfEncode : Prop :=
  ∀ i : Instr, i.isWord = true → i.wf = true →
    decode (encode i) = .ok (i, (encode i).length) ∧ (encode i).length ≤ 3

/-- R60: whatever follows them, words with G = 0b1111, or with C and E, or of an unassigned opcode, or with C on a
tail-only instruction of class 2 or 3, are no instruction. -/
def Obligations.IllegalWords : Prop :=
  ∀ (w : W32) (rest : List W32), let cl := bitsAt w.toNat 29 28
    let op := bitsAt w.toNat 27 22
    (bitsAt w.toNat 21 18 = 15 → decode (w :: rest) = .error .reservedGuard) ∧
    (bitsAt w.toNat 21 18 ≠ 15 → w.getLsbD 31 = true → w.getLsbD 30 = true → decode (w :: rest) = .error .chainAndEnd) ∧
    (bitsAt w.toNat 21 18 ≠ 15 → w.getLsbD 31 = true → w.getLsbD 30 = false → 2 ≤ cl →
      decode (w :: rest) = .error .chainOnTail) ∧
    (bitsAt w.toNat 21 18 = 7 → w.getLsbD 31 = false →
      (cl = 1 ∧ 0x31 ≤ op ∨ cl = 2 ∧ 0x2F ≤ op ∨ cl = 3 ∧ (0x0D ≤ op ∧ op ≤ 0x0F ∨ 0x23 ≤ op)) →
      decode (w :: rest) = .error .unassigned) ∧
    (bitsAt w.toNat 21 18 ≠ 15 → bitsAt w.toNat 21 18 ≠ 7 → cl = 1 → w.getLsbD 31 = false → decode (w :: rest) = .error .guardOnAlways)

/-- R30, R33, R37, R84: a turn of an issue slot whose troupe may go on runs the chain that stands at its program
counter, one member or several in their order, all of which read the troupe as it was before the chain; counts it (a
`cntcfg` before what it writes takes effect, R382) and settles its accounts. A chain that reads a poisoned register
takes the fault of R429, and one whose word is illegal that of R61. (Log 55: that the troupe a fault leaves is the one
before the chain is what the statements of faults say of the state's `src`. Whose turn it is, is the agenda's: log 1.)
-/
def Obligations.StepRunsDecoded : Prop :=
  ∀ (s : State) core islot rest k t, s.powered = true → s.book.due = [] → s.book.agenda = .issue core islot :: rest →
    let sl := (s.core core).islots.get islot {}
    sl.issued = false → sl.holder = some k → s.troupe (keyOf core k) = some t →
    (s.takeTurn rest).firstSlot core islot = islot →
    t.mayIssue = true → t.ctl.stepReq = none →
    let p := t.poised
    let s0 := (((s.takeTurn rest).asking core islot).dropAbandoned t).poise p
    let s1 := s0.openPackets p []
    s0.breakpoint p = none → s0.farPieces p = [] →
    (∀ ms, ms.length ≤ 3 → IsChain s1 p p.pc ms → sl.words + chainLen ms ≤ 24 →
      let s2 := s1.touchCode p ms
      s2.gated p ms = false → p.needsRelease ms = false → s2.src = p ∧
      (∀ lanes va, (ms.findSome? fun m => s2.poisonRead m.instr) = some (lanes, va) →
        step s = match s2.fault 0x14 0 lanes va with
          | .next u => .next ((u.countIssue p ms (0, 0)).finish p ms none)
          | r => r) ∧
      ((∀ m ∈ ms, s2.poisonRead m.instr = none) → s2.broken p ms = [] →
        let run (s : State) : Res := ms.foldl (fun r m => match r with
          | .next u => exec m.instr (u.modBook fun b => { b with lanes := none })
          | r => r) (.next s)
        step s = match run s2 with
          | .next u =>
            if setsCounter ms = true ∧ u.unissued p = false then
              match run (s2.countRun p (chainCycles ms) (chainLen ms) (s2.chainBeats ms)) with
              | .next v => .next (v.finish p ms none)
              | r => r
            else .next ((u.countIssue p ms (s2.chainBeats ms)).finish p ms none)
          | r => r)) ∧
    ∀ w e, s1.codeWord p [] p.pc = .ok w → decode [w] = .error e → e ≠ .truncated →
      step s = match s1.faultAll 1 0 (s1.wordVa p p.pc) with
        | .next u => .next (u.noFetch p)
        | r => r

/-- What a step adds around an instruction that has issued and does not fill its run: the registers, the program counter
and memory are as the instruction left them, and the run has its words more (R42, R90). Events that are due, and
events of the agenda, are performed as they stand; a module without power waits for hot reset (R440). (The order of
turns is log 1's.) -/
def Obligations.StepsAround : Prop :=
  (∀ (u : State) (p x : Troupe) (m : Member), u.troupe p.key = some x → x.uid = p.uid → x.key = p.key → x.core = p.core →
    x.ctl.stalled = false → heldBack p x = false → p.ctl.stepReq = none →
    let sl := (u.core p.core).islots.get (p.tslot % 4) {}
    sl.words + m.len < 24 → (u.finish p [m] none).mem = u.mem ∧
    ∃ y, (u.finish p [m] none).troupe p.key = some y ∧
      y = { x with sp := { x.sp with replay := y.sp.replay }, ops := y.ops, ctl := y.ctl, act := y.act } ∧
      (∀ k, k ≠ p.key → (u.finish p [m] none).troupe k = u.troupe k) ∧
      (sl.holder = some p.tslot →
        (((u.finish p [m] none).core p.core).islots.get (p.tslot % 4) {}).words = sl.words + m.len)) ∧
  (∀ (s : State) (i : Instr) (rest : List Instr), s.powered = true → s.book.due = i :: rest →
    step s = exec i (s.modBook fun b => { b with due := rest })) ∧
  (∀ (s : State) (i : Instr) (rest : List Turn), s.powered = true → s.book.due = [] → s.book.agenda = .event i :: rest →
    step s = if i.isWord = true ∨ i.wf = false then .next (s.takeTurn rest) else exec i (s.takeTurn rest)) ∧
  ∀ s : State, s.powered = false →
    ((∀ rest, s.book.agenda ≠ .event .hotReset :: rest) → step s = .fault .unpowered) ∧
    ∀ rest, s.book.agenda = .event .hotReset :: rest → step s = exec .hotReset (s.takeTurn rest)

/-- R103, R205, R207, R220, R320, R392, R415, R431, R434: what the state after reset holds. (That memory reads zero is
log 4's choice, that the management core has not booted yet log 9's, and heat 0 log 7's.) -/
def Obligations.AfterReset : Prop :=
  let s := State.reset
  s.cycle = 0 ∧ s.powered = true ∧ s.maxTs = 0 ∧
  (∀ c, (s.core c).swts = 0 ∧ (s.core c).srts = 0 ∧ (s.core c).l1 = [] ∧ (s.core c).accOwner = []) ∧
  (∀ i, (s.slice i).floor = 0 ∧ (s.slice i).lines = []) ∧ (∀ c, (s.cluster c).tlb = [] ∧ (s.cluster c).heat = 0) ∧
  (∀ n, (s.ringSlot n).wts = 0 ∧ (s.ringSlot n).rts = 0 ∧ (s.ringSlot n).boarded = false) ∧
  (s.world 0).st = .live ∧ (∀ w, w ≠ 0 → (s.world w).st = .absent) ∧ (∀ cls n, s.ownerOf cls n = 0) ∧ s.extents = [] ∧
  s.troupes = [] ∧ s.launches = [] ∧ s.copies = [] ∧ (∀ m, (s.mailbox m).entries = []) ∧
  (∀ q, (s.queue q).state = 1 ∧ (s.queue q).qmap = none ∧ (s.queue q).started = []) ∧
  (∀ f, (s.fn f).irqStatus = 0 ∧ (s.fn f).irqMask = 255 ∧ (s.fn f).fe = []) ∧
  s.mgmt.timeSrc = 0 ∧ s.mgmt.booted = false ∧ s.mgmt.creates = 0 ∧ ∀ a, s.mem.byte a = 0

/-- What every sparse memory of the model does: it keeps its one form, and a byte that is written reads back while every
other byte reads as before. (That an unlisted byte reads 0 is log 4's choice.) -/
def Obligations.MemoryOperations : Prop :=
  (∀ (m : Bytes) (a : Nat) (bs : List Byte), m.wf = true → (m.write a bs).wf = true ∧
    (m.write a bs).read a bs.length = bs ∧ ∀ k, (k < a ∨ a + bs.length ≤ k) → (m.write a bs).byte k = m.byte k) ∧
  (∀ (m : Bytes) (a : Nat) (bs : List Byte), m.wf = true → m.splice a bs = m.write a bs) ∧
  (∀ (m : Bytes) (a n : Nat), m.wf = true → (m.clear a n).wf = true ∧
    ∀ k, (m.clear a n).byte k = if a ≤ k ∧ k < a + n then 0 else m.byte k) ∧
  (∀ m1 m2 : Bytes, m1.wf = true → m2.wf = true → (∀ a, m1.byte a = m2.byte a) → m1 = m2) ∧ State.reset.mem.wf = true

/-- Module memory keeps its one form in every step: equal contents stay equal data (log 4). -/
def Obligations.MemoryStaysCanonical : Prop :=
  ∀ s t : State, s.mem.wf = true → step s = .next t → t.mem.wf = true
end

