-- ==== Sys2Proof/Laws/Encode.lean ====
section
/-! SUPPORT. An instruction word gives its fields back, and decoding one begins with its class. -/

namespace Sys2Proof

/-- Taking a word apart gives the fields that it was put together from (R28). -/
theorem unpack_word (c e : Bool) (cl op g d a b : Nat) (h1 : cl < 4) (h2 : op < 64) (h3 : g < 16) (h4 : d < 64)
    (h5 : a < 64) (h6 : b < 64) : unpack (word c e cl op g d a b) = ⟨c, e, cl, op, g, d, a, b⟩ := by
  have hc : c.toNat ≤ 1 := Bool.toNat_le c
  have he : e.toNat ≤ 1 := Bool.toNat_le e
  have hw : (BitVec.ofNat 32 (c.toNat * 2 ^ 31 + e.toNat * 2 ^ 30 + cl * 2 ^ 28 + op * 2 ^ 22 + g * 2 ^ 18 + d * 2 ^ 12 +
      a * 2 ^ 6 + b)).toNat = c.toNat * 2 ^ 31 + e.toNat * 2 ^ 30 + cl * 2 ^ 28 + op * 2 ^ 22 + g * 2 ^ 18 + d * 2 ^ 12 +
      a * 2 ^ 6 + b := by
    rw [BitVec.toNat_ofNat, Nat.mod_eq_of_lt (by omega)]
  unfold unpack word bitsAt
  rw [hw]
  congr 1
  · cases c <;> simp <;> omega
  · cases e <;> simp <;> omega
  all_goals (simp only [Nat.reducePow, Nat.reduceSub, Nat.reduceAdd]; omega)

/-- The guard of a guard's code (R28, R35). -/
theorem guardOf_code (g : Guard) : guardOf g.code = some g ∧ g.code < 16 := by
  cases g with
  | always => decide
  | pos p => revert p; decide
  | neg p => revert p; decide

/-- Once a word's fields and guard are known, decoding goes on by class. -/
theorem decode_cons (w : W32) (rest : List W32) (r : RawWord) (g : Guard) (hu : unpack w = r) (hg : guardOf r.g = some g)
    (h : (!(r.c && r.e)) = true) : decode (w :: rest) = decodeRaw r g rest := by
  subst hu
  simp only [decode, hg, need]
  rw [if_pos]
  rintro ⟨h1, h2⟩
  simp [h1, h2] at h

/-- Decoding a word put together from legal fields. -/
theorem decode_word (c e : Bool) (cl op : Nat) (g : Guard) (d a b : Nat) (rest : List W32) (h1 : cl < 4) (h2 : op < 64)
    (h4 : d < 64) (h5 : a < 64) (h6 : b < 64) (h : (!(c && e)) = true) :
    decode (word c e cl op g.code d a b :: rest) = decodeRaw ⟨c, e, cl, op, g.code, d, a, b⟩ g rest :=
  decode_cons _ _ _ _ (unpack_word c e cl op g.code d a b h1 h2 (guardOf_code g).2 h4 h5 h6) (guardOf_code g).1 h

end Sys2Proof
end

