-- ==== Sys2Proof/Laws/State.lean ====
section
/-! SUPPORT. What each named update of the state leaves as it was: one lemma for each update and each other field. -/

namespace Sys2Proof.Machine

variable (s : State)

/-! ### modCore -/

@[simp] theorem State.modCore_cycle (k : Nat) (f : Core → Core) : (s.modCore k f).cycle = s.cycle := rfl
@[simp] theorem State.modCore_alm (k : Nat) (f : Core → Core) : (s.modCore k f).alm = s.alm := rfl
@[simp] theorem State.modCore_almFrac (k : Nat) (f : Core → Core) : (s.modCore k f).almFrac = s.almFrac := rfl
@[simp] theorem State.modCore_almStepped (k : Nat) (f : Core → Core) : (s.modCore k f).almStepped = s.almStepped := rfl
@[simp] theorem State.modCore_ppm (k : Nat) (f : Core → Core) : (s.modCore k f).ppm = s.ppm := rfl
@[simp] theorem State.modCore_powered (k : Nat) (f : Core → Core) : (s.modCore k f).powered = s.powered := rfl
@[simp] theorem State.modCore_mem (k : Nat) (f : Core → Core) : (s.modCore k f).mem = s.mem := rfl
@[simp] theorem State.modCore_poison (k : Nat) (f : Core → Core) : (s.modCore k f).poison = s.poison := rfl
@[simp] theorem State.modCore_rebuild (k : Nat) (f : Core → Core) : (s.modCore k f).rebuild = s.rebuild := rfl
@[simp] theorem State.modCore_lineCtr (k : Nat) (f : Core → Core) : (s.modCore k f).lineCtr = s.lineCtr := rfl
@[simp] theorem State.modCore_maxTs (k : Nat) (f : Core → Core) : (s.modCore k f).maxTs = s.maxTs := rfl
@[simp] theorem State.modCore_extents (k : Nat) (f : Core → Core) : (s.modCore k f).extents = s.extents := rfl
@[simp] theorem State.modCore_ring (k : Nat) (f : Core → Core) : (s.modCore k f).ring = s.ring := rfl
@[simp] theorem State.modCore_ringTab (k : Nat) (f : Core → Core) : (s.modCore k f).ringTab = s.ringTab := rfl
@[simp] theorem State.modCore_ringMoves (k : Nat) (f : Core → Core) : (s.modCore k f).ringMoves = s.ringMoves := rfl
@[simp] theorem State.modCore_remote (k : Nat) (f : Core → Core) : (s.modCore k f).remote = s.remote := rfl
@[simp] theorem State.modCore_troupes (k : Nat) (f : Core → Core) : (s.modCore k f).troupes = s.troupes := rfl
@[simp] theorem State.modCore_away (k : Nat) (f : Core → Core) : (s.modCore k f).away = s.away := rfl
@[simp] theorem State.modCore_clusters (k : Nat) (f : Core → Core) : (s.modCore k f).clusters = s.clusters := rfl
@[simp] theorem State.modCore_slices (k : Nat) (f : Core → Core) : (s.modCore k f).slices = s.slices := rfl
@[simp] theorem State.modCore_worlds (k : Nat) (f : Core → Core) : (s.modCore k f).worlds = s.worlds := rfl
@[simp] theorem State.modCore_launches (k : Nat) (f : Core → Core) : (s.modCore k f).launches = s.launches := rfl
@[simp] theorem State.modCore_presented (k : Nat) (f : Core → Core) : (s.modCore k f).presented = s.presented := rfl
@[simp] theorem State.modCore_copies (k : Nat) (f : Core → Core) : (s.modCore k f).copies = s.copies := rfl
@[simp] theorem State.modCore_held (k : Nat) (f : Core → Core) : (s.modCore k f).held = s.held := rfl
@[simp] theorem State.modCore_ens (k : Nat) (f : Core → Core) : (s.modCore k f).ens = s.ens := rfl
@[simp] theorem State.modCore_mbx (k : Nat) (f : Core → Core) : (s.modCore k f).mbx = s.mbx := rfl
@[simp] theorem State.modCore_queues (k : Nat) (f : Core → Core) : (s.modCore k f).queues = s.queues := rfl
@[simp] theorem State.modCore_fns (k : Nat) (f : Core → Core) : (s.modCore k f).fns = s.fns := rfl
@[simp] theorem State.modCore_lanes (k : Nat) (f : Core → Core) : (s.modCore k f).lanes = s.lanes := rfl
@[simp] theorem State.modCore_bar2 (k : Nat) (f : Core → Core) : (s.modCore k f).bar2 = s.bar2 := rfl
@[simp] theorem State.modCore_ext (k : Nat) (f : Core → Core) : (s.modCore k f).ext = s.ext := rfl
@[simp] theorem State.modCore_out (k : Nat) (f : Core → Core) : (s.modCore k f).out = s.out := rfl
@[simp] theorem State.modCore_mgmt (k : Nat) (f : Core → Core) : (s.modCore k f).mgmt = s.mgmt := rfl
@[simp] theorem State.modCore_book (k : Nat) (f : Core → Core) : (s.modCore k f).book = s.book := rfl

/-! ### modCluster -/

@[simp] theorem State.modCluster_cycle (k : Nat) (f : Cluster → Cluster) : (s.modCluster k f).cycle = s.cycle := rfl
@[simp] theorem State.modCluster_alm (k : Nat) (f : Cluster → Cluster) : (s.modCluster k f).alm = s.alm := rfl
@[simp] theorem State.modCluster_almFrac (k : Nat) (f : Cluster → Cluster) : (s.modCluster k f).almFrac = s.almFrac := rfl
@[simp] theorem State.modCluster_almStepped (k : Nat) (f : Cluster → Cluster) : (s.modCluster k f).almStepped = s.almStepped := rfl
@[simp] theorem State.modCluster_ppm (k : Nat) (f : Cluster → Cluster) : (s.modCluster k f).ppm = s.ppm := rfl
@[simp] theorem State.modCluster_powered (k : Nat) (f : Cluster → Cluster) : (s.modCluster k f).powered = s.powered := rfl
@[simp] theorem State.modCluster_mem (k : Nat) (f : Cluster → Cluster) : (s.modCluster k f).mem = s.mem := rfl
@[simp] theorem State.modCluster_poison (k : Nat) (f : Cluster → Cluster) : (s.modCluster k f).poison = s.poison := rfl
@[simp] theorem State.modCluster_rebuild (k : Nat) (f : Cluster → Cluster) : (s.modCluster k f).rebuild = s.rebuild := rfl
@[simp] theorem State.modCluster_lineCtr (k : Nat) (f : Cluster → Cluster) : (s.modCluster k f).lineCtr = s.lineCtr := rfl
@[simp] theorem State.modCluster_maxTs (k : Nat) (f : Cluster → Cluster) : (s.modCluster k f).maxTs = s.maxTs := rfl
@[simp] theorem State.modCluster_extents (k : Nat) (f : Cluster → Cluster) : (s.modCluster k f).extents = s.extents := rfl
@[simp] theorem State.modCluster_ring (k : Nat) (f : Cluster → Cluster) : (s.modCluster k f).ring = s.ring := rfl
@[simp] theorem State.modCluster_ringTab (k : Nat) (f : Cluster → Cluster) : (s.modCluster k f).ringTab = s.ringTab := rfl
@[simp] theorem State.modCluster_ringMoves (k : Nat) (f : Cluster → Cluster) : (s.modCluster k f).ringMoves = s.ringMoves := rfl
@[simp] theorem State.modCluster_remote (k : Nat) (f : Cluster → Cluster) : (s.modCluster k f).remote = s.remote := rfl
@[simp] theorem State.modCluster_troupes (k : Nat) (f : Cluster → Cluster) : (s.modCluster k f).troupes = s.troupes := rfl
@[simp] theorem State.modCluster_away (k : Nat) (f : Cluster → Cluster) : (s.modCluster k f).away = s.away := rfl
@[simp] theorem State.modCluster_cores (k : Nat) (f : Cluster → Cluster) : (s.modCluster k f).cores = s.cores := rfl
@[simp] theorem State.modCluster_slices (k : Nat) (f : Cluster → Cluster) : (s.modCluster k f).slices = s.slices := rfl
@[simp] theorem State.modCluster_worlds (k : Nat) (f : Cluster → Cluster) : (s.modCluster k f).worlds = s.worlds := rfl
@[simp] theorem State.modCluster_launches (k : Nat) (f : Cluster → Cluster) : (s.modCluster k f).launches = s.launches := rfl
@[simp] theorem State.modCluster_presented (k : Nat) (f : Cluster → Cluster) : (s.modCluster k f).presented = s.presented := rfl
@[simp] theorem State.modCluster_copies (k : Nat) (f : Cluster → Cluster) : (s.modCluster k f).copies = s.copies := rfl
@[simp] theorem State.modCluster_held (k : Nat) (f : Cluster → Cluster) : (s.modCluster k f).held = s.held := rfl
@[simp] theorem State.modCluster_ens (k : Nat) (f : Cluster → Cluster) : (s.modCluster k f).ens = s.ens := rfl
@[simp] theorem State.modCluster_mbx (k : Nat) (f : Cluster → Cluster) : (s.modCluster k f).mbx = s.mbx := rfl
@[simp] theorem State.modCluster_queues (k : Nat) (f : Cluster → Cluster) : (s.modCluster k f).queues = s.queues := rfl
@[simp] theorem State.modCluster_fns (k : Nat) (f : Cluster → Cluster) : (s.modCluster k f).fns = s.fns := rfl
@[simp] theorem State.modCluster_lanes (k : Nat) (f : Cluster → Cluster) : (s.modCluster k f).lanes = s.lanes := rfl
@[simp] theorem State.modCluster_bar2 (k : Nat) (f : Cluster → Cluster) : (s.modCluster k f).bar2 = s.bar2 := rfl
@[simp] theorem State.modCluster_ext (k : Nat) (f : Cluster → Cluster) : (s.modCluster k f).ext = s.ext := rfl
@[simp] theorem State.modCluster_out (k : Nat) (f : Cluster → Cluster) : (s.modCluster k f).out = s.out := rfl
@[simp] theorem State.modCluster_mgmt (k : Nat) (f : Cluster → Cluster) : (s.modCluster k f).mgmt = s.mgmt := rfl
@[simp] theorem State.modCluster_book (k : Nat) (f : Cluster → Cluster) : (s.modCluster k f).book = s.book := rfl

/-! ### modSlice -/

@[simp] theorem State.modSlice_cycle (k : Nat) (f : Slice → Slice) : (s.modSlice k f).cycle = s.cycle := rfl
@[simp] theorem State.modSlice_alm (k : Nat) (f : Slice → Slice) : (s.modSlice k f).alm = s.alm := rfl
@[simp] theorem State.modSlice_almFrac (k : Nat) (f : Slice → Slice) : (s.modSlice k f).almFrac = s.almFrac := rfl
@[simp] theorem State.modSlice_almStepped (k : Nat) (f : Slice → Slice) : (s.modSlice k f).almStepped = s.almStepped := rfl
@[simp] theorem State.modSlice_ppm (k : Nat) (f : Slice → Slice) : (s.modSlice k f).ppm = s.ppm := rfl
@[simp] theorem State.modSlice_powered (k : Nat) (f : Slice → Slice) : (s.modSlice k f).powered = s.powered := rfl
@[simp] theorem State.modSlice_mem (k : Nat) (f : Slice → Slice) : (s.modSlice k f).mem = s.mem := rfl
@[simp] theorem State.modSlice_poison (k : Nat) (f : Slice → Slice) : (s.modSlice k f).poison = s.poison := rfl
@[simp] theorem State.modSlice_rebuild (k : Nat) (f : Slice → Slice) : (s.modSlice k f).rebuild = s.rebuild := rfl
@[simp] theorem State.modSlice_lineCtr (k : Nat) (f : Slice → Slice) : (s.modSlice k f).lineCtr = s.lineCtr := rfl
@[simp] theorem State.modSlice_maxTs (k : Nat) (f : Slice → Slice) : (s.modSlice k f).maxTs = s.maxTs := rfl
@[simp] theorem State.modSlice_extents (k : Nat) (f : Slice → Slice) : (s.modSlice k f).extents = s.extents := rfl
@[simp] theorem State.modSlice_ring (k : Nat) (f : Slice → Slice) : (s.modSlice k f).ring = s.ring := rfl
@[simp] theorem State.modSlice_ringTab (k : Nat) (f : Slice → Slice) : (s.modSlice k f).ringTab = s.ringTab := rfl
@[simp] theorem State.modSlice_ringMoves (k : Nat) (f : Slice → Slice) : (s.modSlice k f).ringMoves = s.ringMoves := rfl
@[simp] theorem State.modSlice_remote (k : Nat) (f : Slice → Slice) : (s.modSlice k f).remote = s.remote := rfl
@[simp] theorem State.modSlice_troupes (k : Nat) (f : Slice → Slice) : (s.modSlice k f).troupes = s.troupes := rfl
@[simp] theorem State.modSlice_away (k : Nat) (f : Slice → Slice) : (s.modSlice k f).away = s.away := rfl
@[simp] theorem State.modSlice_cores (k : Nat) (f : Slice → Slice) : (s.modSlice k f).cores = s.cores := rfl
@[simp] theorem State.modSlice_clusters (k : Nat) (f : Slice → Slice) : (s.modSlice k f).clusters = s.clusters := rfl
@[simp] theorem State.modSlice_worlds (k : Nat) (f : Slice → Slice) : (s.modSlice k f).worlds = s.worlds := rfl
@[simp] theorem State.modSlice_launches (k : Nat) (f : Slice → Slice) : (s.modSlice k f).launches = s.launches := rfl
@[simp] theorem State.modSlice_presented (k : Nat) (f : Slice → Slice) : (s.modSlice k f).presented = s.presented := rfl
@[simp] theorem State.modSlice_copies (k : Nat) (f : Slice → Slice) : (s.modSlice k f).copies = s.copies := rfl
@[simp] theorem State.modSlice_held (k : Nat) (f : Slice → Slice) : (s.modSlice k f).held = s.held := rfl
@[simp] theorem State.modSlice_ens (k : Nat) (f : Slice → Slice) : (s.modSlice k f).ens = s.ens := rfl
@[simp] theorem State.modSlice_mbx (k : Nat) (f : Slice → Slice) : (s.modSlice k f).mbx = s.mbx := rfl
@[simp] theorem State.modSlice_queues (k : Nat) (f : Slice → Slice) : (s.modSlice k f).queues = s.queues := rfl
@[simp] theorem State.modSlice_fns (k : Nat) (f : Slice → Slice) : (s.modSlice k f).fns = s.fns := rfl
@[simp] theorem State.modSlice_lanes (k : Nat) (f : Slice → Slice) : (s.modSlice k f).lanes = s.lanes := rfl
@[simp] theorem State.modSlice_bar2 (k : Nat) (f : Slice → Slice) : (s.modSlice k f).bar2 = s.bar2 := rfl
@[simp] theorem State.modSlice_ext (k : Nat) (f : Slice → Slice) : (s.modSlice k f).ext = s.ext := rfl
@[simp] theorem State.modSlice_out (k : Nat) (f : Slice → Slice) : (s.modSlice k f).out = s.out := rfl
@[simp] theorem State.modSlice_mgmt (k : Nat) (f : Slice → Slice) : (s.modSlice k f).mgmt = s.mgmt := rfl
@[simp] theorem State.modSlice_book (k : Nat) (f : Slice → Slice) : (s.modSlice k f).book = s.book := rfl

/-! ### modWorld -/

@[simp] theorem State.modWorld_cycle (k : Nat) (f : World → World) : (s.modWorld k f).cycle = s.cycle := rfl
@[simp] theorem State.modWorld_alm (k : Nat) (f : World → World) : (s.modWorld k f).alm = s.alm := rfl
@[simp] theorem State.modWorld_almFrac (k : Nat) (f : World → World) : (s.modWorld k f).almFrac = s.almFrac := rfl
@[simp] theorem State.modWorld_almStepped (k : Nat) (f : World → World) : (s.modWorld k f).almStepped = s.almStepped := rfl
@[simp] theorem State.modWorld_ppm (k : Nat) (f : World → World) : (s.modWorld k f).ppm = s.ppm := rfl
@[simp] theorem State.modWorld_powered (k : Nat) (f : World → World) : (s.modWorld k f).powered = s.powered := rfl
@[simp] theorem State.modWorld_mem (k : Nat) (f : World → World) : (s.modWorld k f).mem = s.mem := rfl
@[simp] theorem State.modWorld_poison (k : Nat) (f : World → World) : (s.modWorld k f).poison = s.poison := rfl
@[simp] theorem State.modWorld_rebuild (k : Nat) (f : World → World) : (s.modWorld k f).rebuild = s.rebuild := rfl
@[simp] theorem State.modWorld_lineCtr (k : Nat) (f : World → World) : (s.modWorld k f).lineCtr = s.lineCtr := rfl
@[simp] theorem State.modWorld_maxTs (k : Nat) (f : World → World) : (s.modWorld k f).maxTs = s.maxTs := rfl
@[simp] theorem State.modWorld_extents (k : Nat) (f : World → World) : (s.modWorld k f).extents = s.extents := rfl
@[simp] theorem State.modWorld_ring (k : Nat) (f : World → World) : (s.modWorld k f).ring = s.ring := rfl
@[simp] theorem State.modWorld_ringTab (k : Nat) (f : World → World) : (s.modWorld k f).ringTab = s.ringTab := rfl
@[simp] theorem State.modWorld_ringMoves (k : Nat) (f : World → World) : (s.modWorld k f).ringMoves = s.ringMoves := rfl
@[simp] theorem State.modWorld_remote (k : Nat) (f : World → World) : (s.modWorld k f).remote = s.remote := rfl
@[simp] theorem State.modWorld_troupes (k : Nat) (f : World → World) : (s.modWorld k f).troupes = s.troupes := rfl
@[simp] theorem State.modWorld_away (k : Nat) (f : World → World) : (s.modWorld k f).away = s.away := rfl
@[simp] theorem State.modWorld_cores (k : Nat) (f : World → World) : (s.modWorld k f).cores = s.cores := rfl
@[simp] theorem State.modWorld_clusters (k : Nat) (f : World → World) : (s.modWorld k f).clusters = s.clusters := rfl
@[simp] theorem State.modWorld_slices (k : Nat) (f : World → World) : (s.modWorld k f).slices = s.slices := rfl
@[simp] theorem State.modWorld_launches (k : Nat) (f : World → World) : (s.modWorld k f).launches = s.launches := rfl
@[simp] theorem State.modWorld_presented (k : Nat) (f : World → World) : (s.modWorld k f).presented = s.presented := rfl
@[simp] theorem State.modWorld_copies (k : Nat) (f : World → World) : (s.modWorld k f).copies = s.copies := rfl
@[simp] theorem State.modWorld_held (k : Nat) (f : World → World) : (s.modWorld k f).held = s.held := rfl
@[simp] theorem State.modWorld_ens (k : Nat) (f : World → World) : (s.modWorld k f).ens = s.ens := rfl
@[simp] theorem State.modWorld_mbx (k : Nat) (f : World → World) : (s.modWorld k f).mbx = s.mbx := rfl
@[simp] theorem State.modWorld_queues (k : Nat) (f : World → World) : (s.modWorld k f).queues = s.queues := rfl
@[simp] theorem State.modWorld_fns (k : Nat) (f : World → World) : (s.modWorld k f).fns = s.fns := rfl
@[simp] theorem State.modWorld_lanes (k : Nat) (f : World → World) : (s.modWorld k f).lanes = s.lanes := rfl
@[simp] theorem State.modWorld_bar2 (k : Nat) (f : World → World) : (s.modWorld k f).bar2 = s.bar2 := rfl
@[simp] theorem State.modWorld_ext (k : Nat) (f : World → World) : (s.modWorld k f).ext = s.ext := rfl
@[simp] theorem State.modWorld_out (k : Nat) (f : World → World) : (s.modWorld k f).out = s.out := rfl
@[simp] theorem State.modWorld_mgmt (k : Nat) (f : World → World) : (s.modWorld k f).mgmt = s.mgmt := rfl
@[simp] theorem State.modWorld_book (k : Nat) (f : World → World) : (s.modWorld k f).book = s.book := rfl

/-! ### modFn -/

@[simp] theorem State.modFn_cycle (k : Nat) (f : Fn → Fn) : (s.modFn k f).cycle = s.cycle := rfl
@[simp] theorem State.modFn_alm (k : Nat) (f : Fn → Fn) : (s.modFn k f).alm = s.alm := rfl
@[simp] theorem State.modFn_almFrac (k : Nat) (f : Fn → Fn) : (s.modFn k f).almFrac = s.almFrac := rfl
@[simp] theorem State.modFn_almStepped (k : Nat) (f : Fn → Fn) : (s.modFn k f).almStepped = s.almStepped := rfl
@[simp] theorem State.modFn_ppm (k : Nat) (f : Fn → Fn) : (s.modFn k f).ppm = s.ppm := rfl
@[simp] theorem State.modFn_powered (k : Nat) (f : Fn → Fn) : (s.modFn k f).powered = s.powered := rfl
@[simp] theorem State.modFn_mem (k : Nat) (f : Fn → Fn) : (s.modFn k f).mem = s.mem := rfl
@[simp] theorem State.modFn_poison (k : Nat) (f : Fn → Fn) : (s.modFn k f).poison = s.poison := rfl
@[simp] theorem State.modFn_rebuild (k : Nat) (f : Fn → Fn) : (s.modFn k f).rebuild = s.rebuild := rfl
@[simp] theorem State.modFn_lineCtr (k : Nat) (f : Fn → Fn) : (s.modFn k f).lineCtr = s.lineCtr := rfl
@[simp] theorem State.modFn_maxTs (k : Nat) (f : Fn → Fn) : (s.modFn k f).maxTs = s.maxTs := rfl
@[simp] theorem State.modFn_extents (k : Nat) (f : Fn → Fn) : (s.modFn k f).extents = s.extents := rfl
@[simp] theorem State.modFn_ring (k : Nat) (f : Fn → Fn) : (s.modFn k f).ring = s.ring := rfl
@[simp] theorem State.modFn_ringTab (k : Nat) (f : Fn → Fn) : (s.modFn k f).ringTab = s.ringTab := rfl
@[simp] theorem State.modFn_ringMoves (k : Nat) (f : Fn → Fn) : (s.modFn k f).ringMoves = s.ringMoves := rfl
@[simp] theorem State.modFn_remote (k : Nat) (f : Fn → Fn) : (s.modFn k f).remote = s.remote := rfl
@[simp] theorem State.modFn_troupes (k : Nat) (f : Fn → Fn) : (s.modFn k f).troupes = s.troupes := rfl
@[simp] theorem State.modFn_away (k : Nat) (f : Fn → Fn) : (s.modFn k f).away = s.away := rfl
@[simp] theorem State.modFn_cores (k : Nat) (f : Fn → Fn) : (s.modFn k f).cores = s.cores := rfl
@[simp] theorem State.modFn_clusters (k : Nat) (f : Fn → Fn) : (s.modFn k f).clusters = s.clusters := rfl
@[simp] theorem State.modFn_slices (k : Nat) (f : Fn → Fn) : (s.modFn k f).slices = s.slices := rfl
@[simp] theorem State.modFn_worlds (k : Nat) (f : Fn → Fn) : (s.modFn k f).worlds = s.worlds := rfl
@[simp] theorem State.modFn_launches (k : Nat) (f : Fn → Fn) : (s.modFn k f).launches = s.launches := rfl
@[simp] theorem State.modFn_presented (k : Nat) (f : Fn → Fn) : (s.modFn k f).presented = s.presented := rfl
@[simp] theorem State.modFn_copies (k : Nat) (f : Fn → Fn) : (s.modFn k f).copies = s.copies := rfl
@[simp] theorem State.modFn_held (k : Nat) (f : Fn → Fn) : (s.modFn k f).held = s.held := rfl
@[simp] theorem State.modFn_ens (k : Nat) (f : Fn → Fn) : (s.modFn k f).ens = s.ens := rfl
@[simp] theorem State.modFn_mbx (k : Nat) (f : Fn → Fn) : (s.modFn k f).mbx = s.mbx := rfl
@[simp] theorem State.modFn_queues (k : Nat) (f : Fn → Fn) : (s.modFn k f).queues = s.queues := rfl
@[simp] theorem State.modFn_lanes (k : Nat) (f : Fn → Fn) : (s.modFn k f).lanes = s.lanes := rfl
@[simp] theorem State.modFn_bar2 (k : Nat) (f : Fn → Fn) : (s.modFn k f).bar2 = s.bar2 := rfl
@[simp] theorem State.modFn_ext (k : Nat) (f : Fn → Fn) : (s.modFn k f).ext = s.ext := rfl
@[simp] theorem State.modFn_out (k : Nat) (f : Fn → Fn) : (s.modFn k f).out = s.out := rfl
@[simp] theorem State.modFn_mgmt (k : Nat) (f : Fn → Fn) : (s.modFn k f).mgmt = s.mgmt := rfl
@[simp] theorem State.modFn_book (k : Nat) (f : Fn → Fn) : (s.modFn k f).book = s.book := rfl

/-! ### modQueue -/

@[simp] theorem State.modQueue_cycle (k : Nat) (f : Queue → Queue) : (s.modQueue k f).cycle = s.cycle := rfl
@[simp] theorem State.modQueue_alm (k : Nat) (f : Queue → Queue) : (s.modQueue k f).alm = s.alm := rfl
@[simp] theorem State.modQueue_almFrac (k : Nat) (f : Queue → Queue) : (s.modQueue k f).almFrac = s.almFrac := rfl
@[simp] theorem State.modQueue_almStepped (k : Nat) (f : Queue → Queue) : (s.modQueue k f).almStepped = s.almStepped := rfl
@[simp] theorem State.modQueue_ppm (k : Nat) (f : Queue → Queue) : (s.modQueue k f).ppm = s.ppm := rfl
@[simp] theorem State.modQueue_powered (k : Nat) (f : Queue → Queue) : (s.modQueue k f).powered = s.powered := rfl
@[simp] theorem State.modQueue_mem (k : Nat) (f : Queue → Queue) : (s.modQueue k f).mem = s.mem := rfl
@[simp] theorem State.modQueue_poison (k : Nat) (f : Queue → Queue) : (s.modQueue k f).poison = s.poison := rfl
@[simp] theorem State.modQueue_rebuild (k : Nat) (f : Queue → Queue) : (s.modQueue k f).rebuild = s.rebuild := rfl
@[simp] theorem State.modQueue_lineCtr (k : Nat) (f : Queue → Queue) : (s.modQueue k f).lineCtr = s.lineCtr := rfl
@[simp] theorem State.modQueue_maxTs (k : Nat) (f : Queue → Queue) : (s.modQueue k f).maxTs = s.maxTs := rfl
@[simp] theorem State.modQueue_extents (k : Nat) (f : Queue → Queue) : (s.modQueue k f).extents = s.extents := rfl
@[simp] theorem State.modQueue_ring (k : Nat) (f : Queue → Queue) : (s.modQueue k f).ring = s.ring := rfl
@[simp] theorem State.modQueue_ringTab (k : Nat) (f : Queue → Queue) : (s.modQueue k f).ringTab = s.ringTab := rfl
@[simp] theorem State.modQueue_ringMoves (k : Nat) (f : Queue → Queue) : (s.modQueue k f).ringMoves = s.ringMoves := rfl
@[simp] theorem State.modQueue_remote (k : Nat) (f : Queue → Queue) : (s.modQueue k f).remote = s.remote := rfl
@[simp] theorem State.modQueue_troupes (k : Nat) (f : Queue → Queue) : (s.modQueue k f).troupes = s.troupes := rfl
@[simp] theorem State.modQueue_away (k : Nat) (f : Queue → Queue) : (s.modQueue k f).away = s.away := rfl
@[simp] theorem State.modQueue_cores (k : Nat) (f : Queue → Queue) : (s.modQueue k f).cores = s.cores := rfl
@[simp] theorem State.modQueue_clusters (k : Nat) (f : Queue → Queue) : (s.modQueue k f).clusters = s.clusters := rfl
@[simp] theorem State.modQueue_slices (k : Nat) (f : Queue → Queue) : (s.modQueue k f).slices = s.slices := rfl
@[simp] theorem State.modQueue_worlds (k : Nat) (f : Queue → Queue) : (s.modQueue k f).worlds = s.worlds := rfl
@[simp] theorem State.modQueue_launches (k : Nat) (f : Queue → Queue) : (s.modQueue k f).launches = s.launches := rfl
@[simp] theorem State.modQueue_presented (k : Nat) (f : Queue → Queue) : (s.modQueue k f).presented = s.presented := rfl
@[simp] theorem State.modQueue_copies (k : Nat) (f : Queue → Queue) : (s.modQueue k f).copies = s.copies := rfl
@[simp] theorem State.modQueue_held (k : Nat) (f : Queue → Queue) : (s.modQueue k f).held = s.held := rfl
@[simp] theorem State.modQueue_ens (k : Nat) (f : Queue → Queue) : (s.modQueue k f).ens = s.ens := rfl
@[simp] theorem State.modQueue_mbx (k : Nat) (f : Queue → Queue) : (s.modQueue k f).mbx = s.mbx := rfl
@[simp] theorem State.modQueue_fns (k : Nat) (f : Queue → Queue) : (s.modQueue k f).fns = s.fns := rfl
@[simp] theorem State.modQueue_lanes (k : Nat) (f : Queue → Queue) : (s.modQueue k f).lanes = s.lanes := rfl
@[simp] theorem State.modQueue_bar2 (k : Nat) (f : Queue → Queue) : (s.modQueue k f).bar2 = s.bar2 := rfl
@[simp] theorem State.modQueue_ext (k : Nat) (f : Queue → Queue) : (s.modQueue k f).ext = s.ext := rfl
@[simp] theorem State.modQueue_out (k : Nat) (f : Queue → Queue) : (s.modQueue k f).out = s.out := rfl
@[simp] theorem State.modQueue_mgmt (k : Nat) (f : Queue → Queue) : (s.modQueue k f).mgmt = s.mgmt := rfl
@[simp] theorem State.modQueue_book (k : Nat) (f : Queue → Queue) : (s.modQueue k f).book = s.book := rfl

/-! ### modMailbox -/

@[simp] theorem State.modMailbox_cycle (k : Nat) (f : Mailbox → Mailbox) : (s.modMailbox k f).cycle = s.cycle := rfl
@[simp] theorem State.modMailbox_alm (k : Nat) (f : Mailbox → Mailbox) : (s.modMailbox k f).alm = s.alm := rfl
@[simp] theorem State.modMailbox_almFrac (k : Nat) (f : Mailbox → Mailbox) : (s.modMailbox k f).almFrac = s.almFrac := rfl
@[simp] theorem State.modMailbox_almStepped (k : Nat) (f : Mailbox → Mailbox) : (s.modMailbox k f).almStepped = s.almStepped := rfl
@[simp] theorem State.modMailbox_ppm (k : Nat) (f : Mailbox → Mailbox) : (s.modMailbox k f).ppm = s.ppm := rfl
@[simp] theorem State.modMailbox_powered (k : Nat) (f : Mailbox → Mailbox) : (s.modMailbox k f).powered = s.powered := rfl
@[simp] theorem State.modMailbox_mem (k : Nat) (f : Mailbox → Mailbox) : (s.modMailbox k f).mem = s.mem := rfl
@[simp] theorem State.modMailbox_poison (k : Nat) (f : Mailbox → Mailbox) : (s.modMailbox k f).poison = s.poison := rfl
@[simp] theorem State.modMailbox_rebuild (k : Nat) (f : Mailbox → Mailbox) : (s.modMailbox k f).rebuild = s.rebuild := rfl
@[simp] theorem State.modMailbox_lineCtr (k : Nat) (f : Mailbox → Mailbox) : (s.modMailbox k f).lineCtr = s.lineCtr := rfl
@[simp] theorem State.modMailbox_maxTs (k : Nat) (f : Mailbox → Mailbox) : (s.modMailbox k f).maxTs = s.maxTs := rfl
@[simp] theorem State.modMailbox_extents (k : Nat) (f : Mailbox → Mailbox) : (s.modMailbox k f).extents = s.extents := rfl
@[simp] theorem State.modMailbox_ring (k : Nat) (f : Mailbox → Mailbox) : (s.modMailbox k f).ring = s.ring := rfl
@[simp] theorem State.modMailbox_ringTab (k : Nat) (f : Mailbox → Mailbox) : (s.modMailbox k f).ringTab = s.ringTab := rfl
@[simp] theorem State.modMailbox_ringMoves (k : Nat) (f : Mailbox → Mailbox) : (s.modMailbox k f).ringMoves = s.ringMoves := rfl
@[simp] theorem State.modMailbox_remote (k : Nat) (f : Mailbox → Mailbox) : (s.modMailbox k f).remote = s.remote := rfl
@[simp] theorem State.modMailbox_troupes (k : Nat) (f : Mailbox → Mailbox) : (s.modMailbox k f).troupes = s.troupes := rfl
@[simp] theorem State.modMailbox_away (k : Nat) (f : Mailbox → Mailbox) : (s.modMailbox k f).away = s.away := rfl
@[simp] theorem State.modMailbox_cores (k : Nat) (f : Mailbox → Mailbox) : (s.modMailbox k f).cores = s.cores := rfl
@[simp] theorem State.modMailbox_clusters (k : Nat) (f : Mailbox → Mailbox) : (s.modMailbox k f).clusters = s.clusters := rfl
@[simp] theorem State.modMailbox_slices (k : Nat) (f : Mailbox → Mailbox) : (s.modMailbox k f).slices = s.slices := rfl
@[simp] theorem State.modMailbox_worlds (k : Nat) (f : Mailbox → Mailbox) : (s.modMailbox k f).worlds = s.worlds := rfl
@[simp] theorem State.modMailbox_launches (k : Nat) (f : Mailbox → Mailbox) : (s.modMailbox k f).launches = s.launches := rfl
@[simp] theorem State.modMailbox_presented (k : Nat) (f : Mailbox → Mailbox) : (s.modMailbox k f).presented = s.presented := rfl
@[simp] theorem State.modMailbox_copies (k : Nat) (f : Mailbox → Mailbox) : (s.modMailbox k f).copies = s.copies := rfl
@[simp] theorem State.modMailbox_held (k : Nat) (f : Mailbox → Mailbox) : (s.modMailbox k f).held = s.held := rfl
@[simp] theorem State.modMailbox_ens (k : Nat) (f : Mailbox → Mailbox) : (s.modMailbox k f).ens = s.ens := rfl
@[simp] theorem State.modMailbox_queues (k : Nat) (f : Mailbox → Mailbox) : (s.modMailbox k f).queues = s.queues := rfl
@[simp] theorem State.modMailbox_fns (k : Nat) (f : Mailbox → Mailbox) : (s.modMailbox k f).fns = s.fns := rfl
@[simp] theorem State.modMailbox_lanes (k : Nat) (f : Mailbox → Mailbox) : (s.modMailbox k f).lanes = s.lanes := rfl
@[simp] theorem State.modMailbox_bar2 (k : Nat) (f : Mailbox → Mailbox) : (s.modMailbox k f).bar2 = s.bar2 := rfl
@[simp] theorem State.modMailbox_ext (k : Nat) (f : Mailbox → Mailbox) : (s.modMailbox k f).ext = s.ext := rfl
@[simp] theorem State.modMailbox_out (k : Nat) (f : Mailbox → Mailbox) : (s.modMailbox k f).out = s.out := rfl
@[simp] theorem State.modMailbox_mgmt (k : Nat) (f : Mailbox → Mailbox) : (s.modMailbox k f).mgmt = s.mgmt := rfl
@[simp] theorem State.modMailbox_book (k : Nat) (f : Mailbox → Mailbox) : (s.modMailbox k f).book = s.book := rfl

/-! ### modEns -/

@[simp] theorem State.modEns_cycle (k : Nat) (f : Ens → Ens) : (s.modEns k f).cycle = s.cycle := rfl
@[simp] theorem State.modEns_alm (k : Nat) (f : Ens → Ens) : (s.modEns k f).alm = s.alm := rfl
@[simp] theorem State.modEns_almFrac (k : Nat) (f : Ens → Ens) : (s.modEns k f).almFrac = s.almFrac := rfl
@[simp] theorem State.modEns_almStepped (k : Nat) (f : Ens → Ens) : (s.modEns k f).almStepped = s.almStepped := rfl
@[simp] theorem State.modEns_ppm (k : Nat) (f : Ens → Ens) : (s.modEns k f).ppm = s.ppm := rfl
@[simp] theorem State.modEns_powered (k : Nat) (f : Ens → Ens) : (s.modEns k f).powered = s.powered := rfl
@[simp] theorem State.modEns_mem (k : Nat) (f : Ens → Ens) : (s.modEns k f).mem = s.mem := rfl
@[simp] theorem State.modEns_poison (k : Nat) (f : Ens → Ens) : (s.modEns k f).poison = s.poison := rfl
@[simp] theorem State.modEns_rebuild (k : Nat) (f : Ens → Ens) : (s.modEns k f).rebuild = s.rebuild := rfl
@[simp] theorem State.modEns_lineCtr (k : Nat) (f : Ens → Ens) : (s.modEns k f).lineCtr = s.lineCtr := rfl
@[simp] theorem State.modEns_maxTs (k : Nat) (f : Ens → Ens) : (s.modEns k f).maxTs = s.maxTs := rfl
@[simp] theorem State.modEns_extents (k : Nat) (f : Ens → Ens) : (s.modEns k f).extents = s.extents := rfl
@[simp] theorem State.modEns_ring (k : Nat) (f : Ens → Ens) : (s.modEns k f).ring = s.ring := rfl
@[simp] theorem State.modEns_ringTab (k : Nat) (f : Ens → Ens) : (s.modEns k f).ringTab = s.ringTab := rfl
@[simp] theorem State.modEns_ringMoves (k : Nat) (f : Ens → Ens) : (s.modEns k f).ringMoves = s.ringMoves := rfl
@[simp] theorem State.modEns_remote (k : Nat) (f : Ens → Ens) : (s.modEns k f).remote = s.remote := rfl
@[simp] theorem State.modEns_troupes (k : Nat) (f : Ens → Ens) : (s.modEns k f).troupes = s.troupes := rfl
@[simp] theorem State.modEns_away (k : Nat) (f : Ens → Ens) : (s.modEns k f).away = s.away := rfl
@[simp] theorem State.modEns_cores (k : Nat) (f : Ens → Ens) : (s.modEns k f).cores = s.cores := rfl
@[simp] theorem State.modEns_clusters (k : Nat) (f : Ens → Ens) : (s.modEns k f).clusters = s.clusters := rfl
@[simp] theorem State.modEns_slices (k : Nat) (f : Ens → Ens) : (s.modEns k f).slices = s.slices := rfl
@[simp] theorem State.modEns_worlds (k : Nat) (f : Ens → Ens) : (s.modEns k f).worlds = s.worlds := rfl
@[simp] theorem State.modEns_launches (k : Nat) (f : Ens → Ens) : (s.modEns k f).launches = s.launches := rfl
@[simp] theorem State.modEns_presented (k : Nat) (f : Ens → Ens) : (s.modEns k f).presented = s.presented := rfl
@[simp] theorem State.modEns_copies (k : Nat) (f : Ens → Ens) : (s.modEns k f).copies = s.copies := rfl
@[simp] theorem State.modEns_held (k : Nat) (f : Ens → Ens) : (s.modEns k f).held = s.held := rfl
@[simp] theorem State.modEns_mbx (k : Nat) (f : Ens → Ens) : (s.modEns k f).mbx = s.mbx := rfl
@[simp] theorem State.modEns_queues (k : Nat) (f : Ens → Ens) : (s.modEns k f).queues = s.queues := rfl
@[simp] theorem State.modEns_fns (k : Nat) (f : Ens → Ens) : (s.modEns k f).fns = s.fns := rfl
@[simp] theorem State.modEns_lanes (k : Nat) (f : Ens → Ens) : (s.modEns k f).lanes = s.lanes := rfl
@[simp] theorem State.modEns_bar2 (k : Nat) (f : Ens → Ens) : (s.modEns k f).bar2 = s.bar2 := rfl
@[simp] theorem State.modEns_ext (k : Nat) (f : Ens → Ens) : (s.modEns k f).ext = s.ext := rfl
@[simp] theorem State.modEns_out (k : Nat) (f : Ens → Ens) : (s.modEns k f).out = s.out := rfl
@[simp] theorem State.modEns_mgmt (k : Nat) (f : Ens → Ens) : (s.modEns k f).mgmt = s.mgmt := rfl
@[simp] theorem State.modEns_book (k : Nat) (f : Ens → Ens) : (s.modEns k f).book = s.book := rfl

/-! ### putTroupe -/

@[simp] theorem State.putTroupe_cycle (t : Troupe) : (s.putTroupe t).cycle = s.cycle := rfl
@[simp] theorem State.putTroupe_alm (t : Troupe) : (s.putTroupe t).alm = s.alm := rfl
@[simp] theorem State.putTroupe_almFrac (t : Troupe) : (s.putTroupe t).almFrac = s.almFrac := rfl
@[simp] theorem State.putTroupe_almStepped (t : Troupe) : (s.putTroupe t).almStepped = s.almStepped := rfl
@[simp] theorem State.putTroupe_ppm (t : Troupe) : (s.putTroupe t).ppm = s.ppm := rfl
@[simp] theorem State.putTroupe_powered (t : Troupe) : (s.putTroupe t).powered = s.powered := rfl
@[simp] theorem State.putTroupe_mem (t : Troupe) : (s.putTroupe t).mem = s.mem := rfl
@[simp] theorem State.putTroupe_poison (t : Troupe) : (s.putTroupe t).poison = s.poison := rfl
@[simp] theorem State.putTroupe_rebuild (t : Troupe) : (s.putTroupe t).rebuild = s.rebuild := rfl
@[simp] theorem State.putTroupe_lineCtr (t : Troupe) : (s.putTroupe t).lineCtr = s.lineCtr := rfl
@[simp] theorem State.putTroupe_maxTs (t : Troupe) : (s.putTroupe t).maxTs = s.maxTs := rfl
@[simp] theorem State.putTroupe_extents (t : Troupe) : (s.putTroupe t).extents = s.extents := rfl
@[simp] theorem State.putTroupe_ring (t : Troupe) : (s.putTroupe t).ring = s.ring := rfl
@[simp] theorem State.putTroupe_ringTab (t : Troupe) : (s.putTroupe t).ringTab = s.ringTab := rfl
@[simp] theorem State.putTroupe_ringMoves (t : Troupe) : (s.putTroupe t).ringMoves = s.ringMoves := rfl
@[simp] theorem State.putTroupe_remote (t : Troupe) : (s.putTroupe t).remote = s.remote := rfl
@[simp] theorem State.putTroupe_away (t : Troupe) : (s.putTroupe t).away = s.away := rfl
@[simp] theorem State.putTroupe_cores (t : Troupe) : (s.putTroupe t).cores = s.cores := rfl
@[simp] theorem State.putTroupe_clusters (t : Troupe) : (s.putTroupe t).clusters = s.clusters := rfl
@[simp] theorem State.putTroupe_slices (t : Troupe) : (s.putTroupe t).slices = s.slices := rfl
@[simp] theorem State.putTroupe_worlds (t : Troupe) : (s.putTroupe t).worlds = s.worlds := rfl
@[simp] theorem State.putTroupe_launches (t : Troupe) : (s.putTroupe t).launches = s.launches := rfl
@[simp] theorem State.putTroupe_presented (t : Troupe) : (s.putTroupe t).presented = s.presented := rfl
@[simp] theorem State.putTroupe_copies (t : Troupe) : (s.putTroupe t).copies = s.copies := rfl
@[simp] theorem State.putTroupe_held (t : Troupe) : (s.putTroupe t).held = s.held := rfl
@[simp] theorem State.putTroupe_ens (t : Troupe) : (s.putTroupe t).ens = s.ens := rfl
@[simp] theorem State.putTroupe_mbx (t : Troupe) : (s.putTroupe t).mbx = s.mbx := rfl
@[simp] theorem State.putTroupe_queues (t : Troupe) : (s.putTroupe t).queues = s.queues := rfl
@[simp] theorem State.putTroupe_fns (t : Troupe) : (s.putTroupe t).fns = s.fns := rfl
@[simp] theorem State.putTroupe_lanes (t : Troupe) : (s.putTroupe t).lanes = s.lanes := rfl
@[simp] theorem State.putTroupe_bar2 (t : Troupe) : (s.putTroupe t).bar2 = s.bar2 := rfl
@[simp] theorem State.putTroupe_ext (t : Troupe) : (s.putTroupe t).ext = s.ext := rfl
@[simp] theorem State.putTroupe_out (t : Troupe) : (s.putTroupe t).out = s.out := rfl
@[simp] theorem State.putTroupe_mgmt (t : Troupe) : (s.putTroupe t).mgmt = s.mgmt := rfl
@[simp] theorem State.putTroupe_book (t : Troupe) : (s.putTroupe t).book = s.book := rfl

/-! ### setMe -/

@[simp] theorem State.setMe_cycle (t : Troupe) : (s.setMe t).cycle = s.cycle := rfl
@[simp] theorem State.setMe_alm (t : Troupe) : (s.setMe t).alm = s.alm := rfl
@[simp] theorem State.setMe_almFrac (t : Troupe) : (s.setMe t).almFrac = s.almFrac := rfl
@[simp] theorem State.setMe_almStepped (t : Troupe) : (s.setMe t).almStepped = s.almStepped := rfl
@[simp] theorem State.setMe_ppm (t : Troupe) : (s.setMe t).ppm = s.ppm := rfl
@[simp] theorem State.setMe_powered (t : Troupe) : (s.setMe t).powered = s.powered := rfl
@[simp] theorem State.setMe_mem (t : Troupe) : (s.setMe t).mem = s.mem := rfl
@[simp] theorem State.setMe_poison (t : Troupe) : (s.setMe t).poison = s.poison := rfl
@[simp] theorem State.setMe_rebuild (t : Troupe) : (s.setMe t).rebuild = s.rebuild := rfl
@[simp] theorem State.setMe_lineCtr (t : Troupe) : (s.setMe t).lineCtr = s.lineCtr := rfl
@[simp] theorem State.setMe_maxTs (t : Troupe) : (s.setMe t).maxTs = s.maxTs := rfl
@[simp] theorem State.setMe_extents (t : Troupe) : (s.setMe t).extents = s.extents := rfl
@[simp] theorem State.setMe_ring (t : Troupe) : (s.setMe t).ring = s.ring := rfl
@[simp] theorem State.setMe_ringTab (t : Troupe) : (s.setMe t).ringTab = s.ringTab := rfl
@[simp] theorem State.setMe_ringMoves (t : Troupe) : (s.setMe t).ringMoves = s.ringMoves := rfl
@[simp] theorem State.setMe_remote (t : Troupe) : (s.setMe t).remote = s.remote := rfl
@[simp] theorem State.setMe_away (t : Troupe) : (s.setMe t).away = s.away := rfl
@[simp] theorem State.setMe_cores (t : Troupe) : (s.setMe t).cores = s.cores := rfl
@[simp] theorem State.setMe_clusters (t : Troupe) : (s.setMe t).clusters = s.clusters := rfl
@[simp] theorem State.setMe_slices (t : Troupe) : (s.setMe t).slices = s.slices := rfl
@[simp] theorem State.setMe_worlds (t : Troupe) : (s.setMe t).worlds = s.worlds := rfl
@[simp] theorem State.setMe_launches (t : Troupe) : (s.setMe t).launches = s.launches := rfl
@[simp] theorem State.setMe_presented (t : Troupe) : (s.setMe t).presented = s.presented := rfl
@[simp] theorem State.setMe_copies (t : Troupe) : (s.setMe t).copies = s.copies := rfl
@[simp] theorem State.setMe_held (t : Troupe) : (s.setMe t).held = s.held := rfl
@[simp] theorem State.setMe_ens (t : Troupe) : (s.setMe t).ens = s.ens := rfl
@[simp] theorem State.setMe_mbx (t : Troupe) : (s.setMe t).mbx = s.mbx := rfl
@[simp] theorem State.setMe_queues (t : Troupe) : (s.setMe t).queues = s.queues := rfl
@[simp] theorem State.setMe_fns (t : Troupe) : (s.setMe t).fns = s.fns := rfl
@[simp] theorem State.setMe_lanes (t : Troupe) : (s.setMe t).lanes = s.lanes := rfl
@[simp] theorem State.setMe_bar2 (t : Troupe) : (s.setMe t).bar2 = s.bar2 := rfl
@[simp] theorem State.setMe_ext (t : Troupe) : (s.setMe t).ext = s.ext := rfl
@[simp] theorem State.setMe_out (t : Troupe) : (s.setMe t).out = s.out := rfl
@[simp] theorem State.setMe_mgmt (t : Troupe) : (s.setMe t).mgmt = s.mgmt := rfl
@[simp] theorem State.setMe_book (t : Troupe) : (s.setMe t).book = s.book := rfl

/-! ### modBook -/

@[simp] theorem State.modBook_cycle (f : Book → Book) : (s.modBook f).cycle = s.cycle := rfl
@[simp] theorem State.modBook_alm (f : Book → Book) : (s.modBook f).alm = s.alm := rfl
@[simp] theorem State.modBook_almFrac (f : Book → Book) : (s.modBook f).almFrac = s.almFrac := rfl
@[simp] theorem State.modBook_almStepped (f : Book → Book) : (s.modBook f).almStepped = s.almStepped := rfl
@[simp] theorem State.modBook_ppm (f : Book → Book) : (s.modBook f).ppm = s.ppm := rfl
@[simp] theorem State.modBook_powered (f : Book → Book) : (s.modBook f).powered = s.powered := rfl
@[simp] theorem State.modBook_mem (f : Book → Book) : (s.modBook f).mem = s.mem := rfl
@[simp] theorem State.modBook_poison (f : Book → Book) : (s.modBook f).poison = s.poison := rfl
@[simp] theorem State.modBook_rebuild (f : Book → Book) : (s.modBook f).rebuild = s.rebuild := rfl
@[simp] theorem State.modBook_lineCtr (f : Book → Book) : (s.modBook f).lineCtr = s.lineCtr := rfl
@[simp] theorem State.modBook_maxTs (f : Book → Book) : (s.modBook f).maxTs = s.maxTs := rfl
@[simp] theorem State.modBook_extents (f : Book → Book) : (s.modBook f).extents = s.extents := rfl
@[simp] theorem State.modBook_ring (f : Book → Book) : (s.modBook f).ring = s.ring := rfl
@[simp] theorem State.modBook_ringTab (f : Book → Book) : (s.modBook f).ringTab = s.ringTab := rfl
@[simp] theorem State.modBook_ringMoves (f : Book → Book) : (s.modBook f).ringMoves = s.ringMoves := rfl
@[simp] theorem State.modBook_remote (f : Book → Book) : (s.modBook f).remote = s.remote := rfl
@[simp] theorem State.modBook_troupes (f : Book → Book) : (s.modBook f).troupes = s.troupes := rfl
@[simp] theorem State.modBook_away (f : Book → Book) : (s.modBook f).away = s.away := rfl
@[simp] theorem State.modBook_cores (f : Book → Book) : (s.modBook f).cores = s.cores := rfl
@[simp] theorem State.modBook_clusters (f : Book → Book) : (s.modBook f).clusters = s.clusters := rfl
@[simp] theorem State.modBook_slices (f : Book → Book) : (s.modBook f).slices = s.slices := rfl
@[simp] theorem State.modBook_worlds (f : Book → Book) : (s.modBook f).worlds = s.worlds := rfl
@[simp] theorem State.modBook_launches (f : Book → Book) : (s.modBook f).launches = s.launches := rfl
@[simp] theorem State.modBook_presented (f : Book → Book) : (s.modBook f).presented = s.presented := rfl
@[simp] theorem State.modBook_copies (f : Book → Book) : (s.modBook f).copies = s.copies := rfl
@[simp] theorem State.modBook_held (f : Book → Book) : (s.modBook f).held = s.held := rfl
@[simp] theorem State.modBook_ens (f : Book → Book) : (s.modBook f).ens = s.ens := rfl
@[simp] theorem State.modBook_mbx (f : Book → Book) : (s.modBook f).mbx = s.mbx := rfl
@[simp] theorem State.modBook_queues (f : Book → Book) : (s.modBook f).queues = s.queues := rfl
@[simp] theorem State.modBook_fns (f : Book → Book) : (s.modBook f).fns = s.fns := rfl
@[simp] theorem State.modBook_lanes (f : Book → Book) : (s.modBook f).lanes = s.lanes := rfl
@[simp] theorem State.modBook_bar2 (f : Book → Book) : (s.modBook f).bar2 = s.bar2 := rfl
@[simp] theorem State.modBook_ext (f : Book → Book) : (s.modBook f).ext = s.ext := rfl
@[simp] theorem State.modBook_out (f : Book → Book) : (s.modBook f).out = s.out := rfl
@[simp] theorem State.modBook_mgmt (f : Book → Book) : (s.modBook f).mgmt = s.mgmt := rfl

/-! ### modCtl -/

@[simp] theorem State.modCtl_cycle (f : Ctl → Ctl) : (s.modCtl f).cycle = s.cycle := rfl
@[simp] theorem State.modCtl_alm (f : Ctl → Ctl) : (s.modCtl f).alm = s.alm := rfl
@[simp] theorem State.modCtl_almFrac (f : Ctl → Ctl) : (s.modCtl f).almFrac = s.almFrac := rfl
@[simp] theorem State.modCtl_almStepped (f : Ctl → Ctl) : (s.modCtl f).almStepped = s.almStepped := rfl
@[simp] theorem State.modCtl_ppm (f : Ctl → Ctl) : (s.modCtl f).ppm = s.ppm := rfl
@[simp] theorem State.modCtl_powered (f : Ctl → Ctl) : (s.modCtl f).powered = s.powered := rfl
@[simp] theorem State.modCtl_mem (f : Ctl → Ctl) : (s.modCtl f).mem = s.mem := rfl
@[simp] theorem State.modCtl_poison (f : Ctl → Ctl) : (s.modCtl f).poison = s.poison := rfl
@[simp] theorem State.modCtl_rebuild (f : Ctl → Ctl) : (s.modCtl f).rebuild = s.rebuild := rfl
@[simp] theorem State.modCtl_lineCtr (f : Ctl → Ctl) : (s.modCtl f).lineCtr = s.lineCtr := rfl
@[simp] theorem State.modCtl_maxTs (f : Ctl → Ctl) : (s.modCtl f).maxTs = s.maxTs := rfl
@[simp] theorem State.modCtl_extents (f : Ctl → Ctl) : (s.modCtl f).extents = s.extents := rfl
@[simp] theorem State.modCtl_ring (f : Ctl → Ctl) : (s.modCtl f).ring = s.ring := rfl
@[simp] theorem State.modCtl_ringTab (f : Ctl → Ctl) : (s.modCtl f).ringTab = s.ringTab := rfl
@[simp] theorem State.modCtl_ringMoves (f : Ctl → Ctl) : (s.modCtl f).ringMoves = s.ringMoves := rfl
@[simp] theorem State.modCtl_remote (f : Ctl → Ctl) : (s.modCtl f).remote = s.remote := rfl
@[simp] theorem State.modCtl_away (f : Ctl → Ctl) : (s.modCtl f).away = s.away := rfl
@[simp] theorem State.modCtl_cores (f : Ctl → Ctl) : (s.modCtl f).cores = s.cores := rfl
@[simp] theorem State.modCtl_clusters (f : Ctl → Ctl) : (s.modCtl f).clusters = s.clusters := rfl
@[simp] theorem State.modCtl_slices (f : Ctl → Ctl) : (s.modCtl f).slices = s.slices := rfl
@[simp] theorem State.modCtl_worlds (f : Ctl → Ctl) : (s.modCtl f).worlds = s.worlds := rfl
@[simp] theorem State.modCtl_launches (f : Ctl → Ctl) : (s.modCtl f).launches = s.launches := rfl
@[simp] theorem State.modCtl_presented (f : Ctl → Ctl) : (s.modCtl f).presented = s.presented := rfl
@[simp] theorem State.modCtl_copies (f : Ctl → Ctl) : (s.modCtl f).copies = s.copies := rfl
@[simp] theorem State.modCtl_held (f : Ctl → Ctl) : (s.modCtl f).held = s.held := rfl
@[simp] theorem State.modCtl_ens (f : Ctl → Ctl) : (s.modCtl f).ens = s.ens := rfl
@[simp] theorem State.modCtl_mbx (f : Ctl → Ctl) : (s.modCtl f).mbx = s.mbx := rfl
@[simp] theorem State.modCtl_queues (f : Ctl → Ctl) : (s.modCtl f).queues = s.queues := rfl
@[simp] theorem State.modCtl_fns (f : Ctl → Ctl) : (s.modCtl f).fns = s.fns := rfl
@[simp] theorem State.modCtl_lanes (f : Ctl → Ctl) : (s.modCtl f).lanes = s.lanes := rfl
@[simp] theorem State.modCtl_bar2 (f : Ctl → Ctl) : (s.modCtl f).bar2 = s.bar2 := rfl
@[simp] theorem State.modCtl_ext (f : Ctl → Ctl) : (s.modCtl f).ext = s.ext := rfl
@[simp] theorem State.modCtl_out (f : Ctl → Ctl) : (s.modCtl f).out = s.out := rfl
@[simp] theorem State.modCtl_mgmt (f : Ctl → Ctl) : (s.modCtl f).mgmt = s.mgmt := rfl
@[simp] theorem State.modCtl_book (f : Ctl → Ctl) : (s.modCtl f).book = s.book := rfl

/-! ### raiseEvent -/

@[simp] theorem State.raiseEvent_cycle (i : Instr) : (s.raiseEvent i).cycle = s.cycle := rfl
@[simp] theorem State.raiseEvent_alm (i : Instr) : (s.raiseEvent i).alm = s.alm := rfl
@[simp] theorem State.raiseEvent_almFrac (i : Instr) : (s.raiseEvent i).almFrac = s.almFrac := rfl
@[simp] theorem State.raiseEvent_almStepped (i : Instr) : (s.raiseEvent i).almStepped = s.almStepped := rfl
@[simp] theorem State.raiseEvent_ppm (i : Instr) : (s.raiseEvent i).ppm = s.ppm := rfl
@[simp] theorem State.raiseEvent_powered (i : Instr) : (s.raiseEvent i).powered = s.powered := rfl
@[simp] theorem State.raiseEvent_mem (i : Instr) : (s.raiseEvent i).mem = s.mem := rfl
@[simp] theorem State.raiseEvent_poison (i : Instr) : (s.raiseEvent i).poison = s.poison := rfl
@[simp] theorem State.raiseEvent_rebuild (i : Instr) : (s.raiseEvent i).rebuild = s.rebuild := rfl
@[simp] theorem State.raiseEvent_lineCtr (i : Instr) : (s.raiseEvent i).lineCtr = s.lineCtr := rfl
@[simp] theorem State.raiseEvent_maxTs (i : Instr) : (s.raiseEvent i).maxTs = s.maxTs := rfl
@[simp] theorem State.raiseEvent_extents (i : Instr) : (s.raiseEvent i).extents = s.extents := rfl
@[simp] theorem State.raiseEvent_ring (i : Instr) : (s.raiseEvent i).ring = s.ring := rfl
@[simp] theorem State.raiseEvent_ringTab (i : Instr) : (s.raiseEvent i).ringTab = s.ringTab := rfl
@[simp] theorem State.raiseEvent_ringMoves (i : Instr) : (s.raiseEvent i).ringMoves = s.ringMoves := rfl
@[simp] theorem State.raiseEvent_remote (i : Instr) : (s.raiseEvent i).remote = s.remote := rfl
@[simp] theorem State.raiseEvent_troupes (i : Instr) : (s.raiseEvent i).troupes = s.troupes := rfl
@[simp] theorem State.raiseEvent_away (i : Instr) : (s.raiseEvent i).away = s.away := rfl
@[simp] theorem State.raiseEvent_cores (i : Instr) : (s.raiseEvent i).cores = s.cores := rfl
@[simp] theorem State.raiseEvent_clusters (i : Instr) : (s.raiseEvent i).clusters = s.clusters := rfl
@[simp] theorem State.raiseEvent_slices (i : Instr) : (s.raiseEvent i).slices = s.slices := rfl
@[simp] theorem State.raiseEvent_worlds (i : Instr) : (s.raiseEvent i).worlds = s.worlds := rfl
@[simp] theorem State.raiseEvent_launches (i : Instr) : (s.raiseEvent i).launches = s.launches := rfl
@[simp] theorem State.raiseEvent_presented (i : Instr) : (s.raiseEvent i).presented = s.presented := rfl
@[simp] theorem State.raiseEvent_copies (i : Instr) : (s.raiseEvent i).copies = s.copies := rfl
@[simp] theorem State.raiseEvent_held (i : Instr) : (s.raiseEvent i).held = s.held := rfl
@[simp] theorem State.raiseEvent_ens (i : Instr) : (s.raiseEvent i).ens = s.ens := rfl
@[simp] theorem State.raiseEvent_mbx (i : Instr) : (s.raiseEvent i).mbx = s.mbx := rfl
@[simp] theorem State.raiseEvent_queues (i : Instr) : (s.raiseEvent i).queues = s.queues := rfl
@[simp] theorem State.raiseEvent_fns (i : Instr) : (s.raiseEvent i).fns = s.fns := rfl
@[simp] theorem State.raiseEvent_lanes (i : Instr) : (s.raiseEvent i).lanes = s.lanes := rfl
@[simp] theorem State.raiseEvent_bar2 (i : Instr) : (s.raiseEvent i).bar2 = s.bar2 := rfl
@[simp] theorem State.raiseEvent_ext (i : Instr) : (s.raiseEvent i).ext = s.ext := rfl
@[simp] theorem State.raiseEvent_out (i : Instr) : (s.raiseEvent i).out = s.out := rfl
@[simp] theorem State.raiseEvent_mgmt (i : Instr) : (s.raiseEvent i).mgmt = s.mgmt := rfl

/-! ### noteTs -/

@[simp] theorem State.noteTs_cycle (n : Nat) : (s.noteTs n).cycle = s.cycle := rfl
@[simp] theorem State.noteTs_alm (n : Nat) : (s.noteTs n).alm = s.alm := rfl
@[simp] theorem State.noteTs_almFrac (n : Nat) : (s.noteTs n).almFrac = s.almFrac := rfl
@[simp] theorem State.noteTs_almStepped (n : Nat) : (s.noteTs n).almStepped = s.almStepped := rfl
@[simp] theorem State.noteTs_ppm (n : Nat) : (s.noteTs n).ppm = s.ppm := rfl
@[simp] theorem State.noteTs_powered (n : Nat) : (s.noteTs n).powered = s.powered := rfl
@[simp] theorem State.noteTs_mem (n : Nat) : (s.noteTs n).mem = s.mem := rfl
@[simp] theorem State.noteTs_poison (n : Nat) : (s.noteTs n).poison = s.poison := rfl
@[simp] theorem State.noteTs_rebuild (n : Nat) : (s.noteTs n).rebuild = s.rebuild := rfl
@[simp] theorem State.noteTs_lineCtr (n : Nat) : (s.noteTs n).lineCtr = s.lineCtr := rfl
@[simp] theorem State.noteTs_extents (n : Nat) : (s.noteTs n).extents = s.extents := rfl
@[simp] theorem State.noteTs_ring (n : Nat) : (s.noteTs n).ring = s.ring := rfl
@[simp] theorem State.noteTs_ringTab (n : Nat) : (s.noteTs n).ringTab = s.ringTab := rfl
@[simp] theorem State.noteTs_ringMoves (n : Nat) : (s.noteTs n).ringMoves = s.ringMoves := rfl
@[simp] theorem State.noteTs_remote (n : Nat) : (s.noteTs n).remote = s.remote := rfl
@[simp] theorem State.noteTs_troupes (n : Nat) : (s.noteTs n).troupes = s.troupes := rfl
@[simp] theorem State.noteTs_away (n : Nat) : (s.noteTs n).away = s.away := rfl
@[simp] theorem State.noteTs_cores (n : Nat) : (s.noteTs n).cores = s.cores := rfl
@[simp] theorem State.noteTs_clusters (n : Nat) : (s.noteTs n).clusters = s.clusters := rfl
@[simp] theorem State.noteTs_slices (n : Nat) : (s.noteTs n).slices = s.slices := rfl
@[simp] theorem State.noteTs_worlds (n : Nat) : (s.noteTs n).worlds = s.worlds := rfl
@[simp] theorem State.noteTs_launches (n : Nat) : (s.noteTs n).launches = s.launches := rfl
@[simp] theorem State.noteTs_presented (n : Nat) : (s.noteTs n).presented = s.presented := rfl
@[simp] theorem State.noteTs_copies (n : Nat) : (s.noteTs n).copies = s.copies := rfl
@[simp] theorem State.noteTs_held (n : Nat) : (s.noteTs n).held = s.held := rfl
@[simp] theorem State.noteTs_ens (n : Nat) : (s.noteTs n).ens = s.ens := rfl
@[simp] theorem State.noteTs_mbx (n : Nat) : (s.noteTs n).mbx = s.mbx := rfl
@[simp] theorem State.noteTs_queues (n : Nat) : (s.noteTs n).queues = s.queues := rfl
@[simp] theorem State.noteTs_fns (n : Nat) : (s.noteTs n).fns = s.fns := rfl
@[simp] theorem State.noteTs_lanes (n : Nat) : (s.noteTs n).lanes = s.lanes := rfl
@[simp] theorem State.noteTs_bar2 (n : Nat) : (s.noteTs n).bar2 = s.bar2 := rfl
@[simp] theorem State.noteTs_ext (n : Nat) : (s.noteTs n).ext = s.ext := rfl
@[simp] theorem State.noteTs_out (n : Nat) : (s.noteTs n).out = s.out := rfl
@[simp] theorem State.noteTs_mgmt (n : Nat) : (s.noteTs n).mgmt = s.mgmt := rfl
@[simp] theorem State.noteTs_book (n : Nat) : (s.noteTs n).book = s.book := rfl

/-! ### modTroupe -/

@[simp] theorem State.modTroupe_cycle (k : Nat) (f : Troupe → Troupe) : (s.modTroupe k f).cycle = s.cycle := by unfold State.modTroupe; split <;> rfl
@[simp] theorem State.modTroupe_alm (k : Nat) (f : Troupe → Troupe) : (s.modTroupe k f).alm = s.alm := by unfold State.modTroupe; split <;> rfl
@[simp] theorem State.modTroupe_almFrac (k : Nat) (f : Troupe → Troupe) : (s.modTroupe k f).almFrac = s.almFrac := by unfold State.modTroupe; split <;> rfl
@[simp] theorem State.modTroupe_almStepped (k : Nat) (f : Troupe → Troupe) : (s.modTroupe k f).almStepped = s.almStepped := by unfold State.modTroupe; split <;> rfl
@[simp] theorem State.modTroupe_ppm (k : Nat) (f : Troupe → Troupe) : (s.modTroupe k f).ppm = s.ppm := by unfold State.modTroupe; split <;> rfl
@[simp] theorem State.modTroupe_powered (k : Nat) (f : Troupe → Troupe) : (s.modTroupe k f).powered = s.powered := by unfold State.modTroupe; split <;> rfl
@[simp] theorem State.modTroupe_mem (k : Nat) (f : Troupe → Troupe) : (s.modTroupe k f).mem = s.mem := by unfold State.modTroupe; split <;> rfl
@[simp] theorem State.modTroupe_poison (k : Nat) (f : Troupe → Troupe) : (s.modTroupe k f).poison = s.poison := by unfold State.modTroupe; split <;> rfl
@[simp] theorem State.modTroupe_rebuild (k : Nat) (f : Troupe → Troupe) : (s.modTroupe k f).rebuild = s.rebuild := by unfold State.modTroupe; split <;> rfl
@[simp] theorem State.modTroupe_lineCtr (k : Nat) (f : Troupe → Troupe) : (s.modTroupe k f).lineCtr = s.lineCtr := by unfold State.modTroupe; split <;> rfl
@[simp] theorem State.modTroupe_maxTs (k : Nat) (f : Troupe → Troupe) : (s.modTroupe k f).maxTs = s.maxTs := by unfold State.modTroupe; split <;> rfl
@[simp] theorem State.modTroupe_extents (k : Nat) (f : Troupe → Troupe) : (s.modTroupe k f).extents = s.extents := by unfold State.modTroupe; split <;> rfl
@[simp] theorem State.modTroupe_ring (k : Nat) (f : Troupe → Troupe) : (s.modTroupe k f).ring = s.ring := by unfold State.modTroupe; split <;> rfl
@[simp] theorem State.modTroupe_ringTab (k : Nat) (f : Troupe → Troupe) : (s.modTroupe k f).ringTab = s.ringTab := by unfold State.modTroupe; split <;> rfl
@[simp] theorem State.modTroupe_ringMoves (k : Nat) (f : Troupe → Troupe) : (s.modTroupe k f).ringMoves = s.ringMoves := by unfold State.modTroupe; split <;> rfl
@[simp] theorem State.modTroupe_remote (k : Nat) (f : Troupe → Troupe) : (s.modTroupe k f).remote = s.remote := by unfold State.modTroupe; split <;> rfl
@[simp] theorem State.modTroupe_away (k : Nat) (f : Troupe → Troupe) : (s.modTroupe k f).away = s.away := by unfold State.modTroupe; split <;> rfl
@[simp] theorem State.modTroupe_cores (k : Nat) (f : Troupe → Troupe) : (s.modTroupe k f).cores = s.cores := by unfold State.modTroupe; split <;> rfl
@[simp] theorem State.modTroupe_clusters (k : Nat) (f : Troupe → Troupe) : (s.modTroupe k f).clusters = s.clusters := by unfold State.modTroupe; split <;> rfl
@[simp] theorem State.modTroupe_slices (k : Nat) (f : Troupe → Troupe) : (s.modTroupe k f).slices = s.slices := by unfold State.modTroupe; split <;> rfl
@[simp] theorem State.modTroupe_worlds (k : Nat) (f : Troupe → Troupe) : (s.modTroupe k f).worlds = s.worlds := by unfold State.modTroupe; split <;> rfl
@[simp] theorem State.modTroupe_launches (k : Nat) (f : Troupe → Troupe) : (s.modTroupe k f).launches = s.launches := by unfold State.modTroupe; split <;> rfl
@[simp] theorem State.modTroupe_presented (k : Nat) (f : Troupe → Troupe) : (s.modTroupe k f).presented = s.presented := by unfold State.modTroupe; split <;> rfl
@[simp] theorem State.modTroupe_copies (k : Nat) (f : Troupe → Troupe) : (s.modTroupe k f).copies = s.copies := by unfold State.modTroupe; split <;> rfl
@[simp] theorem State.modTroupe_held (k : Nat) (f : Troupe → Troupe) : (s.modTroupe k f).held = s.held := by unfold State.modTroupe; split <;> rfl
@[simp] theorem State.modTroupe_ens (k : Nat) (f : Troupe → Troupe) : (s.modTroupe k f).ens = s.ens := by unfold State.modTroupe; split <;> rfl
@[simp] theorem State.modTroupe_mbx (k : Nat) (f : Troupe → Troupe) : (s.modTroupe k f).mbx = s.mbx := by unfold State.modTroupe; split <;> rfl
@[simp] theorem State.modTroupe_queues (k : Nat) (f : Troupe → Troupe) : (s.modTroupe k f).queues = s.queues := by unfold State.modTroupe; split <;> rfl
@[simp] theorem State.modTroupe_fns (k : Nat) (f : Troupe → Troupe) : (s.modTroupe k f).fns = s.fns := by unfold State.modTroupe; split <;> rfl
@[simp] theorem State.modTroupe_lanes (k : Nat) (f : Troupe → Troupe) : (s.modTroupe k f).lanes = s.lanes := by unfold State.modTroupe; split <;> rfl
@[simp] theorem State.modTroupe_bar2 (k : Nat) (f : Troupe → Troupe) : (s.modTroupe k f).bar2 = s.bar2 := by unfold State.modTroupe; split <;> rfl
@[simp] theorem State.modTroupe_ext (k : Nat) (f : Troupe → Troupe) : (s.modTroupe k f).ext = s.ext := by unfold State.modTroupe; split <;> rfl
@[simp] theorem State.modTroupe_out (k : Nat) (f : Troupe → Troupe) : (s.modTroupe k f).out = s.out := by unfold State.modTroupe; split <;> rfl
@[simp] theorem State.modTroupe_mgmt (k : Nat) (f : Troupe → Troupe) : (s.modTroupe k f).mgmt = s.mgmt := by unfold State.modTroupe; split <;> rfl
@[simp] theorem State.modTroupe_book (k : Nat) (f : Troupe → Troupe) : (s.modTroupe k f).book = s.book := by unfold State.modTroupe; split <;> rfl

/-! ### modLaunch -/

@[simp] theorem State.modLaunch_cycle (k : Nat) (f : Launch → Launch) : (s.modLaunch k f).cycle = s.cycle := by unfold State.modLaunch; split <;> rfl
@[simp] theorem State.modLaunch_alm (k : Nat) (f : Launch → Launch) : (s.modLaunch k f).alm = s.alm := by unfold State.modLaunch; split <;> rfl
@[simp] theorem State.modLaunch_almFrac (k : Nat) (f : Launch → Launch) : (s.modLaunch k f).almFrac = s.almFrac := by unfold State.modLaunch; split <;> rfl
@[simp] theorem State.modLaunch_almStepped (k : Nat) (f : Launch → Launch) : (s.modLaunch k f).almStepped = s.almStepped := by unfold State.modLaunch; split <;> rfl
@[simp] theorem State.modLaunch_ppm (k : Nat) (f : Launch → Launch) : (s.modLaunch k f).ppm = s.ppm := by unfold State.modLaunch; split <;> rfl
@[simp] theorem State.modLaunch_powered (k : Nat) (f : Launch → Launch) : (s.modLaunch k f).powered = s.powered := by unfold State.modLaunch; split <;> rfl
@[simp] theorem State.modLaunch_mem (k : Nat) (f : Launch → Launch) : (s.modLaunch k f).mem = s.mem := by unfold State.modLaunch; split <;> rfl
@[simp] theorem State.modLaunch_poison (k : Nat) (f : Launch → Launch) : (s.modLaunch k f).poison = s.poison := by unfold State.modLaunch; split <;> rfl
@[simp] theorem State.modLaunch_rebuild (k : Nat) (f : Launch → Launch) : (s.modLaunch k f).rebuild = s.rebuild := by unfold State.modLaunch; split <;> rfl
@[simp] theorem State.modLaunch_lineCtr (k : Nat) (f : Launch → Launch) : (s.modLaunch k f).lineCtr = s.lineCtr := by unfold State.modLaunch; split <;> rfl
@[simp] theorem State.modLaunch_maxTs (k : Nat) (f : Launch → Launch) : (s.modLaunch k f).maxTs = s.maxTs := by unfold State.modLaunch; split <;> rfl
@[simp] theorem State.modLaunch_extents (k : Nat) (f : Launch → Launch) : (s.modLaunch k f).extents = s.extents := by unfold State.modLaunch; split <;> rfl
@[simp] theorem State.modLaunch_ring (k : Nat) (f : Launch → Launch) : (s.modLaunch k f).ring = s.ring := by unfold State.modLaunch; split <;> rfl
@[simp] theorem State.modLaunch_ringTab (k : Nat) (f : Launch → Launch) : (s.modLaunch k f).ringTab = s.ringTab := by unfold State.modLaunch; split <;> rfl
@[simp] theorem State.modLaunch_ringMoves (k : Nat) (f : Launch → Launch) : (s.modLaunch k f).ringMoves = s.ringMoves := by unfold State.modLaunch; split <;> rfl
@[simp] theorem State.modLaunch_remote (k : Nat) (f : Launch → Launch) : (s.modLaunch k f).remote = s.remote := by unfold State.modLaunch; split <;> rfl
@[simp] theorem State.modLaunch_troupes (k : Nat) (f : Launch → Launch) : (s.modLaunch k f).troupes = s.troupes := by unfold State.modLaunch; split <;> rfl
@[simp] theorem State.modLaunch_away (k : Nat) (f : Launch → Launch) : (s.modLaunch k f).away = s.away := by unfold State.modLaunch; split <;> rfl
@[simp] theorem State.modLaunch_cores (k : Nat) (f : Launch → Launch) : (s.modLaunch k f).cores = s.cores := by unfold State.modLaunch; split <;> rfl
@[simp] theorem State.modLaunch_clusters (k : Nat) (f : Launch → Launch) : (s.modLaunch k f).clusters = s.clusters := by unfold State.modLaunch; split <;> rfl
@[simp] theorem State.modLaunch_slices (k : Nat) (f : Launch → Launch) : (s.modLaunch k f).slices = s.slices := by unfold State.modLaunch; split <;> rfl
@[simp] theorem State.modLaunch_worlds (k : Nat) (f : Launch → Launch) : (s.modLaunch k f).worlds = s.worlds := by unfold State.modLaunch; split <;> rfl
@[simp] theorem State.modLaunch_presented (k : Nat) (f : Launch → Launch) : (s.modLaunch k f).presented = s.presented := by unfold State.modLaunch; split <;> rfl
@[simp] theorem State.modLaunch_copies (k : Nat) (f : Launch → Launch) : (s.modLaunch k f).copies = s.copies := by unfold State.modLaunch; split <;> rfl
@[simp] theorem State.modLaunch_held (k : Nat) (f : Launch → Launch) : (s.modLaunch k f).held = s.held := by unfold State.modLaunch; split <;> rfl
@[simp] theorem State.modLaunch_ens (k : Nat) (f : Launch → Launch) : (s.modLaunch k f).ens = s.ens := by unfold State.modLaunch; split <;> rfl
@[simp] theorem State.modLaunch_mbx (k : Nat) (f : Launch → Launch) : (s.modLaunch k f).mbx = s.mbx := by unfold State.modLaunch; split <;> rfl
@[simp] theorem State.modLaunch_queues (k : Nat) (f : Launch → Launch) : (s.modLaunch k f).queues = s.queues := by unfold State.modLaunch; split <;> rfl
@[simp] theorem State.modLaunch_fns (k : Nat) (f : Launch → Launch) : (s.modLaunch k f).fns = s.fns := by unfold State.modLaunch; split <;> rfl
@[simp] theorem State.modLaunch_lanes (k : Nat) (f : Launch → Launch) : (s.modLaunch k f).lanes = s.lanes := by unfold State.modLaunch; split <;> rfl
@[simp] theorem State.modLaunch_bar2 (k : Nat) (f : Launch → Launch) : (s.modLaunch k f).bar2 = s.bar2 := by unfold State.modLaunch; split <;> rfl
@[simp] theorem State.modLaunch_ext (k : Nat) (f : Launch → Launch) : (s.modLaunch k f).ext = s.ext := by unfold State.modLaunch; split <;> rfl
@[simp] theorem State.modLaunch_out (k : Nat) (f : Launch → Launch) : (s.modLaunch k f).out = s.out := by unfold State.modLaunch; split <;> rfl
@[simp] theorem State.modLaunch_mgmt (k : Nat) (f : Launch → Launch) : (s.modLaunch k f).mgmt = s.mgmt := by unfold State.modLaunch; split <;> rfl
@[simp] theorem State.modLaunch_book (k : Nat) (f : Launch → Launch) : (s.modLaunch k f).book = s.book := by unfold State.modLaunch; split <;> rfl

/-! ### dropHold -/

@[simp] theorem State.dropHold_cycle (c t : Nat) : (s.dropHold c t).cycle = s.cycle := by unfold State.dropHold; dsimp only; split <;> rfl
@[simp] theorem State.dropHold_alm (c t : Nat) : (s.dropHold c t).alm = s.alm := by unfold State.dropHold; dsimp only; split <;> rfl
@[simp] theorem State.dropHold_almFrac (c t : Nat) : (s.dropHold c t).almFrac = s.almFrac := by unfold State.dropHold; dsimp only; split <;> rfl
@[simp] theorem State.dropHold_almStepped (c t : Nat) : (s.dropHold c t).almStepped = s.almStepped := by unfold State.dropHold; dsimp only; split <;> rfl
@[simp] theorem State.dropHold_ppm (c t : Nat) : (s.dropHold c t).ppm = s.ppm := by unfold State.dropHold; dsimp only; split <;> rfl
@[simp] theorem State.dropHold_powered (c t : Nat) : (s.dropHold c t).powered = s.powered := by unfold State.dropHold; dsimp only; split <;> rfl
@[simp] theorem State.dropHold_mem (c t : Nat) : (s.dropHold c t).mem = s.mem := by unfold State.dropHold; dsimp only; split <;> rfl
@[simp] theorem State.dropHold_poison (c t : Nat) : (s.dropHold c t).poison = s.poison := by unfold State.dropHold; dsimp only; split <;> rfl
@[simp] theorem State.dropHold_rebuild (c t : Nat) : (s.dropHold c t).rebuild = s.rebuild := by unfold State.dropHold; dsimp only; split <;> rfl
@[simp] theorem State.dropHold_lineCtr (c t : Nat) : (s.dropHold c t).lineCtr = s.lineCtr := by unfold State.dropHold; dsimp only; split <;> rfl
@[simp] theorem State.dropHold_maxTs (c t : Nat) : (s.dropHold c t).maxTs = s.maxTs := by unfold State.dropHold; dsimp only; split <;> rfl
@[simp] theorem State.dropHold_extents (c t : Nat) : (s.dropHold c t).extents = s.extents := by unfold State.dropHold; dsimp only; split <;> rfl
@[simp] theorem State.dropHold_ring (c t : Nat) : (s.dropHold c t).ring = s.ring := by unfold State.dropHold; dsimp only; split <;> rfl
@[simp] theorem State.dropHold_ringTab (c t : Nat) : (s.dropHold c t).ringTab = s.ringTab := by unfold State.dropHold; dsimp only; split <;> rfl
@[simp] theorem State.dropHold_ringMoves (c t : Nat) : (s.dropHold c t).ringMoves = s.ringMoves := by unfold State.dropHold; dsimp only; split <;> rfl
@[simp] theorem State.dropHold_remote (c t : Nat) : (s.dropHold c t).remote = s.remote := by unfold State.dropHold; dsimp only; split <;> rfl
@[simp] theorem State.dropHold_troupes (c t : Nat) : (s.dropHold c t).troupes = s.troupes := by unfold State.dropHold; dsimp only; split <;> rfl
@[simp] theorem State.dropHold_away (c t : Nat) : (s.dropHold c t).away = s.away := by unfold State.dropHold; dsimp only; split <;> rfl
@[simp] theorem State.dropHold_clusters (c t : Nat) : (s.dropHold c t).clusters = s.clusters := by unfold State.dropHold; dsimp only; split <;> rfl
@[simp] theorem State.dropHold_slices (c t : Nat) : (s.dropHold c t).slices = s.slices := by unfold State.dropHold; dsimp only; split <;> rfl
@[simp] theorem State.dropHold_worlds (c t : Nat) : (s.dropHold c t).worlds = s.worlds := by unfold State.dropHold; dsimp only; split <;> rfl
@[simp] theorem State.dropHold_launches (c t : Nat) : (s.dropHold c t).launches = s.launches := by unfold State.dropHold; dsimp only; split <;> rfl
@[simp] theorem State.dropHold_presented (c t : Nat) : (s.dropHold c t).presented = s.presented := by unfold State.dropHold; dsimp only; split <;> rfl
@[simp] theorem State.dropHold_copies (c t : Nat) : (s.dropHold c t).copies = s.copies := by unfold State.dropHold; dsimp only; split <;> rfl
@[simp] theorem State.dropHold_held (c t : Nat) : (s.dropHold c t).held = s.held := by unfold State.dropHold; dsimp only; split <;> rfl
@[simp] theorem State.dropHold_ens (c t : Nat) : (s.dropHold c t).ens = s.ens := by unfold State.dropHold; dsimp only; split <;> rfl
@[simp] theorem State.dropHold_mbx (c t : Nat) : (s.dropHold c t).mbx = s.mbx := by unfold State.dropHold; dsimp only; split <;> rfl
@[simp] theorem State.dropHold_queues (c t : Nat) : (s.dropHold c t).queues = s.queues := by unfold State.dropHold; dsimp only; split <;> rfl
@[simp] theorem State.dropHold_fns (c t : Nat) : (s.dropHold c t).fns = s.fns := by unfold State.dropHold; dsimp only; split <;> rfl
@[simp] theorem State.dropHold_lanes (c t : Nat) : (s.dropHold c t).lanes = s.lanes := by unfold State.dropHold; dsimp only; split <;> rfl
@[simp] theorem State.dropHold_bar2 (c t : Nat) : (s.dropHold c t).bar2 = s.bar2 := by unfold State.dropHold; dsimp only; split <;> rfl
@[simp] theorem State.dropHold_ext (c t : Nat) : (s.dropHold c t).ext = s.ext := by unfold State.dropHold; dsimp only; split <;> rfl
@[simp] theorem State.dropHold_out (c t : Nat) : (s.dropHold c t).out = s.out := by unfold State.dropHold; dsimp only; split <;> rfl
@[simp] theorem State.dropHold_mgmt (c t : Nat) : (s.dropHold c t).mgmt = s.mgmt := by unfold State.dropHold; dsimp only; split <;> rfl
@[simp] theorem State.dropHold_book (c t : Nat) : (s.dropHold c t).book = s.book := by unfold State.dropHold; dsimp only; split <;> rfl

end Sys2Proof.Machine
end

