-- ==== Sys2Proof/Laws/Word.lean ====
section
/-! SUPPORT. Tables, lanes, masks and sparse memories: what reading after writing gives, and that writing keeps the
canonical form. -/

namespace Sys2Proof

/-! ### Tables -/

@[simp] theorem Table.find_put {α : Type} (t : Table α) (k k' : Nat) (a : α) :
    (t.put k a).find k' = if k = k' then some a else t.find k' := by
  induction t with
  | nil => simp [Table.put, Table.find]
  | cons e t ih =>
    obtain ⟨i, b⟩ := e
    simp only [Table.put]
    split
    · subst_vars; simp only [Table.find]; split <;> rfl
    · split
      · simp only [Table.find]
      · simp only [Table.find, ih]
        grind

@[simp] theorem Table.get_put {α : Type} (t : Table α) (k k' : Nat) (a d : α) :
    (t.put k a).get k' d = if k = k' then a else t.get k' d := by
  simp only [Table.get, Table.find_put]; split <;> rfl

theorem Table.find_del {α : Type} (t : Table α) (k k' : Nat) :
    (t.del k).find k' = if k = k' then none else t.find k' := by
  induction t with
  | nil => simp [Table.del, Table.find]
  | cons e t ih =>
    obtain ⟨i, b⟩ := e
    simp only [Table.del] at ih ⊢
    by_cases h : i = k
    · subst h
      simp only [List.filter_cons, ne_eq, not_true_eq_false, decide_false, Bool.false_eq_true, if_false, ih, Table.find]
      grind
    · simp only [List.filter_cons, ne_eq, h, not_false_eq_true, decide_true, if_true, Table.find, ih]
      grind

theorem Table.find_mapVals {α : Type} (t : Table α) (f : Nat → α → α) (k : Nat) :
    (t.mapVals f).find k = (t.find k).map (f k) := by
  induction t with
  | nil => rfl
  | cons e t ih =>
    obtain ⟨i, b⟩ := e
    simp only [Table.mapVals, List.map_cons, Table.find] at ih ⊢
    split
    · subst_vars; rfl
    · exact ih

/-! ### Lanes -/

@[simp] theorem Lanes.lane_ofFn (f : Nat → W32) (l : Nat) : (Lanes.ofFn f).lane l = if l < 128 then f l else 0 := by
  unfold Lanes.lane Lanes.ofFn
  split
  · simp
  · rfl

theorem Lanes.lane_setLane (v : Lanes) (l k : Nat) (x : W32) :
    (v.setLane l x).lane k = if l = k ∧ l < 128 then x else v.lane k := by
  unfold Lanes.lane Lanes.setLane
  grind

theorem Lanes.ext_lane {a b : Lanes} (h : ∀ l, l < 128 → a.lane l = b.lane l) : a = b := by
  apply Vector.ext
  intro i hi
  have := h i hi
  simpa [Lanes.lane, hi] using this

namespace Machine

/-! ### Masks -/

theorem maskOf_bits (f : Nat → Bool) (n : Nat) :
    (List.range n).foldl (fun n l => if f l then n + 2 ^ l else n) 0 < 2 ^ n ∧
    ∀ l, ((List.range n).foldl (fun n l => if f l then n + 2 ^ l else n) 0).testBit l = (decide (l < n) && f l) := by
  induction n with
  | zero => simp
  | succ n ih =>
    obtain ⟨hlt, hb⟩ := ih
    rw [List.range_succ, List.foldl_append]
    generalize hx : (List.range n).foldl (fun n l => if f l then n + 2 ^ l else n) 0 = x at *
    have h2 : 2 ^ (n + 1) = 2 ^ n + 2 ^ n := by rw [Nat.pow_succ]; omega
    by_cases hf : f n
    · simp only [List.foldl_cons, List.foldl_nil, hf, if_true]
      refine ⟨by omega, fun l => ?_⟩
      have h3 := Nat.two_pow_add_eq_or_of_lt hlt 1
      rw [Nat.mul_one] at h3
      rw [Nat.add_comm, h3, Nat.testBit_or, hb, Nat.testBit_two_pow]
      by_cases hl : l = n
      · subst hl; simp [hf]
      · have : decide (n = l) = false := by simp; omega
        rw [this]
        by_cases h : l < n
        · simp [h, Nat.lt_succ_of_lt h]
        · have : ¬ l < n + 1 := by omega
          simp [h, this]
    · simp only [List.foldl_cons, List.foldl_nil, hf]
      refine ⟨by simp; omega, fun l => ?_⟩
      simp only [Bool.false_eq_true, if_false, hb]
      by_cases hl : l = n
      · subst hl; simp [hf]
      · by_cases h : l < n
        · simp [h, Nat.lt_succ_of_lt h]
        · have : ¬ l < n + 1 := by omega
          simp [h, this]

@[simp] theorem inMask_maskOf (f : Nat → Bool) (l : Nat) : inMask (maskOf f) l = (decide (l < 128) && f l) := by
  unfold inMask maskOf
  rw [BitVec.getLsbD_ofNat, (maskOf_bits f 128).2]
  by_cases h : l < 128 <;> simp [h]

@[simp] theorem inMask_and (a b : Mask) (l : Nat) : inMask (a &&& b) l = (inMask a l && inMask b l) := by
  simp [inMask]

@[simp] theorem inMask_or (a b : Mask) (l : Nat) : inMask (a ||| b) l = (inMask a l || inMask b l) := by
  simp [inMask]

@[simp] theorem inMask_xor (a b : Mask) (l : Nat) : inMask (a ^^^ b) l = (inMask a l ^^ inMask b l) := by
  simp [inMask]

@[simp] theorem inMask_not (a : Mask) (l : Nat) : inMask (~~~ a) l = (decide (l < 128) && !inMask a l) := by
  simp [inMask]

theorem inMask_lt {m : Mask} {l : Nat} (h : inMask m l = true) : l < 128 := by
  unfold inMask at h
  exact BitVec.lt_of_getLsbD h

theorem mem_lanesOf (m : Mask) (l : Nat) : l ∈ lanesOf m ↔ inMask m l = true := by
  unfold lanesOf
  rw [List.mem_filter, List.mem_range]
  exact ⟨fun h => h.2, fun h => ⟨inMask_lt h, h⟩⟩

theorem mask_ext {a b : Mask} (h : ∀ l, l < 128 → inMask a l = inMask b l) : a = b :=
  BitVec.eq_of_getLsbD_eq fun i hi => h i hi

/-! ### Sparse memories -/

theorem Bytes.wf_cons (i : Nat) (b : Byte) (t : Bytes) :
    Bytes.wf ((i, b) :: t) = true ↔ b ≠ 0 ∧ (∀ e ∈ t, i < e.1) ∧ Bytes.wf t = true := by
  induction t generalizing i b with
  | nil => simp [Bytes.wf]
  | cons e t ih =>
    obtain ⟨j, c⟩ := e
    have h : Bytes.wf ((i, b) :: (j, c) :: t) = (b ≠ 0 && i < j && Bytes.wf ((j, c) :: t)) := rfl
    rw [h, Bool.and_eq_true, Bool.and_eq_true, ih j c]
    simp only [List.forall_mem_cons, decide_eq_true_eq]
    constructor
    · rintro ⟨⟨h1, h2⟩, h3, h4, h5⟩
      exact ⟨h1, ⟨h2, fun e he => Nat.lt_trans h2 (h4 e he)⟩, h3, h4, h5⟩
    · rintro ⟨h1, ⟨h2, -⟩, h3, h4, h5⟩
      exact ⟨⟨h1, h2⟩, h3, h4, h5⟩

theorem Bytes.byte_zero {t : Bytes} {k : Nat} (h : ∀ e ∈ t, k < e.1) : Bytes.byte t k = 0 := by
  induction t with
  | nil => rfl
  | cons e t ih =>
    obtain ⟨j, c⟩ := e
    have hj := h (j, c) (by simp)
    have : j ≠ k := by simp at hj; omega
    rw [Bytes.byte, if_neg this, ih fun e he => h e (by simp [he])]

theorem Bytes.mem_set {m : Bytes} {a : Nat} {x : Byte} {e : Host.Cell} (h : e ∈ m.set a x) :
    e.1 = a ∨ e ∈ m := by
  induction m with
  | nil => simp only [Bytes.set] at h; split at h <;> simp_all
  | cons b t ih =>
    obtain ⟨i, c⟩ := b
    simp only [Bytes.set] at h
    grind

/-- A byte reads as what was written there, and every other byte as before. -/
theorem Bytes.byte_set {m : Bytes} (h : m.wf = true) (a k : Nat) (x : Byte) :
    (m.set a x).byte k = if a = k then x else m.byte k := by
  induction m with
  | nil => simp only [Bytes.set]; split <;> simp_all [Bytes.byte]
  | cons e t ih =>
    obtain ⟨i, b⟩ := e
    rw [Bytes.wf_cons] at h
    obtain ⟨hb, hlt, ht⟩ := h
    have ih := ih ht
    simp only [Bytes.set]
    split
    · subst_vars
      split
      · subst_vars
        by_cases hk : i = k
        · subst hk; simp [Bytes.byte_zero hlt]
        · simp [hk, Bytes.byte]
      · simp only [Bytes.byte]; grind
    · split
      · split
        · subst_vars
          by_cases hk : a = k
          · subst hk
            rw [if_pos rfl]
            exact Bytes.byte_zero fun e he => by
              rcases List.mem_cons.1 he with rfl | he
              · assumption
              · exact Nat.lt_trans (by assumption) (hlt e he)
          · simp [hk]
        · simp only [Bytes.byte]
      · simp only [Bytes.byte, ih]; grind

/-- Writing a byte keeps the canonical form. -/
theorem Bytes.wf_set {m : Bytes} (h : m.wf = true) (a : Nat) (x : Byte) : (m.set a x).wf = true := by
  induction m with
  | nil => simp only [Bytes.set]; split <;> simp_all [Bytes.wf]
  | cons e t ih =>
    obtain ⟨i, b⟩ := e
    have h0 := h
    rw [Bytes.wf_cons] at h
    obtain ⟨hb, hlt, ht⟩ := h
    simp only [Bytes.set]
    split
    · subst_vars
      split
      · exact ht
      · rw [Bytes.wf_cons]; exact ⟨by assumption, hlt, ht⟩
    · split
      · split
        · exact h0
        · rw [Bytes.wf_cons]
          refine ⟨by assumption, fun e he => ?_, h0⟩
          rcases List.mem_cons.1 he with rfl | he
          · assumption
          · exact Nat.lt_trans (by assumption) (hlt e he)
      · rw [Bytes.wf_cons]
        refine ⟨hb, fun e he => ?_, ih ht⟩
        rcases Bytes.mem_set he with he | he
        · omega
        · exact hlt e he

/-- Writing bytes keeps the canonical form. -/
theorem Bytes.wf_write {m : Bytes} (h : m.wf = true) (a : Nat) (bs : List Byte) : (m.write a bs).wf = true := by
  induction bs generalizing m a with
  | nil => exact h
  | cons b t ih => exact ih (Bytes.wf_set h a b) (a + 1)

/-- The bytes of a range read as what was written there, and every other byte as before. -/
theorem Bytes.byte_write {m : Bytes} (h : m.wf = true) (a k : Nat) (bs : List Byte) :
    (m.write a bs).byte k = if a ≤ k ∧ k < a + bs.length then bs.getD (k - a) 0 else m.byte k := by
  induction bs generalizing m a with
  | nil => rw [Bytes.write, if_neg (by rw [List.length_nil]; omega)]
  | cons b t ih =>
    rw [Bytes.write, ih (Bytes.wf_set h a b), Bytes.byte_set h]
    by_cases hk : a = k
    · subst hk; simp
    · by_cases h1 : a + 1 ≤ k ∧ k < a + 1 + t.length
      · have h2 : a ≤ k ∧ k < a + (b :: t).length := by simp; omega
        rw [if_pos h1, if_pos h2]
        have : k - a = (k - (a + 1)) + 1 := by omega
        rw [this, List.getD_cons_succ]
      · have h2 : ¬ (a ≤ k ∧ k < a + (b :: t).length) := by simp; omega
        rw [if_neg h1, if_neg h2, if_neg hk]

/-- Reading a range that a write left alone. -/
theorem Bytes.read_congr {m m' : Bytes} {a n : Nat} (h : ∀ k, a ≤ k → k < a + n → m.byte k = m'.byte k) :
    m.read a n = m'.read a n := by
  induction n generalizing a with
  | zero => rfl
  | succ n ih =>
    rw [Bytes.read, Bytes.read, h a (by omega) (by omega), ih fun k h1 h2 => h k (by omega) (by omega)]

/-- What was written is read back. -/
theorem Bytes.read_write {m : Bytes} (h : m.wf = true) (a : Nat) (bs : List Byte) :
    (m.write a bs).read a bs.length = bs := by
  induction bs generalizing m a with
  | nil => rfl
  | cons b t ih =>
    have h1 : (m.write a (b :: t)).byte a = b := by rw [Bytes.byte_write h]; simp
    rw [List.length_cons, Bytes.read, h1, Bytes.write, ih (Bytes.wf_set h a b)]

/-- Keeping some of the listed bytes keeps the canonical form. -/
theorem Bytes.wf_filter {m : Bytes} (h : m.wf = true) (p : Host.Cell → Bool) : Bytes.wf (m.filter p) = true := by
  induction m with
  | nil => rfl
  | cons e t ih =>
    obtain ⟨i, b⟩ := e
    rw [Bytes.wf_cons] at h
    rw [List.filter_cons]
    split
    · rw [Bytes.wf_cons]
      exact ⟨h.1, fun e he => h.2.1 e (List.mem_filter.1 he).1, ih h.2.2⟩
    · exact ih h.2.2

/-- Clearing a range keeps the canonical form. -/
theorem Bytes.wf_clear {m : Bytes} (h : m.wf = true) (a n : Nat) : (m.clear a n).wf = true := Bytes.wf_filter h _

/-- Two canonical memories, one wholly below the other, make one. -/
theorem Bytes.wf_append {x y : Bytes} (hx : x.wf = true) (hy : y.wf = true)
    (h : ∀ a ∈ x, ∀ b ∈ y, a.1 < b.1) : Bytes.wf (x ++ y) = true := by
  induction x with
  | nil => exact hy
  | cons e t ih =>
    obtain ⟨i, b⟩ := e
    rw [Bytes.wf_cons] at hx
    rw [List.cons_append, Bytes.wf_cons]
    refine ⟨hx.1, fun e he => ?_, ih hx.2.2 fun a ha => h a (by simp [ha])⟩
    rcases List.mem_append.1 he with he | he
    · exact hx.2.1 e he
    · exact h (i, b) (by simp) e he

theorem Bytes.wf_range (bs : List Byte) (a : Nat) :
    Bytes.wf (((bs.zipIdx a).map fun x => (x.2, x.1)).filter (fun e => e.2 ≠ 0)) = true ∧
    ∀ e ∈ ((bs.zipIdx a).map fun x => (x.2, x.1)).filter (fun e => e.2 ≠ 0), a ≤ e.1 ∧ e.1 < a + bs.length := by
  induction bs generalizing a with
  | nil => simp [Bytes.wf]
  | cons b t ih =>
    obtain ⟨h1, h2⟩ := ih (a + 1)
    simp only [List.zipIdx_cons, List.map_cons, List.filter_cons]
    split
    · refine ⟨?_, fun e he => ?_⟩
      · rw [Bytes.wf_cons]
        exact ⟨by simp_all, fun e he => by have := h2 e he; omega, h1⟩
      · rcases List.mem_cons.1 he with rfl | he
        · simp
        · have := h2 e he; simp only [List.length_cons]; omega
    · exact ⟨h1, fun e he => by have := h2 e he; simp only [List.length_cons]; omega⟩

/-- Writing many bytes at once keeps the canonical form. -/
theorem Bytes.wf_splice {m : Bytes} (h : m.wf = true) (a : Nat) (bs : List Byte) : (m.splice a bs).wf = true := by
  unfold Bytes.splice
  obtain ⟨h1, h2⟩ := Bytes.wf_range bs a
  refine Bytes.wf_append (Bytes.wf_append (Bytes.wf_filter h _) h1 fun x hx y hy => ?_) (Bytes.wf_filter h _)
    fun x hx y hy => ?_
  · have := h2 y hy
    have hx := (List.mem_filter.1 hx).2
    simp only [decide_eq_true_eq] at hx
    omega
  · have hy := (List.mem_filter.1 hy).2
    simp only [decide_eq_true_eq] at hy
    rcases List.mem_append.1 hx with hx | hx
    · have hx := (List.mem_filter.1 hx).2
      simp only [decide_eq_true_eq] at hx
      omega
    · have := h2 x hx
      omega

end Machine

end Sys2Proof
end

