-- ==== Sys2Proof/Laws/Regs.lean ====
section
/-! SUPPORT. Registers, flags and sticky bits of a troupe: what reading after writing gives, and what a write leaves. -/

namespace Sys2Proof.Machine

/-! ### Scalars -/

theorem Troupe.sreg_setS (t : Troupe) (n k : Nat) (x : W64) :
    (t.setS n x).sreg k = if n = k ∧ n < 64 then x else t.sreg k := by
  unfold Troupe.sreg Troupe.setS
  grind

/-- A scalar write changes nothing but the scalar registers. -/
theorem Troupe.setS_frame (t : Troupe) (n : Nat) (x : W64) : t.setS n x = { t with s := (t.setS n x).s } := by
  unfold Troupe.setS; split <;> rfl

theorem Troupe.setSs_frame (t : Troupe) (n : Nat) (xs : List W64) :
    t.setSs n xs = { t with s := (t.setSs n xs).s } := by
  induction xs generalizing t n with
  | nil => rfl
  | cons x xs ih => rw [Troupe.setSs, ih, Troupe.setS_frame]

/-- Consecutive scalars read as the words written, and every other scalar as before. -/
theorem Troupe.sreg_setSs (t : Troupe) (n k : Nat) (xs : List W64) :
    (t.setSs n xs).sreg k = if n ≤ k ∧ k < n + xs.length ∧ k < 64 then xs.getD (k - n) 0 else t.sreg k := by
  induction xs generalizing t n with
  | nil => rw [if_neg (by rw [List.length_nil]; omega)]; rfl
  | cons x xs ih =>
    rw [Troupe.setSs, ih, Troupe.sreg_setS, List.length_cons]
    by_cases h : n = k
    · subst h
      rw [if_neg (by omega)]
      by_cases h64 : n < 64
      · rw [if_pos ⟨rfl, h64⟩, if_pos (by omega)]; simp
      · rw [if_neg (by omega), if_neg (by omega)]
    · by_cases h1 : n + 1 ≤ k ∧ k < n + 1 + xs.length ∧ k < 64
      · rw [if_pos h1, if_pos (by omega)]
        have : k - n = (k - (n + 1)) + 1 := by omega
        rw [this, List.getD_cons_succ]
      · rw [if_neg h1, if_neg (by omega), if_neg (by omega)]

theorem Troupe.setPair_frame (t : Troupe) (n : Nat) (m : Mask) : t.setPair n m = { t with s := (t.setPair n m).s } := by
  unfold Troupe.setPair
  rw [Troupe.setS_frame, Troupe.setS_frame t]

/-- pair(x) reads the mask that setpair(x, m) wrote (R111). -/
theorem Troupe.pair_setPair (t : Troupe) (n : Nat) (m : Mask) (h : n + 1 < 64) : (t.setPair n m).pair n = m := by
  unfold Troupe.pair Troupe.setPair
  rw [Troupe.sreg_setS, Troupe.sreg_setS, Troupe.sreg_setS, if_neg (by omega), if_pos (by omega), if_pos (by omega)]
  unfold joinMask maskLo maskHi
  apply BitVec.eq_of_getLsbD_eq
  intro i hi
  rw [BitVec.getLsbD_append]
  by_cases h64 : i < 64
  · simp [h64]
  · have : i - 64 < 64 := by omega
    have e : 64 + (i - 64) = i := by omega
    simp [h64, this, e]

theorem Troupe.sreg_setPair (t : Troupe) (n k : Nat) (m : Mask) (h1 : k ≠ n) (h2 : k ≠ n + 1) :
    (t.setPair n m).sreg k = t.sreg k := by
  unfold Troupe.setPair
  rw [Troupe.sreg_setS, Troupe.sreg_setS, if_neg (by omega), if_neg (by omega)]

/-! ### Vector registers and predicates -/

theorem Troupe.vreg_setV (t : Troupe) (n k : Nat) (x : Lanes) :
    (t.setV n x).vreg k = if n = k ∧ n < 64 then x else t.vreg k := by
  unfold Troupe.vreg Troupe.setV
  grind

theorem Troupe.setV_frame (t : Troupe) (n : Nat) (x : Lanes) : t.setV n x = { t with v := (t.setV n x).v } := by
  unfold Troupe.setV; split <;> rfl

theorem Troupe.preg_setP (t : Troupe) (n k : Nat) (x : Mask) :
    (t.setP n x).preg k = if n = k ∧ n < 32 then x else t.preg k := by
  unfold Troupe.preg Troupe.setP
  grind

theorem Troupe.setP_frame (t : Troupe) (n : Nat) (x : Mask) : t.setP n x = { t with p := (t.setP n x).p } := by
  unfold Troupe.setP; split <;> rfl

/-! ### Flags -/

theorem Troupe.flag_setFlag (t : Troupe) (i k : Nat) (x : Bool) (h : i < 8) :
    (t.setFlag i x).flag k = if i = k then x else t.flag k := by
  unfold Troupe.setFlag Troupe.flag
  cases x
  · simp only [Bool.false_eq_true, if_false, BitVec.getLsbD_and, BitVec.getLsbD_not, BitVec.getLsbD_shiftLeft]
    by_cases hk : i = k
    · subst hk; simp [h]
    · by_cases h8 : k < 8
      · have : ¬ (k < i) → ¬ (k - i = 0) := by omega
        simp [hk, h8, BitVec.getLsbD_one]; omega
      · simp [hk, BitVec.getLsbD_of_ge _ _ (Nat.le_of_not_lt h8)]
  · simp only [if_true, BitVec.getLsbD_or, BitVec.getLsbD_shiftLeft]
    by_cases hk : i = k
    · subst hk; simp [h]
    · by_cases h8 : k < 8
      · simp [hk, h8, BitVec.getLsbD_one]; omega
      · simp [hk, h8]

/-! ### Sticky bits -/

/-- The exception bits of a lane after a gathering: those it had, and in the lanes of the mask those raised (R135). -/
theorem Sticky.gather_spec (k : Sticky) (m : Mask) (e : Nat → BitVec 5) (l : Nat) (hl : l < 128) :
    inMask (k.gather m e).inv l = (inMask k.inv l || (inMask m l && (e l).getLsbD 0)) ∧
    inMask (k.gather m e).dz l = (inMask k.dz l || (inMask m l && (e l).getLsbD 1)) ∧
    inMask (k.gather m e).ovf l = (inMask k.ovf l || (inMask m l && (e l).getLsbD 2)) ∧
    inMask (k.gather m e).unf l = (inMask k.unf l || (inMask m l && (e l).getLsbD 3)) ∧
    inMask (k.gather m e).nx l = (inMask k.nx l || (inMask m l && (e l).getLsbD 4)) := by
  simp [Sticky.gather, hl]

/-- A gathering of no exceptions changes nothing. -/
theorem Sticky.gather_zero (k : Sticky) (m : Mask) (e : Nat → BitVec 5) (h : ∀ l, l < 128 → inMask m l = true → e l = 0) :
    k.gather m e = k := by
  have z (i : Nat) : m &&& (maskOf fun l => (e l).getLsbD i) = 0 := by
    apply mask_ext
    intro l hl
    rw [inMask_and, inMask_maskOf]
    by_cases hm : inMask m l = true
    · rw [h l hl hm]; simp [inMask]
    · rw [Bool.eq_false_iff.2 hm]; simp [inMask]
  have o (x : Mask) : x ||| 0 = x := by simp
  simp only [Sticky.gather, z, o]

end Sys2Proof.Machine
end

