-- ==== Sys2Proof/Laws/Ops.lean ====
section
/-! SUPPORT. What each shared operation of the instructions does, said once: going on, ending a run, and the writes of
classes 0 and 1. -/

namespace Sys2Proof.Machine

open Sys2Proof.Claims

@[simp] theorem State.me_setMe (s : State) (t : Troupe) : (s.setMe t).me = t := by
  simp [State.me, State.setMe]

theorem State.troupe_setMe (s : State) (t : Troupe) (k : Nat) (h : k ≠ s.book.cur) :
    (s.setMe t).troupe k = s.troupe k := by
  simp only [State.troupe, State.setMe, Table.find_put]
  rw [if_neg (Ne.symm h)]

/-- Replacing the issuing troupe touches nothing else. -/
theorem State.setMe_only (s : State) (t : Troupe) : OnlyIssuer s (s.setMe t) := ⟨rfl, fun k h => s.troupe_setMe t k h⟩

theorem State.setMe_setMe (s : State) (t u : Troupe) : OnlyIssuer s ((s.setMe t).setMe u) :=
  ⟨rfl, fun k h => by rw [State.troupe_setMe _ _ _ (by simpa using h), State.troupe_setMe _ _ _ h]⟩

/-- Going on behind an instruction writes the program counter, and E = 1 then ends the run. -/
theorem State.advance_eq (s : State) (len : Nat) (e : Bool) :
    s.advance len e = ended e (s.setMe (behind s.me len)) := rfl

/-- An instruction that replaces the issuing troupe and goes on. -/
theorem State.done_spec (s : State) (u : Troupe) (len : Nat) (e : Bool) :
    ∃ t, s.done u len e = .next (ended e t) ∧ OnlyIssuer s t ∧ t.me = behind u len :=
  ⟨(s.setMe u).setMe (behind u len), by rw [State.done, State.advance_eq, State.me_setMe], s.setMe_setMe u _, by simp⟩

/-- An instruction with no effect but to go on. -/
theorem State.advance_spec (s : State) (len : Nat) (e : Bool) :
    ∃ t, s.advance len e = ended e t ∧ OnlyIssuer s t ∧ t.me = behind s.me len :=
  ⟨s.setMe (behind s.me len), rfl, s.setMe_only _, by simp⟩

/-- Writing a scalar (R108). -/
theorem State.scalar_spec (s : State) (d : Reg) (x : W64) (len : Nat) (e : Bool) :
    ∃ t, s.scalar d x len e = .next (ended e t) ∧ OnlyIssuer s t ∧ ScalarWritten s d.val len x t.me := by
  obtain ⟨t, h1, h2, h3⟩ := s.done_spec (s.me.setS d.val x) len e
  refine ⟨t, h1, h2, ?_⟩
  rw [h3]
  refine ⟨?_, ?_, fun r hr => ?_⟩
  · rw [Troupe.setS_frame]; rfl
  · show (s.me.setS d.val x).sreg d.val = x
    rw [Troupe.sreg_setS, if_pos ⟨rfl, d.isLt⟩]
  · show (s.me.setS d.val x).sreg r = _
    rw [Troupe.sreg_setS, if_neg (by omega)]

/-- Writing a pair of scalars (R111). -/
theorem State.pair_spec (s : State) (n : Nat) (m : Mask) (len : Nat) (e : Bool) (h : n + 1 < 64) :
    ∃ t, s.done (s.me.setPair n m) len e = .next (ended e t) ∧ OnlyIssuer s t ∧ PairWritten s n len m t.me := by
  obtain ⟨t, h1, h2, h3⟩ := s.done_spec (s.me.setPair n m) len e
  refine ⟨t, h1, h2, ?_⟩
  rw [h3]
  refine ⟨?_, s.me.pair_setPair n m h, fun r hr hr' => s.me.sreg_setPair n r m hr hr'⟩
  rw [Troupe.setPair_frame]; rfl

/-- Writing a flag (R110). -/
theorem State.compare_spec (s : State) (f : Fin 8) (x : Bool) (len : Nat) (e : Bool) :
    ∃ t, s.compare f x len e = .next (ended e t) ∧ OnlyIssuer s t ∧ FlagWritten s f.val len x t.me := by
  obtain ⟨t, h1, h2, h3⟩ := s.done_spec (s.me.setFlag f.val x) len e
  refine ⟨t, h1, h2, ?_⟩
  rw [h3]
  refine ⟨rfl, ?_, fun k hk hne => ?_⟩
  · show (s.me.setFlag f.val x).flag f.val = x
    rw [Troupe.flag_setFlag _ _ _ _ f.isLt, if_pos rfl]
  · show (s.me.setFlag f.val x).flag k = _
    rw [Troupe.flag_setFlag _ _ _ _ f.isLt, if_neg (Ne.symm hne)]

/-- The result list of the lanes, read at a lane. -/
theorem laneResults {α : Type} (m : Mask) (f : Nat → α) (z : α) (l : Nat) (hl : l < 128) :
    ((List.range 128).map fun l => if inMask m l then f l else z).getD l z = if inMask m l then f l else z := by
  rw [List.getD_eq_getElem?_getD, List.getElem?_map, List.getElem?_range hl]
  rfl

/-- A class 0 instruction that writes a vector register (R135, R139). -/
theorem State.lanes0_spec (s : State) (m : Mask) (d : Reg) (f : LaneFn) (len : Nat) (e : Bool) :
    ∃ t, s.lanes0 m d.val f len e = .next (ended e t) ∧ OnlyIssuer s t ∧
      VectorWritten s m d.val len (fun l => (f l).1) (fun l => (f l).2) t.me := by
  unfold State.lanes0
  dsimp only
  generalize hu : ({ s.me.setV d.val _ with sticky := _ } : Troupe) = u
  obtain ⟨t, h1, h2, h3⟩ := s.done_spec u len e
  refine ⟨t, h1, h2, ?_⟩
  rw [h3]
  subst hu
  refine ⟨?_, fun l hl => ?_, fun r hr => ?_, fun l hl => ?_⟩
  · rw [Troupe.setV_frame]; rfl
  · show ((s.me.setV d.val _).vreg d.val).lane l = _
    rw [Troupe.vreg_setV, if_pos ⟨rfl, d.isLt⟩, Lanes.lane_ofFn, if_pos hl, laneResults _ _ _ _ hl]
    split <;> simp_all
  · show (s.me.setV d.val _).vreg r = _
    rw [Troupe.vreg_setV, if_neg (by omega)]
  · have h := Sticky.gather_spec (s.me.setV d.val (Lanes.ofFn fun l => if inMask m l = true then
        (((List.range 128).map fun l => if inMask m l then f l else (0, 0)).getD l (0, 0)).1
        else (s.me.vreg d.val).lane l)).sticky m
      (fun l => (((List.range 128).map fun l => if inMask m l then f l else (0, 0)).getD l (0, 0)).2) l hl
    rw [laneResults _ _ _ _ hl] at h
    have hs : (s.me.setV d.val (Lanes.ofFn fun l => if inMask m l = true then
        (((List.range 128).map fun l => if inMask m l then f l else (0, 0)).getD l (0, 0)).1
        else (s.me.vreg d.val).lane l)).sticky = s.me.sticky := by rw [Troupe.setV_frame]
    rw [hs] at h
    by_cases hm : inMask m l = true
    · simpa only [hm, if_true, hs, behind] using h
    · simpa only [hm, if_false, hs, behind, Bool.false_eq_true, Bool.false_and, Bool.eq_false_iff.2 hm] using h

/-- A class 0 instruction that writes a predicate (R139, R146). -/
theorem State.preds0_spec (s : State) (m : Mask) (pd : Pred) (f : Nat → Bool × Exc) (len : Nat) (e : Bool) :
    ∃ t, s.preds0 m pd.val f len e = .next (ended e t) ∧ OnlyIssuer s t ∧
      PredWritten s m pd.val len (fun l => (f l).1) (fun l => (f l).2) t.me := by
  unfold State.preds0
  dsimp only
  generalize hu : ({ s.me.setP pd.val _ with sticky := _ } : Troupe) = u
  obtain ⟨t, h1, h2, h3⟩ := s.done_spec u len e
  refine ⟨t, h1, h2, ?_⟩
  rw [h3]
  subst hu
  refine ⟨?_, fun l hl => ?_, fun r hr => ?_, fun l hl => ?_⟩
  · rw [Troupe.setP_frame]; rfl
  · show inMask ((s.me.setP pd.val _).preg pd.val) l = _
    rw [Troupe.preg_setP, if_pos ⟨rfl, pd.isLt⟩, inMask_or, inMask_and, inMask_not, inMask_and, inMask_maskOf,
      laneResults _ _ _ _ hl]
    by_cases hm : inMask m l = true <;> simp [hm, hl]
  · show (s.me.setP pd.val _).preg r = _
    rw [Troupe.preg_setP, if_neg (by omega)]
  · have h := Sticky.gather_spec s.me.sticky m
      (fun l => (((List.range 128).map fun l => if inMask m l then f l else (false, 0)).getD l (false, 0)).2) l hl
    rw [laneResults _ _ _ _ hl] at h
    have hs (x : Mask) : (s.me.setP pd.val x).sticky = s.me.sticky := by rw [Troupe.setP_frame]
    by_cases hm : inMask m l = true
    · simpa only [hm, if_true, hs, behind] using h
    · simpa only [hm, if_false, hs, behind, Bool.false_eq_true, Bool.false_and, Bool.eq_false_iff.2 hm] using h

/-! ### The end of a run -/

theorem State.core_modCore (s : State) (k j : Nat) (f : Core → Core) :
    (s.modCore k f).core j = if k = j then f (s.core k) else s.core j := by
  simp [State.core, State.modCore]

theorem State.world_modWorld (s : State) (k j : Nat) (f : World → World) :
    (s.modWorld k f).world j = if k = j then f (s.world k) else s.world j := by
  simp [State.world, State.modWorld]

/-- Giving up an issue slot touches the cores alone. -/
theorem State.dropHold_frame (s : State) (c t : Nat) : s.dropHold c t = { s with cores := (s.dropHold c t).cores } := by
  unfold State.dropHold; dsimp only; split <;> rfl

/-- Giving up an issue slot changes nothing of a core but its issue slots. -/
theorem State.dropHold_core (s : State) (c t k : Nat) :
    { (s.dropHold c t).core k with islots := (s.core k).islots } = s.core k := by
  unfold State.dropHold; dsimp only
  split
  · rw [State.core_modCore]
    split
    · subst_vars; rfl
    · rfl
  · rfl

/-- A troupe that has given up its issue slot does not hold it. -/
theorem State.dropHold_free (s : State) (c t : Nat) :
    (((s.dropHold c t).core c).islots.get (t % 4) {}).holder ≠ some t := by
  unfold State.dropHold; dsimp only
  split
  · rw [State.core_modCore, if_pos rfl]; simp
  · assumption

/-- Counting an event touches the counters of its world and the events that fall due. -/
theorem State.countIn_frame (s : State) (w event core n i : Nat) :
    s.countIn w event core n i =
      { s with worlds := (s.countIn w event core n i).worlds, book := (s.countIn w event core n i).book } := by
  unfold State.countIn; dsimp only; split
  · split <;> rfl
  · rfl

theorem State.countIn_cur (s : State) (w event core n i : Nat) :
    (s.countIn w event core n i).book.cur = s.book.cur ∧ (s.countIn w event core n i).book.chain = s.book.chain := by
  unfold State.countIn; dsimp only; split
  · split <;> exact ⟨rfl, rfl⟩
  · exact ⟨rfl, rfl⟩

theorem State.countIn_world (s : State) (w event core n i k : Nat) :
    { (s.countIn w event core n i).world k with counters := (s.world k).counters } = s.world k := by
  unfold State.countIn; dsimp only; split
  · have h : { (s.modWorld w fun x => { x with counters := x.counters.put i (((s.world w).counter i).add core n) }).world k
        with counters := (s.world k).counters } = s.world k := by
      rw [State.world_modWorld]; split
      · subst_vars; rfl
      · rfl
    split <;> exact h
  · rfl

/-- Counting touches the counters of worlds and the events that fall due, and nothing else. -/
theorem State.count_frame (s : State) (w event core n : Nat) :
    s.count w event core n =
      { s with worlds := (s.count w event core n).worlds, book := (s.count w event core n).book } := by
  unfold State.count
  split
  · rfl
  · generalize List.range 8 = l
    induction l using List.reverseRecOn with
    | nil => rfl
    | append_singleton l i ih =>
      rw [List.foldl_append, List.foldl_cons, List.foldl_nil, State.countIn_frame, ih]

theorem State.count_cur (s : State) (w event core n : Nat) :
    (s.count w event core n).book.cur = s.book.cur ∧ (s.count w event core n).book.chain = s.book.chain := by
  unfold State.count
  split
  · exact ⟨rfl, rfl⟩
  · generalize List.range 8 = l
    induction l using List.reverseRecOn with
    | nil => exact ⟨rfl, rfl⟩
    | append_singleton l i ih =>
      rw [List.foldl_append, List.foldl_cons, List.foldl_nil, (State.countIn_cur _ _ _ _ _ _).1,
        (State.countIn_cur _ _ _ _ _ _).2]
      exact ih

theorem counters_trans {a b c : World} (h1 : { b with counters := a.counters } = a)
    (h2 : { c with counters := b.counters } = b) : { c with counters := a.counters } = a := by
  have h : { c with counters := a.counters } = { ({ c with counters := b.counters } : World) with counters := a.counters } :=
    rfl
  rw [h, h2, h1]

theorem State.count_world (s : State) (w event core n k : Nat) :
    { (s.count w event core n).world k with counters := (s.world k).counters } = s.world k := by
  unfold State.count
  split
  · rfl
  · generalize List.range 8 = l
    induction l using List.reverseRecOn with
    | nil => rfl
    | append_singleton l i ih =>
      rw [List.foldl_append, List.foldl_cons, List.foldl_nil]
      exact counters_trans ih (State.countIn_world _ _ _ _ _ _ _)

@[simp] theorem State.count_troupe (s : State) (w event core n k : Nat) :
    (s.count w event core n).troupe k = s.troupe k := by
  rw [State.count_frame]; rfl

@[simp] theorem State.count_me (s : State) (w event core n : Nat) : (s.count w event core n).me = s.me := by
  have h := (State.count_cur s w event core n).1
  rw [State.me, h, State.count_frame]; rfl

@[simp] theorem State.count_src (s : State) (w event core n : Nat) : (s.count w event core n).src = s.src := by
  have h := (State.count_cur s w event core n).2
  rw [State.src, h, State.count_me]; rfl

@[simp] theorem State.count_core (s : State) (w event core n k : Nat) :
    (s.count w event core n).core k = s.core k := by
  rw [State.count_frame]; rfl

@[simp] theorem State.count_mem (s : State) (w event core n : Nat) : (s.count w event core n).mem = s.mem := by
  rw [State.count_frame]

/-- A troupe that is ready at a time already does not change by becoming ready then. -/
theorem Troupe.readyFrom_self (t : Troupe) (woken : Bool) (now : Nat) (h : t.ctl.readyAt = now) : t.readyFrom woken now = t := by
  subst h
  unfold Troupe.readyFrom
  rw [Nat.max_self]
  split <;> rfl

/-- A troupe's registers, and all else of it that the end of a run leaves as it was. -/
theorem State.boundary_spec (s : State) (k : Nat) (m : Troupe) (h : s.troupe k = some m) :
    s.boundary k = { s with troupes := (s.boundary k).troupes, worlds := (s.boundary k).worlds
                            book := (s.boundary k).book } ∧
    (s.boundary k).book.cur = s.book.cur ∧
    (∀ j, j ≠ k → (s.boundary k).troupe j = s.troupe j) ∧
    (∀ w, { (s.boundary k).world w with counters := (s.world w).counters } = s.world w) ∧
    ∃ u, (s.boundary k).troupe k = some u ∧
      u = { m with exec := u.exec, pc := u.pc, sp := u.sp, handler := u.handler, wrap := u.wrap, ctl := u.ctl } ∧
      (m.ctl.divert = false → m.act.armed = false →
        u = { m with ctl := { m.ctl with readyAt := s.cycle, stalled := false } }) ∧
      (m.ctl.divert = true → m.wrap ≠ .launch → m.ctl.exited = false → m.ctl.stopped = false → m.ctl.halted = false →
        m.ctl.debug = false → u.exec = m.live ∧ u.pc = (s.launch m.launch).wrapEntry ∧ u.wrap = .launch ∧ u.sp.divpc = m.pc ∧
        u.sp.divcause = 1 ∧ u.sp.replay = 0 ∧ u.sp.timer = 0 ∧ u.handler = false) := by
  have put (x y : Troupe) (j : Nat) (hj : j ≠ k) :
      Table.find ((s.troupes.put k x).put k y) j = s.troupe j := by
    rw [Table.find_put, if_neg (Ne.symm hj), Table.find_put, if_neg (Ne.symm hj)]; rfl
  have put1 (x : Troupe) (j : Nat) (hj : j ≠ k) : Table.find (s.troupes.put k x) j = s.troupe j := by
    rw [Table.find_put, if_neg (Ne.symm hj)]; rfl
  unfold State.boundary
  rw [State.troupe] at h
  rw [h]
  dsimp only
  have divert (c : Nat) (P : Troupe → Prop) (x : Troupe)
      (hx : x = { m with ctl := { m.ctl with readyAt := s.cycle, stalled := false } })
      (hP : P (x.divertTo (s.launch m.launch).wrapEntry c)) :
      let z := ({ s with troupes := s.troupes.put k x } : State).divertNow k x c
      z = { s with troupes := z.troupes, worlds := z.worlds, book := z.book } ∧ z.book.cur = s.book.cur ∧
        (∀ j, j ≠ k → z.troupe j = s.troupe j) ∧
        (∀ w, { z.world w with counters := (s.world w).counters } = s.world w) ∧ ∃ u, z.troupe k = some u ∧ P u := by
    intro z
    have r (b : Bool) : (x.divertTo (s.launch x.launch).wrapEntry c).readyFrom b s.cycle =
        x.divertTo (s.launch x.launch).wrapEntry c := Troupe.readyFrom_self _ _ _ (by rw [hx]; rfl)
    have hz : z = State.count { s with troupes := (s.troupes.put k x).put k (x.divertTo (s.launch x.launch).wrapEntry c) }
        x.world 0x12 x.core 1 := by
      show State.count { s with troupes := Table.put _ k (Troupe.readyFrom (x.divertTo (s.launch x.launch).wrapEntry c) _ s.cycle) }
        x.world 0x12 x.core 1 = _
      rw [r]
    clear_value z
    subst hz
    refine ⟨?_, ?_, fun j hj => ?_, fun w => ?_, ⟨_, ?_, hP⟩⟩
    · have e (a : State) (w v c n : Nat) : (a.count w v c n).troupes = a.troupes := by rw [State.count_frame]
      show State.count _ _ _ _ _ = { s with troupes := (State.count _ _ _ _ _).troupes, worlds := _, book := _ }
      rw [e]
      exact State.count_frame _ _ _ _ _
    · show (State.count _ _ _ _ _).book.cur = _
      rw [(State.count_cur _ _ _ _ _).1]
    · show (State.count _ _ _ _ _).troupe j = _
      rw [State.count_troupe]; exact put _ _ j hj
    · have h := State.count_world
        ({ s with troupes := (s.troupes.put k x).put k (x.divertTo (s.launch x.launch).wrapEntry c) } : State)
        x.world 0x12 x.core 1 w
      exact h
    · show (State.count _ _ _ _ _).troupe k = _
      rw [State.count_troupe]
      show Table.find (Table.put _ k _) k = _
      rw [Table.find_put, if_pos rfl, hx]
  split
  · refine ⟨rfl, rfl, put1 _, fun w => rfl, ⟨_, by rw [State.troupe, Table.find_put, if_pos rfl], rfl, fun _ _ => rfl, ?_⟩⟩
    intro h1 h2 h3 h4 h5 h6
    simp_all
  · split
    · refine divert 1 _ _ rfl ⟨rfl, fun h1 => ?_, fun _ _ _ _ _ _ => ⟨rfl, rfl, rfl, rfl, rfl, rfl, rfl, rfl⟩⟩
      simp_all
    · split
      · refine divert 2 _ _ rfl ⟨rfl, fun h1 h2 => ?_, fun h1 h2 _ _ _ _ => ?_⟩ <;> simp_all
      · split
        · refine ⟨rfl, rfl, put1 _, fun w => rfl,
            ⟨_, by rw [State.troupe, State.raiseEvent_troupes, Table.find_put, if_pos rfl], rfl, fun _ _ => rfl, ?_⟩⟩
          intro h1 h2 h3 h4 h5 h6
          simp_all
        · refine ⟨rfl, rfl, put1 _, fun w => rfl, ⟨_, by rw [State.troupe, Table.find_put, if_pos rfl], rfl, fun _ _ => rfl, ?_⟩⟩
          intro h1 h2 h3 h4 h5 h6
          simp_all

/-- Looking whether a troupe may retire lets at most an event fall due. -/
theorem State.tryRetire_frame (s : State) (k : Nat) :
    s.tryRetire k = { s with book := (s.tryRetire k).book } ∧ (s.tryRetire k).book.cur = s.book.cur ∧
      (s.tryRetire k).book.agenda = s.book.agenda := by
  unfold State.tryRetire
  split
  · exact ⟨rfl, rfl, rfl⟩
  · split <;> exact ⟨rfl, rfl, rfl⟩

end Sys2Proof.Machine
end

