-- ==== Sys2Proof/Laws/Memory.lean ====
section
/-! SUPPORT. What the shared operations of class 2 do: translation of an access, its issue, and the scratchpad. -/

namespace Sys2Proof.Machine

open Sys2Proof.Claims

/-! ### The translations used -/

/-- What a use of a translation leaves: the state up to most recent use, counters and bookkeeping. -/
def Touched (s t : State) : Prop :=
  OnlyTranslations s t ∧ t.troupes = s.troupes ∧ t.book.cur = s.book.cur ∧ t.book.chain = s.book.chain ∧
    t.book.lanes = s.book.lanes

theorem Touched.refl (s : State) : Touched s s := ⟨⟨rfl, fun _ _ => rfl, fun _ => rfl, fun _ => rfl⟩, rfl, rfl, rfl, rfl⟩

theorem utlb_trans {a b c : Core} (h1 : { b with utlb := a.utlb } = a) (h2 : { c with utlb := b.utlb } = b) :
    { c with utlb := a.utlb } = a := by
  have h : { c with utlb := a.utlb } = { ({ c with utlb := b.utlb } : Core) with utlb := a.utlb } := rfl
  rw [h, h2, h1]

theorem Touched.trans {a b c : State} (h1 : Touched a b) (h2 : Touched b c) : Touched a c := by
  obtain ⟨⟨e1, t1, u1, w1⟩, p1, q1, r1, l1⟩ := h1
  obtain ⟨⟨e2, t2, u2, w2⟩, p2, q2, r2, l2⟩ := h2
  refine ⟨⟨?_, fun k hk => ?_, fun k => utlb_trans (u1 k) (u2 k), fun k => counters_trans (w1 k) (w2 k)⟩, p2.trans p1,
    q2.trans q1, r2.trans r1, l2.trans l1⟩
  · have h : { c with troupes := a.troupes, cores := a.cores, worlds := a.worlds, book := a.book } =
        { ({ c with troupes := b.troupes, cores := b.cores, worlds := b.worlds, book := b.book } : State) with
          troupes := a.troupes, cores := a.cores, worlds := a.worlds, book := a.book } := rfl
    rw [h, e2, e1]
  · rw [t2 k (by rw [q1]; exact hk), t1 k hk]

theorem Touched.me {s t : State} (h : Touched s t) : t.me = s.me := by
  obtain ⟨-, h1, h2, -⟩ := h
  rw [State.me, State.me, h1, h2]

theorem Touched.src {s t : State} (h : Touched s t) : t.src = s.src := by
  rw [State.src, State.src, h.me, h.2.2.2.1]

theorem State.count_touched (s : State) (w event core n : Nat) : Touched s (s.count w event core n) := by
  have hl : (s.count w event core n).book.lanes = s.book.lanes := by
    unfold State.count
    split
    · rfl
    · generalize List.range 8 = l
      induction l using List.reverseRecOn with
      | nil => rfl
      | append_singleton l i ih =>
        rw [List.foldl_append, List.foldl_cons, List.foldl_nil]
        rw [← ih]
        unfold State.countIn
        dsimp only
        split
        · split <;> rfl
        · rfl
  refine ⟨⟨?_, fun k _ => State.count_troupe _ _ _ _ _ _, fun k => ?_, fun k => State.count_world _ _ _ _ _ _⟩, ?_,
    (State.count_cur _ _ _ _ _).1, (State.count_cur _ _ _ _ _).2, hl⟩
  · rw [State.count_frame]
  · rw [State.count_core]
  · rw [State.count_frame]

theorem State.touchUtlb_touched (s : State) (core w : Nat) (sw : Nat × Nat) : Touched s (s.touchUtlb core w sw) := by
  have h (s : State) (f : List (Nat × Nat) → List (Nat × Nat)) :
      Touched s (s.modCore core fun c => { c with utlb := f c.utlb }) := by
    refine ⟨⟨rfl, fun _ _ => rfl, fun k => ?_, fun _ => rfl⟩, rfl, rfl, rfl, rfl⟩
    rw [State.core_modCore]
    split
    · subst_vars; rfl
    · rfl
  unfold State.touchUtlb
  dsimp only
  split
  · exact h s fun l => (sw :: l.filter (· != sw)).take 128
  · exact (State.count_touched _ _ _ _ _).trans (h _ fun l => (sw :: l.filter (· != sw)).take 128)

theorem State.touchAll_touched (s : State) (t : Troupe) (ok : List LaneOp) : Touched s (s.touchAll t ok) := by
  unfold State.touchAll
  generalize nub _ = l
  induction l using List.reverseRecOn with
  | nil => exact .refl s
  | append_singleton l k ih =>
    rw [List.foldl_append, List.foldl_cons, List.foldl_nil]
    exact ih.trans (State.touchUtlb_touched _ _ _ _)

/-- Lanes that pass their checks and lie in no peer window put no question to a peer. -/
theorem farLanes_nil {outs : List (Nat × W64 × LaneOut)} {ok : List LaneOp} {missed : List (Nat × W64)}
    (h : gatherLanes outs = .go ok missed) (hp : ∀ o ∈ ok, o.atPeer = false) : farLanes outs = [] := by
  unfold gatherLanes at h
  dsimp only at h
  split at h
  · cases h
  · injection h with h _
    subst h
    unfold farLanes
    split
    · rfl
    · rw [List.filterMap_eq_nil_iff]
      rintro ⟨l, va, o⟩ ho
      cases o with
      | ok pa na =>
        have := hp { lane := l, va := va.toNat, pa := pa, na := na } (List.mem_filterMap.2 ⟨_, ho, rfl⟩)
        simp only [LaneOp.atPeer] at this ⊢
        simp [this]
      | _ => rfl

/-- An access whose lanes pass their checks without a miss, and need no peer, comes to its gate with all of them, and
behind it their translations count as used. -/
theorem State.access_gated (s : State) (n : Need) (scalar : Bool) (lanes : List (Nat × W64)) (fill : LaneOp → LaneOp)
    (gate : List LaneOp → (State → Res) → State → Res) (issue : List LaneOp → State → Res)
    (split : List LaneOp → State → State) (ok : List LaneOp) (h : Translated s n lanes ok) :
    s.access n scalar lanes fill gate issue split =
      gate (ok.map fill) (fun u => issue (ok.map fill) (u.touchAll s.src (ok.map fill))) s := by
  obtain ⟨h1, h2, h3⟩ := h
  have h4 : farLanes (s.laneOuts s.src n lanes) = [] := farLanes_nil h1 h3
  unfold State.access State.admitPeers
  unfold State.checkLanes at h1
  simp [h4, h1, h2]

/-- An access whose lanes pass their checks without a miss, and need no peer, goes on with all of them, and their
translations count as used. -/
theorem State.access_translated (s : State) (n : Need) (scalar : Bool) (lanes : List (Nat × W64))
    (fill : LaneOp → LaneOp) (issue : List LaneOp → State → Res) (split : List LaneOp → State → State)
    (ok : List LaneOp) (h : Translated s n lanes ok) :
    s.access n scalar lanes fill openGate issue split = issue (ok.map fill) (s.touchAll s.src (ok.map fill)) := by
  rw [State.access_gated s n scalar lanes fill openGate issue split ok h]
  rfl

end Sys2Proof.Machine
end

