-- ==== Sys2Proof/Safety.lean ====
section
/-! DEFINITION. What a safe run is, in the terms that statements use. -/

namespace Sys2Proof.Safety

open Sys2Proof.Machine

/-- A step goes on: neither a fault nor a refusal. -/
def Goes (s : State) : Prop := ∃ s', step s = .next s'

/-- k steps go on. -/
def GoesFor : Nat → State → Prop
  | 0, _ => True
  | k + 1, s => ∃ s', step s = .next s' ∧ GoesFor k s'

end Sys2Proof.Safety
end

