-- ==== Sys2Proof/Tests/Slice0.lean ====
section
/-! SUPPORT. The tests: for every statement of Claims with hypotheses a concrete state that meets them (witness_…), for
every check of WellFormed an ill-formed term, words of the manual decoded, and single steps whose results stand in the
manual (test_…). Everything here is closed by evaluation in the kernel. -/

open Sys2Proof Sys2Proof.Machine Sys2Proof.Claims
namespace Sys2Proof.Tests

set_option Elab.async false

/-! ## States for the tests -/

/-- World 1's troupe at its first instruction, on core 0, alone. -/
def bench (f : Troupe → Troupe) : State :=
  let s := State.reset.withFetchWord 32 0
  s.setMe (f s.me)

/-- Set a scalar register of a troupe. -/
def sr (n x : Nat) (t : Troupe) : Troupe := t.setS n (BitVec.ofNat 64 x)

/-- No lane is active. -/
def idle (t : Troupe) : Troupe := { t with exec := 0 }

/-- The troupe issues for its world's runtime launch. -/
def asRuntime (s : State) : State := s.modWorld 1 fun w => { w with runtime := some 0 }

theorem witness_FloatArithmetic : (Fp.nan true).isNan = true ∧ ((Fp.nan false).isNan || (Fp.nan true).isNan) = true := by
  decide +kernel

theorem witness_MovesShufflesReductions : (bench id).effective .always ≠ 0 ∧ (bench idle).effective .always = 0 ∧
    ∃ x k rest, tree (fun x y => minMax true x y) 7
      ((List.range 128).map fun l => if inMask ((bench id).effective .always) l then some (vsrc (bench id).src 0 l) else none) 0 =
        (some x :: rest, k) := ⟨by decide +kernel, by decide +kernel, _, _, _, rfl⟩

theorem witness_FlagsAndPredicates : (bench id).effective (.neg 0) ≠ 0 ∧ (bench id).effective (.pos 0) = 0 := by
  decide +kernel

theorem witness_SpecialRegisters : (62 : Reg).val % 2 = 0 := by decide

theorem witness_TimeAndRetirement :
    (bench fun t => { t with live := 3, exec := 1 }).src.live &&& ~~~ (bench fun t => { t with live := 3, exec := 1 }).src.exec ≠ 0 ∧
    (bench id).src.live &&& ~~~ (bench id).src.exec = 0 ∧ (bench id).src.newExceptions = 0 := by decide +kernel

theorem witness_RunEnd :
    (let s := bench id
     s.book.cur = 0 ∧ s.troupe 0 = some s.me ∧ s.me.ctl.divert = false ∧ s.me.act.armed = false) ∧
    (let s := bench fun t => { t with ctl := { t.ctl with divert := true } }
     s.book.cur = 0 ∧ s.troupe 0 = some s.me ∧ s.me.ctl.divert = true ∧ s.me.wrap ≠ .launch ∧ s.me.ctl.exited = false ∧
       s.me.ctl.stopped = false ∧ s.me.ctl.halted = false ∧ s.me.ctl.debug = false) := by decide +kernel

/-- The troupe with ensemble 4095 of its world, which has the members given. -/
def withEnsemble (ms : List Nat) (f : Troupe → Troupe) : State :=
  (bench f).modEns 4095 fun _ => { owner := 1, allocated := true, members := ms }

theorem witness_EnsembleInstructions_new :
    let s := { bench id with ens := [(7, { owner := 1 })] }
    7 < 4096 ∧ (s.ensemble 7).owner = s.me.world ∧ (s.ensemble 7).allocated = false ∧
      ∀ k, k < 7 → (s.ensemble k).owner = s.me.world → (s.ensemble k).allocated = true := by decide +kernel

theorem witness_EnsembleInstructions :
    (let s := withEnsemble [] (sr 1 4095)
     s.src.sreg 1 = BitVec.ofNat 64 4095 ∧ (s.ensemble 4095).owner = s.src.world ∧ (s.ensemble 4095).allocated = true ∧
       4095 ∉ s.me.ctl.ens ∧ (s.ensemble 4095).members.length < 4095 ∧ s.me.ctl.ens.length < 8) ∧
    (let s := withEnsemble [1] fun t => sr 1 4095 { t with ctl := { t.ctl with ens := [4095] } }
     s.src.sreg 1 = BitVec.ofNat 64 4095 ∧ (s.ensemble 4095).owner = s.src.world ∧ (s.ensemble 4095).allocated = true ∧
       4095 ∈ s.me.ctl.ens) ∧
    (let s := withEnsemble [] (sr 1 4095)
     s.src.sreg 1 = BitVec.ofNat 64 4095 ∧ (s.ensemble 4095).owner = s.src.world ∧ (s.ensemble 4095).allocated = true ∧
       (s.ensemble 4095).members = []) := by decide +kernel

/-- The address operands of the tests: s[8] and an offset, without an index. -/
def at8 (off : BitVec 24) : MAddr := ⟨63, 0, 8, off⟩

/-- Lane 0 at an address in the code page, which reads and writes. -/
def lane0 (off : Nat) : LaneOp := { lane := 0, va := 0x10000 + off, pa := off }

theorem witness_GlobalAccessesIssue :
    (let s := bench (sr 8 0x10000)
     s.memLanes .always ≠ [] ∧ Translated s { bytes := 16, r := true, access := 1 }
       ((s.memLanes .always).map fun l => (l, laneAddr s.src (at8 0xFF0) l)) [lane0 0xFF0] ∧
     Translated s { bytes := 16, w := true, access := 2 }
       ((s.memLanes .always).map fun l => (l, laneAddr s.src (at8 0xFF0) l)) [lane0 0xFF0] ∧
     Translated s { bytes := 1, r := true, access := 1 }
       ((s.memLanes .always).map fun l => (l, laneAddr s.src (at8 0xFFF) l)) [lane0 0xFFF] ∧
     Translated s { bytes := 8, r := true, access := 1 } [(0, scalarAddr s.src ⟨8, 0xFF8⟩)] [lane0 0xFF8] ∧
     Translated s { bytes := 8, w := true, access := 2 } [(0, scalarAddr s.src ⟨8, 0xFF8⟩)] [lane0 0xFF8]) ∧
    (bench idle).memLanes .always = [] := by
  unfold Translated; decide +kernel

/-- The core's scratchpad, its last plot bound to the world. -/
def withPlot (f : Troupe → Troupe) : State := (bench f).modCore 0 fun c => { c with plotOwner := [(0, 1), (127, 1)] }

theorem witness_ScratchpadAccesses :
    (let s := withPlot (sr 8 0x1FC000)
     s.memLanes .always ≠ [] ∧ s.src.busyOps = false ∧ (s.core s.src.core).spad.wf = true ∧
     s.checkSpad s.src 16 ((s.memLanes .always).map fun l => (l, laneAddr s.src (at8 0x3FF0) l)) =
       .go [{ lane := 0, va := 0x1FFFF0, pa := 0x1FFFF0 }] [] ∧
     s.checkSpad s.src 8 [(0, scalarAddr s.src ⟨8, 0x3FF8⟩)] = .go [{ lane := 0, va := 0x1FFFF8, pa := 0x1FFFF8 }] []) ∧
    (bench idle).memLanes .always = [] := by decide +kernel

/-- The world's reduction and atomic quota in every cluster. -/
def withQuota (f : Troupe → Troupe) : State :=
  (bench f).modWorld 1 fun w => { w with limits := { w.limits with reqQuota := (List.range 24).map fun c => (c, 256) } }

theorem witness_AtomicsIssue :
    let s := withQuota (sr 8 0x10000)
    let ok := [lane0 0xFF8]
    let y : AArgs := ⟨2, 63, 4, 8, 0, .cas, true, 0xFF8⟩
    let z : AArgs := { y with d := 63, aop := .add }
    s.memLanes .always ≠ [] ∧ s.fenceChanging = false ∧ s.src.ops = [] ∧ s.hostPending s.src = false ∧
    s.hostAnswers s.src = [] ∧ (bench idle).memLanes .always = [] ∧
    Translated s { bytes := 8, r := true, w := true, moduleOnly := true, noHost := !hostOp .cas, watchR := true, access := 3 }
      ((s.memLanes .always).map fun l => (l, atomicAddr s.src y l)) ok ∧
    Translated s { bytes := 8, r := true, w := true, moduleOnly := false, noHost := !hostOp .cas, watchR := true, access := 3 }
      ((s.memLanes .always).map fun l => (l, atomicAddr s.src y l)) ok ∧
    Translated s { bytes := 8, r := true, w := true, moduleOnly := false, noHost := false, watchR := false, access := 3 }
      ((s.memLanes .always).map fun l => (l, atomicAddr s.src z l)) ok ∧ z.d.val = 63 ∧
    (∀ o ∈ ok, inModule o.pa = true) ∧
    s.overQuota s.src.world (s.splitRequests (clusterOf s.src.core) (ok.map (atomicData s.src y))) = false ∧
    s.requestsFit s.src.world (s.splitRequests (clusterOf s.src.core) (ok.map (atomicData s.src y))) = true ∧
    s.overQuota s.src.world (s.splitRequests (clusterOf s.src.core) (ok.map (atomicData s.src z))) = false ∧
    s.requestsFit s.src.world (s.splitRequests (clusterOf s.src.core) (ok.map (atomicData s.src z))) = true := by
  unfold Translated; decide +kernel

theorem witness_Barriers :
    (let s := withPlot fun t => sr 2 0x10 (sr 1 0x1FFFF0 t)
     BarReady s 1 ∧ 1 ≤ fld (sval (.lit 0x1000FFF) s.src) 11 0 ∧ (sval (.lit 0x1000FFF) s.src &&& ~~~ (0x1000FFF : W64)) = 0 ∧
     1 ≤ (sval (.lit 4095) s.src).toNat ∧ (sval (.lit 4095) s.src).toNat ≤ 4095 ∧ s.redIds s.src = [] ∧
     -(2 ^ 27) ≤ (sval (.lit 0xF8000000) s.src).toInt ∧ (sval (.lit 0xF8000000) s.src).toInt < 2 ^ 27 ∧
     s.barCause s.src (s.src.sreg 1) = none ∧ s.src.busyOps = false ∧ s.src.newExceptions = 0 ∧ s.me.ctl.divert = false ∧
     s.me.act.armed = false ∧ s.book.cur = s.me.key ∧ s.me.tslot < 32 ∧ s.waiters s.me.core (s.src.sreg 1).toNat = [] ∧
     ((s.core s.me.core).bar (s.src.sreg 1).toNat).error = false ∧
     ((s.core s.me.core).bar (s.src.sreg 1).toNat).passed ((sval (.lit 0xFFFFFFFF) s.src).setWidth 32) = true ∧
     ((s.core s.me.core).bar (s.src.sreg 1).toNat).passed ((sval (.lit 0) s.src).setWidth 32) = false) ∧
    (withPlot fun t => sr 1 0x1FFFF0 { t with ops := [{ id := 5, kind := .store 4 }] }).src.busyOps = true ∧
    (withPlot (sr 1 0x1FFFF0)).redIds (withPlot (sr 1 0x1FFFF0)).src = [] ∧
    (let b : Bar := { expected := 4095, arrived := 4094, pending := 0, phase := 0xFFFFFFFF, error := false, lastErr := 0, external := false }
     b.error = false ∧ b.arrived + 1 = b.expected ∧ b.pending = 0 ∧ b.arrived + 0 < b.expected ∧ b.expected < b.arrived + 2 ∧
     b.expected < 4096 ∧ b.arrived < 4096 ∧ -(2 ^ 27) ≤ b.pending ∧ b.pending < 2 ^ 27 ∧ b.lastErr < 256) := by
  unfold BarReady; decide +kernel

/-- A slot of the Procession that the world holds, boarded. -/
def withSlot (f : Troupe → Troupe) : State := { bench f with ringTab := [(767, { owner := 1, boarded := true })] }

theorem witness_RingAndExchangeIssue :
    (let s := withSlot (sr 3 767)
     s.holdsSlot s.src.world = true ∧ (s.core s.me.core).stopQ.length < 16 ∧ (s.src.sreg 3).toNat ≤ 767 ∧
     (s.ringTag (s.src.sreg 3).toNat).owner = s.src.world ∧ (s.ringTag (s.src.sreg 3).toNat).poisoned = false ∧
     (s.ringTag (s.src.sreg 3).toNat).boarded = true ∧ s.mayEnter s.src 2 = true ∧
     (s.modCore 0 fun c => { c with taken := [(2, s.cycle)] }).mayEnter s.src 2 = false) ∧
    (let s := ((bench (sr 8 (191 * 2 ^ 21 + 63 * 32768))).modCore 191 fun c =>
       { c with plotOwner := [(126, 1)], xtab := [(63, { ens := 5 })] }).modEns 5 fun _ => { owner := 1, allocated := true }
     s.memLanes .always ≠ [] ∧
     ∀ l ∈ s.memLanes .always, (laneAddr s.src (at8 0x3FF0) l).toNat < 2 ^ 29 ∧
       (xTarget (laneAddr s.src (at8 0x3FF0) l).toNat).1 < 192 ∧ (laneAddr s.src (at8 0x3FF0) l).toNat % 16 = 0 ∧
       ∃ x, s.xPair s.src.world (laneAddr s.src (at8 0x3FF0) l).toNat = some x ∧ s.xPhase s.src.uid x.ens = none) ∧
    (let s := (withPlot fun t => sr 1 5 (sr 2 0x1FC000 t)).modEns 5 fun _ => { owner := 1, allocated := true, members := [1] }
     s.ensOk s.src (s.src.sreg 1) = true ∧ s.barCause s.src (sval (.reg 2) s.src) = none ∧ s.me.busyOps = false ∧ s.redIds s.me = [] ∧
     (s.ensemble (s.src.sreg 1).toNat).allocated = true ∧ s.me.uid ∈ (s.ensemble (s.src.sreg 1).toNat).members ∧
     (s.ensemble (s.src.sreg 1).toNat).pending = [] ∧ (∀ x ∈ (s.ensemble (s.src.sreg 1).toNat).arrived, x.1 ≠ s.me.uid) ∧
     (∀ h ∈ s.held, h.uid ≠ s.me.uid) ∧ (s.core s.me.core).spad.wf = true ∧
     (∀ c ∈ s.copies, c.uid = s.me.uid → c.toExchange = false) ∧
     (s.core s.me.core).spadBad.contains ((s.core s.me.core).phys (sval (.reg 2) s.src).toNat / 16) = false) := by
  refine ⟨by decide +kernel, ⟨by decide +kernel, ?_⟩, by decide +kernel⟩
  intro l h
  have : l = 0 := by revert l; decide +kernel
  subst this
  exact ⟨by decide +kernel, by decide +kernel, by decide +kernel, _, rfl, rfl⟩

/-- A layout record: eight elements of four bytes in the core's scratchpad. -/
def tinyRec (base : Nat) : List Nat :=
  [base, 49, 0, 8 + 2 ^ 32, 1 + 2 ^ 32, 0, 0, 0, 0, 0, 8 + 2 ^ 16 + 2 ^ 32 + 2 ^ 48, 0]

/-- The troupe with two records, at s[16] and s[32]. -/
def withRecs (t : Troupe) : Troupe :=
  (t.setSs 16 ((tinyRec 0x1FFFE0).map w64)).setSs 32 ((tinyRec 0x1FC000).map w64)

theorem witness_CopyIssue :
    let s := withPlot withRecs
    let x : CArgs := ⟨4, 8, 63, 0, false, false, .core, none⟩
    s.copyChecks s.src x false = none ∧ s.copyChecks s.src x true = none ∧ s.src.busyOps = false ∧
    (s.copies.filter fun c => c.core == s.src.core && c.queue.isNone).length < 16 ∧ s.mayEnter s.src 1 = true ∧
    (s.modCore 0 fun c => { c with taken := [(1, s.cycle)] }).mayEnter s.src 1 = false := by decide +kernel

/-- A line of L2. -/
def clean : L2Line :=
  { world := 1, dirty := false, back := [], code := 0, way := none, wts := 0, rts := 0, pinned := none, used := 0 }

/-- The first line of memory is in L2; the world has pins and data ways there. -/
def withLine (pins ways : Nat) (l : L2Line) : State :=
  let s := (bench (sr 8 0x10000)).modSlice (sliceOf 0) fun x => { x with lines := [(0, l)] }
  s.modWorld 1 fun w => { w with limits := { w.limits with pinQuota := [(sliceOf 0, pins)], dways := [(sliceOf 0, ways)] } }

/-- Mailbox 1023, of world 1, with n entries. -/
def withMail (n : Nat) (f : Troupe → Troupe) : State :=
  (bench f).modMailbox 1023 fun _ => { owner := 1, entries := List.replicate n [1, 2, 3, 4, 5, 6, 7, 8] }

theorem witness_LinesFencesMailboxes_pin :
    (let s := withLine 1 1 clean
     s.src.busyOps = false ∧ s.checkLanes s.src { bytes := 1, r := true, access := 1 } [(0, scalarAddr s.src ⟨8, 0x7F⟩)] =
       .go [lane0 0x7F] [] ∧ (lane0 0x7F).atPeer = false ∧ inModule 0x7F = true ∧ (s.slice (sliceOf 0)).lines.find (lineNo 0x7F) = some clean ∧
     clean.pinned = none ∧ (s.slice (sliceOf 0)).pinsOf s.me.world < (s.world s.me.world).limits.pinQuota.get (sliceOf 0) 0 ∧
     (s.world s.me.world).limits.dways.get (sliceOf 0) 0 ≠ 0 ∧
     freeWayLeft ((s.slice (sliceOf 0)).inSet (setOf (lineNo 0x7F))) ((s.world s.me.world).limits.dways.get (sliceOf 0) 0)
       (clean.way.map (· / 2)) = true) ∧
    (let s := withLine 0 1 clean
     (s.world s.me.world).limits.pinQuota.get (sliceOf 0) 0 ≤ (s.slice (sliceOf 0)).pinsOf s.me.world) ∧
    (let s := withLine 1 0 clean
     (s.slice (sliceOf 0)).pinsOf s.me.world < (s.world s.me.world).limits.pinQuota.get (sliceOf 0) 0 ∧
     (s.world s.me.world).limits.dways.get (sliceOf 0) 0 = 0) ∧
    { clean with pinned := some 2 }.pinned.isSome = true ∧
    -- outside the module: a page at the host
    (let s := (bench (sr 8 0x10000)).modCluster 0 fun c =>
       { c with tlb := [(16 * tlbSet 0x10000 0 1, (w64 (1 + 0x10000), w64 (0x400000000000 + 2 ^ 6 + 7)))] }
     s.src.busyOps = false ∧ ∃ o, s.checkLanes s.src { bytes := 1, r := true, access := 1 } [(0, scalarAddr s.src ⟨8, 0⟩)] =
       .go [o] [] ∧ o.atPeer = false ∧ inModule o.pa = false) := by
  refine ⟨by decide +kernel, by decide +kernel, by decide +kernel, by decide +kernel, by decide +kernel, _, rfl, by decide +kernel,
    by decide +kernel⟩

theorem witness_LinesFencesMailboxes :
    (bench id).covered (bench id).src .system = false ∧
    (let s := withMail 63 fun t => sr 2 0x1FC000 (sr 1 1023 t)
     mbxAddr (s.src.sreg 1) = some (1023, none) ∧ (s.mailbox 1023).owner = s.src.world ∧
     s.src.busyOps = false ∧ s.redIds s.src = [] ∧ (s.mailbox 1023).arming = none ∧ (s.mailbox 1023).entries.length < 64) ∧
    (withMail 63 fun t => { t with ops := [{ id := 5, kind := .store 4 }] }).src.busyOps = true ∧
    64 ≤ ((withMail 64 id).mailbox 1023).entries.length ∧
    (let s := bench (sr 1 (1 + 15 * 2 ^ 16 + 2 ^ 20))
     ∃ m p, mbxAddr (s.src.sreg 1) = some (m, some p) ∧ s.reaches s.src.world p = false) ∧
    (let s := { bench (sr 1 (1 + 15 * 2 ^ 16 + 2 ^ 20)) with lanes := [(511, { owner := 1 })], mgmt := { config := [(115, 16)] } }
     ∃ m p, mbxAddr (s.src.sreg 1) = some (m, some p) ∧ s.reaches s.src.world p = true ∧ s.src.busyOps = false ∧
       s.redIds s.src = []) ∧
    (let s := withMail 1 (sr 1 1023)
     mbxAddr (s.src.sreg 1) = some (1023, none) ∧ (s.mailbox 1023).owner = s.src.world ∧ (63 : Reg).val = 63 ∧
     s.src.busyOps = false ∧ (s.mailbox 1023).entries = (1 :: [2, 3, 4, 5, 6, 7, 8]) :: []) ∧
    ((withMail 0 id).mailbox 1023).entries = [] ∧
    (let s := bench fun t => { t with done := 4, sp := { t.sp with batch := 5 } }
     batchClosed s.src.sp.batch 6 = false ∧ batchClosed s.src.sp.batch 4 = true ∧ batchDone s.src.done 4 = true ∧
     batchClosed s.src.sp.batch 5 = true ∧ batchDone s.src.done 5 = false ∧ s.me.ctl.divert = false ∧ s.me.act.armed = false) := by
  refine ⟨by decide +kernel, by decide +kernel, by decide +kernel, by decide +kernel, ⟨_, _, rfl, by decide +kernel⟩,
    ⟨_, _, rfl, by decide +kernel, by decide +kernel⟩, by decide +kernel, by decide +kernel, by decide +kernel⟩

/-- Core 0 with its last slot and accumulator bound to the world; claimed or not. -/
def withSlots (claimed : Bool) (f : Troupe → Troupe) : State :=
  (bench f).modCore 0 fun c => { c with
    oslotOwner := [(0, 1), (63, 1)], accOwner := [(3, 1)]
    oClaimed := if claimed then [0, 63] else [], aClaimed := if claimed then [3] else [] }

theorem witness_ClaimsAndReleases :
    (let c := (withSlots false id).core 0
     c.oslotOwner.get 0 0 = (withSlots false id).src.world ∧ 0 ∉ c.oClaimed ∧
     c.accOwner.get 3 0 = (withSlots false id).src.world ∧ 3 ∉ c.aClaimed ∧
     (∀ j, j < 3 → c.accOwner.get j 0 = (withSlots false id).src.world → j ∈ c.aClaimed)) ∧
    (let c := (withSlots true id).core 0
     (∀ j, j < 64 → c.oslotOwner.get j 0 = (withSlots true id).src.world → j ∈ c.oClaimed) ∧
     (∀ j, j < 4 → c.accOwner.get j 0 = (withSlots true id).src.world → j ∈ c.aClaimed)) ∧
    (let s := withSlots true fun t => sr 2 3 (sr 1 63 t)
     let c := s.core s.src.core
     s.src.sreg 1 = BitVec.ofNat 64 63 ∧ c.oslotOwner.get 63 0 = s.src.world ∧
     (∀ m ∈ c.mxUses, m.swap = true ∨ (m.aslot ≠ 63 ∧ m.bslot ≠ 63)) ∧ 63 ∈ c.oClaimed ∧
     s.src.sreg 2 = BitVec.ofNat 64 3 ∧ c.accOwner.get 3 0 = s.src.world ∧ (∀ m ∈ c.mxUses, m.acc ≠ 3) ∧
     c.visBusy.find 3 = none ∧ 3 ∈ c.aClaimed) := by decide +kernel

theorem witness_OperandSlots :
    (let s := withSlots false (sr 1 63)
     s.src.sreg 1 = BitVec.ofNat 64 63 ∧ (s.core s.src.core).oslotOwner.get 63 0 = s.src.world ∧ s.src.busyOps = false ∧
     s.mxLanes .always ≠ 0 ∧ (s.core s.src.core).oslots.wf = true ∧ (s.core s.src.core).oslotBad = [] ∧
     s.oslotOk (s.src.sreg 1) = true) ∧
    (let s := withSlots false fun t => idle (sr 1 63 t)
     s.oslotOk (s.src.sreg 1) = true ∧ s.mxLanes .always = 0) := by decide +kernel

theorem witness_MatrixInstructions :
    (let s := withSlots true fun t => sr 1 3 (sr 2 63 t)
     let c := s.core s.src.core
     s.accOk (s.src.sreg 1) = true ∧ s.oslotOk (s.src.sreg 2) = true ∧
     fbOffends (s.src.sreg 4) (s.src.sreg 5) = none ∧ c.scaleCause s.src.world (s.src.sreg 4) (fbK (s.src.sreg 4) (s.src.sreg 5)) = none ∧
     c.scaleCause s.src.world (s.src.sreg 5) (fbK (s.src.sreg 4) (s.src.sreg 5)) = none ∧
     s.src.busyOps = false ∧ c.mq.length < 32 ∧ s.mayEnter s.src 0 = true ∧
     (s.modCore 0 fun c => { c with taken := [(0, s.cycle)] }).mayEnter s.src 0 = false ∧ (∀ b ∈ s.me.ctl.batches, b.2 = 0) ∧
     s.src.sreg 1 = BitVec.ofNat 64 3 ∧ c.accOwner.get 3 0 = s.src.world ∧ c.swapping 3 = false ∧ c.visBusy.find 3 = none ∧
     s.mxLanes .always ≠ 0 ∧ c.accBad = []) ∧
    (let s := withSlots true fun t => idle (sr 1 3 t)
     s.accOk (s.src.sreg 1) = true ∧ s.mxLanes .always = 0) := by decide +kernel

theorem witness_MatrixInstructions_store :
    let s := (withSlots true fun t => sr 1 3 (sr 2 0x100000 t)).modCore 0 fun c =>
      { c with plotOwner := (List.range 128).map fun p => (p, 1) }
    s.src.sreg 2 = BitVec.ofNat 64 0x100000 ∧ (s.core s.src.core).astsCause s.src.world (BitVec.ofNat 64 0x100000) = none ∧
      (s.core s.src.core).accBad = [] ∧ (s.core s.src.core).spad.wf = true := by decide +kernel

theorem witness_FaultsAndTraps :
    Plain (bench id) ∧ (asRuntime (bench id)).isRuntime (asRuntime (bench id)).src = true ∧
    ((asRuntime (bench id)).world 1).st = .live ∧
    ((asRuntime (bench id)).mailbox ((asRuntime (bench id)).world 1).areas.faultMbx).arming = none ∧
    (let s := bench id
     s.haltReady s.src = true ∧ s.me.key = s.book.cur ∧ s.me.ctl.divert = false ∧ s.me.act.armed = false ∧ s.me.sp.timer = 0 ∧
     s.me.ctl.exited = false ∧ s.me.ctl.stopped = false ∧ s.me.ctl.halted = false ∧
     s.me.world ≠ 0 ∧ (s.mailbox (s.world s.me.world).areas.faultMbx).entries.length < 64) ∧
    (let s := bench fun t => sr 1 0 { t with ctl := { t.ctl with record := [1, 2, 3, 4, 5, 6, 7, 8] } }
     s.src.sreg 1 ≠ ones64 ∧ some s.src = s.atLocator s.src.world (s.src.sreg 1) ∧ s.src.ctl.record.length = 8 ∧
     (s.setMe (sr 1 (2 ^ 64 - 1) s.me)).src.sreg 1 = ones64 ∧ (bench id).src.ctl.record = []) := by
  unfold Plain; decide +kernel

theorem witness_RuntimeOnly : Plain (bench id) := by unfold Plain; decide +kernel

/-- The runtime's troupe, with way 15 of cluster 23's buffer, and a location there in s[3]. -/
def withWay (f : Troupe → Troupe) : State :=
  (asRuntime (bench fun t => f (sr 3 (tlbSet 0x10000 0 1 + 15 * 2 ^ 9 + 23 * 2 ^ 13) t))).modCluster 23 fun c =>
    { c with wayOwner := [(15, 1)] }

theorem witness_AddressesAndTranslation :
    (let s := withWay fun t => sr 4 (1 + 0x10000) (sr 5 7 t)
     s.isRuntime s.src = true ∧ locOf (sval (.reg 3) s.src) = some ([23], tlbSet 0x10000 0 1, 15) ∧
     s.entryCause s.src.world (s.src.sreg 4, s.src.sreg 5) (sval (.reg 3) s.src) = none ∧
     locOf (s.src.sreg 3) = some ([23], tlbSet 0x10000 0 1, 15) ∧ (s.cluster 23).wayOwner.get 15 0 = s.src.world ∧
     (∀ t ∈ s.troupes, t.2.world = s.src.world → t.2.ops = []) ∧
     (∀ c ∈ s.clusters, ∀ r ∈ c.2.reqQ, r.world ≠ s.src.world) ∧ (∀ x ∈ s.ext, x.world ≠ s.src.world) ∧
     (∀ h ∈ s.held, h.world ≠ s.src.world)) ∧
    (∃ x, (withWay id).oneWay (withWay id).src.world ((withWay id).src.sreg 3) = .ok x) ∧
    (let s := bench (sr 1 0x1000)
     inModule (s.src.sreg 1).toNat = true ∧ s.frameOwner (s.src.sreg 1).toNat ≠ s.src.world) ∧
    (let s := bench (sr 1 0xFFF)
     inModule (s.src.sreg 1).toNat = true ∧ s.frameOwner (s.src.sreg 1).toNat = s.src.world ∧
     s.extentOf (s.src.sreg 1).toNat = some { base := 0, size := 0, world := 1 }) ∧
    (let s := (bench (sr 1 (2 ^ 46 + 0xFFF))).modWorld 1 fun w =>
       { w with apertures := [{ base := 2 ^ 46, size := 0, r := true, w := true }] }
     inModule (s.src.sreg 1).toNat = false ∧ (s.world s.src.world).apertures.find? (fun y =>
         decide (y.base ≤ (s.src.sreg 1).toNat) && decide ((s.src.sreg 1).toNat < y.base + pageSize y.size)) =
       some { base := 2 ^ 46, size := 0, r := true, w := true }) ∧
    (let s := bench (sr 1 (2 ^ 46))
     inModule (s.src.sreg 1).toNat = false ∧ (s.world s.src.world).apertures = []) := by
  refine ⟨by decide +kernel, ⟨_, rfl⟩, by decide +kernel, by decide +kernel, by decide +kernel, by decide +kernel⟩

/-- The runtime's troupe, and beside it, in slot 1 of the core, one of launch 1. -/
def withOther (f g : Troupe → Troupe) : State :=
  let s := asRuntime (bench f)
  let u : Troupe := { Troupe.blank with uid := 2, world := 1, launch := 1, tslot := 1, exec := 1, live := 1, pc := 5 }
  let l : Launch := { world := 1, desc := placedDesc, order := 1, nextTid := 1, alive := 1, coreCount := [(0, 1)] }
  let s := s.modCore 0 fun c => { c with tslotOwner := [(0, 1), (1, 1)] }
  { s with troupes := s.troupes.put 1 (g u), launches := s.launches.put 1 l }

/-- The other troupe. -/
def State.other (s : State) : Troupe := (s.troupe 1).getD Troupe.blank

theorem witness_LossAndSuspension_yield :
    (let s := (withOther (sr 1 7) id).modCore 7 fun c => { c with tslotOwner := [(0, 1 + 64)] }
     s.isRuntime s.src = true ∧ (s.world s.src.world).takes = [] ∧ resOk 1 (s.src.sreg 1).toNat = true ∧
     s.ownerOf 1 (s.src.sreg 1).toNat = s.src.world + 64) ∧
    (let s := withOther (sr 1 63) id
     s.isRuntime s.src = true ∧ (s.world s.src.world).takes = [] ∧ (s.world s.src.world).notices = [] ∧
     s.holdsRes s.src.world 7 (s.src.sreg 1).toNat = false) ∧
    (let s := (withOther (sr 1 1023) id).modMailbox 1023 fun m => { m with owner := 1 }
     let s := s.modWorld 1 fun w => { w with areas := { w.areas with faultMbx := 1023 } }
     s.holdsRes s.src.world 8 (s.src.sreg 1).toNat = true ∧ s.protected s.src.world 8 (s.src.sreg 1).toNat = true) ∧
    (let s := (withOther (sr 1 4095) id).modEns 4095 fun _ => { owner := 1 }
     s.yieldStatus s.src.world 7 (s.src.sreg 1).toNat = 0 ∧
     (s.closeTake s.src.world { cls := 7, num := 4095 }).drained s.src.world { cls := 7, num := 4095 } = true ∧
     s.mem.wf = true) ∧
    (let s := withOther (sr 1 0) id
     s.yieldStatus s.src.world 0 0 = 0 ∧ (s.closeTake s.src.world { cls := 0, num := 0 }).drained s.src.world { cls := 0, num := 0 } = true) ∧
    (let s := (withOther (sr 1 0x7F00) id).modCore 0 fun c => { c with plotOwner := [(127, 1)] }
     s.yieldStatus s.src.world 2 0x7F00 = 0 ∧ (∀ t ∈ s.troupes, t.2.ctl.wait = .no) ∧
     (s.closeTake s.src.world { cls := 2, num := 0x7F00 }).drained s.src.world { cls := 2, num := 0x7F00 } = true) ∧
    (let s := withOther (sr 1 0x0200) fun t => { t with tslot := 1 }
     let s := s.modCore 0 fun c => { c with tslotOwner := [(0, 1), (1, 1), (2, 1)] }
     s.yieldStatus s.src.world 1 0x0200 = 0) := by decide +kernel

/-- World 1 with a suspend area of one image at 0x20000. -/
def withArea (s : State) : State := s.modWorld 1 fun w => { w with areas := { w.areas with susBase := 0x20000, susCap := 1 } }

/-- The image of the other troupe in that area. -/
def imageOf : Away := { uid := 2, world := 1, launch := 1, tid := 0, core := 0, base := 0x20000, image := some 0 }

theorem witness_LossAndSuspension :
    (let s := withArea (withOther (sr 1 0x100) fun t => { t with ctl := { t.ctl with leaving := true } })
     s.isRuntime s.src = true ∧ s.atLocator s.src.world (s.src.sreg 1) = some (State.other s) ∧
     s.isRuntime (State.other s) = false ∧ s.freeImage s.src.world = some 0 ∧ (State.other s).ctl.exited = false ∧
     (State.other s).ctl.stopped = false ∧ (State.other s).ctl.leaving = true ∧ (State.other s).ctl.wait = .no ∧
     s.quiet (State.other s) = true ∧ (State.other s).key ≠ s.book.cur ∧
     (State.other s).key = keyOf (fld (s.src.sreg 1) 7 0) (fld (s.src.sreg 1) 12 8) ∧ s.mem.wf = true) ∧
    (let s := withOther (sr 1 0x200) id
     s.atLocator s.src.world (s.src.sreg 1) = none) ∧
    (let s := withOther (sr 1 0) id
     s.atLocator s.src.world (s.src.sreg 1) = some s.src ∧ s.isRuntime s.src = true) ∧
    (let s := withOther (sr 1 0x100) id
     s.atLocator s.src.world (s.src.sreg 1) = some (State.other s) ∧ s.isRuntime (State.other s) = false ∧
     s.freeImage s.src.world = none) ∧
    (let s := withArea (withOther (fun t => sr 2 255 t) id)
     let s := { s with troupes := s.troupes.del 1, away := [imageOf] }
     s.isRuntime s.src = true ∧ s.imageNamed s.src.world (s.src.sreg 1) = some imageOf ∧
     fld (sval (.reg 2) s.src) 7 0 = 255 ∧ (s.launches.find 1).isSome = true ∧ (s.launch 1).deadline = 0 ∧
     s.poisoned 0x20000 (4096 * (min 8 (leNat (s.memRead (0x20000 + 0x501) 1)) + 1)) = false ∧
     (s.launch 1).mayUse 0 = true ∧ min 8 (leNat (s.memRead (0x20000 + 0x501) 1)) ≤ (s.freeBlocks s.src.world 0).length ∧
     s.chooseSlot s.src.world 0 = some 1 ∧ keyOf 0 1 ≠ s.book.cur) ∧
    (let s := withOther (sr 1 (0x100 + 7 * 2 ^ 32)) fun t => { t with ctl := { t.ctl with halted := true } }
     s.atLocator s.src.world (BitVec.ofNat 64 (fld (s.src.sreg 1) 12 0)) = some (State.other s) ∧
     (State.other s).key ≠ s.book.cur ∧ s.troupe (State.other s).key = some (State.other s) ∧ (State.other s).ctl.halted = true ∧
     (State.other s).ctl.divert = false ∧ (State.other s).act.armed = false ∧ (State.other s).sp.timer = 0 ∧
     (State.other s).ctl.exited = false ∧ (State.other s).ctl.stopped = false) ∧
    (let s := withOther (sr 1 0x100) id
     s.atLocator s.src.world (BitVec.ofNat 64 (fld (s.src.sreg 1) 12 0)) = some (State.other s) ∧
     (State.other s).ctl.halted = false) := by decide +kernel

/-- The troupe's launch is STANDING. -/
def standing (s : State) : State := s.modLaunch 0 fun l => { l with desc := l.desc.set 1 (l.word 1 ||| w64 (2 ^ 38)) }

theorem witness_ActsAndCounters :
    (let s := standing (bench fun t => sr 4 9 (sr 5 1 t))
     (s.launch s.src.launch).standing = true ∧ s.src.wrap ≠ .act ∧ s.src.sreg 4 ≠ 0 ∧ s.src.sreg 6 = 0) ∧
    (bench fun t => { t with wrap := .act }).me.wrap = .act ∧
    (bench fun t => { t with act := { armed := true } }).me.act.armed = true ∧
    (let s := (withQuota (sr 1 0x10FC0))
     let lanes := [lane0 0xFC8].map fun (o : LaneOp) => { o with x := sval (.lit 1) s.src }
     s.src.sreg 1 ≠ 0 ∧ (s.src.sreg 1).toNat % 64 = 0 ∧ s.covered s.src .system = false ∧ s.fenceChanging = false ∧
     s.hostPending s.src = false ∧ s.hostAnswers s.src = [] ∧
     Translated s { bytes := 8, r := true, w := true, watchR := false, watchW := false, access := 3 }
       [(0, s.src.sreg 1 + 8)] [lane0 0xFC8] ∧ inModule 0xFC8 = true ∧
     s.overQuota s.src.world (s.splitRequests (clusterOf s.src.core) lanes) = false ∧ s.requestsFit s.src.world (s.splitRequests (clusterOf s.src.core) lanes) = true) ∧
    (let s := asRuntime (bench fun t => sr 1 0x107 (sr 2 7 t))
     s.isRuntime s.src = true ∧ selOf (s.src.sreg 1) = some (7, true) ∧ fld (sval (.lit 0x7FFFFFFF) s.src) 63 48 = 0 ∧
     selOf (s.src.sreg 2) = some (7, false) ∧ cfgOk (sval (.lit 0x1FF301) s.src) = true) ∧
    (let s := (bench id).modWorld 1 fun w => { w with counters := [(7, { irq := true, count := 2 ^ 48 - 1, pending := 1 })] }
     ((s.world 1).counter 7).pending ≠ 0 ∧ 2 ^ 48 ≤ ((s.world 1).counter 7).count.toNat + ((s.world 1).counter 7).pending ∧
     ((s.world 1).counter 7).ovf = false ∧ ((s.world 1).counter 7).irq = true) ∧
    (let s := (bench id).modWorld 1 fun w => { w with counters := [(0, { ovf := true, count := 2 ^ 48 - 1, pending := 1 })] }
     ((s.world 1).counter 0).pending ≠ 0 ∧ 2 ^ 48 ≤ ((s.world 1).counter 0).count.toNat + ((s.world 1).counter 0).pending ∧
     ((s.world 1).counter 0).ovf = true) := by
  unfold Translated; decide +kernel

theorem witness_DebugRequests :
    (let s := withOther id id
     (s.debugee 1 0x100).toOption = some (State.other s) ∧ s.troupe (State.other s).key = some (State.other s) ∧
     (State.other s).ctl.debug = false ∧ s.holding (State.other s) = false ∧ s.haltReady (State.other s) = true ∧
     (State.other s).ctl.exited = false ∧ (State.other s).ctl.stopped = false) ∧
    (let s := withOther id fun t => { t with ctl := { t.ctl with debug := true, wait := .missRoom } }
     (s.debugee 1 0x100).toOption = some (State.other s) ∧ (State.other s).ctl.debug = true ∧ (State.other s).ctl.wait ≠ .no ∧
     s.divertDue (State.other s) = false) ∧
    (let s := withOther id fun t => { t with ctl := { t.ctl with debug := true }, blocks := List.range 8 }
     (s.debugee 1 0x100).toOption = some (State.other s) ∧ (State.other s).ctl.debug = true ∧ (State.other s).ctl.wait = .no ∧
     (State.other s).ctl.divert = false ∧ (State.other s).act.armed = false ∧ (State.other s).sp.timer = 0 ∧
     (s.item (State.other s) 0x7F).isSome = true ∧ (s.item (State.other s) 5).isSome = true ∧
     (State.other s).resultsIn = true ∧ ((State.other s).writeItem 0x7F (List.replicate 512 7)).isSome = true) ∧
    (let s := withPlot id
     (0x1FFFF0 : W64).toNat < 2 ^ 21 ∧ (0x1FFFF0 : W64).toNat % 16 = 0 ∧ (0 : W64).toNat < 192 ∧
     (s.core (0 : W64).toNat).plotOk 1 (0x1FFFF0 : W64).toNat = true) ∧
    ((3 : W64).toNat < 4 ∧ fld (0x3FFFFFFFFFFF : W64) 63 46 = 0 ∧ fld (0xFFFFFFFFFFF000 : W64) 63 56 = 0 ∧
     fld (0x7C : W64) 63 7 = 0 ∧ 3 ≤ fld (0x7C : W64) 3 0 ∧ fld (0x7C : W64) 3 0 ≤ 12 ∧
     (0xFFFFFFFFFFF000 : W64).toNat % 2 ^ fld (0x7C : W64) 3 0 = 0) := by
  decide +kernel

/-- The same, with no troupe in the issue slots. -/
def resting (s : State) : State := s.modCore 0 fun c => { c with islots := [] }

theorem witness_ArbitrationAndSlack :
    (let s := resting (withOther id fun t => { t with tslot := 4 })
     let s := { s with troupes := s.troupes.put 4 { (s.troupe 1).getD Troupe.blank with wrap := .launch } }
     ((s.core 0).islots.get 0 {}).holder = none ∧
     s.winner ((s.core 0).islots.get 0 {}).last (s.pool 0 ((s.core 0).islots.get 0 {}).overdue (s.cand 0 0)).1 (s.cand 0 0) =
       s.troupe 4) ∧
    State.reset.cycle % 4096 = 0 ∧ (State.reset.world 0).limits.nextBudget = [] ∧
    (let s := withOther id id
     (s.launches.find 1).isSome = true ∧ (s.troupe 1).isSome = true) ∧
    ((1000 : W64) ≠ 0 ∧ 0 < 1 ∧ (1000 : W64).toNat < 2 ^ 62 ∧ (7 : W64).toNat < 2 ^ 50 ∧ 0 < 2 ^ 62 ∧ 7 ≤ (7 : W64).toNat) := by
  decide +kernel

/-- A launch presented by world 1, its descriptor with the changes of f; world 1 has a free troupe slot. -/
def presenting (f : List W64 → List W64) : State :=
  { withOther id id with presented := [{ world := 1, desc := f placedDesc }] }

theorem witness_LaunchesPlaced :
    (let s := presenting id
     let l := describe 1 placedDesc
     (s.presented[0]?).isSome = true ∧ s.placerOpen 1 = true ∧ l.result = 0 ∧ l.signal = 0 ∧ l.deadline = 0 ∧
     fld (l.word 1) 37 36 ≠ 2 ∧ { s with presented := [] }.launchCauses l [] = []) ∧
    (let s := presenting (fun d => d.set 2 0)
     let l := describe 1 (placedDesc.set 2 0)
     l.result = 0 ∧ l.signal = 0 ∧ l.deadline = 0 ∧ fld (l.word 1) 37 36 ≠ 2 ∧
     least id ({ s with presented := [] }.launchCauses l []) = some 9 ∧ (s.world 1).st ≠ .absent ∧
     (s.mailbox (s.world 1).areas.faultMbx).arming = none ∧ (s.mailbox (s.world 1).areas.faultMbx).entries.length < 64) ∧
    (let l : Launch := { world := 1, desc := placedDesc, order := 0 }
     let s := bench id
     let s := { s with launches := [(4095, l)], troupes := [] }
     s.launches = [(4095, l)] ∧ l.allPlaced = false ∧ s.recordPending 4095 = false ∧ s.chooseCore 4095 l = some 0 ∧ s.chooseSlot 1 0 = some 0) := by
  decide +kernel

/-- Launch 1 with its events and a node that has fired. -/
def firing (events : Nat) (sig : W64) : State :=
  (withMail 63 id).modWorld 1 id |> fun s =>
    { s with launches := s.launches.put 1 { world := 1, desc := (placedDesc.set 13 (w64 (1023 * 2 ^ 16 + events))).set 12 sig
                                            order := 1, alive := 1, toPost := [(0, 191)] } }

theorem witness_RetirementAndEvents :
    (let s := withOther id fun t => { t with ctl := { t.ctl with exited := true } }
     let u := State.other s
     s.troupe (keyOf 0 1) = some u ∧ u.key = keyOf 0 1 ∧ u.ctl.exited = true ∧ u.ctl.stopped = false ∧ s.outstanding u = false ∧
     u.ctl.ens = [] ∧ (s.launch u.launch).result = 0 ∧ (s.launches.find u.launch).isSome = true ∧
     s.recordPending u.launch = false ∧ (s.launch u.launch).written = false ∧ (s.launch u.launch).alive = 1) ∧
    (let s := firing 1 0
     (0, 191) ∈ (s.launch 1).toPost ∧ (s.launch 1).alive ≠ 0 ∧ (s.launch 1).events / 2 ^ 0 % 2 = 1 ∧
     (s.launch 1).events / 2 ^ 1 % 2 ≠ 1 ∧ (s.launch 1).events / 2 ^ 2 % 2 ≠ 1 ∧ fld ((s.launch 1).word 13) 25 16 = 1023 ∧
     (s.mailbox 1023).owner = 1 ∧ (s.mailbox 1023).arming = none ∧ (s.mailbox 1023).entries.length < 64) ∧
    (let s := (firing 2 0x10FF8).modFn 1 fun f => { f with fe := [(63, placedEntry)] }
     (s.launch 1).events / 2 ^ 0 % 2 ≠ 1 ∧ (s.launch 1).events / 2 ^ 1 % 2 = 1 ∧ (s.launch 1).events / 2 ^ 2 % 2 ≠ 1 ∧
     (s.launch 1).signal ≠ 0 ∧ s.mem.wf = true ∧
     (s.feTranslate 1 (s.launch 1).signal 8 true true false).toOption = some 0xFF8 ∧ inModule 0xFF8 = true ∧ 0xFF8 % 8 = 0) ∧
    (let s := firing 4 0
     (s.launch 1).events / 2 ^ 0 % 2 ≠ 1 ∧ (s.launch 1).events / 2 ^ 1 % 2 ≠ 1 ∧ (s.launch 1).events / 2 ^ 2 % 2 = 1) := by
  decide +kernel

/-- The troupe in slot 1 belongs to a launch with DEADLINE 1000 and WRAPBUDGET 100, at an Almanac time; the issue
slots are free. -/
def timed (alm : Nat) (f : Troupe → Troupe) (g : Launch → Launch) : State :=
  let s := resting (withOther id f)
  { s.modLaunch 1 fun l => g { l with desc := (placedDesc.set 1 (w64 (8 * 2 ^ 32))).set 7 1000 |>.set 8 (w64 (100 * 2 ^ 32 + 9)) } with
    alm := alm }

theorem witness_TimeEvents_diverts :
    (let s := timed 900 id fun l => { l with reachedV := true }
     let u := State.other s
     (s.launch 1).reachedV = true ∧ s.toDivert 1 = [u] ∧ u.launch = 1 ∧ u.ctl.halted = false ∧ u.ctl.debug = false ∧
     u.ctl.wait = .no ∧ s.holding u = false) ∧
    (let s := (timed 999 id fun l => { l with reachedV := true }).modCore 0 fun c => { c with islots := [(1, { holder := some 1 })] }
     let u := State.other s
     s.toDivert 1 = [u] ∧ u.ctl.wait = .no ∧ s.holding u = true) ∧
    (let s := timed 40 (fun t => { t with act := { armed := true, ad := 50, aw := 10 } }) id
     let u := State.other s
     s.troupe (keyOf 0 1) = some u ∧ u.act.armed = true ∧ u.wrap = .no ∧ u.act.divertTime ≤ s.almOf 0 ∧ u.ctl.exited = false ∧
     u.ctl.stopped = false ∧ u.ctl.halted = false ∧ u.ctl.debug = false ∧ u.ctl.wait = .no ∧ s.holding u = false) ∧
    (let s := { timed 0 (fun t => { t with sp := { t.sp with timer := 7, timerent := 3 } }) id with cycle := 7 }
     let u := State.other s
     s.troupe (keyOf 0 1) = some u ∧ u.sp.timer ≠ 0 ∧ u.sp.timer.toNat ≤ s.cycle ∧ u.ctl.wait = .no ∧ u.ctl.halted = false ∧
     u.ctl.debug = false ∧ u.ctl.leaving = false ∧ u.ctl.exited = false ∧ u.ctl.stopped = false ∧ u.ctl.divert = false ∧
     s.holding u = false ∧ (s.ready u = true ∨ u.ctl.readyAt = s.cycle) ∧ u.handler = false) ∧
    (let s := { timed 0 (fun t => { t with handler := true, sp := { t.sp with timer := 7 } }) id with cycle := 7 }
     let u := State.other s
     s.ready u = true ∧ u.handler = true ∧ u.world ≠ 0 ∧ (s.mailbox (s.world u.world).areas.faultMbx).arming = none ∧
     (s.mailbox (s.world u.world).areas.faultMbx).entries.length < 64) := by decide +kernel

theorem witness_TimeEvents_ends :
    (let s := timed 1000 id fun l => { l with reachedV := true }
     let u := State.other s
     s.residents 1 = [u] ∧ u.launch = 1 ∧ s.troupe u.key = some u ∧ u.ctl.exited = false ∧ u.ctl.stopped = false ∧
     s.away = [] ∧ s.troupes.Pairwise (fun a b => a.1 < b.1) ∧ (s.launch 1).dogged = false ∧ (s.launch 1).world ≠ 0 ∧
     (s.world (s.launch 1).world).st ≠ .absent ∧
     (s.mailbox (s.world (s.launch 1).world).areas.faultMbx).arming = none ∧
     (s.mailbox (s.world (s.launch 1).world).areas.faultMbx).entries.length < 64 ∧ (s.launch 1).deadline ≠ 0 ∧
     (s.launch 1).reachedD = false ∧ (s.launch 1).reachedV = true ∧ (s.launch 1).deadline ≤ s.alm ∧
     (s.launch 1).deadline ≤ s.almOf u.core) ∧
    (let s := (timed 2000000 (fun t => { t with ctl := { t.ctl with wait := .bar 0 0 0 6 } }) id).modWorld 1 fun w =>
       { w with limits := { w.limits with tw := 1 } }
     s.launches.filter (fun l => s.deadlocked l.1 l.2) = (s.launches.find 1).toList.map (fun l => (1, l)) ∧
     (s.launches.find 1).isSome = true ∧ s.alm / 1000000 ≠ s.almBefore / 1000000 ∧ s.residents 1 = [State.other s]) := by
  decide +kernel

/-- The troupe in slot 1 has issued an operation on lanes 0 and 127. -/
def issued (k : OpKind) (lanes : List LaneOp) : State :=
  withOther id fun t => { t with ops := [{ id := 5, kind := k, lanes := lanes }] }

theorem witness_AccessesAndAnswers_accesses :
    (let ls : List LaneOp := [{ lane := 0, va := 0x10FFF, pa := 0xFFF }, { lane := 127, va := 0x10000, pa := 0 }]
     let o : Op := { id := 5, kind := .load 1 true 63, lanes := ls }
     let s := issued (.load 1 true 63) ls
     let u := State.other s
     s.troupe (keyOf 0 1) = some u ∧ u.key = keyOf 0 1 ∧ u.ops.find? (fun x => !x.performed) = some o ∧
     (∀ l ∈ o.lanes, inModule l.pa = true ∧ l.lane < 128) ∧ o.clash = false ∧ o.results = [] ∧
     o.lanes.Pairwise (fun a b => a.lane ≠ b.lane) ∧ 63 + (1 + 3) / 4 ≤ 64 ∧
     ∀ l ∈ o.lanes, l.pa % 1 = 0 ∧ (s.core u.core).l1.find (l.pa / 128) = none) ∧
    (let l : LaneOp := { lane := 0, va := 0x10FF8, pa := 0xFF8 }
     let s := issued (.sload 63) [l]
     let u := State.other s
     u.ops.find? (fun x => !x.performed) = some { id := 5, kind := .sload 63, lanes := [l] } ∧ l.pa % 8 = 0 ∧
     (s.core u.core).l1.find (l.pa / 128) = none) ∧
    (let ls : List LaneOp := [{ lane := 0, va := 0x10FF0, pa := 0xFF0, data := List.replicate 16 1 },
       { lane := 1, va := 0x10FF0, pa := 0xFF0, data := List.replicate 16 2 }]
     let s := issued (.store 16) ls
     (State.other s).ops.find? (fun x => !x.performed) = some { id := 5, kind := .store 16, lanes := ls } ∧
     (∀ l ∈ ls, l.data.length = 16) ∧ s.mem.wf = true) := by decide +kernel

theorem witness_AccessesAndAnswers_answers :
    (let s := withOther id fun t => { t with ctl := { t.ctl with wait := .parked [16] } }
     let u := State.other s
     s.troupe (keyOf 0 1) = some u ∧ u.key = keyOf 0 1 ∧ u.ctl.wait = .parked [16] ∧
     (∀ e ∈ (s.cluster (clusterOf 0)).miss, u.key ∉ e.parked) ∧ u.ctl.divert = false ∧ u.act.armed = false ∧ u.sp.timer = 0) ∧
    (let x : Ext := { id := 3, tkey := 0, uid := 1, opId := 2, world := 1, peer := none, lanes := [], sync := true }
     { bench id with ext := [x] }.ext.find? (fun y => y.id == 3) = some x ∧ x.sync = true ∧
     { bench id with ext := [{ x with sync := false }] }.ext.find? (fun y => y.id == 3) = some { x with sync := false } ∧
     x.reduces = false ∧ x.errand = .plain) ∧
    (let o : LaneOp := { lane := 0, va := 0x10FC8, pa := 0x400000000FC8, data := wordBytes 1 }
     let x : Ext := { id := 3, tkey := 0, uid := 1, opId := 2, world := 1, peer := none, lanes := [o], sync := true
                      errand := .swap 4 1 }
     let y : Ext := { x with errand := .swapRead 4 }
     { bench id with ext := [x] }.ext.find? (fun z => z.id == 3) = some x ∧ x.sync = true ∧ regionOf o.pa = .host ∧
     w64 (leNat (wordBytes 9)) ≠ 1 ∧ (wordBytes 9).length = 8 ∧
     { bench id with ext := [y] }.ext.find? (fun z => z.id == 3) = some y) ∧
    (let o : LaneOp := { lane := 127, va := 0x400000000000, pa := 0x400000000000, x := 5 }
     let x : Ext := { id := 3, tkey := 0, uid := 1, opId := 0, world := 1, peer := none, lanes := [o]
                      errand := .reduceRead .add true [o] }
     { bench id with ext := [x] }.ext.find? (fun y => y.id == 3) = some x ∧ x.sync = false ∧ regionOf o.pa = .host ∧
     ((bench id).requester x.tkey x.uid).isSome = true ∧
     ((((bench id).requester x.tkey x.uid).map (·.ops)).getD []).all (fun p => p.id != x.opId) = true) := by
  decide +kernel

/-- A request at cluster 23's service troupe, from the troupe in slot 1. -/
def request (wide : Bool) (aop : AOp) : Request :=
  { opId := 5, tkey := 1, uid := 2, world := 1, core := 0, aop := aop, wide := wide, returns := true, reduces := false
    pts := 0, lanes := [{ lane := 127, va := 0x10FF8, pa := 0xFF8, x := 1 }], after := [] }

theorem witness_AtomicsPerformed :
    (let s := (issued (.atomic .add true (some 62)) []).modCluster 23 fun c => { c with reqQ := [request true .add] }
     let r := request true .add
     (s.cluster 23).reqQ[0]? = some r ∧ s.requestReady r = true ∧ s.together r = [r] ∧ r.commit = false ∧ inModule 0xFF8 = true ∧ s.mem.wf = true ∧
     s.troupe r.tkey = some (State.other s) ∧ (State.other s).key = r.tkey ∧ (State.other s).uid = r.uid ∧ r.reduces = false ∧ r.returns = true ∧
     ((State.other s).ops.find? fun x => x.id == r.opId).isSome = true) ∧
    (let o : Op := { id := 5, kind := .atomic .add true (some 62), performed := true
                     results := [(0, List.replicate 8 1), (127, List.replicate 8 2)] }
     let s := withOther id fun t => { t with ops := [o] }
     let u := State.other s
     s.troupe (keyOf 0 1) = some u ∧ u.key = keyOf 0 1 ∧ u.ops.find? (fun o => o.performed && o.external.isEmpty &&
       (match o.kind with | .atomic _ _ (some _) => true | _ => false)) = some o ∧ o.clash = false ∧
     (∀ x ∈ o.results, x.1 < 128 ∧ x.2.length = 8) ∧ o.results.Pairwise (fun a b => a.1 ≠ b.1) ∧ 62 + 2 ≤ 64) := by decide +kernel

/-- A copy of the troupe in slot 1 within the scratchpad of core 0. -/
def tinyCopy : Copy :=
  { id := 5, tkey := 1, uid := 2, world := 1, launch := 1, core := 0, cluster := 0, pc := 0, gather := false
    src := (tinyRec 0x1FFFE0).map w64, dst := (tinyRec 0x1FC000).map w64, bar := none, cw := none, todo := [0] }

/-- The module with that copy. -/
def copying (c : Copy) : State := { withPlot id with copies := [c] }

theorem witness_CopiesAndExchange_copies :
    (let s := copying tinyCopy
     let c := tinyCopy
     let k := s.core c.core
     s.copies.find? (fun x => x.id == 5) = some c ∧ 0 ∈ c.todo ∧ s.copyReady c = true ∧ s.copyTurn c = true ∧
     k.spadBad = [] ∧ c.cause = none ∧ recSpace c.src = 1 ∧
     recSpace c.dst = 1 ∧ k.spad.wf = true ∧ s.ext = [] ∧
     ((List.range (512 / recSize c.src)).filterMap fun j =>
        if j < winCount c.src then destOf c (winIndex c.src j) else none).Pairwise
       (fun x y => k.phys x + 4 ≤ k.phys y ∨ k.phys y + 4 ≤ k.phys x)) ∧
    (let c := { tinyCopy with todo := [], bar := some 0x1FFFF0 }
     let s := copying c
     c.waiting = [] ∧ c.relAfter = [] ∧ (s.core c.core).plotOk c.world 0x1FFFF0 = true ∧ s.waiters c.core 0x1FFFF0 = [] ∧
     (s.core c.core).spad.wf = true ∧ (s.core c.core).spadBad.contains ((s.core c.core).phys 0x1FFFF0 / 16) = false) ∧
    (let c := { tinyCopy with todo := [], cw := some (0x10FF8, 7) }
     let s := copying c
     (s.copyTarget c true (0x10FF8 : W64).toNat 8).toOption = some (0xFF8, false) ∧ inModule 0xFF8 = true ∧ s.mem.wf = true) ∧
    (let c := { tinyCopy with drainBy := some 0 }
     let s := copying c
     0 ≤ s.cycle ∧ c.world ≠ 0 ∧ c.cause = none ∧ c.todo ≠ [] ∧ (s.world c.world).st ≠ .absent ∧
     (s.mailbox (s.world c.world).areas.faultMbx).arming = none ∧
     (s.mailbox (s.world c.world).areas.faultMbx).entries.length < 64) := by decide +kernel

theorem witness_CopiesAndExchange_exchange :
    (let h : Held := { id := 3, core := 191, pair := 63, off := 0x3FF0, bytes := List.replicate 16 1, ens := 5, phase := none
                       world := 1, tkey := 0, uid := 1 }
     let s := (bench id).modCore 191 fun c => { c with plotOwner := [(126, 1)], xtab := [(63, { ens := 5, side := true })] }
     let s := { s with held := [h] }
     s.held.find? (fun y => y.id == 3) = some h ∧ h.copy = none ∧ (s.core h.core).plotOwner.get (2 * h.pair) 0 = h.world ∧
     (s.core h.core).xtab.find h.pair = some { ens := 5, side := true } ∧ h.phase = none ∧ (s.core h.core).spad.wf = true) ∧
    (let s := (bench fun t => { t with ctl := { t.ctl with wait := .exchange 5 } }).modEns 5 fun _ =>
       { owner := 1, allocated := true, members := [1], arrived := [(1, 0, 0)] }
     (s.ensemble 5).ready = true ∧ (s.cores.map (·.1)).Nodup ∧ (∃ u, s.troupe 0 = some u ∧ u.ctl.wait = .exchange 5)) := by
  refine ⟨by decide +kernel, by decide +kernel, by decide +kernel, _, rfl, rfl⟩

theorem ok_of_toOption {ε α : Type} {x : Except ε α} {a : α} (h : x.toOption = some a) : x = .ok a := by
  cases x <;> simp_all [Except.toOption]

/-- The stop of core 0 with one entry of the troupe in slot 1, at a cycle in which slot 767 passes it. -/
def atStop (x : RingOp) (boarded : Bool) : State :=
  let s := issued (.ring true) []
  let s := { s with cycle := 384, ring := [(767, { w := [1, 2, 3, 4], owner := 1, boarded := boarded })]
                    ringTab := [(767, { owner := 1, boarded := boarded })] }
  s.modCore 0 fun c => { c with stopQ := [x] }

/-- An entry of that troupe. -/
def entry (kind : Nat) : RingOp :=
  { id := 5, tkey := 1, uid := 2, world := 1, kind := kind, slot := 767, d := 60, sd := 63, payload := [5, 6, 7, 8], wsel := 3
    issued := 0 }

theorem witness_ProcessionEvents :
    (let s := atStop (entry 0) false
     let u := State.other s
     slotAt 0 (2 * s.cycle + 1) = 767 ∧ (s.core 0).stopQ = [entry 0] ∧ s.ringEligible 0 (2 * s.cycle + 1) (entry 0) = true ∧
     (entry 0).vacated = false ∧ s.requester 1 2 = some u ∧ u.key = 1 ∧ u.ops = [{ id := 5, kind := .ring true }] ∧
     (s.ringSlot 767).w.length = 4 ∧ s.slotFree 767 1 = true ∧ (entry 0).payload.length = 4 ∧ (entry 0).sd < 64 ∧
     { entry 0 with from? := some 2 }.from? = some 2 ∧ 2 * s.cycle + 1 < 2 + 768) ∧
    (let s := atStop (entry 4) true
     s.ringEligible 0 (2 * s.cycle + 1) (entry 4) = true ∧ (entry 4).kind ≠ 0 ∧ (entry 4).kind < 5 ∧ (entry 4).slot = 767 ∧
     s.slotBoarded 767 1 = true ∧ (entry 4).d + 4 ≤ 64 ∧ (entry 4).wsel < 4) ∧
    (let x := { entry 0 with vacated := true }
     let s := atStop x true
     let u := State.other s
     (s.core 0).stopQ.find? (fun y => y.id == 5) = some x ∧ x.issued + 3 ≤ s.cycle ∧ s.requester x.tkey x.uid = some u ∧
     u.key = x.tkey ∧ x.sd < 64 ∧ u.ops.find? (fun y => y.id == 5) = some { id := 5, kind := .ring true } ∧
     (∀ y ∈ u.ops, y.id = 5 → y.clash = false)) ∧
    (let s := { atStop (entry 0) true with ringMoves := [{ slot := 767, owner := 2, save := false, notice := 0 }] }
     s.ringMoves.find? (fun y => y.slot == 767) = some { slot := 767, owner := 2, save := false, notice := 0 } ∧
     s.atStopZero 767 = true) ∧ 767 ≤ 767 := by decide +kernel

/-- An `mma` of the troupe in slot 1, on zero slots. -/
def tinyMma (swap : Bool) : MmaEntry :=
  { id := 5, tkey := 1, uid := 2, world := 1, swap := swap, acc := 3, aslot := 0, bslot := 63, batch := 1, ops := [[], []]
    ss := [[], []] }

theorem witness_MatrixEvents :
    (let s := (withSlots true id).modCore 0 fun c => { c with mq := [tinyMma false] }
     (s.core 0).array = none ∧ (s.core 0).mq = [tinyMma false] ∧ (tinyMma false).swap = false ∧
     (tinyMma false).ops = [(s.core 0).oslot 0, (s.core 0).oslot 63]) ∧
    (let s := (withOther id fun t => { t with sp := { t.sp with batch := 1 }, ctl := { t.ctl with batches := [(1, 1)] } }).modCore 0
       fun c => { c with array := some (tinyMma false) }
     (s.core 0).array = some (tinyMma false) ∧ (tinyMma false).seen = [] ∧ (State.other s).key = (tinyMma false).tkey ∧
     (tinyMma false).ops = [(s.core 0).oslot 0, (s.core 0).oslot 63] ∧
     s.troupe 1 = some (State.other s) ∧ (State.other s).uid = 2 ∧ (State.other s).ctl.batches = [((tinyMma false).batch, 1)] ∧
     (State.other s).ctl.wait = .no) ∧
    (let s := (withSlots true id).modCore 0 fun c => { c with mq := [tinyMma true] }
     (s.core 0).array = none ∧ (s.core 0).mq = [tinyMma true] ∧ (tinyMma true).swap = true ∧ (s.core 0).visBusy.find 3 = none) := by
  decide +kernel

/-- World 1 with one notice, about ensemble 4095. -/
def noticed (posted : Bool) : State :=
  let n : Notice := { id := 7, cls := 7, count := 1, cand := [4095], life := 0, posted := posted }
  ((withMail 63 id).modEns 4095 fun _ => { owner := 1 }).modWorld 1 fun w =>
    { w with notices := [n], areas := { w.areas with noticeMbx := 1023 } }

theorem witness_NoticeEvents :
    (let s := noticed false
     let n : Notice := { id := 7, cls := 7, count := 1, cand := [4095], life := 0 }
     (s.world 1).notices = [n] ∧ (s.mailbox (s.world 1).areas.noticeMbx).arming = none ∧
     (s.mailbox (s.world 1).areas.noticeMbx).entries.length < 64 ∧ (s.world 1).st ≠ .halted ∧ n.count ≠ 0) ∧
    (let s := noticed true
     let n : Notice := { id := 7, cls := 7, count := 1, cand := [4095], life := 0, posted := true }
     (s.world 1).notices = [n] ∧ n.closing = false ∧ n.expiryNs ≤ s.alm ∧ n.count = n.yielded + 1 ∧ n.evict = [] ∧ n.seized = [] ∧
     (s.world 1).takes = [] ∧ s.holdsRes 1 7 (4095 : W64).toNat = true) := by decide +kernel

/-- The module booted, with functions 1 to 63; queue 63 is world 63's. -/
def hosted (x : Queue) : State :=
  { bench id with mgmt := { booted := true, config := [(4, 63)] }, queues := [(63, { x with qmap := some 63 })] }

theorem witness_RegisterWrites :
    (Reached (hosted {}) 63 false ∧ ((hosted {}).queue 63).qmap = some 63 ∧
     ((7 : W64).setWidth 32 - ((hosted { log2 := 4, rptr := 0xFFFFFFF7 }).queue 63).rptr : W32).toNat ≤ 2 ^ 4 ∧
     ((hosted {}).queue 63).state ≠ 2 ∧ ((hosted { log2 := 15 }).queue 63).log2 < 16 ∧ ((hosted {}).queue 63).state ≠ 0 ∧
     4 ≤ fld (15 : W64) 3 0 ∧ (((hosted {}).queue 63).wptr - ((hosted {}).queue 63).rptr).toNat ≤ 2 ^ fld (15 : W64) 3 0) ∧
    (let s := hosted {}
     63 < 64 ∧ entryBad (0, (s.fn 63).feHi.get 63 0) = false ∧ entryBad (0x20, (s.fn 63).feHi.get 63 0) = true ∧
     entryValid ((0 : W64), (0 : W64)) = false) ∧
    (let s := (bench id).modFn 1 fun f => { f with feHi := [(63, 7)] }
     let s := { s with mgmt := { s.mgmt with booted := true, config := [(4, 63)] } }
     Reached s 1 false ∧ entryBad (placedEntry.1, (s.fn 1).feHi.get 63 0) = false ∧ entryValid placedEntry = true ∧ s.admits 1 placedEntry = true) ∧
    Reached State.reset 0 false ∧ (State.reset.queue 63).state = 1 ∧ (State.reset.queue 63).qmap = none ∧ (0x7F : W64).getLsbD 6 = true ∧
    (State.reset.fn (fld (0x7F : W64) 5 0)).trust.tdisp = 0 ∧
    (let s := { State.reset with mgmt := { booted := true, allocCmd := [(0, 0x101)] } }
     (1 : W64).getLsbD 0 = true ∧ s.mgmt.booted = true ∧ s.mgmt.running = [] ∧ (commandOf ((List.range 32).map fun k => s.mgmt.allocCmd.get k 0)).isSome = true) := by
  unfold Reached; decide +kernel

/-- A layout record: eight elements of four bytes at 0x10000. -/
def pageRec : List Nat := [0x10000, 48] ++ (tinyRec 0).drop 2

/-- The last two slots of the ring of queue 63, which is world 1's, hold words; world 1 translates its first SRAM
page, in which a layout record stands at 256. -/
def queued (ws : List Nat) : State :=
  let s := withMail 63 id
  let s := s.modFn 1 fun f => { f with fe := [(63, placedEntry)] }
  { s with mem := (s.mem.write 256 (pageRec.flatMap fun x => wordBytes (w64 x))).write 896 (ws.flatMap fun x => wordBytes (w64 x))
           queues := [(63, { base := 0x10000, log2 := 4, state := 0, rptr := 0xFFFFFFFE, wptr := 0, qmap := some 1, qfn := 1 })] }

/-- The packet there. -/
def packetOf (s : State) : Packet :=
  { world := 1, slot := 0xFFFFFFFE, words := toWords 8 (s.memRead 896 64), barrier := bit ((toWords 8 (s.memRead 896 64)).headD 0) 8 }

/-- The state is as a packet's turn needs it. -/
def AtLast (s : State) : Prop := AtRptr s 63 1 896 (packetOf s)

theorem atLast_queued (ws : List Nat) (h : slotsOf (packetOf (queued ws)).type ≤ 2)
    (ht : ((queued ws).feParts 1 (((queued ws).queue 63).slotVa ((queued ws).queue 63).rptr) 64 true false false).toOption =
      some [(896, 64)]) : AtLast (queued ws) :=
  ⟨rfl, rfl, rfl, rfl, h, fun _ _ h => (List.not_mem_nil h).elim, ok_of_toOption ht, rfl, fun _ h => (List.not_mem_nil h).elim,
    fun _ h => (List.not_mem_nil h).elim, rfl⟩

/-- A `qlaunch`, with a descriptor over its two slots. -/
def launchWords : List Nat := 0x10002 :: (placedDesc.drop 1).map BitVec.toNat

theorem witness_Packets_types :
    (AtLast (queued [1]) ∧ (packetOf (queued [1])).type = 1 ∧ (packetOf (queued [1])).formed = true) ∧
    (let s := queued launchWords
     AtLast s ∧ (packetOf s).type = 2 ∧ s.feParts 1 ((s.queue 63).slotVa ((s.queue 63).rptr + 1)) 64 true false false =
       .ok [(960, 64)] ∧ inModule 960 = true ∧
     ({ packetOf s with words := (packetOf s).words.take 8 ++ toWords 8 (s.memRead 960 64) } : Packet).formed = true) ∧
    (let s := queued [3, 0xFFFE, 0x80, 7]
     AtLast s ∧ (packetOf s).type = 3 ∧ (packetOf s).formed = true) ∧
    (let s := queued [4 + 5 * 2 ^ 16, 0x10FF8]
     AtLast s ∧ (packetOf s).type = 4 ∧ (packetOf s).formed = true ∧ (packetOf s).arms = (0, 0)) := by
  exact ⟨⟨atLast_queued _ (by decide +kernel) (by decide +kernel), by decide +kernel⟩,
    ⟨atLast_queued _ (by decide +kernel) (by decide +kernel), by decide +kernel, ok_of_toOption (by decide +kernel), by decide +kernel⟩,
    ⟨atLast_queued _ (by decide +kernel) (by decide +kernel), by decide +kernel⟩,
    ⟨atLast_queued _ (by decide +kernel) (by decide +kernel), by decide +kernel⟩⟩

theorem witness_Packets_barriers :
    (let s := queued [5, 0x10FF8]
     AtLast s ∧ (packetOf s).type = 5 ∧ (packetOf s).formed = true ∧
     ∀ va ∈ (packetOf s).sigs, ∃ pb, s.feTranslate 1 va 8 true false false = .ok pb ∧ inModule pb = true ∧ s.memWord pb = 0) ∧
    (let s := queued [5, 0x10388]
     AtLast s ∧ (packetOf s).type = 5 ∧ (packetOf s).formed = true ∧
     (∀ va ∈ (packetOf s).sigs, ∃ pb, s.feTranslate 1 va 8 true false false = .ok pb ∧ inModule pb = true ∧
       (s.memWord pb).msb = false) ∧
     ∃ va ∈ (packetOf s).sigs, ∃ pb, s.feTranslate 1 va 8 true false false = .ok pb ∧ s.memWord pb ≠ 0) := by
  have h1 : (packetOf (queued [5, 0x10FF8])).sigs = [0x10FF8] := by decide +kernel
  have h2 : (packetOf (queued [5, 0x10388])).sigs = [0x10388] := by decide +kernel
  refine ⟨⟨atLast_queued _ (by decide +kernel) (by decide +kernel), by decide +kernel, by decide +kernel, ?_⟩,
    ⟨atLast_queued _ (by decide +kernel) (by decide +kernel), by decide +kernel, by decide +kernel, ?_, ?_⟩⟩
  · rw [h1]; intro va h; obtain rfl := List.mem_singleton.mp h
    exact ⟨0xFF8, ok_of_toOption (by decide +kernel), by decide +kernel, by decide +kernel⟩
  · rw [h2]; intro va h; obtain rfl := List.mem_singleton.mp h
    exact ⟨0x388, ok_of_toOption (by decide +kernel), by decide +kernel, by decide +kernel⟩
  · rw [h2]
    exact ⟨_, List.mem_singleton.mpr rfl, 0x388, ok_of_toOption (by decide +kernel), by decide +kernel⟩

theorem witness_Packets_copy :
    let s := queued [7 + 23 * 2 ^ 16, 0x10100, 0x10100]
    AtLast s ∧ (packetOf s).type = 7 ∧ (packetOf s).formed = true ∧
    s.feParts 1 ((packetOf s).word 1).toNat 96 true false false = .ok [(256, 96)] ∧ inModule 256 = true ∧
    s.feParts 1 ((packetOf s).word 2).toNat 96 true false false = .ok [(256, 96)] ∧
    qRecBad (toWords 12 (s.memRead 256 96)) true = false ∧ qRecBad (toWords 12 (s.memRead 256 96)) false = false ∧
    recDiffer (toWords 12 (s.memRead 256 96)) (toWords 12 (s.memRead 256 96)) = none := by
  exact ⟨atLast_queued _ (by decide +kernel) (by decide +kernel), by decide +kernel, by decide +kernel,
    ok_of_toOption (by decide +kernel), by decide +kernel, ok_of_toOption (by decide +kernel), by decide +kernel⟩

theorem witness_Packets_actions :
    (let s := queued [6, 0x10FF8, 7]
     AtLast s ∧ (packetOf s).type = 6 ∧ (packetOf s).formed = true ∧
     s.feTranslate 1 ((packetOf s).word 1).toNat 8 true true false = .ok 0xFF8 ∧ inModule 0xFF8 = true ∧ s.mem.wf = true) ∧
    (let s := queued [9 + 7 * 2 ^ 16 + 2 ^ 48, 0x10FF0]
     AtLast s ∧ (packetOf s).type = 9 ∧ (packetOf s).formed = true ∧ (s.queue 63).started = [] ∧
     s.feParts 1 ((packetOf s).word 1).toNat 16 false true false = .ok [(0xFF0, 16)] ∧ inModule 0xFF0 = true ∧ s.mem.wf = true ∧
     ((packetOf s).word 0).getLsbD 48 = true) ∧
    (let s := queued [10 + 7 * 2 ^ 16, 3, 2 ^ 46 - 1, 0, 0, 0x10FF8]
     AtLast s ∧ (packetOf s).type = 10 ∧ (packetOf s).formed = true ∧ fld ((packetOf s).word 0) 23 16 = 7 ∧
     ((packetOf s).word 1).toNat < 4 ∧ fld ((packetOf s).word 2) 63 46 = 0 ∧
     (∀ y ∈ s.queues, ∀ x ∈ y.2.started, x.world = 1 → x.type = 10 → x.acted = true) ∧
     s.feParts 1 ((packetOf s).word 5).toNat 8 false true false = .ok [(0xFF8, 8)] ∧ inModule 0xFF8 = true ∧ s.mem.wf = true) ∧
    (let s := queued [8 + 1023 * 2 ^ 16, 1, 2, 3, 4, 5, 6]
     AtLast s ∧ (packetOf s).type = 8 ∧ (packetOf s).formed = true ∧ fld ((packetOf s).word 0) 25 16 = 1023 ∧
     (s.mailbox 1023).owner = 1 ∧ (s.mailbox 1023).arming = none ∧ (s.mailbox 1023).entries.length < 64) := by
  exact ⟨⟨atLast_queued _ (by decide +kernel) (by decide +kernel), by decide +kernel, by decide +kernel,
      ok_of_toOption (by decide +kernel), by decide +kernel⟩,
    ⟨atLast_queued _ (by decide +kernel) (by decide +kernel), by decide +kernel, by decide +kernel, by decide +kernel,
      ok_of_toOption (by decide +kernel), by decide +kernel⟩,
    ⟨atLast_queued _ (by decide +kernel) (by decide +kernel), by decide +kernel, by decide +kernel, by decide +kernel,
      by decide +kernel, by decide +kernel, by decide +kernel, ok_of_toOption (by decide +kernel), by decide +kernel⟩,
    ⟨atLast_queued _ (by decide +kernel) (by decide +kernel), by decide +kernel⟩⟩

/-- Queue 63 with a started packet in slot 14 of its ring. -/
def started (p : Packet) : State :=
  let s := queued []
  s.modQueue 63 fun x => { x with started := [{ p with world := 1, slot := 14 }] }

/-- It is the one packet of its slot. -/
def Sole (s : State) (p : Packet) : Prop := (s.queue 63).qmap.isSome = true ∧ s.packetsAt 63 14 = [p]

theorem witness_PacketEvents_completions :
    (let p : Packet := { world := 1, slot := 14, words := [1], barrier := false, acted := true }
     let s := started p
     Sole s p ∧ p.failed = none ∧ s.packetOver 63 p = true ∧ p.type ≠ 2 ∧ p.csig = 0) ∧
    (let p : Packet := { world := 1, slot := 14, words := [6, 0, 0, 0, 0, 0, 0, 0x10FF8], barrier := false, acted := true }
     let s := started p
     s.packetOver 63 p = true ∧ p.csig ≠ 0 ∧ p.csig.toNat % 8 = 0 ∧ s.mem.wf = true ∧
     s.feTranslate p.world p.csig.toNat 8 true true false = .ok 0xFF8 ∧ inModule 0xFF8 = true) := by
  exact ⟨by unfold Sole; decide +kernel, by decide +kernel, by decide +kernel, by decide +kernel, by decide +kernel,
    ok_of_toOption (by decide +kernel), by decide +kernel⟩

theorem witness_PacketEvents_barriers :
    let p : Packet := { world := 1, slot := 14, words := [5, 0x10FF8], barrier := false }
    let s := started p
    Sole s p ∧ p.type = 5 ∧ p.acted = false ∧ p.formed = true ∧
    (∀ va ∈ p.sigs, ∃ pb, s.feTranslate p.world va 8 true false false = .ok pb ∧ inModule pb = true ∧ s.memWord pb = 0) ∧
    (let u := s.modQueue 63 fun x => { x with started := [], recorded := [p] }
     (u.queue 63).recorded.find? (fun x => x.slot == 14) = some p ∧ (u.queue 63).started = [] ∧
     ∀ va ∈ p.sigs, ∃ pb, u.feTranslate p.world va 8 true false false = .ok pb ∧ inModule pb = true ∧
       u.memWord pb = 0) := by
  refine ⟨by unfold Sole; decide +kernel, by decide +kernel, by decide +kernel, by decide +kernel, ?_, by decide +kernel,
    by decide +kernel, ?_⟩ <;>
  · intro va h; obtain rfl := List.mem_singleton.mp h
    exact ⟨0xFF8, ok_of_toOption (by decide +kernel), by decide +kernel, by decide +kernel⟩

theorem witness_PacketEvents_prologues :
    (let p : Packet := { world := 1, slot := 14, words := [3], barrier := false, again := true }
     Sole (started p) p ∧ p.again = true ∧ p.presented = false) ∧
    (let h : Hart := { pc := 0, x := [], retired := 4096 }
     let p : Packet := { world := 1, slot := 14, words := [3], barrier := false, hart := some h }
     Sole (started p) p ∧ p.hart = some h ∧ 4096 ≤ h.retired ∧ p.type = 3 ∧ p.csig = 0 ∧
     ((started p).queue 63).state ≠ 2) ∧
    (let s := { State.reset with worlds := [(63, { st := .live })] }
     s.present 63 = true ∧ s.queuesOf 63 = [] ∧ s.troupes = [] ∧ s.copies = [] ∧ s.cores = [] ∧ s.coresOf 63 = []) := by
  unfold Sole; decide +kernel

/-- World 63 exists, and a command for it is submitted, or no command is there. -/
def commanded (running : List W64) : State :=
  { State.reset with worlds := [(63, { st := .live })], mgmt := { booted := true, running := running } }

/-- The module booted, as it is after reset otherwise. -/
def fresh : State := { State.reset with mgmt := { booted := true } }

/-- Operands of a LIMITS command. -/
def limitOps (kind value scope : W64) : List W64 := [kind, value, scope]

theorem witness_LimitCommands :
    (∀ kind < 8, kind ≠ 6 → Limit (commanded []) kind 63 (limitOps (BitVec.ofNat 64 kind) 1 0)) ∧
    Limit (commanded (cmdWords 5 63 (limitOps 2 16384 (BitVec.allOnes 64)))) 2 63 (limitOps 2 16384 (BitVec.allOnes 64)) ∧
    (opw (limitOps 0 0xFFFFFFFF 0) 2).toNat < 2 ^ 32 ∧ (opw (limitOps 1 0xFFFF 0) 2).toNat < 2 ^ 16 ∧
    (∀ i, ∀ e ∈ ((commanded []).slice i).lines, e.2.pinned ≠ some 63) ∧ (opw (limitOps 3 256 0xFFFFFF) 3).toNat < 2 ^ 24 ∧
    (opw (limitOps 5 60000 0) 2).toNat ≤ 60000 ∧ (opw (limitOps 7 32 0) 2).toNat ≤ 32 ∧ (commanded []).fencedWorlds = [] ∧
    (opw (limitOps 6 1 0) 1 = 6 ∧ (opw (limitOps 6 1 0) 2).toNat ≤ 1 ∧ restZero (limitOps 6 1 0) 3 = true ∧
     (commanded []).clusters = [] ∧ Submitted (commanded []) 5 63 (limitOps 6 0 0) ∧
     Begun { commanded [] with mgmt := { booted := true, running := cmdWords 5 63 (limitOps 6 1 0), begun := true } } 5 63 (limitOps 6 1 0)) ∧
    fresh.present 63 = false ∧ Submitted fresh 3 63 [] ∧ (commanded []).present 63 = true ∧
    16384 < (opw (limitOps 2 16385 0) 2).toNat ∧ 60000 < (opw (limitOps 5 60001 0) 2).toNat ∧
    launchOk [0x10000000000] = true ∧ ((commanded []).world 63).st = .live ∧
    ({ State.reset with worlds := [(63, { st := .halted })] }.world 63).st = .halted ∧
    commandOf ((List.range 32).map fun k => fresh.mgmt.allocCmd.get k 0) = none := by
  refine ⟨?_, by unfold Limit Submitted; decide +kernel, by decide +kernel, by decide +kernel,
    fun _ _ h => (List.not_mem_nil h).elim, by decide +kernel, by decide +kernel, by decide +kernel, by decide +kernel, ?_⟩
  · unfold Limit Submitted; decide +kernel
  · unfold Submitted Begun; decide +kernel

/-- A CREATE: a loss vector of 64 entries, a report area of 64 KiB, mailboxes 1 and 1023, and an extent for them. -/
def createOps : List W64 := [6, 0x10000, 0, 0, 1 + 1023 * 2 ^ 16, 0x10000000003]

theorem witness_WorldsMadeAndEnded :
    Submitted fresh 1 63 createOps ∧ fresh.present 63 = false ∧ createOk createOps = true ∧ 63 ≠ 0 ∧
    layAreas (areaSizes createOps) 0 ((createExtents createOps).map fun x => (extBase x, extBase x + pageSize (extCode x))) 12 =
      some [0x10000000000, 0x10000001000, 0, 0] ∧
    (∀ x ∈ createExtents createOps, fresh.extentHeld 63 x = 0) ∧ (fresh.mailbox 1).owner = 0 ∧
    (fresh.mailbox 1023).owner = 0 ∧
    (let s := commanded (cmdWords 2 63 [])
     Submitted s 2 63 (s.mgmt.running.drop 1) ∧ s.present 63 = true) ∧
    (let s := { State.reset with mgmt := { booted := true, running := cmdWords 2 63 [], begun := true } }
     Begun s 2 63 (s.mgmt.running.drop 1) ∧ s.ringMoves = []) := by
  refine ⟨?_, by decide +kernel, by decide +kernel, by decide +kernel, ?_, fun _ _ => rfl, by decide +kernel, by decide +kernel, ?_⟩
  · unfold Submitted; decide +kernel
  · rw [show areaSizes createOps = [2048, 65536, 0, 0] by decide +kernel,
      show ((createExtents createOps).map fun x => (extBase x, extBase x + pageSize (extCode x))) =
        [(0x10000000000, 0x10000040000)] by decide +kernel]
    decide +kernel
  · unfold Submitted Begun; decide +kernel

/-- The operands of a BIND. -/
def bindOps (cls : W64) (xs : List W64) : List W64 := cls :: BitVec.ofNat 64 xs.length :: xs

/-- World 63 may be given what they name, as far as their form goes. -/
abbrev Good (ops : List W64) : Prop :=
  (commanded []).mgmt.running = [] ∧ (commanded []).present 63 = true ∧ 1 ≤ (opw ops 2).toNat ∧
  (opw ops 2).toNat ≤ 29 ∧ restZero ops ((opw ops 2).toNat + 3) = true ∧ (bindItems ops).length = (opw ops 2).toNat ∧
  (bindItems ops).zipIdx.all (fun p => bindForm (opw ops 1).toNat ((bindItems ops).take p.2) p.1) = true

theorem witness_BindRevokeRemote_bind :
    let s := commanded []
    ((Good (bindOps 7 [0, 4095]) ∧ s.fencedWorlds = []) ∧ ∀ x ∈ bindItems (bindOps 7 [0, 4095]), s.ownerOf 7 x.toNat = 0) ∧
    (Good (bindOps 2 [0x7FBF]) ∧ (0x7FBF : W64).getLsbD 15 = false ∧ s.ownerOf 2 (0x7FBF : W64).toNat = 0) ∧
    (Good (bindOps 9 [511]) ∧ s.timeLane ≠ some (511 : W64).toNat ∧ s.ownerOf 9 (511 : W64).toNat = 0) ∧
    (Good (bindOps 0 [0, 0x1000]) ∧ s.extents = []) ∧
    (Good (bindOps 255 [0x40000000003B]) ∧ (s.world 63).apertures.length + 1 ≤ 32) ∧
    Good (bindOps 5 [0, 767]) ∧ ∀ x ∈ bindItems (bindOps 5 [0, 767]), (s.ringSlot x.toNat).owner = 0 :=
  ⟨⟨by decide +kernel, fun _ _ => rfl⟩, by decide +kernel, by decide +kernel, by decide +kernel, by decide +kernel,
    by decide +kernel, fun _ _ => rfl⟩

theorem witness_BindRevokeRemote :
    (let s := commanded []
     let ops : List W64 := [10 + 0xFFFF * 2 ^ 16, 1, ones64, ones64, ones64, ones64]
     Submitted s 4 63 ops ∧ (opw ops 1 &&& ~~~ (0xFFFF00FF : W64)) = 0 ∧ fld (opw ops 1) 7 0 ≠ 1 ∧ fld (opw ops 1) 7 0 ≤ 10 ∧
     opw ops 2 ≠ 0 ∧ restZero ops 7 = true ∧ (s.world 63).notices = []) ∧
    (let s := { commanded [] with mbx := [(1023, { owner := 63 })] }
     let ops : List W64 := [1023, 1 + 16 + 63 * 2 ^ 15 + 1023 * 2 ^ 25]
     let x := opw ops 2
     Submitted s 7 63 ops ∧ (opw ops 1).toNat < 1024 ∧ restZero ops 3 = true ∧ fld x 63 61 = 0 ∧ x.getLsbD 0 = true ∧
     fld x 20 15 = 63 ∧ s.ownsTarget 63 x = true ∧ x.getLsbD 4 = true ∧ fld x 60 25 < 1024) := by
  unfold Submitted; decide +kernel

/-- Worlds 1 and 63, each with a switch area and a troupe slot of core 0, and no troupe there. -/
def switching (running : List W64) (begun : Bool) : State :=
  let s := bench id
  let s := (s.modWorld 1 fun w => { w with areas := { w.areas with swBase := 0x10000000000, swSize := 2 ^ 30 } }).modWorld 63
    fun w => { w with st := .live, areas := { w.areas with swBase := 0x10040000000, swSize := 2 ^ 30 } }
  { s with troupes := [], mgmt := { booted := true, running := running, begun := begun } }

/-- A SWITCH to world 63 from world 1 on core 0. -/
def switchOps : List W64 := [1, 1, 0, 0]

/-- World 63, live or halted, with a descriptor of a runtime launch in a frame of its own. -/
def launching (st : WState) : State :=
  let s := State.reset.modWorld 63 fun w => { w with st := st }
  let s := s.modCore 191 fun c => { c with tslotOwner := [(31, 63)], blockOwner := (List.range 8).map fun b => (b, 63) }
  let d := placedDesc.set 1 (w64 (8 * 2 ^ 32 + 2 ^ 38 + 2 ^ 39))
  { s with mgmt := { booted := true }, extents := [{ base := 0x1000, size := 0, world := 63 }], mem := s.mem.write 0x1F80 (d.flatMap wordBytes) }

theorem witness_SwitchAndRuntime :
    (let s := switching [] false
     s.present 63 = true ∧ (opw switchOps 1).toNat < 64 ∧ (opw switchOps 1).toNat ≠ 63 ∧ restZero switchOps 5 = true ∧
     s.present (opw switchOps 1).toNat = true ∧ Submitted s 6 63 switchOps ∧ switchCores switchOps = [0] ∧
     s.areaHolds 63 0 = true ∧ s.areaHolds 1 0 = true ∧ (s.recordHold 63 0).within ((s.core 0).hold 1) = true ∧
     s.fencedWorlds = [] ∧ (s.world 63).notices = [] ∧ (s.world 1).notices = []) ∧
    (let s := switching (cmdWords 6 63 switchOps) true
     Begun s 6 63 switchOps ∧ s.recordsFit 1 63 (switchCores switchOps) = true ∧ s.atRest 1 0 = true ∧ (∀ x ∈ s.troupes, x.1 = x.2.key)) ∧
    (let s := launching .live
     let ops : List W64 := [0x1F80]
     let d := (opw ops 1).toNat
     let l := describe 63 (toWords 16 (s.memRead d 128))
     s.present 63 = true ∧ launchOk ops = true ∧ (opw ops 3).toNat = 0 ∧ inModule d = true ∧ s.placedStatus 63 d 128 = 0 ∧
     s.poisoned d 128 = false ∧ s.launches.length < 4096 ∧ l.result = 0 ∧ l.signal = 0 ∧ l.deadline = 0 ∧ bit (l.word 1) 39 = true ∧
     fld (l.word 1) 37 36 ≠ 2 ∧ (s.world 63).st = .live ∧ Submitted s 9 63 ops ∧ s.launchCauses l [] = []) ∧
    (let s := launching .halted
     let l := describe 63 (toWords 16 (s.memRead 0x1F80 128))
     (s.world 63).st = .halted ∧ Submitted s 8 63 [0x1F80] ∧ s.placedStatus 63 0x1F80 128 = 0 ∧
     (s.modWorld 63 fun x => { x with runtime := none }).launchCauses l [] = []) := by
  unfold Submitted Begun; decide +kernel

/-- The module with one entry in the remote ownership table: peer 15's world 63 may reach what x names of world 1. -/
def remoted (x : Nat) : State :=
  { withMail 63 id with remote := [(1023, w64 (1 + x + 15 * 2 ^ 5 + 63 * 2 ^ 9 + 1 * 2 ^ 15))] }

/-- The whole entry word of a page with reads, writes and atomics, and of mailbox 1023. -/
def pageWord : Nat := 2 ^ 2 + 2 ^ 3

/-- And of mailbox 1023. -/
def mailWord : Nat := 2 ^ 3 + 2 ^ 4 + 1023 * 2 ^ 25

theorem witness_HostAndPeerAccesses_host :
    (let s := bench id
     moduleRange 0x2FFFFFFFFF8 8 = true ∧ s.poisoned 0x2FFFFFFFFF8 8 = false ∧ s.mem.wf = true ∧
     { s with poison := [0] }.poisoned 0 1 = true ∧ moduleRange 0x30000000000 1 = false) ∧
    (let s := queued []
     let s := { s with mgmt := { booted := true, config := [(4, 63)] } }
     Reached s 0 false ∧ Reached s 1 false ∧ 0xFFF + 1 ≤ 2 ^ 36 ∧ inModule 0xFFF = true ∧ s.bar2 = []) ∧
    (let s := (queued []).modFn 1 fun f => { f with apbase := 0x10000 }
     s.feParts 1 ((s.fn 1).apbase.toNat + 0xFFF) 1 true false false = .ok [(0xFFF, 1)] ∧
     s.feParts 1 ((s.fn 1).apbase.toNat + 0xFFF) 1 false true false = .ok [(0xFFF, 1)]) ∧ 2 ^ 36 < 2 ^ 36 + 1 := by
  refine ⟨by decide +kernel, by unfold Reached; decide +kernel,
    ⟨ok_of_toOption (by decide +kernel), ok_of_toOption (by decide +kernel)⟩, by decide⟩

theorem witness_HostAndPeerAccesses_peers :
    (let s := remoted pageWord
     let e : W64 := w64 (1 + pageWord + 15 * 2 ^ 5 + 63 * 2 ^ 9 + 1 * 2 ^ 15)
     s.remoteEntries 14 63 (.read 0 1) = [] ∧ s.remoteEntries 15 63 (.read 0xFFF 1) = [e] ∧ e.getLsbD 1 = false ∧
     s.remoteEntries 15 63 (.query 0xFF8 8 true) = [e] ∧ s.remoteEntries 15 63 (.write 0xFF8 (List.replicate 8 1)) = [e] ∧
     s.remoteEntries 15 63 (.atomic 0xFF8 .add true 1 0) = [e] ∧ s.poisoned 0xFF8 8 = false ∧ s.mem.wf = true) ∧
    (let e : W64 := w64 (1 + (pageWord + 2) + 15 * 2 ^ 5 + 63 * 2 ^ 9 + 1 * 2 ^ 15)
     (remoted (pageWord + 2)).remoteEntries 15 63 (.read 0xFFF 1) = [e] ∧ e.getLsbD 1 = true) ∧
    (let s := remoted mailWord
     let e : W64 := w64 (1 + mailWord + 15 * 2 ^ 5 + 63 * 2 ^ 9 + 1 * 2 ^ 15)
     s.remoteEntries 15 63 (.post 1023 (List.replicate 7 0) 0 0 0) = [e] ∧ e.getLsbD 1 = false ∧
     (s.mailbox 1023).entries.length < 64 ∧ (s.mailbox 1023).arming = none) ∧
    64 ≤ ((withMail 64 id).mailbox 1023).entries.length := by decide +kernel

/-- A flit of zeros with its CRC. -/
def zeroFlit : List Byte := List.replicate 60 0 ++ leBytes 4 (crc32 (List.replicate 60 0)).toNat

theorem witness_LanesAndTime :
    flitOk zeroFlit = true ∧ flitOk (List.replicate 64 0) = false ∧
    (State.reset.lanes.get 511 {}).failed = false ∧ (State.reset.lanes.get 511 {}).unacked = [] ∧
    (let l : Lane := { unacked := [(0, zeroFlit)], resends := 15 }
     l.oldest = some (0, zeroFlit) ∧ l.unacked ≠ [] ∧ l.failed = false ∧ l.resends < 16 ∧ 16 ≤ { l with resends := 16 }.resends) ∧
    State.reset.mgmt.timeSrc = 0 ∧ State.reset.almStepped = false ∧ State.reset.book.nextOrder = 0 ∧
    State.reset.mgmt.timeLocked = false ∧
    (let m : Mgmt := { timeSrc := 1, timeMissed := 7, timeLocked := true, timeGood := 15 }
     m.timeSrc ≠ 0 ∧ 8 ≤ m.timeMissed + 1 ∧ m.timeLocked = true ∧ 16 ≤ m.timeGood + 1) ∧
    { State.reset with almStepped := true }.almStepped = true := by decide +kernel

theorem witness_HeatAndPower :
    (State.reset.cluster 23).heat ≤ 3 ∧ (∀ k, 6 ≤ k → k ≤ 8 → State.reset.mgmt.config.get k 0 = 0) ∧
    State.reset.mgmt.config.get 5 0 = 0 ∧ 4001 < 2 ^ 32 ∧ 4000 < 4001 ∧ State.reset.fencedWorlds = [] ∧
    (∃ c, c < 24 ∧ (State.reset.cluster c).heat < 3) ∧ (115 : Int) ≤ 115 ∧ (114 : Int) < 115 :=
  ⟨by decide +kernel, fun _ _ _ => rfl, by decide +kernel, by decide, by decide, by decide +kernel, ⟨23, by decide +kernel⟩,
    by decide, by decide⟩

/-- The three cases of a boot cover every module, whatever the algorithms that the manual names give. -/
theorem witness_ResetAndLinkDown (s : State) :
    let secret := pufSecret (Config.sramState s.book.nextId) s.mgmt.helper
    secret = none ∨
    (∃ uds n c, secret = some uds ∧ s.mgmt.images Config.romKeyHash 0 5 = .error (n, c)) ∨
    ∃ uds imgs, secret = some uds ∧ s.mgmt.images Config.romKeyHash 0 5 = .ok imgs := by
  intro secret
  cases secret with
  | none => exact .inl rfl
  | some u =>
    cases s.mgmt.images Config.romKeyHash 0 5 with
    | error e => exact .inr (.inl ⟨u, e.1, e.2, rfl, rfl⟩)
    | ok i => exact .inr (.inr ⟨u, i, rfl, rfl⟩)

theorem witness_Attestation :
    (let s := { State.reset with mgmt := { booted := true, config := [(4, 63)] } }
     s.mgmt.booted = true ∧ s.fnPresent 63 = true ∧ (s.fn 63).trust.session = false ∧ (s.fn 63).trust.tdisp = 0 ∧
     (s.fn 63).trust.tdisp ≠ 1) ∧
    (let t : Trust := { negotiated := true, secret := some [], session := true, tdisp := 1 }
     t.negotiated = true ∧ t.session = true ∧ t.tdisp = 1 ∧ { t with session := false }.secret = some []) := by decide +kernel

theorem witness_StorageErrors :
    (let s := withLine 1 1 clean
     (s.slice (sliceOf (0 * 128))).lines.find 0 = some clean ∧ clean.dirty = false ∧ clean.pinned = none) ∧
    { clean with dirty := true }.dirty = true ∧ 15 < 16 ∧ (bench id).troupe (keyOf 0 0) = some (bench id).me ∧
    (0 < ((withMail 1 id).mailbox 1023).entries.length ∧ ((withMail 1 id).mailbox 1023).drops < 0xFFFF) ∧
    inModule (64 * 0xBFFFFFFFF) = true ∧ (nodeRegion 10 0).1 < 0x30000000000 ∧
    meets (nodeRegion 10 0).1 (nodeRegion 10 0).2 0x10000000000 4096 = true := by decide +kernel

theorem witness_DecodeOfEncode :
    Instr.isWord (.mma true (.neg 6) ⟨63, 63, 63, 15, 31, true, true⟩) = true ∧
    Instr.wf (.mma true (.neg 6) ⟨63, 63, 63, 15, 31, true, true⟩) = true ∧
    Instr.wf (.iadd ⟨false, true⟩ (.pos 6) 63 63 (.lit 0xFFFFFFFF)) = true ∧
    Instr.wf (.amos true .always ⟨60, 63, 60, 63, 15, .cas, true, 0x7FFF⟩) = true := by decide

theorem witness_IllegalWords :
    bitsAt (0x003C0000 : W32).toNat 21 18 = 15 ∧
    (bitsAt (0xC01C0000 : W32).toNat 21 18 ≠ 15 ∧ (0xC01C0000 : W32).getLsbD 31 = true ∧ (0xC01C0000 : W32).getLsbD 30 = true) ∧
    (bitsAt (0xA01C0000 : W32).toNat 21 18 ≠ 15 ∧ (0xA01C0000 : W32).getLsbD 31 = true ∧ (0xA01C0000 : W32).getLsbD 30 = false ∧
      2 ≤ bitsAt (0xA01C0000 : W32).toNat 29 28) ∧
    (bitsAt (0x1C5C0000 : W32).toNat 21 18 = 7 ∧ (0x1C5C0000 : W32).getLsbD 31 = false ∧ bitsAt (0x1C5C0000 : W32).toNat 29 28 = 1 ∧
      0x31 ≤ bitsAt (0x1C5C0000 : W32).toNat 27 22) ∧
    (bitsAt (0x10081083 : W32).toNat 21 18 ≠ 15 ∧ bitsAt (0x10081083 : W32).toNat 21 18 ≠ 7 ∧
      bitsAt (0x10081083 : W32).toNat 29 28 = 1 ∧ (0x10081083 : W32).getLsbD 31 = false) := by decide

/-- The troupe at a word that stands at its program counter, as a turn of its issue slot finds it. -/
def atWord (w : Nat) : State := State.reset.withFetchWord 96 w

/-- The same, made ready to issue, its troupe as f leaves it. -/
def poisedAt (w : Nat) (f : Troupe → Troupe := id) : State :=
  let s := (atWord w).setMe (f (atWord w).me)
  let t := (s.troupe 0).getD Troupe.blank
  ((((s.takeTurn []).asking 0 0).dropAbandoned t).poise t.poised).openPackets t.poised []

theorem witness_StepRunsDecoded :
    (let s := atWord 0x05859C10BF
     let t := (s.troupe 0).getD Troupe.blank
     let sl := (s.core 0).islots.get 0 {}
     s.powered = true ∧ s.book.due = [] ∧ s.book.agenda = .issue 0 0 :: [] ∧ sl.issued = false ∧ sl.holder = some 0 ∧
     s.troupe (keyOf 0 0) = some t ∧ (s.takeTurn []).firstSlot 0 0 = 0 ∧ t.mayIssue = true ∧ t.ctl.stepReq = none ∧
     (let s0 := (((s.takeTurn []).asking 0 0).dropAbandoned t).poise t.poised
      s0.breakpoint t.poised = none ∧ s0.farPieces t.poised = [])) ∧
    -- iadd v1, v2, 5 in its two words, with E
    (let s := poisedAt 0x05459C10BF
     let t := s.me
     let i : Instr := .iadd ⟨false, true⟩ .always 1 2 (.lit 5)
     let ms : List Member := [⟨i, t.pc, 2⟩]
     (s.codeWord t [] (t.pc + BitVec.ofNat 32 0)).toOption = some 0x459C10BF ∧
     (s.codeWord t [] (t.pc + BitVec.ofNat 32 1)).toOption = some 5 ∧
     decode [0x459C10BF] = .error .truncated ∧ decode [0x459C10BF, 5] = .ok (i, 2) ∧ chains i = false ∧
     (∀ r ∈ vregsOf i, r < 8 * t.blocks.length) ∧ 0 + 2 ≤ 24 ∧ (s.touchCode t ms).gated t ms = false ∧ t.needsRelease ms = false ∧
     (s.touchCode t ms).poisonRead i = none ∧ (s.touchCode t ms).broken t ms = []) ∧
    (let s := poisedAt 0x1C5C0000
     (s.codeWord s.me [] s.me.pc).toOption = some 0x1C5C0000 ∧ decode [0x1C5C0000] = .error .unassigned) := by
  refine ⟨by decide +kernel, ⟨by decide +kernel, by decide +kernel, rfl, rfl, by decide +kernel, by decide +kernel, by decide,
    by decide +kernel, by decide +kernel, by decide +kernel⟩, by decide +kernel, rfl⟩

theorem witness_StepsAround :
    (let u := bench id
     let p := u.me
     u.troupe p.key = some p ∧ p.ctl.stalled = false ∧ heldBack p p = false ∧ p.ctl.stepReq = none ∧
     ((u.core p.core).islots.get (p.tslot % 4) {}).words + 3 < 24 ∧
     ((u.core p.core).islots.get (p.tslot % 4) {}).holder = some p.tslot) ∧
    (let s := State.reset.modBook fun b => { b with due := [.watchdog] }
     s.powered = true ∧ s.book.due = .watchdog :: []) ∧
    (let s := State.reset.modBook fun b => { b with agenda := [.event .watchdog] }
     s.powered = true ∧ s.book.due = [] ∧ s.book.agenda = .event .watchdog :: []) ∧
    (let s := { State.reset with powered := false }
     s.powered = false ∧ (∀ rest, s.book.agenda ≠ .event .hotReset :: rest) ∧
     { s with book := { s.book with agenda := [.event .hotReset] } }.book.agenda = .event .hotReset :: []) := by
  refine ⟨by decide +kernel, by decide +kernel, by decide +kernel, by decide +kernel, ?_, rfl⟩
  intro rest h; cases h

theorem witness_MemoryOperations :
    Bytes.wf [(0, 1), (0x2FFFFFFFFFF, 255)] = true ∧ Bytes.wf [] = true ∧ ∀ a, Bytes.byte [] a = Bytes.byte [] a :=
  ⟨by decide +kernel, by decide +kernel, fun _ => rfl⟩

theorem witness_MemoryStaysCanonical : (atWord 0).mem.wf = true ∧ ∃ t, step (atWord 0) = .next t :=
  ⟨by decide +kernel, _, rfl⟩

/-! ## States that meet the premises of the clauses on faults, misses and losses -/

/-- The troupe has raised NX, whose report is enabled; HALT as given. -/
def raised (halt : Bool) (t : Troupe) : Troupe :=
  { t with sticky := { t.sticky with nx := 1 }, sp := { t.sp with fpctl := if halt then 0xC0 else 0x40 } }

theorem witness_TimeAndRetirement_reports : ∀ halt : Bool,
    let s := withPlot fun t => raised halt (sr 1 0x1FFFF0 t)
    s.src.newExceptions ≠ 0 ∧ Plain s ∧ s.me.key = s.book.cur ∧ s.me.world = s.src.world ∧ s.src.haltEnabled = halt ∧
      BarReady s 1 ∧ ((s.core s.me.core).bar (s.src.sreg 1).toNat).error = false ∧ s.src.live &&& ~~~ s.src.exec = 0 := by
  unfold Plain BarReady; decide +kernel

theorem witness_EnsembleInstructions_statuses :
    (∀ n, n < 4096 → (({ bench id with ens := [] } : State).ensemble n).owner = (bench id).me.world →
      (({ bench id with ens := [] } : State).ensemble n).allocated = true) ∧
    (let s := (bench (sr 1 4095)).modEns 4095 fun _ => { owner := 1 }
     s.src.sreg 1 = BitVec.ofNat 64 4095 ∧ (s.ensemble 4095).owner = s.src.world ∧ (s.ensemble 4095).allocated = false) ∧
    (let s := withEnsemble (List.replicate 4095 2) (sr 1 4095)
     (s.ensemble 4095).allocated = true ∧ 4095 ∉ s.me.ctl.ens ∧ 4095 ≤ (s.ensemble 4095).members.length ∧
       (s.ensemble 4095).members ≠ []) ∧
    (let s := withEnsemble [] fun t => sr 1 4095 { t with ctl := { t.ctl with ens := List.range 8 } }
     4095 ∉ s.me.ctl.ens ∧ 8 ≤ s.me.ctl.ens.length) ∧
    (withEnsemble [1] fun t => { t with ctl := { t.ctl with ens := [4095] } }).me.ctl.ens = [4095] ∧
    (let s := bench (sr 1 4096)
     Plain s ∧ 4096 ≤ (s.src.sreg 1).toNat) ∧
    (let s := bench (sr 1 4095)
     Plain s ∧ (s.ensemble (s.src.sreg 1).toNat).owner ≠ s.src.world) := by
  refine ⟨fun n _ h => absurd h (by decide : (0 : Nat) ≠ 1), by decide +kernel, by decide +kernel, by decide +kernel,
    by decide +kernel, by unfold Plain; decide +kernel, by unfold Plain; decide +kernel⟩

/-- Lanes 0 and 1, lane 0 at an address of the code page and lane 1 64 KiB behind, which no page maps; the world's quota
of missed pages and the entries of its cluster. -/
def missing (quota : Nat) (table : List MissEntry) : State :=
  let s := withQuota fun t => { (sr 8 0x10000 t).setV 1 (Lanes.zero.setLane 1 0x10000) with exec := 3, live := 3 }
  let s := s.modWorld 1 fun w => { w with limits := { w.limits with missQuota := [(0, quota)] } }
  s.modCluster 0 fun c => { c with miss := table }

/-- Its address operands: s[8] plus the index in v1. -/
def indexed : MAddr := ⟨1, 0, 8, 0⟩

theorem witness_GlobalAccessesIssue_misses :
    (∀ quota table, quota = 0 ∨ quota = 1 → table = [] ∨ table = [{ world := 1, page := 0x20, parked := [] }] →
      let s := missing quota table
      s.memLanes .always ≠ [] ∧ Plain s ∧
      Missed s { bytes := 4, r := true, access := 1 } ((s.memLanes .always).map fun l => (l, laneAddr s.src indexed l)) [lane0 0]
        [(1, 0x20000)] ∧
      Missed s { bytes := 4, w := true, access := 2 } ((s.memLanes .always).map fun l => (l, laneAddr s.src indexed l)) [lane0 0]
        [(1, 0x20000)]) ∧
    (∀ x ∈ [((1 : Nat), (0x20000 : W64))], x.2.toNat / 4096 = 0x20) ∧
    (let s := missing 1 [{ world := 1, page := 0x20, parked := [] }]
     ∃ e ∈ (s.cluster (clusterOf s.src.core)).miss, e.world = s.src.world ∧ e.page = 0x20) ∧
    (let t := (missing 1 []).cluster 0
     t.miss.length < 256 ∧ (t.miss.filter fun e => e.world == 1).length < 1) ∧
    (let t := (missing 1 [{ world := 1, page := 0x21, parked := [] }]).cluster 0
     (∀ e ∈ t.miss, ¬ (e.world = 1 ∧ e.page = 0x20)) ∧ 1 ≤ (t.miss.filter fun e => e.world == 1).length) ∧
    256 ≤ ((missing 1 (List.replicate 256 { world := 2, page := 0x20, parked := [] })).cluster 0).miss.length ∧
    Missed (missing 1 []) { bytes := 8, r := true, access := 1 } [(0, scalarAddr (missing 1 []).src ⟨8, 0x10000⟩)] []
      [(0, 0x20000)] := by
  refine ⟨?_, by decide +kernel, ⟨{ world := 1, page := 0x20, parked := [] }, by decide +kernel⟩, by decide +kernel, by decide +kernel,
    by decide +kernel, by unfold Missed; decide +kernel⟩
  rintro _ _ (rfl | rfl) (rfl | rfl) <;> (unfold Plain Missed; decide +kernel)

theorem witness_AtomicsIssue_misses :
    let s := missing 1 []
    let x : AArgs := ⟨2, 1, 4, 8, 0, .add, true, 0⟩
    let y : AArgs := { x with d := 63, wide := true }
    s.src.ctl.gathered = [] ∧ s.me.ctl.gathered = [] ∧ s.hostPending s.src = false ∧ s.hostAnswers s.src = [] ∧
    s.fenceChanging = false ∧ s.src.ops = [] ∧ y.d.val = 63 ∧
    (∀ mo nh wr, mo = true ∨ mo = false → nh = true ∨ nh = false → wr = true ∨ wr = false →
      Missed s { bytes := 8, r := true, w := true, moduleOnly := mo, noHost := nh, watchR := wr, access := 3 }
        ((s.memLanes .always).map fun l => (l, atomicAddr s.src x l)) [lane0 0] [(1, 0x90000)]) ∧
    inModule (lane0 0).pa = true ∧
    s.overQuota s.src.world (s.splitRequests (clusterOf s.src.core) ([lane0 0].map (atomicData s.src x))) = false ∧
    s.requestsFit s.src.world (s.splitRequests (clusterOf s.src.core) ([lane0 0].map (atomicData s.src x))) = true ∧
    (let z := bench fun t => idle { t with sp := { t.sp with replay := 1 } }
     z.memLanes .always = [] ∧ z.src.sp.replay ≠ 0) := by
  refine ⟨by decide +kernel, by decide +kernel, by decide +kernel, by decide +kernel, by decide +kernel, by decide +kernel, by decide +kernel,
    ?_, by decide +kernel, by decide +kernel, by decide +kernel, by decide +kernel⟩
  rintro _ _ _ (rfl | rfl) (rfl | rfl) (rfl | rfl) <;> (unfold Missed; decide +kernel)

theorem witness_LinesFencesMailboxes_stops :
    -- every way that the world may use in the line's set holds a pinned line
    (let s := (withLine 2 1 clean).modSlice (sliceOf 0) fun x =>
       { x with lines := [(0, clean), (30735, { clean with way := some 0, pinned := some 1 })] }
     setOf (lineNo 0x7F) = setOf 30735 ∧ sliceOf (30735 * 128) = sliceOf 0 ∧
     (s.slice (sliceOf 0)).lines.find (lineNo 0x7F) = some clean ∧
     (s.slice (sliceOf 0)).pinsOf s.me.world < (s.world s.me.world).limits.pinQuota.get (sliceOf 0) 0 ∧
     freeWayLeft ((s.slice (sliceOf 0)).inSet (setOf (lineNo 0x7F))) ((s.world s.me.world).limits.dways.get (sliceOf 0) 0)
       (clean.way.map (· / 2)) = false) ∧
    (let s := bench (sr 1 (2 ^ 63))
     Plain s ∧ mbxAddr (s.src.sreg 1) = none) ∧
    (let s := bench (sr 1 1023)
     Plain s ∧ mbxAddr (s.src.sreg 1) = some (1023, none) ∧ (s.mailbox 1023).owner ≠ s.src.world) ∧
    (let s := withMail 0 fun t => sr 2 (2 ^ 21) (sr 1 1023 t)
     Plain s ∧ (2 : Reg).val ≠ 63 ∧ s.barCause s.src (s.src.sreg 2) = some 3) ∧
    (let s := withMail 0 fun t => sr 2 0x1FC000 (sr 1 1023 t)
     Plain s ∧ (s.mailbox 1023).owner = s.src.world ∧ s.barCause s.src (s.src.sreg 2) = some 4) := by
  unfold Plain; decide +kernel

/-- One lane, at an address that fails at a step. -/
theorem failsAt_one {out : W64 → LaneOut} {a : W64} {st c : Nat} (h : out a = .bad st c) : FailsAt out [(0, a)] st c 1 a := by
  refine ⟨?_, ⟨(0, a), by simp, h⟩, ?_, by simp [h]⟩
  · intro x hx k d hk
    obtain rfl := List.mem_singleton.mp hx
    simp only [h, LaneOut.bad.injEq] at hk
    omega
  · have key : ∀ l, l < 128 → inMask (1 : Mask) l = (0 == l) := by decide +kernel
    intro l hl; rw [key l hl]; simp [h]

/-- Two lanes, of which the higher fails at an earlier step. -/
theorem failsAt_two {out : W64 → LaneOut} {a b : W64} {st su c d : Nat} (ha : out a = .bad su d) (hb : out b = .bad st c)
    (hlt : st < su) : FailsAt out [(0, a), (1, b)] st c 2 b := by
  have hne : (su == st) = false := by simp; omega
  refine ⟨?_, ⟨(1, b), by simp, hb⟩, ?_, by simp [ha, hb, hne]⟩
  · intro x hx k e hk
    simp only [List.mem_cons, List.not_mem_nil, or_false] at hx
    rcases hx with rfl | rfl
    · simp only [ha, LaneOut.bad.injEq] at hk; omega
    · simp only [hb, LaneOut.bad.injEq] at hk; omega
  · have key : ∀ l, l < 128 → inMask (2 : Mask) l = (1 == l) := by decide +kernel
    intro l hl; rw [key l hl]; simp [ha, hb, hne]

/-- Lane 0 misaligned at the end of the address space, and lane 1 outside it. -/
def mixed : State :=
  bench fun t => { (sr 8 (2 ^ 56 - 3) t).setV 1 (Lanes.zero.setLane 1 0x10000) with exec := 3, live := 3 }

theorem witness_AddressesAndTranslation_faults :
    -- lanes that fail at different steps
    (let s := mixed
     let n : Need := { bytes := 4, r := true, access := 1 }
     Plain s ∧ s.hostPending s.src = false ∧ s.hostAnswers s.src = [] ∧
     FailsAt (s.checkVa s.src.core s.src.world n) ((s.memLanes .always).map fun l => (l, laneAddr s.src indexed l)) 1 3 2
       (2 ^ 56 + 0xFFFD)) ∧
    -- a misaligned address, for an access of each kind
    (let s := bench (sr 8 0x10001)
     Plain s ∧ s.fenceChanging = false ∧ s.src.ops = [] ∧
     (∀ r w mo nh wr, FailsAt (s.checkVa s.src.core s.src.world
         { bytes := 4, r := r, w := w, moduleOnly := mo, noHost := nh, watchR := wr, access := 3 })
       ((s.memLanes .always).map fun l => (l, laneAddr s.src (at8 0) l)) 2 5 1 0x10001)) ∧
    -- a page that may not be written, a frame of another world, and a poisoned line
    (let s := (bench (sr 8 0x10000)).modCluster 0 fun c =>
       { c with tlb := [(16 * tlbSet 0x10000 0 1, (w64 (1 + 0x10000), w64 (2 ^ 6 + 5)))] }
     FailsAt (s.checkVa 0 1 { bytes := 4, w := true, access := 2 }) ((s.memLanes .always).map fun l => (l, laneAddr s.src (at8 0) l))
       5 3 1 0x10000) ∧
    (let s := { bench (sr 8 0x10000) with extents := [] }
     FailsAt (s.checkVa 0 1 { bytes := 4, r := true, access := 1 }) ((s.memLanes .always).map fun l => (l, laneAddr s.src (at8 0) l))
       6 4 1 0x10000) ∧
    (let s := { bench (sr 8 0x10000) with poison := [63] }
     FailsAt (s.checkVa 0 1 { bytes := 16, r := true, access := 1 })
       ((s.memLanes .always).map fun l => (l, laneAddr s.src (at8 0xFF0) l)) 6 0x14 1 0x10FF0 ∧
     s.checkVa 0 1 { bytes := 16, r := true, access := 1 } (scalarAddr s.src ⟨8, 0xFF0⟩) = .bad 6 0x14 ∧
     s.checkVa 0 1 { bytes := 16, r := true, access := 1 } 0x10000 = .ok 0 false ∧
     s.checkVa 0 1 { bytes := 16, r := true, access := 1 } 0x20000 = .miss) ∧
    -- the scratchpad's four steps
    (let s := withPlot (sr 8 (2 ^ 21))
     Plain s ∧ FailsAt (s.checkPlace s.src.core s.src.world 4) ((s.memLanes .always).map fun l => (l, laneAddr s.src (at8 0) l)) 1 3 1
       (2 ^ 21)) ∧
    (let s := withPlot (sr 8 0x1FFFFF)
     FailsAt (s.checkPlace s.src.core s.src.world 4) ((s.memLanes .always).map fun l => (l, laneAddr s.src (at8 0) l)) 2 5 1 0x1FFFFF) ∧
    (let s := withPlot (sr 8 0x4000)
     FailsAt (s.checkPlace s.src.core s.src.world 4) ((s.memLanes .always).map fun l => (l, laneAddr s.src (at8 0) l)) 3 4 1 0x4000) ∧
    (let s := (withPlot (sr 8 0x1FFFF0)).modCore 0 fun c => { c with spadBad := [0x1FFFF] }
     FailsAt (s.checkPlace s.src.core s.src.world 4) ((s.memLanes .always).map fun l => (l, laneAddr s.src (at8 0) l)) 6 0x14 1
       0x1FFFF0) ∧
    (let s := withPlot (sr 8 0x1FFFF0)
     (0x1FFFF0 : W64).toNat < 2 ^ 21 ∧ (0x1FFFF0 : W64).toNat % 16 = 0 ∧ (s.core 0).plotOk 1 (0x1FFFF0 : W64).toNat = true ∧
     s.checkPlace 0 1 8 (scalarAddr s.src ⟨8, 0x10⟩) = .bad 1 3) := by
  refine ⟨⟨?_, ?_, ?_, ?_⟩, ⟨?_, ?_, ?_, ?_⟩, ?_, ?_, ⟨?_, by decide +kernel⟩, ⟨?_, ?_⟩, ?_, ?_, ?_, ?_⟩
  · unfold Plain; decide +kernel
  · decide +kernel
  · decide +kernel
  · exact failsAt_two (by decide +kernel : _ = LaneOut.bad 2 5) (by decide +kernel) (by decide)
  · unfold Plain; decide +kernel
  · decide +kernel
  · decide +kernel
  · intro r w mo nh wr
    exact failsAt_one (by cases r <;> cases w <;> cases mo <;> cases nh <;> cases wr <;> decide +kernel)
  · exact failsAt_one (by decide +kernel)
  · exact failsAt_one (by decide +kernel)
  · exact failsAt_one (by decide +kernel)
  · unfold Plain; decide +kernel
  · exact failsAt_one (by decide +kernel)
  · exact failsAt_one (by decide +kernel)
  · exact failsAt_one (by decide +kernel)
  · exact failsAt_one (by decide +kernel)
  · decide +kernel

theorem witness_AddressesAndTranslation_tlbi :
    let s := withWay id
    s.copies = [] ∧ s.ext = [] ∧ s.src.ctl.tlbi = none ∧ (s.cluster 23).reqQ = [] := by decide +kernel

theorem witness_ActsAndCounters_overflow :
    let s := { (bench id).modWorld 1 fun w => { w with counters := [(7, { irq := true, count := 2 ^ 48 - 1, pending := 1 })] } with
      mgmt := { booted := true, config := [(4, 63)] } }
    s.fnPresent 1 = true ∧ ((s.world 1).counter 7).pending ≠ 0 ∧ ((s.world 1).counter 7).ovf = false ∧
    ((s.world 1).counter 7).irq = true ∧ (bench id).fnPresent 1 = false := by decide +kernel

theorem witness_DebugRequests_order :
    ((withOther id id).world 1).debugs = [] ∧ (withOther id id).debugging 1 (withOther id id).book.nextId = false := by decide +kernel

theorem witness_RetirementAndEvents_interrupt :
    let s := { firing 4 0 with mgmt := { booted := true, config := [(4, 63)] } }
    (0, 191) ∈ (s.launch 1).toPost ∧ (s.launch 1).alive ≠ 0 ∧ (s.launch 1).events / 2 ^ 2 % 2 = 1 ∧
      s.fnPresent (s.launch 1).world = true := by decide +kernel

theorem witness_AccessesAndAnswers_turns :
    (let l : LaneOp := { lane := 0, va := 0x10FF8, pa := 0xFF8 }
     let o : Op := { id := 5, kind := .sload 63, lanes := [l] }
     let s := issued (.sload 63) [l]
     s.turns (State.other s) = [(o, none)] ∧ o.external = [] ∧ o.clash = false ∧ o.results = []) ∧
    (let s := withOther id fun t => { t with ctl := { t.ctl with wait := .missRoom } }
     (State.other s).ctl.wait = .missRoom) ∧
    (let ls : List LaneOp := [{ lane := 0, va := 0x10FF0, pa := 0xFF0, data := List.replicate 16 1 },
       { lane := 1, va := 0x10FF0, pa := 0xFF0, data := List.replicate 16 2 }]
     let s := issued (.store 16) ls
     s.turns (State.other s) = [({ id := 5, kind := .store 16, lanes := ls }, none)] ∧
     ∃ xs l ys, ls = xs ++ l :: ys ∧ ∀ m ∈ ys, m.pa + 16 ≤ l.pa ∨ l.pa + 16 ≤ m.pa) := by
  refine ⟨by decide +kernel, by decide +kernel, by decide +kernel, [_], _, [], rfl, ?_⟩
  intro m h; cases h

theorem witness_AtomicsPerformed_part :
    let o : Op := { id := 5, kind := .atomic .add true (some 62), performed := true, part := true
                    results := [(0, List.replicate 8 1)] }
    let s := withOther id fun t => { t with ops := [o], ctl := { t.ctl with replayPc := some 5 } }
    let u := State.other s
    s.troupe (keyOf 0 1) = some u ∧ u.key = keyOf 0 1 ∧ u.ops.find? (fun o => o.performed && o.external.isEmpty &&
      (match o.kind with | .atomic _ _ (some _) => true | _ => false)) = some o ∧ o.part = true ∧ u.ctl.replayPc = some u.pc := by
  decide +kernel

theorem witness_CopiesAndExchange_chunk :
    let s := copying tinyCopy
    tinyCopy.taking = none ∧ s.drainOver tinyCopy = false ∧ tinyCopy.plan = [] ∧ s.ext = [] ∧
    (s.core 0).spadBad.contains ((s.core 0).phys 0x1FFFE0 / 16) = false := by decide +kernel

/-- World 1 with an expired notice of one candidate, which it holds; its areas, and mailbox 1022. -/
def expired (cls : Nat) (x : W64) : State :=
  let s := noticed true
  let s := s.modCore 0 fun c => { c with plotOwner := [(127, 1)], oslotOwner := [(63, 1)], accOwner := [(3, 1)] }
  let s := (s.modMailbox 1022 fun _ => { owner := 1, entries := [[1, 2, 3, 4, 5, 6, 7, 8]] }).modWorld 1 fun w => { w with
    notices := [{ id := 7, cls := cls, count := 1, cand := [x], life := 0, posted := true }]
    areas := { w.areas with lossBase := 0x3000, lossCap := 64, repBase := 0x10000, repSize := 0x30000, repOff := 1 } }
  { s with extents := s.extents ++ [{ base := 0x2000, size := 0, world := 1 }] }

theorem witness_NoticeEvents_seizures :
    ∀ p ∈ [((0 : Nat), (0x2000 : W64)), (2, 0x7F00), (3, 0x3F00), (4, 0x300), (7, 4095), (8, 1022)],
      let s := expired p.1 p.2
      let n : Notice := { id := 7, cls := p.1, count := 1, cand := [p.2], life := 0, posted := true }
      let take := s.newTake 1 p.1 p.2.toNat true 7
      (s.world 1).notices = [n] ∧ (s.mailbox (s.world 1).areas.noticeMbx).arming = none ∧
      (s.mailbox (s.world 1).areas.noticeMbx).entries.length < 64 ∧ n.expiryNs ≤ s.alm ∧ (s.world 1).takes = [] ∧
      s.holdsRes 1 p.1 p.2.toNat = true ∧ (s.closeTake 1 take).drained 1 take = true ∧ s.mem.wf = true ∧
      (s.core 0).spad.wf = true ∧ (s.core 0).oslots.wf = true ∧ s.troupes.length = 1 ∧
      (∀ u ∈ s.troupes, u.2.ctl.wait = .no) ∧ s.slices = [] ∧ (p.1 = 8 → p.2.toNat ≠ (s.world 1).areas.noticeMbx) ∧
      (let a := (s.world 1).areas
       let off := (a.repOff + 4095) / 4096 * 4096
       let ring := a.lossBase + 32 * ((s.world 1).lossTotal % a.lossCap)
       ring + 32 ≤ a.repBase + off ∧ 0x3000 ≤ ring ∧ 0 < a.lossCap) := by
  decide +kernel

theorem witness_RegisterWrites_streams :
    (let s := (hosted {}).modFn 63 fun f => { f with trust := { tdisp := 1, ide := true } }
     s.fnPresent 63 = true ∧ (s.fn 63).trust.tdisp = 1 ∧ Reached s 63 true ∧ Reached s 0 false ∧
     (s.modFn 63 fun f => { f with trust := { tdisp := 2 } }).fnPresent 63 = true) ∧
    State.reset.mgmt.booted = false := by
  unfold Reached; decide +kernel

theorem witness_PacketEvents_rearm :
    (let p : Packet := { id := (queued []).book.nextId, world := 1, slot := 14, words := [5, 0x10FF8], barrier := false, place := some 0 }
     let s := queued []
     (s.queue 63).qmap = some 1 ∧ p.type = 5 ∧ p.formed = true ∧ (s.queue 63).started = [] ∧ p.sigs = [0x10FF8] ∧
     (s.feTranslate p.world 0x10FF8 8 true false false).toOption = some 0xFF8 ∧ inModule 0xFF8 = true ∧ s.memWord 0xFF8 = 0) ∧
    (let h : Hart := { pc := 0, x := [], retired := 4096 }
     let p : Packet := { world := 1, slot := 14, words := [3], barrier := false, hart := some h }
     (started p).ownPending 63 p = false) ∧
    (let p : Packet := { world := 1, slot := 14, words := [9 + 2 ^ 48, 0x10FF0], barrier := false, acted := true }
     let s := { started p with mgmt := { booted := true, config := [(4, 63)] } }
     Sole s p ∧ p.failed = none ∧ s.packetOver 63 p = true ∧ p.type = 9 ∧ p.csig = 0 ∧ (p.word 0).getLsbD 48 = true ∧
     s.fnPresent p.world = true) := by
  unfold Sole; decide +kernel

theorem witness_BindRevokeRemote_candidates :
    let s := { commanded [] with mbx := [(1023, { owner := 63 })] }
    let ops : List W64 := [8, 1, 1023, 1022, ones64, ones64]
    (∀ i ∈ [3, 4, 5, 6], s.candStatus 63 8 (opw ops i) = 0) ∧ s.protected 63 8 1023 = false ∧
    ((s.modWorld 63 fun w => { w with areas := { w.areas with faultMbx := 1023 } }).protected 63 8 1023) = true := by decide +kernel

theorem witness_HostAndPeerAccesses_poison :
    let s := { remoted pageWord with poison := [63] }
    let e : W64 := w64 (1 + pageWord + 15 * 2 ^ 5 + 63 * 2 ^ 9 + 1 * 2 ^ 15)
    s.remoteEntries 15 63 (.read 0xFC0 1) = [e] ∧ s.remoteEntries 15 63 (.write 0xFC0 [1]) = [e] ∧
    s.remoteEntries 15 63 (.atomic 0xFC8 .add true 1 0) = [e] ∧ e.getLsbD 1 = false ∧ s.poisoned 0xFC0 1 = true ∧
    s.poisoned 0xFC8 8 = true ∧ s.poisoned 0xFFF 1 = true ∧ 1 ≠ 0 := by decide +kernel

theorem witness_LanesAndTime_wowen :
    (let s := { State.reset with mgmt := { timeSrc := 1, config := [(2, 512)] } }
     s.mgmt.timeSrc = 1 ∧ s.timeLane = some 511 ∧ (s.lanes.get 511 {}).failed = false) ∧
    (let l : Lane := { unacked := [(7, zeroFlit), (3, zeroFlit)], resends := 16 }
     l.oldest = some (3, zeroFlit) ∧ l.unacked ≠ [] ∧ 16 ≤ l.resends) := by decide +kernel

theorem witness_ResetAndLinkDown_functions :
    let t (n : Nat) := ((State.reset.modFn 63 fun f => { f with trust := { tdisp := n } }).fn 63).trust.tdisp
    t 1 = 1 ∧ t 2 = 2 ∧ t 0 = 0 ∧ t 3 = 3 := by decide +kernel

/-- The module booted, function 63 with a state of trust. -/
def trusting (t : Trust) (m : Mgmt) : State :=
  State.modFn { State.reset with mgmt := { m with booted := true, config := [(4, 63)] } } 63 fun f => { f with trust := t }

theorem witness_Attestation_sealed :
    (let s := trusting { negotiated := true, secret := some [1], session := true } {}
     s.mgmt.booted = true ∧ s.fnPresent 63 = true ∧ (s.fn 63).trust.session = true ∧ s.mgmt.begun = false ∧ s.mgmt.asked = []) ∧
    (let s := trusting { negotiated := true, secret := some [1], session := true } {}
     Sends (.getCertificate ⟨63, false⟩ 0) s [.spdm 63 (2 :: (s.fnChain 63).flatten)]) ∧
    (trusting {} { begun := true }).mgmt.begun = true ∧ (trusting {} { asked := [(⟨63, false⟩, 1, [])] }).mgmt.asked ≠ [] ∧
    (∀ n, n < 4 → ((trusting { tdisp := n } {}).fn 63).trust.tdisp = n) := by
  refine ⟨by decide +kernel, rfl, by decide +kernel, by decide +kernel, by decide +kernel⟩

/-- World 1 with a loss ring and a fault mailbox with room, and a second frame at the end of the first node's region. -/
def insured (s : State) : State :=
  s.modWorld 1 fun w => { w with areas := { w.areas with lossBase := 0x3000, lossCap := 64, faultMbx := 1023 } }

theorem witness_StorageErrors_losses :
    (let s := insured (withLine 1 1 clean)
     (s.slice (sliceOf 0)).inSet 0 ≠ [] ∧ (∀ e ∈ (s.slice (sliceOf 0)).inSet 0, e.2.world = 1)) ∧
    (let s := insured (withMail 63 id)
     let s : State := { s with extents := s.extents ++ [{ base := 0x10000001000, size := 0, world := 1 }] }
     let m := s.mailbox (s.world 1).areas.faultMbx
     (s.world 1).st ≠ .absent ∧ m.arming = none ∧ m.entries.length < 64 ∧ s.mem.wf = true ∧ 0 < (s.world 1).areas.lossCap ∧
     (nodeRegion 10 0).1 < 0x30000000000 ∧ (nodeRegion 0 0).1 < 0x30000000000 ∧
     (∃ x ∈ s.extents, meets (nodeRegion 10 0).1 (nodeRegion 10 0).2 x.base (pageSize x.size) = true) ∧
     (∀ x ∈ s.extents, x.world = 1)) ∧
    -- an instruction that reads v5 in lane 0, and s[3]
    (let s := bench fun t => { t with ctl := { t.ctl with vPoison := [(5, 0), (5, 1), (4, 0)] } }
     let i : Instr := .iadd ⟨false, false⟩ .always 1 5 (.lit 5)
     s.src.ctl.sPoison = [] ∧ (5, 0) ∈ s.src.ctl.vPoison ∧ 5 ∈ (regsOf i).1 ∧ inMask (s.lanesRead i) 0 = true ∧
     inMask (s.lanesRead i) 1 = false ∧ 4 ∉ (regsOf i).1) ∧
    (let s := bench fun t => { t with ctl := { t.ctl with sPoison := [3] } }
     let i : Instr := .sadd ⟨false, false⟩ 1 3 (.lit 5)
     s.src.ctl.sPoison = [3] ∧ 3 ∈ wordsOf i ∧ wordSpecial 3 = none) ∧
    (let i : Instr := .srds ⟨false, false⟩ 1 14
     ∃ k ∈ wordsOf i, wordSpecial k = some 14) := by
  decide +kernel

theorem isMember_of {s : State} {p : Troupe} {m : Member} (ws : List W32) (hl : ws.length = m.len)
    (hc : ∀ j, j < m.len → (s.codeWord p [] (m.pos + BitVec.ofNat 32 j)).toOption = some (ws.getD j 0))
    (ht : ∀ j, 0 < j → j < m.len → decode (ws.take j) = .error .truncated) (hd : decode ws = .ok (m.instr, m.len))
    (hr : ∀ r ∈ vregsOf m.instr, r < 8 * p.blocks.length) : IsMember s p m :=
  ⟨ws, hl, fun j h => ok_of_toOption (hc j h), ht, hd, hr⟩

/-- The chain of "Worked encodings". -/
def worked : List Member :=
  [⟨.iadd ⟨true, false⟩ .always 1 2 (.lit 5), 0, 2⟩, ⟨.sadd ⟨false, false⟩ 3 3 (.reg 4), 2, 1⟩]

theorem witness_StepRunsDecoded_chain :
    let s := poisedAt 0x101C30C400000005859C10BF
    IsChain s s.me s.me.pc worked ∧ 0 + chainLen worked ≤ 24 ∧ (s.touchCode s.me worked).gated s.me worked = false ∧
    s.me.needsRelease worked = false ∧ (∀ m ∈ worked, (s.touchCode s.me worked).poisonRead m.instr = none) ∧
    (s.touchCode s.me worked).broken s.me worked = [] ∧ setsCounter worked = false := by
  refine ⟨⟨by decide +kernel, isMember_of [0x859C10BF, 5] rfl (by decide +kernel) ?_ rfl (by decide +kernel), rfl, by decide +kernel,
      by decide +kernel, isMember_of [0x101C30C4] rfl (by decide +kernel) ?_ rfl (by decide +kernel), rfl⟩, by decide, by decide +kernel,
    by decide +kernel, by decide +kernel, by decide +kernel, by decide +kernel⟩
  · intro j h0 h1
    obtain rfl : j = 1 := by have : j < 2 := h1; omega
    rfl
  · intro j h0 h1
    have : j < 1 := h1
    omega

theorem witness_StepRunsDecoded_poison :
    let s := poisedAt 0x101C30C400000005859C10BF fun t => { t with ctl := { t.ctl with vPoison := [(2, 0)] } }
    let s := s.touchCode s.me worked
    (worked.findSome? fun m => s.poisonRead m.instr) = some (1, 2) ∧ s.gated s.me worked = false := by decide +kernel

theorem witness_StepRunsDecoded_counter :
    setsCounter [⟨.cntcfg false 4 (.reg 5), 0, 1⟩] = true ∧ (poisedAt 0).unissued (poisedAt 0).me = false := by decide +kernel

/-! ## Ill-formed terms: one for each check -/

theorem test_illformed_chain_and_end : Instr.wf (.iadd ⟨true, true⟩ .always 0 0 (.reg 0)) = false := by decide
theorem test_illformed_srds_replay_pair : Instr.wf (.srds ⟨false, false⟩ 5 16) = false := by decide
theorem test_illformed_atomics :
    Instr.wf (.amog false .always ⟨0, 0, 0, 0, 0, .fadd, true, 0⟩) = false ∧
    Instr.wf (.amog false .always ⟨1, 0, 0, 0, 0, .add, true, 0⟩) = false ∧
    Instr.wf (.amos false .always ⟨0, 0, 1, 0, 0, .add, true, 0⟩) = false ∧
    Instr.wf (.amos false .always ⟨0, 0, 2, 0, 0, .cas, true, 0⟩) = false ∧
    Instr.wf (.amos false .always ⟨0, 0, 1, 0, 0, .cas, false, 0⟩) = false ∧
    Instr.wf (.redg false .always ⟨0, 0, 0, 0, 0, .add, false, 0⟩) = false ∧
    Instr.wf (.redg false .always ⟨63, 0, 0, 0, 0, .swap, false, 0⟩) = false := by decide
theorem test_illformed_prmw : Instr.wf (.prmw false 0 0 63 0 .cas 0) = false := by decide
theorem test_illformed_places :
    Instr.wf (.runArbitration 192 0) = false ∧ Instr.wf (.runArbitration 0 4) = false ∧
    Instr.wf (.troupeRetirement 0 32) = false ∧ Instr.wf (.processionPassage 192 true) = false ∧
    Instr.wf (.mmaExecute 192) = false ∧ Instr.wf (.visibleBankComplete 0 4) = false ∧
    Instr.wf (.serviceRequest 24 0) = false ∧ Instr.wf (.heatSample 24 0) = false ∧
    Instr.wf (.processionOwnerChange 768) = false ∧ Instr.wf (.ensemblePhaseComplete 4096) = false ∧
    Instr.wf (.launchDivert 4096) = false ∧ Instr.wf (.qnop 64) = false ∧ Instr.wf (.flitResend 512) = false := by decide
theorem test_illformed_worlds :
    Instr.wf (.destroy 64) = false ∧ Instr.wf (.noticePost 64) = false ∧ Instr.wf (.list 64) = false ∧
    Instr.wf (.queueStop ⟨64, false⟩ 0) = false ∧ Instr.wf (.queueStop ⟨0, false⟩ 64) = false ∧
    Instr.wf (.feEntryWrite ⟨0, false⟩ ⟨64, false⟩ 0) = false ∧ Instr.wf (.registerWrite ⟨64, false⟩ 0 0) = false ∧ Instr.wf (.remoteAccess 16 0 0 (.read 0 1)) = false ∧
    Instr.wf (.startInterface 64) = false := by decide

/-! ## Decoding: the manual's own words, and words put together from its tables -/

-- "Worked encodings" of 02_encoding.md, and R156's example
theorem test_decode_worked :
    decode [0x859C10BF, 5] = .ok (.iadd ⟨true, false⟩ .always 1 2 (.lit 5), 2) ∧
    decode [0x101C30C4] = .ok (.sadd ⟨false, false⟩ 3 3 (.reg 4), 1) ∧
    decode [0x211C4062, 0x08000040] = .ok (.ldg32 false .always 4 ⟨1, 2, 2, 0x40⟩ 2, 2) ∧
    decode [0x0584827F, 0x64] = .ok (.iadd ⟨false, false⟩ (.pos 1) 8 9 (.lit 100), 2) ∧
    decode [0x009CA2CC] = .ok (.fmul ⟨false, false⟩ .always 10 11 (.reg 12), 1) ∧
    decode [0x001CD10A] = .ok (.fadd ⟨false, false⟩ .always 13 4 (.reg 10), 1) ∧
    decode [0x58DC01C0, 0xFFFFFFF1] = .ok (.loop true 7 0xFFFFFFF1, 2) ∧
    decode [0x0E1C5080] = .ok (.redfAdd ⟨false, false⟩ .always 5 2, 1) ∧
    decode [0] = .ok (.fadd ⟨false, false⟩ (.pos 0) 0 0 (.reg 0), 1) ∧ decode [0xFFFFFFFF] = .error .reservedGuard :=
  ⟨rfl, rfl, rfl, rfl, rfl, rfl, rfl, rfl, rfl, rfl⟩

-- the program of "Divergence" and the calls of 04_scalar_control.md
theorem test_decode_control :
    decode [0x03DC2083] = .ok (.fcmpLt ⟨false, false⟩ .always 1 2 (.reg 3), 1) ∧
    decode [0x165CA001] = .ok (.exif ⟨false, false⟩ 5 1, 1) ∧ decode [0x575C0000, 3] = .ok (.bexz true 3, 2) ∧
    decode [0x169C0280] = .ok (.exelse ⟨false, false⟩ 5, 1) ∧ decode [0x159C0280] = .ok (.exload ⟨false, false⟩ 5, 1) ∧
    decode [0x589C0028, 0xB4] = .ok (.call true 40 0xB4, 2) ∧
    decode [0x585C0A00, 0] = .ok (.bri true 40 0, 2) ∧ decode [0x191C0000] = .ok (.nop ⟨false, false⟩, 1) :=
  ⟨rfl, rfl, rfl, rfl, rfl, rfl, rfl, rfl⟩

-- 06_memory.md, 08_procession.md, 09_async.md
theorem test_decode_memory :
    decode [0x275D4140, 0x10000000] = .ok (.pread false 5 5 1, 2) ∧
    decode [0x27DD4105, 0x01000000] = .ok (.prmw false 5 4 5 0 .bnd 0, 2) ∧
    decode [0x285C913F, 1] = .ok (.barArrive false 9 4 (.lit 1), 2) ∧ decode [0x28DC0109] = .ok (.barWait false 4 (.reg 9), 1) ∧
    decode [0x295C9144] = .ok (.ebarArrive false 9 5 (.reg 4), 1) ∧
    decode [0x259C3060, 0x18000000] = .ok (.xst32 false .always 3 ⟨1, 2, 6, 0⟩ 0, 2) ∧
    decode [0x25DD0080, 0x18008040] = .ok (.xst128 false .always 4 ⟨2, 0, 6, 0x8040⟩ 0, 2) ∧
    decode [0x2A5C8FC0, 0x08000080] = .ok (.pin false 8 ⟨2, 0x80⟩ 0, 2) ∧
    decode [0x2B5D0144] = .ok (.mbxTake false 2 5 4, 1) ∧ decode [0x2B9C0300] = .ok (.mwait false 12, 1) :=
  ⟨rfl, rfl, rfl, rfl, rfl, rfl, rfl, rfl, rfl, rfl⟩

-- 10_matrix.md, 11_bindings.md, 12_deadlines_traps.md, 13_observation.md
theorem test_decode_system :
    decode [0x309C4002] = .ok (.owrite false .always 4 (.side 0), 1) ∧
    decode [0x319C20C4, 0x03A00000] = .ok (.mma false .always ⟨2, 3, 4, 0, 7, true, false⟩, 2) ∧
    decode [0x31DCC000] = .ok (.mfence false 12, 1) ∧ decode [0x721C0080] = .ok (.aswap true 2, 1) ∧
    decode [0x325D0083] = .ok (.ard false .always 1 2 3, 1) ∧ decode [0x351CA540] = .ok (.yieldres false 10 21 0, 1) ∧
    decode [0x355CC03F, 1] = .ok (.lossrd false 12 (.lit 1), 2) ∧ decode [0x341C069C] = .ok (.tlbw false 13 (.reg 28), 1) ∧
    decode [0x359C0740] = .ok (.lossclr false 29, 1) ∧ decode [0x369C0106] = .ok (.wraparm false 2 (.reg 6), 1) ∧
    decode [0x371C07CE] = .ok (.valid false 31 (.reg 14), 1) ∧ decode [0x381C5000] = .ok (.fstat false .always 5, 1) ∧
    decode [0x775C003F, 42] = .ok (.trap true (.lit 42), 2) ∧ decode [0x385C0105] = .ok (.cntcfg false 4 (.reg 5), 1) ∧
    decode [0x389D4100] = .ok (.cntrd false 20 4, 1) ∧ decode [0x779C0000] = .ok (.brk true, 1) :=
  ⟨rfl, rfl, rfl, rfl, rfl, rfl, rfl, rfl, rfl, rfl, rfl, rfl, rfl, rfl, rfl, rfl⟩

/-! ## One step each -/

/-- The troupe after one step at the words, from a troupe as f leaves it. -/
def ran (w : Nat) (f : Troupe → Troupe) : Troupe :=
  let s := atWord w
  match step (s.setMe (f s.me)) with
  | .next t => (t.troupe 0).getD Troupe.blank
  | _ => Troupe.blank

/-- The troupe after exec, from a state. -/
def did (i : Instr) (s : State) : Troupe :=
  match exec i s with
  | .next t => t.me
  | _ => Troupe.blank

/-- Lane 0 of v3 after an instruction on v1 and v2, and the sticky bits of that lane. -/
def lane3 (op : Hdr → Guard → Reg → Reg → VSrc → Instr) (a b : W32) : W32 × Nat :=
  let t := did (op ⟨false, false⟩ .always 3 1 (.reg 2)) (bench fun t =>
    (t.setV 1 (Lanes.zero.setLane 0 a)).setV 2 (Lanes.zero.setLane 0 b))
  ((t.vreg 3).lane 0, t.sticky.lane 0)

/-- The same for one source. -/
def lane1 (op : Hdr → Guard → Reg → Reg → Instr) (a : W32) : W32 × Nat :=
  lane3 (fun h g d a _ => op h g d a) a 0

-- the chain of "Worked encodings": both members read before either writes
theorem test_chain :
    let t := ran 0x101C30C400000005859C10BF fun t => sr 3 7 (sr 4 9 (t.setV 2 (Lanes.zero.setLane 0 0xFFFFFFFF)))
    (t.vreg 1).lane 0 = 4 ∧ t.sreg 3 = 16 ∧ t.pc = 3 := by decide +kernel
-- R156's example
theorem test_redf_add :
    let t := ran 0x0E1C5080 fun t => { t with exec := 13, live := 15 }.setV 2
      (((Lanes.zero.setLane 0 0x3F800000).setLane 2 0x33800000).setLane 3 0x33800000)
    t.sreg 5 = 0x3F800001 ∧ t.sticky.nx = 0 := by decide +kernel
theorem test_loop_back : let t := ran 0xFFFFFFF158DC01C0 (sr 7 2); t.pc = 0xFFFFFFF1 ∧ t.sreg 7 = 1 := by decide +kernel
theorem test_loop_ends : let t := ran 0xFFFFFFF158DC01C0 (sr 7 1); t.pc = 2 ∧ t.sreg 7 = 0 := by decide +kernel
theorem test_call : let t := ran 0xB4589C0028 id; t.pc = 0xB4 ∧ t.sreg 40 = 2 := by decide +kernel
theorem test_exif : let t := ran 0x165CA001 fun t => { t with exec := 7, live := 7 }.setP 1 5
    t.exec = 5 ∧ t.sreg 10 = 7 ∧ t.sreg 11 = 0 := by decide +kernel
theorem test_trap :
    let t := ran 0x2A775C003F id
    t.ctl.halted = true ∧ t.pc = 0 ∧ (t.ctl.record.getD 0 0).extractLsb' 8 8 = 0x0E ∧ t.ctl.record.getD 4 0 = 42 := by
  decide +kernel
-- R60, R61: the all-ones word, and an unassigned opcode
theorem test_illegal_word :
    let t := ran 0xFFFFFFFF id
    t.ctl.halted = true ∧ (t.ctl.record.getD 0 0).extractLsb' 8 8 = 1 ∧ t.ctl.record.getD 4 0 = 0x10000 := by decide +kernel
theorem test_guard_false : let t := ran 0x0000006405848000 id; (t.vreg 8).lane 0 = 0 := by decide +kernel

theorem test_fadd_rounds_to_even : lane3 .fadd 0x3F800000 0x33800000 = (0x3F800000, 16) := by decide +kernel
theorem test_fadd_infinities : lane3 .fadd 0x7F800000 0xFF800000 = (0x7FC00000, 1) := by decide +kernel
theorem test_fsub : lane3 .fsub 0x40400000 0x3F800000 = (0x40000000, 0) := by decide +kernel
theorem test_fmul_overflows : lane3 .fmul 0x7F7FFFFF 0x40000000 = (0x7F800000, 20) := by decide +kernel
theorem test_fmul_underflows : lane3 .fmul 0x00000001 0x3F000000 = (0, 24) := by decide +kernel
theorem test_fmin_zeros : lane3 .fmin 0x00000000 0x80000000 = (0x80000000, 0) := by decide +kernel
theorem test_fmax_nan : lane3 .fmax 0x7FC00000 0x3F800000 = (0x3F800000, 0) := by decide +kernel
theorem test_fneg : lane1 .fneg 0x00000000 = (0x80000000, 0) := by decide +kernel
theorem test_fabs : lane1 .fabs 0xFFC00001 = (0x7FC00001, 0) := by decide +kernel
theorem test_frcp_zero : lane1 .frcp 0x80000000 = (0xFF800000, 2) := by decide +kernel
theorem test_frsq_four : lane1 .frsq 0x40800000 = (0x3F000000, 0) := by decide +kernel
theorem test_cvt_integer : lane1 (fun h g d a => .cvt h g d a 0) 0x80000000 = (0xCF000000, 0) := by decide +kernel
theorem test_iadd_wraps : lane3 .iadd 0xFFFFFFFF 2 = (1, 0) := by decide +kernel
theorem test_isub_wraps : lane3 .isub 0 1 = (0xFFFFFFFF, 0) := by decide +kernel
theorem test_imul_wraps : lane3 .imul 0x10001 0x10001 = (0x20001, 0) := by decide +kernel
theorem test_imulhi_signs : lane3 .imulhiS 0xFFFFFFFF 0xFFFFFFFF = (0, 0) ∧
    lane3 .imulhiZ 0xFFFFFFFF 0xFFFFFFFF = (0xFFFFFFFE, 0) := by decide +kernel
theorem test_iaddsat_clamps : lane3 .iaddsatS 0x7FFFFFFF 1 = (0x7FFFFFFF, 0) ∧
    lane3 .iaddsatS 0x80000000 0xFFFFFFFF = (0x80000000, 0) := by decide +kernel
theorem test_imin_signs : lane3 .iminS 0xFFFFFFFF 1 = (0xFFFFFFFF, 0) ∧ lane3 .iminZ 0xFFFFFFFF 1 = (1, 0) := by decide +kernel
theorem test_imax_signs : lane3 .imaxS 0xFFFFFFFF 1 = (1, 0) ∧ lane3 .imaxZ 0xFFFFFFFF 1 = (0xFFFFFFFF, 0) := by decide +kernel
theorem test_ishl_full : lane3 .ishl 1 31 = (0x80000000, 0) ∧ lane3 .ishl 1 32 = (0, 0) := by decide +kernel
theorem test_ishr_full : lane3 .ishrS 0x80000000 40 = (0xFFFFFFFF, 0) ∧ lane3 .ishrZ 0x80000000 31 = (1, 0) ∧
    lane3 .ishrZ 0x80000000 32 = (0, 0) := by decide +kernel
theorem test_ipopc : lane1 .ipopc 0xF0F00001 = (9, 0) := by decide +kernel
theorem test_iclz : lane1 .iclz 1 = (31, 0) ∧ lane1 .iclz 0 = (32, 0) := by decide +kernel
theorem test_icmp_signs :
    let s := bench fun t => t.setV 1 (Lanes.zero.setLane 0 0xFFFFFFFF)
    (did (.icmpLtS ⟨false, false⟩ .always 5 1 (.lit 0)) s).preg 5 = 1 ∧
    (did (.icmpLtZ ⟨false, false⟩ .always 5 1 (.lit 0)) s).preg 5 = 0 := by decide +kernel
theorem test_fcmp_nan :
    let s := bench fun t => t.setV 1 (Lanes.zero.setLane 0 0x7FC00000)
    (did (.fcmpNe ⟨false, false⟩ .always 5 1 (.lit 0)) s).preg 5 = 1 ∧
    (did (.fcmpLt ⟨false, false⟩ .always 5 1 (.lit 0)) s).sticky.inv = 1 ∧
    (did (.fcmpEq ⟨false, false⟩ .always 5 1 (.lit 0)) s).sticky.inv = 0 := by decide +kernel
theorem test_vlane : ((did (.vlane ⟨false, false⟩ .always 3) (bench fun t => { t with exec := 2 ^ 127, live := 2 ^ 127 })).vreg 3).lane 127 =
    127 := by decide +kernel
theorem test_shfl_dn : ((did (.shflDn ⟨false, false⟩ .always 3 1 (.lit 127)) (bench fun t =>
    t.setV 1 (Lanes.zero.setLane 127 9))).vreg 3).lane 0 = 9 := by decide +kernel
theorem test_ballot : let t := did (.ballot ⟨false, false⟩ .always 31 2) (bench fun t =>
    { t with exec := 2 ^ 127 + 1, live := 2 ^ 127 + 1 }.setP 2 (2 ^ 127 + 6))
    t.sreg 62 = 0 ∧ t.sreg 63 = 2 ^ 63 := by decide +kernel

theorem test_sshr_signed : (did (.sshrS ⟨false, false⟩ 3 1 (.lit 63)) (bench (sr 1 (2 ^ 63)))).sreg 3 = ones64 := by decide +kernel
theorem test_sadd_literal : (did (.sadd ⟨false, false⟩ 3 3 (.lit 0xFFFFFFFF)) (bench (sr 3 5))).sreg 3 = 4 := by decide +kernel
theorem test_smov64 : (did (.smov64 ⟨false, false⟩ 3 0x89ABCDEF 0x01234567) (bench id)).sreg 3 = 0x0123456789ABCDEF := by decide +kernel
theorem test_sbfx : (did (.sbfx ⟨false, false⟩ 3 1 (.lit 0x3F3C)) (bench (sr 1 (0xA * 2 ^ 60)))).sreg 3 = 0xA := by decide +kernel
theorem test_sbfi : (did (.sbfi ⟨false, false⟩ 3 1 (.lit 0x0708)) (bench fun t => sr 1 0x1FF (sr 3 (2 ^ 64 - 1) t))).sreg 3 = ones64 ∧
    (did (.sbfi ⟨false, false⟩ 3 1 (.lit 0x0708)) (bench fun t => sr 1 0x100 (sr 3 (2 ^ 64 - 1) t))).sreg 3 = 0xFFFFFFFFFFFF00FF := by
  decide +kernel
theorem test_scmp : (did (.scmpLtS ⟨false, false⟩ 7 1 (.lit 0)) (bench (sr 1 (2 ^ 63)))).f = 0x80 ∧
    (did (.scmpLtZ ⟨false, false⟩ 7 1 (.lit 0)) (bench (sr 1 (2 ^ 63)))).f = 0 := by decide +kernel
theorem test_excnt : (did (.excnt ⟨false, false⟩ 3 true) (bench fun t => { t with live := BitVec.allOnes 128 })).sreg 3 = 128 := by
  decide +kernel
theorem test_timerset_zero : (did (.timerset false 1 (.lit 9)) (bench (sr 1 0))).sp.timer = 1 := by decide +kernel
theorem test_bar_arrive_completes :
    let s := (withPlot fun t => sr 1 0x1FC010 t)
    (match exec (.barInit false 1 (.lit 1)) s with
    | .next t => (match exec (.barArrive false 2 1 (.lit 1)) t with
      | .next u => ((u.core 0).bar 0x1FC010).phase == 1 && ((u.core 0).bar 0x1FC010).arrived == 0 && u.me.sreg 2 == 0
      | _ => false)
    | _ => false) = true := by decide +kernel
theorem test_sts_lds : let s := withPlot fun t => sr 8 0x1FC000 (t.setV 4 (Lanes.zero.setLane 0 0x12345678))
    (match exec (.sts32 false .always 4 (at8 4) 0) s with
    | .next t => (t.core 0).spad.byte 0x1FC004 == 0x78 && ((did (.lds32 false .always 5 (at8 4) 0) t).vreg 5).lane 0 == 0x12345678
    | _ => false) = true := by decide +kernel
theorem test_load_sign_extends :
    let l : LaneOp := { lane := 0, va := 0x10FFF, pa := 0xFFF }
    let s := issued (.load 1 true 3) [l]
    (match exec (.sliceAccessPerformed 0 1) { s with mem := s.mem.write 0xFFF [0x80] } with
    | .next t => (((t.troupe 1).getD Troupe.blank).vreg 3).lane 0 == 0xFFFFFF80
    | _ => false) = true := by decide +kernel
theorem test_atomic_add :
    let s := (issued (.atomic .add true (some 62)) []).modCluster 23 fun c => { c with reqQ := [request true .add] }
    (match exec (.serviceRequest 23 0) { s with mem := s.mem.write 0xFF8 (List.replicate 8 0xFF) } with
    | .next t => t.mem.read 0xFF8 8 == List.replicate 8 0
    | _ => false) = true := by decide +kernel
theorem test_prmw_bnd :
    let s := atStop { entry 4 with qop := .bnd, wsel := 0, x := 2, y := 2 } true
    (match exec (.processionPassage 0 true) s with
    | .next t => (t.ringSlot 767).w == [1, 2, 3, 4] && ((t.troupe 1).getD Troupe.blank).sreg 60 == 1
    | _ => false) = true := by decide +kernel
theorem test_qsignal_adds :
    let s := queued [6 + 2 ^ 16, 0x10FF8, 7]
    (match exec (.qsignal 63) { s with mem := s.mem.write 0xFF8 [5] } with
    | .next t => t.mem.read 0xFF8 8 == [12, 0, 0, 0, 0, 0, 0, 0]
    | _ => false) = true := by decide +kernel
theorem test_create_epoch :
    (match exec (.create 63 createOps) fresh with
    | .next t => (t.world 63).epoch == 1 && (t.world 63).areas.repBase == 0x10000001000 && t.mgmt.allocStatus == 0 &&
        (t.fn 0).irqStatus == 64
    | _ => false) = true := by decide +kernel
theorem test_junction_trip : (match exec (.junctionTrip 115) State.reset with | .next t => t.powered | _ => true) = false := by
  decide +kernel

end Sys2Proof.Tests
end

section
/-! SUPPORT. Writes to the registers of a function (R392 to R394, R422, R423, R434): a part of the state read back after
it was replaced, the TLPs that a function takes, and one rule for each register; then the statement about them. -/

namespace Sys2Proof.Machine

open Sys2Proof.Claims

/-! ### Functions and queues read back -/

@[simp] theorem State.fn_modFn_same (s : State) (f : Nat) (g : Fn → Fn) : (s.modFn f g).fn f = g (s.fn f) := by
  simp [State.fn, State.modFn]

theorem State.fn_modFn_of_ne (s : State) {f k : Nat} (g : Fn → Fn) (h : k ≠ f) : (s.modFn f g).fn k = s.fn k := by
  simp [State.fn, State.modFn, Ne.symm h]

@[simp] theorem State.queue_modQueue_same (s : State) (q : Nat) (g : Queue → Queue) :
    (s.modQueue q g).queue q = g (s.queue q) := by
  simp [State.queue, State.modQueue]

theorem State.queue_modQueue_of_ne (s : State) {q k : Nat} (g : Queue → Queue) (h : k ≠ q) :
    (s.modQueue q g).queue k = s.queue k := by
  simp [State.queue, State.modQueue, Ne.symm h]

/-- What a step that writes to the functions alone must show: function f, and that no other changes. -/
theorem State.modFn_spec (s : State) (f : Nat) (g : Fn → Fn) :
    { s.modFn f g with fns := s.fns } = s ∧ (s.modFn f g).fn f = g (s.fn f) ∧
      ∀ k, k ≠ f → (s.modFn f g).fn k = s.fn k :=
  ⟨rfl, s.fn_modFn_same f g, fun _ h => s.fn_modFn_of_ne g h⟩

/-! ### TLPs (R422, R423) -/

theorem Trust.takes_eq_true_iff (t : Trust) (ide : Bool) :
    t.takes ide = true ↔ (t.tdisp = 1 ∨ t.tdisp = 2 → ide = true ∧ t.ide = true) := by
  simp only [Trust.takes, Bool.or_eq_true, Bool.not_eq_true', Bool.or_eq_false_iff, beq_eq_false_iff_ne,
    Bool.and_eq_true]
  tauto

theorem Trust.takes_eq_false (t : Trust) {ide : Bool} (locked : t.tdisp = 1 ∨ t.tdisp = 2)
    (stray : ide = false ∨ t.ide = false) : t.takes ide = false := by
  rw [← Bool.not_eq_true, Trust.takes_eq_true_iff]
  intro h
  obtain ⟨hide, htrust⟩ := h locked
  simp [hide, htrust] at stray

theorem takes_of_reached {s : State} {f : Nat} {ide : Bool} (h : Reached s f ide) :
    (s.fn f).trust.takes ide = true :=
  (Trust.takes_eq_true_iff _ _).mpr h.2

theorem State.onTlp_of_reached {s : State} {f : Nat} {ide : Bool} (h : Reached s f ide) (go : State → State) :
    s.onTlp ⟨f, ide⟩ go = go s := by
  simp [State.onTlp, h.1, takes_of_reached h]

/-- The PF's write moves a locked or running interface to ERROR. -/
theorem State.tdispError_of_locked {s : State} {f : Nat}
    (h : (s.fn f).trust.tdisp = 1 ∨ (s.fn f).trust.tdisp = 2) :
    s.tdispError f = s.modFn f fun x => { x with trust := { x.trust with tdisp := 3 } } := by
  simp [State.tdispError, h]

@[simp] theorem State.queue_tdispError (s : State) (f q : Nat) : (s.tdispError f).queue q = s.queue q := by
  simp only [State.tdispError]
  split <;> rfl

/-! ### Writes to queues (R392, R393, R397) -/

/-- A queue that does not run, or whose WPTR stays within the ring, hears no doorbell. -/
theorem State.doorbell_of_quiet {s : State} {q : Nat} (h : (s.queue q).state ≠ 0 ∨ (s.queue q).overfull = false) :
    s.doorbell q = s := by
  simp only [State.doorbell]
  rw [if_neg]
  rintro ⟨-, running, -, beyond⟩
  rcases h with stands | within
  · exact stands running
  · exact Bool.false_ne_true (within.symm.trans beyond)

theorem Queue.overfull_eq_false {x : Queue} (h : (x.wptr - x.rptr).toNat ≤ 2 ^ x.log2) : x.overfull = false :=
  decide_eq_false (Nat.not_lt.mpr h)

/-- A write to a queue of the function that leaves it quiet: the register is written, and the slot at RPTR is read
again. -/
theorem State.writeQueue_of_quiet {s : State} {f q : Nat} (off : Nat) (v : W64) (hq : q < 64)
    (hmap : (s.queue q).qmap = some f)
    (quiet : ((s.queue q).write off v).state ≠ 0 ∨ ((s.queue q).write off v).overfull = false) :
    s.writeQueue f q off v = (s.modQueue q fun x => x.write off v).rereadRing q off := by
  simp only [State.writeQueue, hq, hmap, and_self, if_true]
  rw [State.doorbell_of_quiet (by simpa using quiet)]

/-- A write to a queue, but for a doorbell, drops what its hart asks at RPTR, for one slot or for two. -/
theorem State.rereadRing_of_ne (s : State) (q : Nat) {off : Nat} (h : off ≠ 0x18) :
    s.rereadRing q off =
      { s with ext := s.ext.filter fun x => x.opId != agentOp q && x.opId != agentOp (pairKey q) } := by
  simp only [State.rereadRing, h, if_false, State.dropQuestions, List.filter_filter, Bool.and_comm]

/-- A write of Q_CTL that leaves the queue quiet. -/
theorem State.writeQueue_ctl_spec {s : State} {f q : Nat} {v : W64} {y : Queue} (hq : q < 64)
    (hmap : (s.queue q).qmap = some f) (hy : (s.queue q).write 0x08 v = y)
    (quiet : y.state ≠ 0 ∨ y.overfull = false) :
    let t := s.writeQueue f q 0x08 v
    { t with queues := s.queues, ext := s.ext } = s ∧
      t.ext = s.ext.filter (fun x => x.opId != agentOp q && x.opId != agentOp (pairKey q)) ∧
      t.queue q = y ∧ ∀ k, k ≠ q → t.queue k = s.queue k := by
  subst hy
  rw [State.writeQueue_of_quiet 0x08 v hq hmap quiet, State.rereadRing_of_ne _ q (by decide)]
  exact ⟨rfl, rfl, s.queue_modQueue_same q (·.write 0x08 v), fun k hk => s.queue_modQueue_of_ne (·.write 0x08 v) hk⟩

theorem fld_w64_low {n : Nat} (b : Nat) (h : n < 16) : fld (w64 (n + b * 256)) 3 0 = n := by
  simp only [fld, BitVec.toNat_ofNat]
  omega

theorem fld_w64_state {n b : Nat} (h : n < 16) (hb : b < 4) : fld (w64 (n + b * 256)) 9 8 = b := by
  simp only [fld, BitVec.toNat_ofNat]
  omega

/-- STATE 1 with LOG2SIZE as it stands stops the queue. -/
theorem Queue.writeCtl_stop {x : Queue} (h : x.log2 < 16) :
    x.writeCtl (w64 (x.log2 + 256)) = { x with state := 1 } := by
  have hlow := fld_w64_low 1 h
  have hstate := fld_w64_state (b := 1) h (by decide)
  simp only [one_mul] at hlow hstate
  simp only [Queue.writeCtl, hlow, hstate]
  split <;> rfl

/-- STATE 0 with a usable LOG2SIZE runs a queue that does not run. -/
theorem Queue.writeCtl_run {x : Queue} {n : Nat} (stands : x.state ≠ 0) (low : 4 ≤ n) (high : n < 16) :
    x.writeCtl (w64 n) = { x with state := 0, log2 := n } := by
  have hlow := fld_w64_low 0 high
  have hstate := fld_w64_state (b := 0) high (by decide)
  simp only [zero_mul, add_zero] at hlow hstate
  have sized : n ≤ 16 := by omega
  simp [Queue.writeCtl, hlow, hstate, stands, Queue.sized, low, sized]

theorem exec_qWptrDoorbell_of_reached {s : State} {f q : Nat} {ide : Bool} (v : W64) (h : Reached s f ide) :
    exec (.qWptrDoorbell ⟨f, ide⟩ q v) s = .next (s.writeQueue f q 0x18 v) :=
  congrArg _ (State.onTlp_of_reached h _)

theorem exec_queueStop_of_reached {s : State} {f q : Nat} {ide : Bool} (h : Reached s f ide) :
    exec (.queueStop ⟨f, ide⟩ q) s = .next (s.writeQueue f q 0x08 (w64 ((s.queue q).log2 + 256))) :=
  congrArg _ (State.onTlp_of_reached h _)

theorem exec_queueRun_of_reached {s : State} {f q : Nat} {ide : Bool} (v : W64) (h : Reached s f ide) :
    exec (.queueRun ⟨f, ide⟩ q v) s = .next (s.writeQueue f q 0x08 (w64 (fld v 3 0))) :=
  congrArg _ (State.onTlp_of_reached h _)

theorem qWptrDoorbell_within_ring {s : State} {f q : Nat} {ide : Bool} (v : W64) (h : Reached s f ide) (hq : q < 64)
    (hmap : (s.queue q).qmap = some f)
    (room : (v.setWidth 32 - (s.queue q).rptr : W32).toNat ≤ 2 ^ (s.queue q).log2) :
    ∃ t, exec (.qWptrDoorbell ⟨f, ide⟩ q v) s = .next t ∧ { t with queues := s.queues } = s ∧
      t.queue q = { s.queue q with wptr := v.setWidth 32 } ∧ ∀ k, k ≠ q → t.queue k = s.queue k := by
  have quiet : ((s.queue q).write 0x18 v).overfull = false := Queue.overfull_eq_false room
  have written : s.writeQueue f q 0x18 v = s.modQueue q fun x => x.write 0x18 v :=
    State.writeQueue_of_quiet 0x18 v hq hmap (.inr quiet)
  refine ⟨_, exec_qWptrDoorbell_of_reached v h, ?_⟩
  rw [written]
  exact ⟨rfl, s.queue_modQueue_same q _, fun k hk => s.queue_modQueue_of_ne _ hk⟩

/-! ### The front-end table (R394, R423) -/

theorem State.writeFe_installed {s : State} {f e : Nat} {lo : W64} (he : e < 64)
    (good : entryBad (lo, (s.fn f).feHi.get e 0) = false)
    (admitted : entryValid (stamp f (lo, (s.fn f).feHi.get e 0)) = true →
      s.admits f (stamp f (lo, (s.fn f).feHi.get e 0)) = true) :
    s.writeFe f e lo = s.modFn f fun y =>
      { y with feRefused := false, fe := y.fe.put e (stamp f (lo, (s.fn f).feHi.get e 0)) } := by
  simp only [State.writeFe]
  rw [if_neg (by omega), if_neg]
  rintro (bad | ⟨valid, refused⟩)
  · exact Bool.false_ne_true (good.symm.trans bad)
  · rw [admitted valid] at refused
    exact Bool.false_ne_true refused

theorem State.writeFe_refused {s : State} {f e : Nat} {lo : W64} (he : e < 64)
    (bad : entryBad (lo, (s.fn f).feHi.get e 0) = true) :
    s.writeFe f e lo = s.modFn f fun y => { y with feRefused := true } := by
  simp only [State.writeFe]
  rw [if_neg (by omega), if_pos (.inl bad)]

/-- What a write of an entry leaves, whether it is installed, refused, or at no entry. -/
theorem State.writeFe_frame (s : State) (f e : Nat) (lo : W64) :
    { s.writeFe f e lo with fns := s.fns } = s ∧ ((s.writeFe f e lo).fn f).trust = (s.fn f).trust ∧
      ∀ k, k ≠ f → (s.writeFe f e lo).fn k = s.fn k := by
  simp only [State.writeFe]
  split
  · exact ⟨rfl, rfl, fun _ _ => rfl⟩
  · split
    all_goals
      refine ⟨rfl, ?_, fun k hk => s.fn_modFn_of_ne _ hk⟩
      rw [State.fn_modFn_same]

theorem exec_feEntryWrite_of_reached {s : State} {f e : Nat} {ide : Bool} (lo : W64) (h : Reached s f ide) :
    exec (.feEntryWrite ⟨f, ide⟩ ⟨e, false⟩ lo) s = .next (s.writeFe f e lo) :=
  congrArg _ (State.onTlp_of_reached h _)

theorem exec_feEntryWrite_outside {s : State} {f e : Nat} {ide : Bool} (lo : W64) (h : Reached s 0 ide) :
    exec (.feEntryWrite ⟨f, ide⟩ ⟨e, true⟩ lo) s = .next ((s.tdispError f).writeFe f e lo) :=
  congrArg _ (State.onTlp_of_reached h _)

theorem feEntryWrite_outside_moves_to_error {s : State} {f e : Nat} {ide : Bool} (lo : W64) (h : Reached s 0 ide)
    (locked : (s.fn f).trust.tdisp = 1 ∨ (s.fn f).trust.tdisp = 2) :
    ∃ t, exec (.feEntryWrite ⟨f, ide⟩ ⟨e, true⟩ lo) s = .next t ∧ { t with fns := s.fns } = s ∧
      (t.fn f).trust = { (s.fn f).trust with tdisp := 3 } ∧ ∀ k, k ≠ f → t.fn k = s.fn k := by
  refine ⟨_, exec_feEntryWrite_outside lo h, ?_⟩
  rw [State.tdispError_of_locked locked]
  obtain ⟨hrest, htrust, hothers⟩ :=
    (s.modFn f fun x => { x with trust := { x.trust with tdisp := 3 } }).writeFe_frame f e lo
  refine ⟨congrArg (fun u : State => { u with fns := s.fns }) hrest, ?_, fun k hk => ?_⟩
  · rw [htrust, State.fn_modFn_same]
  · rw [hothers k hk, State.fn_modFn_of_ne _ _ hk]

/-! ### Writes to the other registers (R434) -/

theorem exec_registerWrite_of_reached {s : State} {f : Nat} {ide : Bool} (off : Nat) (v : W64) (h : Reached s f ide) :
    exec (.registerWrite ⟨f, ide⟩ off v) s = s.writeReg f off v := by
  show execRegisterWrite ⟨f, ide⟩ off v s = _
  simp [execRegisterWrite, h.1, takes_of_reached h]

/-- A TLP off the IDE stream of a locked or running interface is discarded, and the interface moves to ERROR. -/
theorem exec_registerWrite_stray {s : State} {f : Nat} {ide : Bool} (off : Nat) (v : W64)
    (present : s.fnPresent f = true) (locked : (s.fn f).trust.tdisp = 1 ∨ (s.fn f).trust.tdisp = 2)
    (stray : ide = false ∨ (s.fn f).trust.ide = false) :
    exec (.registerWrite ⟨f, ide⟩ off v) s =
      .next (s.modFn f fun x => { x with trust := { x.trust with tdisp := 3 } }) := by
  show execRegisterWrite ⟨f, ide⟩ off v s = _
  simp [execRegisterWrite, State.onTlp, present, Trust.takes_eq_false _ locked stray]

theorem State.writeReg_irqStatus (s : State) (f : Nat) (v : W64) : s.writeReg f 0x0008 v =
    .next (s.modFn f fun x => { x with irqStatus := x.irqStatus &&& ~~~ (v.setWidth 8) }) := by
  simp [State.writeReg]

theorem State.writeReg_irqMask (s : State) (f : Nat) (v : W64) :
    s.writeReg f 0x0010 v = .next (s.modFn f fun x => { x with irqMask := v.setWidth 8 }) := by
  simp [State.writeReg]

theorem State.writeReg_apbase (s : State) (f : Nat) (v : W64) :
    s.writeReg f 0x0018 v = .next (s.modFn f fun x => { x with apbase := v &&& 0x00FFFFFFFFFFF000 }) := by
  simp [State.writeReg]

theorem State.writeReg_feHi (s : State) (f : Nat) (v : W64) {e : Nat} (he : e < 64) :
    s.writeReg f (0x2000 + 16 * e + 8) v = .next (s.modFn f fun x => { x with feHi := x.feHi.put e v }) := by
  have index : (0x2000 + 16 * e + 8 - 0x2000) / 16 = e := by omega
  simp only [State.writeReg, index]
  rw [if_neg (by omega), if_neg (by omega), if_pos (by omega), if_neg (by omega)]

theorem State.writeReg_pf_only (s : State) {f off : Nat} (v : W64) (hoff : 0x8000 ≤ off) (hf : f ≠ 0) :
    s.writeReg f off v = .next s := by
  simp [State.writeReg, hoff, hf]

theorem State.writeReg_allocCmd (s : State) (v : W64) {i : Nat} (hi : i < 32) :
    s.writeReg 0 (0x8400 + 8 * i) v =
      .next { s with mgmt := { s.mgmt with allocCmd := s.mgmt.allocCmd.put i v } } := by
  have index : (0x8400 + 8 * i - 0x8400) / 8 = i := by omega
  simp only [State.writeReg, index]
  rw [if_neg (by omega), if_neg (by omega), if_neg (by omega), if_neg (by omega), if_pos (by omega)]

theorem State.writeReg_qmap (s : State) (v : W64) {q : Nat} (hq : q < 64) :
    s.writeReg 0 (0x8000 + 8 * q) v = .next (s.writeQmap q v) := by
  have index : (0x8000 + 8 * q - 0x8000) / 8 = q := by omega
  simp only [State.writeReg, index]
  rw [if_neg (by omega), if_neg (by omega), if_neg (by omega), if_pos (by omega)]

/-! ### FE_HI read back (R6, R178) -/

theorem State.readReg_feHi (s : State) (f : Nat) {e : Nat} (he : e < 64) :
    s.readReg f (0x2000 + 16 * e + 8) = (s.fn f).hiWord e := by
  have index : (0x2000 + 16 * e + 8 - 0x2000) / 16 = e := by omega
  simp only [State.readReg, index]
  rw [if_neg (by omega), if_neg (by omega), if_pos (by omega), if_neg (by omega)]

/-- A mask that is one throughout a field, beside another that is zero there, keeps the field. -/
theorem extractLsb'_masks_left (a n : Nat) (x y : W64) {m k : W64} (hm : m.extractLsb' a n = BitVec.allOnes n)
    (hk : k.extractLsb' a n = 0) : ((x &&& m) ||| (y &&& k)).extractLsb' a n = x.extractLsb' a n := by
  rw [BitVec.extractLsb'_or, BitVec.extractLsb'_and, BitVec.extractLsb'_and, hm, hk]
  simp

/-- A field that is zero in both masks reads as zero. -/
theorem extractLsb'_masks_neither (a n : Nat) (x y : W64) {m k : W64} (hm : m.extractLsb' a n = 0)
    (hk : k.extractLsb' a n = 0) : ((x &&& m) ||| (y &&& k)).extractLsb' a n = 0 := by
  rw [BitVec.extractLsb'_or, BitVec.extractLsb'_and, BitVec.extractLsb'_and, hm, hk]
  simp

/-- The fields of FE_HI: those written, zero in the zero fields, and the WORLD of the entry that is installed. -/
theorem Fn.hiWord_fields {x : Fn} {e : Nat} {v : W64} (h : x.feHi.find e = some v) :
    (x.hiWord e).extractLsb' 48 16 = 0 ∧ (x.hiWord e).extractLsb' 4 2 = 0 ∧
      (x.hiWord e).extractLsb' 12 36 = v.extractLsb' 12 36 ∧ (x.hiWord e).extractLsb' 0 4 = v.extractLsb' 0 4 ∧
      (x.hiWord e).extractLsb' 6 6 = (x.fe.get e (0, 0)).2.extractLsb' 6 6 := by
  have word : x.hiWord e = (v &&& 0x0000FFFFFFFFF00F) ||| ((x.fe.get e (0, 0)).2 &&& 0xFC0) := by
    simp [Fn.hiWord, Table.get, h]
  rw [word]
  refine ⟨extractLsb'_masks_neither 48 16 v _ rfl rfl, extractLsb'_masks_neither 4 2 v _ rfl rfl,
    extractLsb'_masks_left 12 36 v _ rfl rfl, extractLsb'_masks_left 0 4 v _ rfl rfl, ?_⟩
  rw [BitVec.or_comm]
  exact extractLsb'_masks_left 6 6 _ v rfl rfl

/-! ### QMAP (R434) -/

/-- The first mapping of a stopped queue leaves it the packets of its new function. -/
theorem State.writeQmap_first (s : State) {q : Nat} {v : W64} (stopped : (s.queue q).state = 1)
    (free : (s.queue q).qmap = none) (mapped : v.getLsbD 6 = true) :
    (s.writeQmap q v).queue q = { s.queue q with
      qfn := fld v 5 0, qmap := some (fld v 5 0)
      started := (s.queue q).started.filter fun p => p.world == fld v 5 0
      recorded := (s.queue q).recorded.filter fun p => p.world == fld v 5 0 } := by
  simp [State.writeQmap, bit, stopped, free, mapped, BEq.comm (a := fld v 5 0)]

/-! ### The doorbell of the allocator (R327, R413) -/

theorem State.submit_before_boot {s : State} (v : W64) (h : s.mgmt.booted = false) : s.submit v = .next s := by
  simp [State.submit, h]

/-- A command buffer that names a command starts it. -/
theorem State.submit_command {s : State} {v : W64} {i : Instr} (rung : v.getLsbD 0 = true)
    (booted : s.mgmt.booted = true) (idle : s.mgmt.running = [])
    (named : commandOf ((List.range 32).map fun k => s.mgmt.allocCmd.get k 0) = some i) :
    s.submit v = .next (State.raiseEvent { s with mgmt := { s.mgmt with
      running := (List.range 32).map fun k => s.mgmt.allocCmd.get k 0, begun := false } } i) := by
  have taken : ¬ (!s.mgmt.booted ∨ !bit v 0 ∨ !s.mgmt.running.isEmpty) := by simp [bit, rung, booted, idle]
  simp only [State.submit, named]
  rw [if_neg taken]

/-! ### The statement -/

/-- Settles O40, register by register: each write is its rule above, and what it leaves is read off the part that the
rule replaces. -/
theorem registerWrites : Obligations.RegisterWrites := by
  unfold Obligations.RegisterWrites
  refine ⟨fun f q v ide s reached hq hmap => ⟨fun room => ?_, fun hlog => ?_, fun stands low room => ?_⟩,
    fun f e lo ide s reached he => ⟨fun good admitted => ?_, fun bad => ?_⟩,
    fun f e lo ide s reached _ locked => feEntryWrite_outside_moves_to_error lo reached locked,
    fun f off v ide s present locked stray => ?_,
    fun f v ide s reached => ⟨?_, ?_, ?_, fun e he => ?_, fun hf => ?_⟩,
    fun v ide s reached => ⟨fun i hi => ?_, fun q hq stopped free mapped _ => ?_⟩,
    fun v s before => State.submit_before_boot v before,
    fun v s i rung booted idle named => ?_⟩
  · exact qWptrDoorbell_within_ring v reached hq hmap room
  · exact ⟨_, exec_queueStop_of_reached reached,
      State.writeQueue_ctl_spec hq hmap (Queue.writeCtl_stop hlog) (.inl Nat.one_ne_zero)⟩
  · have high : fld v 3 0 < 16 := Nat.mod_lt _ (by decide)
    exact ⟨_, exec_queueRun_of_reached v reached,
      State.writeQueue_ctl_spec hq hmap (Queue.writeCtl_run stands low high) (.inr (Queue.overfull_eq_false room))⟩
  · refine ⟨_, exec_feEntryWrite_of_reached lo reached, ?_⟩
    rw [State.writeFe_installed he good admitted]
    refine ⟨rfl, ?_, ?_, fun k hk => ?_, fun k hk => s.fn_modFn_of_ne _ hk⟩
    · simp [stamp]
    · simp
    · simp [Ne.symm hk]
  · refine ⟨_, exec_feEntryWrite_of_reached lo reached, ?_⟩
    rw [State.writeFe_refused he bad]
    exact s.modFn_spec f _
  · exact ⟨_, exec_registerWrite_stray off v present locked stray, s.modFn_spec f _⟩
  · exact ⟨_, (exec_registerWrite_of_reached _ v reached).trans (s.writeReg_irqStatus f v), rfl, s.fn_modFn_same f _⟩
  · exact ⟨_, (exec_registerWrite_of_reached _ v reached).trans (s.writeReg_irqMask f v), rfl, s.fn_modFn_same f _⟩
  · exact ⟨_, (exec_registerWrite_of_reached _ v reached).trans (s.writeReg_apbase f v), rfl, s.fn_modFn_same f _⟩
  · refine ⟨_, (exec_registerWrite_of_reached _ v reached).trans (s.writeReg_feHi f v he), rfl, by simp, by simp, ?_⟩
    rw [State.readReg_feHi _ f he]
    have fields := Fn.hiWord_fields (x := { s.fn f with feHi := (s.fn f).feHi.put e v }) (e := e) (v := v) (by simp)
    simpa using fields
  · rw [exec_registerWrite_of_reached _ v reached, State.writeReg_pf_only s v (by decide) hf]
  · exact ⟨_, (exec_registerWrite_of_reached _ v reached).trans (s.writeReg_allocCmd v hi), rfl, by simp,
      fun k hk => by simp [Ne.symm hk]⟩
  · exact ⟨_, (exec_registerWrite_of_reached _ v reached).trans (s.writeReg_qmap v hq),
      s.writeQmap_first stopped free mapped⟩
  · exact ⟨_, State.submit_command rung booted idle named, rfl, rfl, by simp [State.raiseEvent, State.modBook]⟩

end Sys2Proof.Machine
end

section
/-! SUPPORT. Decoding gives back every well-formed instruction (R28 to R59): the fields of each extension word, one
lemma for each format of words, then the rows of each class. -/

namespace Sys2Proof

/-! ### Fields -/

/-- The number of a register group, from its first register. -/
@[simp] theorem ofNat_mul_div (n k : Nat) [NeZero n] [NeZero k] (p : Fin n) : Fin.ofNat n (k * p.val / k) = p := by
  rw [Nat.mul_div_cancel_left _ (NeZero.pos k)]
  exact Fin.ofNat_val_eq_self p

/-- An extension word holds the number that it was made from. -/
theorem toNat_ext {n : Nat} (h : n < 2 ^ 32) : (BitVec.ofNat 32 n).toNat = n := by
  rw [BitVec.toNat_ofNat, Nat.mod_eq_of_lt h]

/-- A number's low bits, where they hold the word x. -/
theorem ofNat_of_mod {w n : Nat} (x : BitVec w) (h : n % 2 ^ w = x.toNat) : BitVec.ofNat w n = x :=
  BitVec.eq_of_toNat_eq (by rw [BitVec.toNat_ofNat, h])

@[simp] theorem toNat_beq_one (b : Bool) : (b.toNat == 1) = b := by cases b <;> rfl

theorem aOpOf_code (o : AOp) : aOpOf o.code = some o ∧ o.code < 32 := by cases o <;> decide

theorem scopeOf_code (o : Scope) : scopeOf o.code = some o ∧ o.code < 8 := by cases o <;> decide

theorem qOpOf_code (o : QOp) : qOpOf o.code = some o ∧ o.code < 16 := by cases o <;> decide

theorem swTarget_code (t : SWTarget) : swTarget t.code = some t ∧ t.code < 64 := by cases t <;> decide

theorem tlbiModeOf_code (m : TlbiMode) : tlbiModeOf m.code = some m ∧ m.code < 64 := by cases m <;> decide

theorem resumeModeOf_code (m : ResumeMode) : resumeModeOf m.code = some m ∧ m.code < 64 := by cases m <;> decide

/-- The fields of the extension word of the M format (R50). -/
theorem mExt_fields {base off : Nat} (hbase : base < 64) (hoff : off < 2 ^ 24) :
    let n := base * 2 ^ 26 + off
    n < 2 ^ 32 ∧ n / 2 ^ 26 = base ∧ bitsAt n 25 24 = 0 ∧ n % 2 ^ 24 = off := by
  simp only [bitsAt, Nat.reducePow, Nat.reduceSub, Nat.reduceAdd] at hoff ⊢
  omega

/-- The fields of the extension word of the A format (R51). -/
theorem aExt_fields {base la code w off : Nat} (hbase : base < 64) (hla : la < 16) (hcode : code < 32) (hw : w < 2)
    (hoff : off < 2 ^ 15) :
    let n := base * 2 ^ 26 + la * 2 ^ 22 + code * 2 ^ 17 + w * 2 ^ 15 + off
    n < 2 ^ 32 ∧ n / 2 ^ 26 = base ∧ bitsAt n 25 22 = la ∧ bitsAt n 21 17 = code ∧ bitsAt n 16 15 = w ∧ n % 2 ^ 15 = off := by
  simp only [bitsAt, Nat.reducePow, Nat.reduceSub, Nat.reduceAdd] at hoff ⊢
  omega

/-- The fields of the extension word of the C format, whose CW and CWA are `cw` (R53). -/
theorem cExt_fields {la acq rel scope cw : Nat} (hla : la < 16) (hacq : acq < 2) (hrel : rel < 2) (hscope : scope < 8)
    (hcw : cw < 2 ^ 7) :
    let n := la * 2 ^ 28 + acq * 2 ^ 27 + rel * 2 ^ 26 + scope * 2 ^ 23 + cw * 2 ^ 16
    n < 2 ^ 32 ∧ n / 2 ^ 28 = la ∧ bitsAt n 27 27 = acq ∧ bitsAt n 26 26 = rel ∧ bitsAt n 25 23 = scope ∧
      bitsAt n 22 22 = cw / 64 ∧ bitsAt n 21 16 = cw % 64 ∧ bitsAt n 15 0 = 0 := by
  simp only [bitsAt, Nat.reducePow, Nat.reduceSub, Nat.reduceAdd] at hcw ⊢
  omega

/-- The fields of the extension word of the MX format (R54). -/
theorem mxExt_fields {la fb z bd : Nat} (hla : la < 16) (hfb : fb < 32) (hz : z < 2) (hbd : bd < 2) :
    let n := la * 2 ^ 28 + 2 * fb * 2 ^ 22 + z * 2 ^ 21 + bd * 2 ^ 20
    n < 2 ^ 32 ∧ n / 2 ^ 28 = la ∧ bitsAt n 27 22 = 2 * fb ∧ bitsAt n 21 21 = z ∧ bitsAt n 20 20 = bd ∧ bitsAt n 19 0 = 0 := by
  simp only [bitsAt, Nat.reducePow, Nat.reduceSub, Nat.reduceAdd]
  omega

/-- The fields of the extension word of a Procession instruction (R52, R236). -/
theorem qExt_fields {la op wsel : Nat} (hla : la < 16) (hop : op < 16) (hw : wsel < 4) :
    let n := la * 2 ^ 28 + op * 2 ^ 24 + wsel * 2 ^ 22
    n < 2 ^ 32 ∧ n / 2 ^ 28 = la ∧ n / 2 ^ 24 % 16 = op ∧ n / 2 ^ 22 % 4 = wsel ∧ n % 2 ^ 22 = 0 := by
  simp only [Nat.reducePow]
  omega

/-! ### Extension words read back -/

theorem mVec_ext (m : MAddr) (la : Fin 16) (mk : MAddr → Fin 16 → Instr) :
    mVec [BitVec.ofNat 32 (m.base.val * 2 ^ 26 + m.off.toNat)] m.x.val (m.sc.val * 16 + la.val)
      (fun x => mk x (Fin.ofNat 16 ((m.sc.val * 16 + la.val) % 16))) = .ok (mk m la, 2) := by
  obtain ⟨lt, hbase, zero, hoff⟩ := mExt_fields m.base.isLt m.off.isLt
  have hsc : (m.sc.val * 16 + la.val) / 16 = m.sc.val := by omega
  have hla : (m.sc.val * 16 + la.val) % 16 = la.val := by omega
  rw [mVec, withExt, toNat_ext lt, need, if_pos zero, hbase, hsc, hla, ofNat_of_mod _ hoff]
  simp only [R, Fin.ofNat_val_eq_self]

theorem mScal_ext (m : SAddr) (la : Fin 16) (mk : SAddr → Fin 16 → Instr) :
    mScal [BitVec.ofNat 32 (m.base.val * 2 ^ 26 + m.off.toNat)] 63 la.val (fun x => mk x (Fin.ofNat 16 (la.val % 16))) =
      .ok (mk m la, 2) := by
  obtain ⟨lt, hbase, zero, hoff⟩ := mExt_fields m.base.isLt m.off.isLt
  rw [mScal, need, if_pos ⟨rfl, la.isLt⟩, withExt, toNat_ext lt, need, if_pos zero, hbase, ofNat_of_mod _ hoff,
    Nat.mod_eq_of_lt la.isLt]
  simp only [R, Fin.ofNat_val_eq_self]

/-- Well-formed operands name aligned register groups (R51, R197). -/
theorem aAligned_of_ok {x : AArgs} (ok : x.ok = true) : aAligned x.aop x.wide x.d.val x.v.val = true := by
  obtain ⟨d, x, v, base, la, aop, wide, off⟩ := x
  cases aop <;> cases wide <;> simp_all [AArgs.ok, aAligned, AOp.floating]

/-- Well-formed operands of floating type have 32 bits (R197). -/
theorem wide_of_isFloat {x : AArgs} (ok : x.ok = true) (float : x.aop.isFloat = true) : x.wide.toNat = 0 := by
  obtain ⟨d, x, v, base, la, aop, wide, off⟩ := x
  cases aop <;> cases wide <;> simp_all [AArgs.ok, AOp.floating, AOp.isFloat]

theorem aFmt_ext (red : Bool) (x : AArgs) (mk : AArgs → Instr) (ok : x.ok = true) (returns : red = true → x.d.val = 63)
    (reduces : red = true → x.aop.reduces = true) :
    aFmt red [BitVec.ofNat 32 (x.base.val * 2 ^ 26 + x.la.val * 2 ^ 22 + x.aop.code * 2 ^ 17 + x.wide.toNat * 2 ^ 15 +
      x.off.toNat)] x.d.val x.x.val x.v.val mk = .ok (mk x, 2) := by
  obtain ⟨known, small⟩ := aOpOf_code x.aop
  have w := x.wide.toNat_lt
  obtain ⟨lt, hbase, hla, haop, hwide, hoff⟩ := aExt_fields x.base.isLt x.la.isLt small w x.off.isLt
  rw [aFmt, need, if_pos returns, withExt, toNat_ext lt, haop, known]
  simp only [hwide, toNat_beq_one, hbase, hla, ofNat_of_mod _ hoff, need, if_pos reduces, if_pos (wide_of_isFloat ok),
    if_pos (aAligned_of_ok ok), if_pos w, R, Fin.ofNat_val_eq_self]

/-- CW and CWA (R53). -/
def CArgs.cwField (x : CArgs) : Nat :=
  match x.cw with
  | some k => 64 + k.val
  | none => 0

theorem CArgs.cwField_lt (x : CArgs) : x.cwField < 2 ^ 7 := by
  unfold CArgs.cwField
  split <;> omega

theorem cWords_eq (e : Bool) (op : Nat) (x : CArgs) :
    cWords e op x = [word false e 2 op 7 (4 * x.srec.val) (4 * x.drec.val) x.bar.val,
      BitVec.ofNat 32 (x.la.val * 2 ^ 28 + x.acq.toNat * 2 ^ 27 + x.rel.toNat * 2 ^ 26 + x.scope.code * 2 ^ 23 +
        x.cwField * 2 ^ 16)] := by
  unfold cWords CArgs.cwField
  cases x.cw with
  | none => simp
  | some k => simp [Nat.add_mul]

theorem cFmt_ext (x : CArgs) (mk : CArgs → Instr) :
    cFmt [BitVec.ofNat 32 (x.la.val * 2 ^ 28 + x.acq.toNat * 2 ^ 27 + x.rel.toNat * 2 ^ 26 + x.scope.code * 2 ^ 23 +
      x.cwField * 2 ^ 16)] (4 * x.srec.val) (4 * x.drec.val) x.bar.val mk = .ok (mk x, 2) := by
  obtain ⟨known, small⟩ := scopeOf_code x.scope
  obtain ⟨lt, hla, hacq, hrel, hscope, hset, hcwa, zero⟩ :=
    cExt_fields x.la.isLt x.acq.toNat_lt x.rel.toNat_lt small x.cwField_lt
  rw [cFmt, need, if_pos (by omega), withExt, toNat_ext lt, need, if_pos zero, hscope, known]
  simp only [hla, hacq, hrel, hset, hcwa, toNat_beq_one, R, Fin.ofNat_val_eq_self, ofNat_mul_div]
  obtain ⟨srec, drec, bar, la, acq, rel, scope, _ | k⟩ := x
  · simp [CArgs.cwField, need]
  · have hk : (64 + k.val) / 64 = 1 ∧ (64 + k.val) % 64 = k.val := by omega
    simp [CArgs.cwField, hk, need]

theorem mxFmt_ext (x : MXArgs) (mk : MXArgs → Instr) :
    mxFmt [BitVec.ofNat 32 (x.la.val * 2 ^ 28 + 2 * x.fb.val * 2 ^ 22 + x.z.toNat * 2 ^ 21 + x.bd.toNat * 2 ^ 20)]
      x.acc.val x.aslot.val x.bslot.val mk = .ok (mk x, 2) := by
  obtain ⟨lt, hla, hfb, hz, hbd, zero⟩ := mxExt_fields x.la.isLt x.fb.isLt x.z.toNat_lt x.bd.toNat_lt
  rw [mxFmt, withExt, toNat_ext lt]
  simp only [hla, hfb, hz, hbd, zero, need, toNat_beq_one, R, Fin.ofNat_val_eq_self, ofNat_mul_div, Nat.mul_mod_right,
    if_true]

/-! ### The formats of words -/

/-- The words are those of instruction `i`: the decoder reads it from them, all of them and at most three (R33). -/
def ReadsBack (ws : List W32) (i : Instr) : Prop := decode ws = .ok (i, ws.length) ∧ ws.length ≤ 3

/-- A check of the decoder that the fields pass. -/
theorem need_holds {r k : DecodeResult} {p : Prop} [Decidable p] {err : DecodeError} (row : r = need p err k) (holds : p) :
    r = k :=
  row.trans (if_pos holds)

/-- An Always instruction carries its guard (R36). -/
theorem always_holds {r k : DecodeResult} (row : r = always .always k) : r = k := need_holds row rfl

/-- A tail-only instruction does not chain (R38). -/
theorem tail_holds {r k : DecodeResult} {e : Bool} (row : r = tail ⟨false, e⟩ k) : r = k := need_holds row rfl

section
variable {c e : Bool} {cl op d a b : Nat} {g : Guard} {h : Hdr} {i j : Instr} {rest : List W32}

/-- An instruction word, and the words behind it that its row reads. -/
theorem readsBack_word (fields : cl < 4 ∧ op < 64 ∧ d < 64 ∧ a < 64 ∧ b < 64) (ok : (!(c && e)) = true)
    (row : decodeRaw ⟨c, e, cl, op, g.code, d, a, b⟩ g rest = .ok (i, rest.length + 1)) (short : rest.length ≤ 2) :
    ReadsBack (word c e cl op g.code d a b :: rest) i := by
  obtain ⟨hcl, hop, hd, ha, hb⟩ := fields
  exact ⟨(decode_word c e cl op g d a b rest hcl hop hd ha hb ok).trans row, Nat.succ_le_succ short⟩

/-- A row of class 0 of one word. -/
theorem readsBack_vector (fields : op < 64 ∧ d < 64 ∧ a < 64 ∧ b < 64) (ok : h.ok = true)
    (row : decodeVector op h g d a b [] = .ok (j, 1)) (same : j = i) :
    ReadsBack [word h.c h.e 0 op g.code d a b] i :=
  readsBack_word (by omega) ok (same ▸ row) (by decide)

/-- A row of class 1 (R36). -/
theorem readsBack_scalar (fields : op < 64 ∧ d < 64 ∧ a < 64 ∧ b < 64) (ok : (!(c && e)) = true)
    (row : decodeScalar op ⟨c, e⟩ d a b rest = .ok (j, rest.length + 1)) (short : rest.length ≤ 2) (same : j = i) :
    ReadsBack (word c e 1 op 7 d a b :: rest) i :=
  readsBack_word (g := .always) (by omega) ok (same ▸ (always_holds rfl).trans row) short

/-- A row of class 2 (R38). -/
theorem readsBack_memory (fields : op < 64 ∧ d < 64 ∧ a < 64 ∧ b < 64)
    (row : decodeMemory op ⟨false, e⟩ g d a b rest = .ok (j, rest.length + 1)) (short : rest.length ≤ 2) (same : j = i) :
    ReadsBack (word false e 2 op g.code d a b :: rest) i :=
  readsBack_word (by omega) rfl (same ▸ (tail_holds rfl).trans row) short

/-- A row of class 3 (R38). -/
theorem readsBack_system (fields : op < 64 ∧ d < 64 ∧ a < 64 ∧ b < 64)
    (row : decodeSystem op ⟨false, e⟩ g d a b rest = .ok (j, rest.length + 1)) (short : rest.length ≤ 2) (same : j = i) :
    ReadsBack (word false e 3 op g.code d a b :: rest) i :=
  readsBack_word (by omega) rfl (same ▸ (tail_holds rfl).trans row) short

/-- A row of class 0 with a source in B (R34). -/
theorem readsBack_vWords {mk : VSrc → Instr} {b : VSrc} (fields : op < 64 ∧ d < 64 ∧ a < 64) (ok : h.ok = true)
    (row : ∀ b rest, decodeVector op h g d a b rest = withVSrc b rest mk) (same : mk b = i) :
    ReadsBack (vWords h g op d a b) i := by
  subst same
  cases b with
  | reg r =>
    refine readsBack_word (by omega) ok ?_ (by decide)
    exact (row r.val []).trans (by simp [withVSrc, show r.val ≠ 63 by omega])
  | lit x => exact readsBack_word (by omega) ok (row 63 [x]) (by simp)

/-- A row with a scalar source in B (R34). -/
theorem readsBack_sWords {mk : SSrc → Instr} {b : SSrc} (fields : cl < 4 ∧ op < 64 ∧ d < 64 ∧ a < 64)
    (ok : (!(c && e)) = true)
    (row : ∀ b rest, decodeRaw ⟨c, e, cl, op, 7, d, a, b⟩ .always rest = withSSrc b rest mk) (same : mk b = i) :
    ReadsBack (sWords c e cl op d a b) i := by
  subst same
  cases b with
  | reg r =>
    refine readsBack_word (g := .always) (by omega) ok ?_ (by decide)
    exact (row r.val []).trans (by simp [withSSrc, show r.val ≠ 63 by omega])
  | lit x => exact readsBack_word (g := .always) (by omega) ok (row 63 [x]) (by simp)

theorem readsBack_scalar_sWords {mk : SSrc → Instr} {b : SSrc} (fields : op < 64 ∧ d < 64 ∧ a < 64) (ok : (!(c && e)) = true)
    (row : ∀ b rest, decodeScalar op ⟨c, e⟩ d a b rest = withSSrc b rest mk) (same : mk b = i) :
    ReadsBack (sWords c e 1 op d a b) i :=
  readsBack_sWords (by omega) ok (fun b rest => (always_holds rfl).trans (row b rest)) same

theorem readsBack_memory_sWords {mk : SSrc → Instr} {b : SSrc} (fields : op < 64 ∧ d < 64 ∧ a < 64)
    (row : ∀ b rest, decodeMemory op ⟨false, e⟩ .always d a b rest = withSSrc b rest mk) (same : mk b = i) :
    ReadsBack (sWords false e 2 op d a b) i :=
  readsBack_sWords (by omega) rfl (fun b rest => (tail_holds rfl).trans (row b rest)) same

theorem readsBack_system_sWords {mk : SSrc → Instr} {b : SSrc} (fields : op < 64 ∧ d < 64 ∧ a < 64)
    (row : ∀ b rest, decodeSystem op ⟨false, e⟩ .always d a b rest = withSSrc b rest mk) (same : mk b = i) :
    ReadsBack (sWords false e 3 op d a b) i :=
  readsBack_sWords (by omega) rfl (fun b rest => (tail_holds rfl).trans (row b rest)) same

/-- A row of the vector M format (R50). -/
theorem readsBack_mWords {mk : MAddr → Fin 16 → Instr} {m : MAddr} {la : Fin 16} (fields : op < 64 ∧ d < 64)
    (row : ∀ a b rest, decodeMemory op ⟨false, e⟩ g d a b rest =
      mVec rest a b fun x => mk x (Fin.ofNat 16 (b % 16))) (same : mk m la = i) : ReadsBack (mWords e g op d m la) i :=
  readsBack_memory (by omega) ((row _ _ _).trans (mVec_ext m la mk)) (by simp) same

/-- A row of the scalar M format (R50). -/
theorem readsBack_msWords {mk : SAddr → Fin 16 → Instr} {m : SAddr} {la : Fin 16} (fields : op < 64 ∧ d < 64)
    (row : ∀ a b rest, decodeMemory op ⟨false, e⟩ .always d a b rest =
      mScal rest a b fun x => mk x (Fin.ofNat 16 (b % 16))) (same : mk m la = i) : ReadsBack (msWords e op d m la) i :=
  readsBack_memory (g := .always) (by omega) ((row _ _ _).trans (mScal_ext m la mk)) (by simp) same

/-- A row of the A format (R51). -/
theorem readsBack_aWords {red : Bool} {mk : AArgs → Instr} {x : AArgs} (hop : op < 64) (ok : x.ok = true)
    (returns : red = true → x.d.val = 63) (reduces : red = true → x.aop.reduces = true)
    (row : ∀ d a b rest, decodeMemory op ⟨false, e⟩ g d a b rest = aFmt red rest d a b mk) :
    ReadsBack (aWords e g op x) (mk x) :=
  readsBack_memory (by omega) ((row _ _ _ _).trans (aFmt_ext red x mk ok returns reduces)) (by simp) rfl

/-- A row of the C format (R53). -/
theorem readsBack_cWords {mk : CArgs → Instr} {x : CArgs} (hop : op < 64)
    (row : ∀ d a b rest, decodeMemory op ⟨false, e⟩ .always d a b rest = cFmt rest d a b mk) :
    ReadsBack (cWords e op x) (mk x) := by
  rw [cWords_eq]
  exact readsBack_memory (g := .always) (by omega) ((row _ _ _ _).trans (cFmt_ext x mk)) (by simp) rfl

/-- A Procession instruction of no operand but a slot and a quad (R52). -/
theorem readsBack_procession {s : Reg} {q : Quad} {la : Fin 16} {mk : Quad → Reg → Fin 16 → Instr} (hop : op < 64)
    (row : ∀ d a b rest, decodeMemory op ⟨false, e⟩ .always d a b rest =
      need (d % 4 = 0) .misaligned (need (b = 0) .zeroField (withExt rest fun x => need (x.toNat % 2 ^ 28 = 0) .zeroField
        (.ok (mk (Fin.ofNat 16 (d / 4)) (R a) (Fin.ofNat 16 (x.toNat / 2 ^ 28)), 2))))) (same : mk q s la = i) :
    ReadsBack [word false e 2 op 7 (4 * q.val) s.val 0, BitVec.ofNat 32 (la.val * 2 ^ 28)] i := by
  obtain ⟨lt, hla, zero⟩ : la.val * 2 ^ 28 < 2 ^ 32 ∧ la.val * 2 ^ 28 / 2 ^ 28 = la.val ∧ la.val * 2 ^ 28 % 2 ^ 28 = 0 := by
    simp only [Nat.reducePow]; omega
  refine readsBack_memory (g := .always) (by omega)
    ((need_holds (need_holds (row _ _ _ _) (Nat.mul_mod_right 4 _)) rfl).trans ?_) (by simp) same
  rw [withExt, toNat_ext lt, need, if_pos zero, hla]
  simp

end

/-! ### The rows of each class -/

/-- The class CL of an instruction (R28, R29), or 4 for an event, by its place in `Instr`: the constructors stand by
class, in the order of the opcode table. -/
def Instr.cls (i : Instr) : Nat :=
  if i.ctorIdx < 64 then 0 else if i.ctorIdx < 113 then 1 else if i.ctorIdx < 160 then 2
  else if i.ctorIdx < 192 then 3 else 4

/-- Class 0 (R56). -/
theorem readsBack_of_class0 (i : Instr) (ok : i.wf = true) (cls : i.cls = 0) : ReadsBack (encode i) i := by
  cases i with
  | fadd h g d a b | fsub h g d a b | fmul h g d a b | ffma h g d a b | fmin h g d a b | fmax h g d a b
  | badd h g d a b | bmul h g d a b | bfma h g d a b | iadd h g d a b | isub h g d a b | imul h g d a b
  | imulhiS h g d a b | imulhiZ h g d a b | imad h g d a b | iminS h g d a b | imaxS h g d a b | iminZ h g d a b
  | imaxZ h g d a b | iand h g d a b | ior h g d a b | ixor h g d a b | ishl h g d a b | ishrZ h g d a b
  | ishrS h g d a b | iaddsatS h g d a b | shflIdx h g d a b | shflXor h g d a b | shflUp h g d a b
  | shflDn h g d a b =>
    exact readsBack_vWords (by omega) ok (fun _ _ => rfl) (by simp)
  | fcmpEq h g p a b | fcmpNe h g p a b | fcmpLt h g p a b | fcmpLe h g p a b | fcmpUn h g p a b
  | icmpEq h g p a b | icmpNe h g p a b | icmpLtS h g p a b | icmpLeS h g p a b | icmpLtZ h g p a b
  | icmpLeZ h g p a b =>
    exact readsBack_vWords (by omega) ok (fun _ _ => need_holds rfl (by omega)) (by simp)
  | mov h g d b => exact readsBack_vWords (by omega) ok (fun _ _ => need_holds rfl (by rfl)) (by simp)
  | sel h neg p d a b => cases neg <;> exact readsBack_vWords (by omega) ok (fun _ _ => rfl) (by simp)
  | fneg h g d a | fabs h g d a | frcp h g d a | frsq h g d a | fex2 h g d a | flg2 h g d a | ftanh h g d a
  | inot h g d a | ipopc h g d a | iclz h g d a | redfAdd h g d a | rediAdd h g d a | redfMax h g d a =>
    exact readsBack_vector (by omega) ok (need_holds rfl (by rfl)) (by simp)
  | cvt h g d a k => exact readsBack_vector (by omega) ok (need_holds rfl k.isLt) (by simp)
  | vbcast h g d a hi =>
    have := hi.toNat_lt
    exact readsBack_vector (by omega) ok (need_holds rfl this) (by simp)
  | vlane h g d => exact readsBack_vector (by omega) ok (need_holds rfl (by decide)) (by simp)
  | pand h g p a b | por h g p a b | pxor h g p a b | pnot h g p a | ballot h g p a =>
    exact readsBack_vector (by omega) ok (need_holds rfl (by omega)) (by simp)
  | _ => exact absurd cls (Nat.ne_of_beq_eq_false rfl)

/-- Class 1 (R57). -/
theorem readsBack_of_class1 (i : Instr) (ok : i.wf = true) (cls : i.cls = 1) :
    ReadsBack (encode i) i := by
  cases i with
  | sadd h d a b | ssub h d a b | smul h d a b | sand h d a b | sor h d a b | sxor h d a b | sshl h d a b | sshrZ h d a b
  | sshrS h d a b | sbfi h d a b | sbfx h d a b =>
    exact readsBack_scalar_sWords (by omega) ok (fun _ _ => rfl) (by simp)
  | smov h d b => exact readsBack_scalar_sWords (by omega) ok (fun _ _ => need_holds rfl (by rfl)) (by simp)
  | scmpEq h f a b | scmpNe h f a b | scmpLtS h f a b | scmpLtZ h f a b | scmpLeS h f a b | scmpLeZ h f a b =>
    exact readsBack_scalar_sWords (by omega) ok (fun _ _ => need_holds rfl f.isLt) (by simp)
  | smov64 h d lo hi => exact readsBack_scalar (by omega) ok (need_holds rfl (by decide)) (by simp) (by simp)
  | srds h d n =>
    have checks : (h.ok && (n.val != 16 || d.val % 2 == 0)) = true := ok
    obtain ⟨hdr, even⟩ : h.ok = true ∧ (n.val = 16 → d.val % 2 = 0) := by simpa [imp_iff_not_or] using checks
    exact readsBack_scalar (by omega) hdr (need_holds (need_holds (need_holds rfl (by rfl)) n.isLt) even) (Nat.zero_le 2) (by simp)
  | swrs h t a =>
    obtain ⟨known, small⟩ := swTarget_code t
    exact readsBack_scalar (by omega) ok ((need_holds rfl (by rfl)).trans (by rw [known]; rfl)) (Nat.zero_le 2) (by simp)
  | exsave h d live =>
    have small := live.toNat_lt
    exact readsBack_scalar (by omega) ok (need_holds (need_holds (need_holds rfl (by rfl)) (by omega)) small)
      (Nat.zero_le 2) (by simp)
  | excnt h d live =>
    have small := live.toNat_lt
    exact readsBack_scalar (by omega) ok (need_holds (need_holds rfl (by rfl)) small) (Nat.zero_le 2) (by simp)
  | exload h a | exelse h a =>
    exact readsBack_scalar (by omega) ok (need_holds (need_holds rfl (by decide)) (by omega)) (Nat.zero_le 2) (by simp)
  | exand h p | exandn h p =>
    exact readsBack_scalar (by omega) ok (need_holds (need_holds rfl (by decide)) p.isLt) (Nat.zero_le 2) (by simp)
  | exif h d p =>
    exact readsBack_scalar (by omega) ok (need_holds (need_holds (need_holds rfl (by rfl)) (by omega)) p.isLt) (Nat.zero_le 2) (by simp)
  | br e off | bexz e off | bexnz e off =>
    exact readsBack_scalar (by omega) rfl (need_holds (tail_holds rfl) (by decide)) (Nat.le_succ 1) (by simp)
  | bf e f off | bnf e f off =>
    exact readsBack_scalar (by omega) rfl (need_holds (tail_holds rfl) (by omega)) (Nat.le_succ 1) (by simp)
  | bri e a off | call e a off | loop e a off =>
    exact readsBack_scalar (by omega) rfl (need_holds (tail_holds rfl) (by decide)) (Nat.le_succ 1) (by simp)
  | nop h | clock h d | cycles h d =>
    exact readsBack_scalar (by omega) ok (need_holds rfl (by decide)) (Nat.zero_le 2) (by simp)
  | ensJoin e d a | ensLeave e d a | ensNew e d | ensFree e d a | timerclr e | tret e | yield e | exit e | lexit e =>
    exact readsBack_scalar (by omega) rfl (need_holds (tail_holds rfl) (by decide)) (Nat.zero_le 2) (by simp)
  | timerset e a b => exact readsBack_scalar_sWords (by omega) rfl (fun _ _ => need_holds (tail_holds rfl) (by rfl)) (by simp)
  | _ => exact absurd cls (Nat.ne_of_beq_eq_false rfl)

/-- Class 2 (R58). -/
theorem readsBack_of_class2 (i : Instr) (ok : i.wf = true) (cls : i.cls = 2) : ReadsBack (encode i) i := by
  cases i with
  | ldg8z e g d m la | ldg8s e g d m la | ldg16z e g d m la | ldg16s e g d m la | ldg32 e g d m la | stg8 e g d m la
  | stg16 e g d m la | stg32 e g d m la | lds32 e g d m la | sts32 e g d m la | xst32 e g d m la =>
    exact readsBack_mWords (by omega) (fun _ _ _ => rfl) (by simp)
  | ldg64 e g d m la | stg64 e g d m la | lds64 e g d m la | sts64 e g d m la | ldg128 e g d m la | stg128 e g d m la
  | lds128 e g d m la | sts128 e g d m la | xst128 e g d m la =>
    exact readsBack_mWords (by omega) (fun _ _ _ => need_holds rfl (Nat.mul_mod_right _ _)) (by simp)
  | sld e d m la | sst e d m la | slds e d m la | ssts e d m la | pin e d m la =>
    exact readsBack_msWords (by omega) (fun _ _ _ => always_holds rfl) (by simp)
  | pref e l1 m la =>
    have small := l1.toNat_lt
    exact readsBack_msWords (by omega) (fun _ _ _ => need_holds (always_holds rfl) small) (by simp)
  | unpin e m la => exact readsBack_msWords (by omega) (fun _ _ _ => need_holds (always_holds rfl) (by rfl)) (by simp)
  | amog e g x | amos e g x =>
    exact readsBack_aWords (red := false) (by omega) ok nofun nofun fun _ _ _ _ => rfl
  | redg e g x =>
    have checks : (x.ok && x.d.val == 63 && x.aop.commutes) = true := ok
    obtain ⟨⟨hx, hd⟩, hop⟩ : (x.ok = true ∧ x.d.val = 63) ∧ x.aop.commutes = true := by simpa using checks
    exact readsBack_aWords (red := true) (by omega) hx (fun _ => hd) (fun _ => hop) fun _ _ _ _ => rfl
  | pboard e d s la | palight e d s la | pread e d s la | pwrite e d s la =>
    exact readsBack_procession (by omega) (fun _ _ _ _ => always_holds rfl) (by simp)
  | prmw e d s o la op w =>
    obtain ⟨known, small⟩ := qOpOf_code op
    obtain ⟨lt, hla, hop, hw, zero⟩ := qExt_fields la.isLt small w.isLt
    have check : (!((op == .bnd || op == .cas) && o.val == 63)) = true := ok
    have operand : (op = .bnd ∨ op = .cas) → o.val ≠ 63 := by simpa [imp_iff_not_or] using check
    refine readsBack_memory (g := .always) (by omega)
      ((need_holds (always_holds rfl) (Nat.mul_mod_right 4 _)).trans ?_) (Nat.le_succ 1) rfl
    rw [withExt, toNat_ext lt, need, if_pos zero, hop, known]
    simp only [hla, hw, R, Fin.ofNat_val_eq_self, ofNat_mul_div]
    exact if_pos operand
  | barInit e a b | barExpect e a b | barWait e a b =>
    exact readsBack_memory_sWords (by omega) (fun _ _ => need_holds (always_holds rfl) (by rfl)) (by simp)
  | barArrive e d a b | barTest e d a b | ebarArrive e d a b =>
    exact readsBack_memory_sWords (by omega) (fun _ _ => always_holds rfl) (by simp)
  | cpy e x | cpyg e x => exact readsBack_cWords (by omega) fun _ _ _ _ => always_holds rfl
  | fence e sc =>
    obtain ⟨known, small⟩ := scopeOf_code sc
    exact readsBack_memory (g := .always) (by omega)
      ((need_holds (always_holds rfl) (by decide)).trans (by rw [known]; rfl)) (Nat.zero_le 2) rfl
  | mbxPost e d a b | mbxTake e b d a =>
    exact readsBack_memory (g := .always) (by omega) (need_holds (always_holds rfl) (Nat.mul_mod_right 8 _)) (Nat.zero_le 2)
      (by simp)
  | mwait e a =>
    exact readsBack_memory (g := .always) (by omega) (need_holds (always_holds rfl) (by decide)) (Nat.zero_le 2) (by simp)
  | _ => exact absurd cls (Nat.ne_of_beq_eq_false rfl)

/-- Class 3 (R59). -/
theorem readsBack_of_class3 (i : Instr) (cls : i.cls = 3) : ReadsBack (encode i) i := by
  cases i with
  | oclaim e d | orelease e d a | aclaim e d | arelease e d a | mfence e d | aswap e a | azero e a | frameq e d a
  | lossclr e a | suspend e d a | brk e | cntrd e d a =>
    exact readsBack_system (g := .always) (by omega) (need_holds (always_holds rfl) (by decide)) (Nat.zero_le 2) (by simp)
  | owrite e g s x | oread e g s x =>
    cases x with
    | half hi v =>
      have small := hi.toNat_lt
      exact readsBack_system (by omega) ((if_pos small).trans (need_holds rfl (Nat.mul_mod_right 8 _))) (Nat.zero_le 2) (by simp)
    | side v => exact readsBack_system (by omega) rfl (Nat.zero_le 2) (by simp)
  | mma e g x => exact readsBack_system (by omega) (mxFmt_ext x _) (Nat.le_succ 1) rfl
  | ard e g d a grp | awr e g a d grp =>
    exact readsBack_system (by omega) (need_holds (need_holds rfl (Nat.mul_mod_right 16 _)) grp.isLt) (Nat.zero_le 2) (by simp)
  | asts e a b | lossrd e a b | valid e a b | cntcfg e a b =>
    exact readsBack_system_sWords (by omega) (fun _ _ => need_holds (always_holds rfl) (by rfl)) (by simp)
  | tlbw e a b | wraparm e a b =>
    exact readsBack_system_sWords (by omega)
      (fun _ _ => need_holds (need_holds (always_holds rfl) (by rfl)) (Nat.mul_mod_right 2 _)) (by simp)
  | tlbr e d a | faultrd e d a =>
    exact readsBack_system (g := .always) (by omega)
      (need_holds (need_holds (always_holds rfl) (by rfl)) (Nat.mul_mod_right _ _)) (Nat.zero_le 2) (by simp)
  | tlbi e a m =>
    obtain ⟨known, small⟩ := tlbiModeOf_code m
    exact readsBack_system (g := .always) (by omega)
      ((need_holds (always_holds rfl) (by rfl)).trans (by rw [known]; rfl)) (Nat.zero_le 2) (by simp)
  | resume e d a m =>
    obtain ⟨known, small⟩ := resumeModeOf_code m
    exact readsBack_system (g := .always) (by omega) ((always_holds rfl).trans (by rw [known]; rfl)) (Nat.zero_le 2) (by simp)
  | yieldres e d a k =>
    exact readsBack_system (g := .always) (by omega) (need_holds (always_holds rfl) k.isLt) (Nat.zero_le 2) (by simp)
  | revive e d a b => exact readsBack_system_sWords (by omega) (fun _ _ => always_holds rfl) (by simp)
  | wrapdone e b | trap e b =>
    exact readsBack_system_sWords (by omega) (fun _ _ => need_holds (always_holds rfl) (by decide)) (by simp)
  | fstat e g d => exact readsBack_system (by omega) (need_holds rfl (by decide)) (Nat.zero_le 2) (by simp)
  | _ => exact absurd cls (Nat.ne_of_beq_eq_false rfl)

/-- What has words is of a class of instructions. -/
theorem Instr.cls_lt_of_isWord (i : Instr) (word : i.isWord = true) : i.cls < 4 := by
  have either : (decide (i.cls < 4) || !i.isWord) = true := by cases i <;> rfl
  simpa [word] using either

/-- Settles O54, by the class of the instruction. -/
theorem decodeOfEncode : Obligations.DecodeOfEncode := by
  unfold Obligations.DecodeOfEncode
  intro i word ok
  have reads : ReadsBack (encode i) i := by
    have lt := i.cls_lt_of_isWord word
    generalize cls : i.cls = n at lt
    match n, lt with
    | 0, _ => exact readsBack_of_class0 i ok cls
    | 1, _ => exact readsBack_of_class1 i ok cls
    | 2, _ => exact readsBack_of_class2 i ok cls
    | 3, _ => exact readsBack_of_class3 i cls
  exact reads

end Sys2Proof
end

section
/-! SUPPORT. Words that decode to no instruction (R60): what each header decides before the row is read, and the rows
that the opcode table leaves unassigned. -/

namespace Sys2Proof

/-! ### Headers -/

theorem bitsAt_beq_one (w : W32) (i : Nat) : (bitsAt w.toNat i i == 1) = w.getLsbD i := by
  rw [BitVec.getLsbD, Nat.testBit_eq_decide_div_mod_eq, bitsAt, Nat.sub_self]
  rfl

@[simp] theorem unpack_c (w : W32) : (unpack w).c = w.getLsbD 31 := bitsAt_beq_one w 31

@[simp] theorem unpack_e (w : W32) : (unpack w).e = w.getLsbD 30 := bitsAt_beq_one w 30

/-- Every value of G but 0b1111 is a guard, and 0b0111 alone is Always (R28, R35). -/
theorem guardOf_eq (g : Nat) (small : g < 16) (legal : g ≠ 15) : ∃ x, guardOf g = some x ∧ (x = .always ↔ g = 7) := by
  unfold guardOf
  split_ifs with h1 h2 h3
  · exact ⟨_, rfl, by simp [h1]⟩
  · exact ⟨_, rfl, by simp [h1]⟩
  · exact ⟨_, rfl, by simp [h1]⟩
  · omega

/-- A legal guard and C and E not both set leave the word to its class. -/
theorem decode_of_header {w : W32} {g : Guard} (rest : List W32) (guard : guardOf (bitsAt w.toNat 21 18) = some g)
    (header : w.getLsbD 31 = false ∨ w.getLsbD 30 = false) : decode (w :: rest) = decodeRaw (unpack w) g rest :=
  decode_cons w rest (unpack w) g rfl guard (by simpa using header)

theorem decodeRaw_scalar {r : RawWord} (g : Guard) (rest : List W32) (cls : r.cl = 1) :
    decodeRaw r g rest = always g (decodeScalar r.op ⟨r.c, r.e⟩ r.d r.a r.b rest) := by
  simp only [decodeRaw, cls]

theorem decodeRaw_memory {r : RawWord} (g : Guard) (rest : List W32) (free : r.c = false) (cls : r.cl = 2) :
    decodeRaw r g rest = decodeMemory r.op ⟨r.c, r.e⟩ g r.d r.a r.b rest := by
  simp only [decodeRaw, cls, tail, need, free, if_true]

theorem decodeRaw_system {r : RawWord} (g : Guard) (rest : List W32) (free : r.c = false) (cls : r.cl = 3) :
    decodeRaw r g rest = decodeSystem r.op ⟨r.c, r.e⟩ g r.d r.a r.b rest := by
  simp only [decodeRaw, cls, tail, need, free, if_true]

/-- Classes 2 and 3 are tail-only (R38). -/
theorem decodeRaw_chained {r : RawWord} (g : Guard) (rest : List W32) (chained : r.c = true) (late : 2 ≤ r.cl)
    (class_lt : r.cl < 4) : decodeRaw r g rest = .error .chainOnTail := by
  obtain cls | cls : r.cl = 2 ∨ r.cl = 3 := by omega
  · simp [decodeRaw, cls, tail, need, chained]
  · simp [decodeRaw, cls, tail, need, chained]

/-! ### Unassigned rows -/

theorem decodeScalar_unassigned {op : Nat} (h : Hdr) (d a b : Nat) (rest : List W32) (late : 0x31 ≤ op) :
    decodeScalar op h d a b rest = .error .unassigned := by
  obtain ⟨n, rfl⟩ := Nat.exists_eq_add_of_le' late
  rfl

theorem decodeMemory_unassigned {op : Nat} (h : Hdr) (g : Guard) (d a b : Nat) (rest : List W32) (late : 0x2F ≤ op) :
    decodeMemory op h g d a b rest = .error .unassigned := by
  obtain ⟨n, rfl⟩ := Nat.exists_eq_add_of_le' late
  rfl

theorem decodeSystem_unassigned {op : Nat} (h : Hdr) (g : Guard) (d a b : Nat) (rest : List W32)
    (gap : 0x0D ≤ op ∧ op ≤ 0x0F ∨ 0x23 ≤ op) : decodeSystem op h g d a b rest = .error .unassigned := by
  rcases gap with ⟨low, high⟩ | late
  · interval_cases op <;> rfl
  · obtain ⟨n, rfl⟩ := Nat.exists_eq_add_of_le' late
    rfl

/-! ### The statements -/

/-- Settles O53: each word is decoded by evaluation. -/
theorem wordsDecode : Obligations.WordsDecode := by
  unfold Obligations.WordsDecode
  refine ⟨rfl, rfl, rfl, rfl, rfl, rfl, rfl, rfl, rfl, rfl, rfl, rfl, rfl, rfl, rfl, rfl, rfl, rfl, rfl, rfl, rfl, rfl, rfl,
    rfl, rfl, rfl⟩

/-- Settles O55: the header decides the first three and the last, the row the fourth. -/
theorem illegalWords : Obligations.IllegalWords := by
  unfold Obligations.IllegalWords
  intro w rest
  have small : bitsAt w.toNat 21 18 < 16 := Nat.mod_lt _ (by decide)
  have class_lt : (unpack w).cl < 4 := Nat.mod_lt _ (by decide)
  refine ⟨fun reserved => ?_, fun legal c e => ?_, fun legal c e late => ?_, fun unguarded c row => ?_,
    fun legal guarded scalar c => ?_⟩
  · have guard : guardOf (unpack w).g = none := congrArg guardOf reserved
    simp only [decode, guard]
  · obtain ⟨g, guard, -⟩ := guardOf_eq _ small legal
    simp only [decode, show guardOf (unpack w).g = some g from guard, unpack_c, unpack_e, c, e, need, and_self, not_true,
      if_false]
  · obtain ⟨g, guard, -⟩ := guardOf_eq _ small legal
    rw [decode_of_header rest guard (.inr e), decodeRaw_chained g rest (by simpa using c) late class_lt]
  · obtain ⟨g, guard, always⟩ := guardOf_eq _ small (by omega)
    obtain rfl : g = .always := always.2 unguarded
    rw [decode_of_header rest guard (.inl c)]
    have free : (unpack w).c = false := by simpa using c
    rcases row with ⟨cls, late⟩ | ⟨cls, late⟩ | ⟨cls, gap⟩
    · exact (decodeRaw_scalar _ _ cls).trans (decodeScalar_unassigned _ _ _ _ _ late)
    · exact (decodeRaw_memory _ _ free cls).trans (decodeMemory_unassigned _ _ _ _ _ _ late)
    · exact (decodeRaw_system _ _ free cls).trans (decodeSystem_unassigned _ _ _ _ _ _ gap)
  · obtain ⟨g, guard, always⟩ := guardOf_eq _ small legal
    rw [decode_of_header rest guard (.inl c), decodeRaw_scalar _ _ scalar]
    exact if_neg fun h => guarded (always.1 h)

end Sys2Proof
end

section
/-! SUPPORT. Branches (R113, R114): where a branch leaves the troupe, and that the run ends where it is taken. -/

namespace Sys2Proof.Machine

open Sys2Proof.Claims

/-- The troupe behind a branch of two words. -/
def branched (t : Troupe) (taken : Bool) (target : W32) : Troupe :=
  { behind t 2 with pc := if taken then target else t.pc + 2 }

theorem branched_s (t : Troupe) (taken : Bool) (target : W32) : (branched t taken target).s = t.s := rfl

/-- A branch replaces the issuing troupe, and a taken one ends the run whatever E holds. -/
theorem State.branch_eq (s : State) (taken : Bool) (target : W32) (e : Bool) :
    s.branch taken target e = .next (ended (taken || e) (s.setMe (branched s.me taken target))) := by
  cases taken <;> rfl

/-- A branch that writes no register. -/
theorem State.branch_completes {i : Instr} {s : State} {taken e : Bool} {target : W32}
    (run : exec i s = s.branch taken target e) : Completes i (taken || e) s fun u => u = branched s.me taken target :=
  ⟨_, run.trans (s.branch_eq taken target e), s.setMe_only _, s.me_setMe _⟩

/-- Scalars are read from the field that holds them. -/
theorem Troupe.sreg_of_s {u t : Troupe} (same : u.s = t.s) {n : Nat} : u.sreg n = t.sreg n := by
  rw [Troupe.sreg, same, ← Troupe.sreg]

/-- A troupe whose scalars are those after a write, and which stands `len` words further. -/
theorem scalarWritten_of_setS {s : State} {d : Reg} {len : Nat} {x : W64} {u : Troupe}
    (frame : u = { behind s.me len with s := u.s }) (scalars : u.s = (s.me.setS d.val x).s) :
    ScalarWritten s d.val len x u := by
  refine ⟨frame, ?_, fun r hr => ?_⟩
  · rw [Troupe.sreg_of_s scalars, Troupe.sreg_setS, if_pos ⟨rfl, d.isLt⟩]
  · rw [Troupe.sreg_of_s scalars, Troupe.sreg_setS, if_neg (by omega)]

/-- A branch that writes scalar register d before it goes. -/
theorem State.branch_writes {i : Instr} {s : State} {d : Reg} {x : W64} {taken e : Bool} {target : W32}
    (run : exec i s = (s.setMe (s.me.setS d.val x)).branch taken target e) :
    Completes i (taken || e) s fun u => u.pc = (if taken then target else s.me.pc + 2) ∧
      ScalarWritten s d.val 2 x { u with pc := s.me.pc + 2 } := by
  refine ⟨_, run.trans (State.branch_eq _ taken target e), s.setMe_setMe _ _, ?_⟩
  rw [State.me_setMe, State.me_setMe]
  have frame := s.me.setS_frame d.val x
  refine ⟨?_, scalarWritten_of_setS ?_ (branched_s _ taken target)⟩
  · rw [frame]; rfl
  · rw [frame]; rfl

theorem bne_eq_decide_ne {α : Type} [DecidableEq α] (a b : α) : (a != b) = decide (a ≠ b) := by
  rw [bne, beq_eq_decide, decide_not]

/-- A count that is decremented comes to 0 from 1 alone. -/
theorem sub_one_bne_zero (x : W64) : (x - 1 != 0) = decide (x ≠ 1) := by
  rw [bne_eq_decide_ne]
  exact decide_eq_decide.2 (not_congr sub_eq_zero)

/-- Settles O10: each branch is `State.branch` with its target and its condition. -/
theorem branches : Obligations.Branches := by
  unfold Obligations.Branches
  refine ⟨fun e off s => State.branch_completes rfl, fun e off s => ?_, fun e off s => ?_,
    fun e f off s => State.branch_completes rfl, fun e f off s => State.branch_completes rfl,
    fun e a off s => State.branch_completes rfl, fun e d off s => ?_, fun e a off s => ?_, fun h s => ?_⟩
  · exact State.branch_completes (congrArg (s.branch · _ e) (beq_eq_decide _ _))
  · exact State.branch_completes (congrArg (s.branch · _ e) (bne_eq_decide_ne _ _))
  · exact State.branch_writes (i := .call e d off) (taken := true) (e := e) rfl
  · have written := State.branch_writes (i := .loop e a off) (s := s) (d := a) rfl
    simpa only [sub_one_bne_zero, decide_eq_true_eq] using written
  · obtain ⟨t, run, frame, me⟩ := s.advance_spec 1 h.e
    exact ⟨t, congrArg Host.Outcome.next run, frame, me⟩

end Sys2Proof.Machine
end

section
/-! SUPPORT. The end of a run (R41, R356, R357). -/

namespace Sys2Proof.Machine

theorem State.me_of_troupe {s : State} {k : Nat} {m : Troupe} (cur : s.book.cur = k) (h : s.troupe k = some m) : s.me = m := by
  have found : s.troupes.find s.book.cur = some m := cur ▸ h
  simp [State.me, Table.get, found]

/-- Giving up an issue slot leaves every troupe, world and launch, and the clock. -/
theorem State.dropHold_troupe (s : State) (c t k : Nat) : (s.dropHold c t).troupe k = s.troupe k := by
  rw [State.dropHold_frame]; rfl

theorem State.dropHold_world (s : State) (c t w : Nat) : (s.dropHold c t).world w = s.world w := by
  rw [State.dropHold_frame]; rfl

theorem State.dropHold_launch (s : State) (c t l : Nat) : (s.dropHold c t).launch l = s.launch l := by
  rw [State.dropHold_frame]; rfl

/-- Settles O12: the issue slot is given up, and then the boundary does the rest. -/
theorem runEnd : Obligations.RunEnd := by
  unfold Obligations.RunEnd
  intro s k m cur h
  have me : s.me = m := State.me_of_troupe cur h
  generalize drop : s.dropHold m.core m.tslot = d
  have eq : s.endRun = d.boundary k := by rw [State.endRun, me, drop, cur]
  have frame : d = { s with cores := d.cores } := drop ▸ s.dropHold_frame _ _
  have found : d.troupe k = some m := by rw [← drop, State.dropHold_troupe, h]
  obtain ⟨same, -, others, worlds, u, hu, rest, plain, divert⟩ := d.boundary_spec k m found
  have core (c : Nat) : (d.boundary k).core c = d.core c := by rw [same]; rfl
  rw [eq]
  refine ⟨?_, fun j hj => ?_, fun c => ?_, ?_, fun w => ?_, u, hu, rest, fun hd ha => ?_, fun a b c' d' e f => ?_⟩
  · rw [same, frame]
  · rw [others j hj, ← drop, State.dropHold_troupe]
  · rw [core, ← drop]; exact s.dropHold_core _ _ _
  · rw [core, ← drop]; exact s.dropHold_free _ _
  · have := worlds w
    rwa [← drop, State.dropHold_world, drop] at this
  · rw [plain hd ha, frame]
  · have := divert a b c' d' e f
    rwa [← drop, State.dropHold_launch] at this

end Sys2Proof.Machine
end

section
/-! SUPPORT. Faults (R40, R366 to R370): a record in a world's fault mailbox, the halt of the troupe that a fault names,
and the halt of a world with its runtime launch (R186, R321). -/

namespace Sys2Proof.Machine

open Sys2Proof.Claims

/-! ### Parts read back after they were replaced -/

theorem State.mailbox_modMailbox (s : State) (m k : Nat) (f : Mailbox → Mailbox) :
    (s.modMailbox m f).mailbox k = if m = k then f (s.mailbox m) else s.mailbox k := by
  simp [State.mailbox, State.modMailbox]

theorem State.troupe_putTroupe (s : State) (t : Troupe) (k : Nat) :
    (s.putTroupe t).troupe k = if t.key = k then some t else s.troupe k :=
  Table.find_put _ _ _ _

/-! ### Records in a fault mailbox -/

/-- A mailbox with an entry more, or one more counted as dropped (R283). -/
def Mailbox.gain (x : Mailbox) (entry : List W64) : Mailbox :=
  if x.entries.length < 64 then { x with entries := x.entries ++ [entry] }
  else { x with drops := min (x.drops + 1) 0xFFFF }

theorem Mailbox.gain_arming (x : Mailbox) (entry : List W64) : (x.gain entry).arming = x.arming := by
  unfold Mailbox.gain
  split <;> rfl

/-- An entry in a mailbox that arms no barrier. -/
theorem State.mbxPut_unarmed {s : State} {m : Nat} (entry : List W64) (quiet : (s.mailbox m).arming = none) :
    s.mbxPut m entry = s.modMailbox m fun x => x.gain entry := by
  have unarmed : ((s.modMailbox m fun x => x.gain entry).mailbox m).arming = none := by
    rw [State.mailbox_modMailbox, if_pos rfl, Mailbox.gain_arming, quiet]
  show (s.modMailbox m fun x => x.gain entry).fireArming m = _
  simp only [State.fireArming, unarmed]

/-- A record in a fault mailbox that arms no barrier touches the mailboxes alone, and is posted there (R283, R368). -/
theorem State.tellFault_spec {s : State} {w : Nat} (r : List W64)
    (quiet : (s.mailbox (s.world w).areas.faultMbx).arming = none) :
    s.tellFault w r = { s with mbx := (s.tellFault w r).mbx } ∧ Posted s (s.tellFault w r) w r := by
  by_cases foreign : w = 0 ∧ (s.mailbox (s.world w).areas.faultMbx).owner ≠ 0
  · rw [State.tellFault, if_pos foreign, Posted, if_pos foreign]
    exact ⟨rfl, fun _ _ => rfl, rfl⟩
  · rw [State.tellFault, if_neg foreign, State.mbxPut_unarmed r quiet, Posted, if_neg foreign]
    refine ⟨rfl, fun k hk => ?_, ?_⟩
    · rw [State.mailbox_modMailbox, if_neg (Ne.symm hk)]
    · rw [State.mailbox_modMailbox, if_pos rfl]
      rfl

/-- The record of R369, as the machine makes it. -/
theorem State.recordOf_eq (s : State) (u : Troupe) (cause access : Nat) (halted : Bool) (pc : W32) (lanes : Mask) (va : W64) :
    s.recordOf u cause access halted pc lanes va = recordAt s u cause access halted pc lanes va := by
  cases halted <;> rfl

/-- An event with a record is counted, and its record told. -/
def State.countAndTell (s : State) (w core : Nat) (r : List W64) : State := (s.count w 0x13 core 1).tellFault w r

theorem State.countAndTell_spec {s : State} {w : Nat} (core : Nat) (r : List W64)
    (quiet : (s.mailbox (s.world w).areas.faultMbx).arming = none) :
    let t := s.countAndTell w core r
    t = { s with worlds := t.worlds, mbx := t.mbx, book := t.book } ∧ t.book.cur = s.book.cur ∧
      (∀ k, { t.world k with counters := (s.world k).counters } = s.world k) ∧ Posted s t w r := by
  intro t
  generalize counted : s.count w 0x13 core 1 = c
  have frame : c = { s with worlds := c.worlds, book := c.book } := counted ▸ State.count_frame _ _ _ _ _
  have cur : c.book.cur = s.book.cur := counted ▸ (State.count_cur _ _ _ _ _).1
  have worlds (k : Nat) : { c.world k with counters := (s.world k).counters } = s.world k :=
    counted ▸ State.count_world s w 0x13 core 1 k
  have areas : (c.world w).areas = (s.world w).areas := by
    have := congrArg World.areas (worlds w)
    exact this
  have boxes (m : Nat) : c.mailbox m = s.mailbox m := by rw [frame]; rfl
  obtain ⟨told, others, posted⟩ := State.tellFault_spec (s := c) (w := w) r (by rw [areas, boxes, quiet])
  have whole : t = c.tellFault w r := by rw [← counted]; rfl
  clear_value t
  subst whole
  refine ⟨?_, ?_, fun k => ?_, fun k hk => ?_, ?_⟩
  · rw [told, frame]
  · rw [told]; exact cur
  · rw [told]; exact worlds k
  · rw [others k (areas ▸ hk), boxes]
  · rw [areas, boxes] at posted; exact posted

/-! ### The halt of a troupe -/

/-- What a fault does to the troupe that it names, before a world halts with it: the troupe is halted and its issue slot
given up, the fault counted and its record told. -/
def State.haltWith (s : State) (u : Troupe) (r : List W64) : State :=
  ((s.putTroupe (u.halt r)).dropHold u.core u.tslot).countAndTell u.world u.core r

theorem State.faultAt_eq (s : State) (u : Troupe) (cause access : Nat) (lanes : Mask) (va : W64) :
    s.faultAt u cause access lanes va =
      let t := s.haltWith u (recordAt s u cause access true u.pc lanes va)
      if t.isRuntime u then t.haltWorld u.world else t := by
  rw [← State.recordOf_eq]
  rfl

theorem State.haltWith_spec {s : State} {u : Troupe} (r : List W64)
    (quiet : (s.mailbox (s.world u.world).areas.faultMbx).arming = none) : HaltedWith s (s.haltWith u r) u r := by
  generalize dropped : (s.putTroupe (u.halt r)).dropHold u.core u.tslot = d
  have frame : d = { s.putTroupe (u.halt r) with cores := d.cores } := dropped ▸ State.dropHold_frame _ _ _
  have troupes (k : Nat) : d.troupe k = if u.key = k then some (u.halt r) else s.troupe k := by
    rw [← dropped, State.dropHold_troupe, State.troupe_putTroupe]; rfl
  have world (k : Nat) : d.world k = s.world k := by rw [frame]; rfl
  have box (m : Nat) : d.mailbox m = s.mailbox m := by rw [frame]; rfl
  obtain ⟨told, -, worlds, posted⟩ := State.countAndTell_spec (s := d) u.core r (by rw [world, box, quiet])
  rw [State.haltWith, dropped]
  generalize d.countAndTell u.world u.core r = t at *
  have troupe (k : Nat) : t.troupe k = d.troupe k := by rw [told]; rfl
  have core (k : Nat) : t.core k = d.core k := by rw [told]; rfl
  refine ⟨?_, ?_, fun k hk => ?_, fun k => ?_, ?_, fun k => ?_, ?_⟩
  · rw [told, frame]; rfl
  · rw [troupe, troupes, if_pos rfl]; rfl
  · rw [troupe, troupes, if_neg (Ne.symm hk)]
  · rw [core, ← dropped]; exact State.dropHold_core (s.putTroupe (u.halt r)) _ _ _
  · rw [core, ← dropped]; exact State.dropHold_free _ _ _
  · rw [← world]; exact worlds k
  · unfold Posted at posted ⊢
    simpa only [world, box] using posted

/-- The bookkeeping of a state is no part of what a halt is held against. -/
theorem HaltedWith.of_modBook {s t : State} {u : Troupe} {r : List W64} {f : Book → Book} (h : HaltedWith (s.modBook f) t u r) :
    HaltedWith s t u r := by
  obtain ⟨same, rest⟩ := h
  refine ⟨?_, rest⟩
  have := congrArg (fun x : State => { x with book := s.book }) same
  exact this

theorem HaltedWith.isRuntime {s t : State} {u : Troupe} {r : List W64} (h : HaltedWith s t u r) : t.isRuntime u = s.isRuntime u := by
  obtain ⟨-, -, -, -, -, worlds, -⟩ := h
  have same : (t.world u.world).runtime = (s.world u.world).runtime := by
    have := congrArg World.runtime (worlds u.world)
    exact this
  rw [State.isRuntime, same]
  rfl

/-- A fault halts its troupe with the record of R369, and then its world with a runtime launch. -/
theorem State.fault_eq {s : State} (cause access : Nat) (lanes : Mask) (va : W64)
    (quiet : (s.mailbox (s.world s.src.world).areas.faultMbx).arming = none) :
    ∃ t, FaultTaken s t s.src cause access lanes va ∧
      s.fault cause access lanes va = .next (if s.isRuntime s.src then t.haltWorld s.src.world else t) := by
  have halted : FaultTaken s _ s.src cause access lanes va :=
    HaltedWith.of_modBook (State.haltWith_spec (s := s.modBook fun b => { b with chain := none }) _ quiet)
  refine ⟨_, halted, ?_⟩
  rw [State.fault, State.faultAt_eq, ← HaltedWith.isRuntime halted]
  rfl

/-- A precise fault of a troupe of no runtime launch (R40, R368, R369). -/
theorem State.fault_taken {s : State} (plain : Plain s) (cause access : Nat) (lanes : Mask) (va : W64) :
    ∃ t, s.fault cause access lanes va = .next t ∧ FaultTaken s t s.src cause access lanes va := by
  obtain ⟨free, quiet⟩ := plain
  obtain ⟨t, taken, run⟩ := State.fault_eq cause access lanes va quiet
  exact ⟨t, by rw [run, free]; rfl, taken⟩

/-! ### The halt of a world -/

theorem State.irq_zero (s : State) (v : Nat) : s.irq 0 v =
    if (s.fn 0).irqMask.getLsbD v then s.modFn 0 fun f => { f with irqStatus := f.irqStatus ||| (1#8 <<< v) }
    else { s.modFn 0 fun f => { f with irqStatus := f.irqStatus ||| (1#8 <<< v) } with out := s.out ++ [.irq 0 v] } := by
  have mask : ((s.modFn 0 fun f => { f with irqStatus := f.irqStatus ||| (1#8 <<< v) }).fn 0).irqMask = (s.fn 0).irqMask := by
    rw [State.fn_modFn_same]
  simp only [State.irq, State.fnPresent, mask]
  rfl

/-- Events that are let fall due are bookkeeping. -/
theorem State.foldl_raiseEvent {α : Type} (l : List α) (f : α → Instr) (s : State) :
    l.foldl (fun s x => s.raiseEvent (f x)) s = s.modBook fun b => { b with due := b.due ++ l.map f } := by
  induction l generalizing s with
  | nil => simp [State.modBook]
  | cons x l ih => rw [List.foldl_cons, ih]; simp [State.modBook, State.raiseEvent]

/-- The parked troupes of a halted world touch clusters, waits and the events that fall due. -/
theorem State.unparkWorld_frame (s : State) (w : Nat) : s.unparkWorld w =
    { s with clusters := (s.unparkWorld w).clusters, troupes := (s.unparkWorld w).troupes, book := (s.unparkWorld w).book } := by
  rw [State.unparkWorld, State.foldl_raiseEvent]
  rfl

theorem State.unparkWorld_world (s : State) (w k : Nat) : (s.unparkWorld w).world k = s.world k := by
  rw [State.unparkWorld_frame]; rfl

theorem State.unparkWorld_fn (s : State) (w k : Nat) : (s.unparkWorld w).fn k = s.fn k := by
  rw [State.unparkWorld_frame]; rfl

/-- A troupe that waits for nothing is parked nowhere. -/
theorem State.unparkWorld_troupe {s : State} {k : Nat} {u : Troupe} (w : Nat) (h : s.troupe k = some u)
    (wait : u.ctl.wait = .no) : (s.unparkWorld w).troupe k = some u := by
  rw [State.unparkWorld, State.foldl_raiseEvent]
  rw [State.troupe, State.modBook_troupes, Table.find_mapVals, show s.troupes.find k = some u from h]
  simp only [Option.map_some, wait]

/-- The halt of a live world is reported to the PF, and leaves a troupe that waits for nothing as it is (R186, R321). -/
theorem State.haltWorld_spec {s : State} {w k : Nat} {u : Troupe} (live : (s.world w).st = .live) (h : s.troupe k = some u)
    (wait : u.ctl.wait = .no) : ((s.haltWorld w).world w).st = .halted ∧ (s.haltWorld w).troupe k = some u ∧
      ((s.fn 0).irqMask.getLsbD 4 = false → Out.irq 0 4 ∈ (s.haltWorld w).out) := by
  generalize stopped : s.modWorld w (fun x => { x with st := .halted }) = t
  have halted : ((t.unparkWorld w).world w).st = .halted := by
    rw [State.unparkWorld_world, ← stopped, State.world_modWorld, if_pos rfl]
  have kept : (t.unparkWorld w).troupe k = some u := State.unparkWorld_troupe w (stopped ▸ h) wait
  have fn : (t.unparkWorld w).fn 0 = s.fn 0 := by rw [State.unparkWorld_fn, ← stopped]; rfl
  rw [State.haltWorld, if_pos live, stopped, State.irq_zero, fn]
  split
  · exact ⟨halted, kept, fun mask => by simp_all⟩
  · exact ⟨halted, kept, fun _ => by simp⟩

/-- The fault of the runtime launch of a live world halts the world (R186, R321). -/
theorem State.fault_of_runtime {s : State} (cause access : Nat) (lanes : Mask) (va : W64)
    (runtime : s.isRuntime s.src = true) (live : (s.world s.src.world).st = .live)
    (quiet : (s.mailbox (s.world s.src.world).areas.faultMbx).arming = none) :
    ∃ t u, s.fault cause access lanes va = .next t ∧ (t.world s.src.world).st = .halted ∧
      t.troupe s.src.key = some u ∧ u.ctl.halted = true ∧ u.pc = s.src.pc ∧ u.v = s.src.v ∧ u.s = s.src.s ∧
      ((s.fn 0).irqMask.getLsbD 4 = false → Out.irq 0 4 ∈ t.out) := by
  obtain ⟨t, ⟨same, troupe, -, -, -, worlds, -⟩, run⟩ := State.fault_eq cause access lanes va quiet
  have stillLive : (t.world s.src.world).st = .live := by
    have := congrArg World.st (worlds s.src.world)
    exact this.trans live
  have fns : t.fn 0 = s.fn 0 := by
    have := congrArg (fun x : State => x.fn 0) same
    exact this
  obtain ⟨halted, kept, told⟩ := State.haltWorld_spec stillLive troupe rfl
  rw [run, runtime, if_pos rfl]
  exact ⟨_, _, rfl, halted, kept, rfl, rfl, rfl, rfl, fns ▸ told⟩

/-! ### Reading records and sticky bits -/

theorem Sticky.lane_bits (k : Sticky) (l : Nat) : w32 (k.lane l) =
    (if inMask k.inv l then 1 else 0) + (if inMask k.dz l then 2 else 0) + (if inMask k.ovf l then 4 else 0) +
      (if inMask k.unf l then 8 else 0) + (if inMask k.nx l then 16 else 0) := by
  unfold Sticky.lane
  generalize inMask k.inv l = a
  generalize inMask k.dz l = b
  generalize inMask k.ovf l = c
  generalize inMask k.unf l = d
  generalize inMask k.nx l = e
  revert a b c d e
  decide

/-- `fstat` writes the sticky bits of each lane (R371). -/
theorem fstat_completes (e : Bool) (g : Guard) (d : Reg) (s : State) : Completes (.fstat e g d) e s
    (VectorWritten s (s.src.exec &&& guardMask g s.src) d.val 1 (fun l => w32 (s.src.sticky.lane l)) fun _ => 0) := by
  generalize written : s.me.setV d.val (Lanes.ofFn fun l => if inMask (s.src.exec &&& guardMask g s.src) l
    then w32 (s.src.sticky.lane l) else (s.me.vreg d.val).lane l) = u
  obtain ⟨t, run, frame, me⟩ := s.done_spec u 1 e
  refine ⟨t, by rw [← run, ← written]; rfl, frame, ?_⟩
  rw [me]
  have regs (r : Nat) : (behind u 1).vreg r = u.vreg r := rfl
  have sticky : u.sticky = s.me.sticky := by rw [← written, Troupe.setV_frame]
  refine ⟨?_, fun l hl => ?_, fun r hr => ?_, fun l _ => ?_⟩
  · rw [← written, Troupe.setV_frame]; rfl
  · rw [regs, ← written, Troupe.vreg_setV, if_pos ⟨rfl, d.isLt⟩, Lanes.lane_ofFn, if_pos hl]
  · rw [regs, ← written, Troupe.vreg_setV, if_neg (by omega)]
  · show inMask u.sticky.inv l = _ ∧ inMask u.sticky.dz l = _ ∧ inMask u.sticky.ovf l = _ ∧ inMask u.sticky.unf l = _ ∧
      inMask u.sticky.nx l = _
    simp [sticky]

/-- What `faultrd` reads of a troupe: its latest record, or zeros (R370). -/
def shownRecord : Option Troupe → List W64
  | some u => if u.ctl.record.isEmpty then List.replicate 8 0 else u.ctl.record
  | none => List.replicate 8 0

/-- The latest record of a troupe, if one is named. -/
def recordOf? (u : Option Troupe) : List W64 :=
  match u with
  | some x => x.ctl.record
  | none => []

theorem shownRecord_spec {u : Option Troupe} (whole : (recordOf? u).length = 8 ∨ recordOf? u = []) :
    (shownRecord u).length = 8 ∧ ∀ i, i < 8 → (shownRecord u).getD i 0 = (recordOf? u).getD i 0 := by
  have shown : shownRecord u = if recordOf? u = [] then List.replicate 8 0 else recordOf? u := by
    cases u with
    | none => rfl
    | some x => by_cases none : x.ctl.record = [] <;> simp [shownRecord, recordOf?, none]
  rw [shown]
  split
  · next none => exact ⟨rfl, fun i hi => by rw [none]; interval_cases i <;> rfl⟩
  · next some => exact ⟨whole.resolve_right some, fun _ _ => rfl⟩

theorem faultrd_completes {e : Bool} {d : Oct} {a : Reg} {s : State} {u : Option Troupe}
    (named : s.src.sreg a.val = ones64 ∧ u = some s.src ∨
      s.src.sreg a.val ≠ ones64 ∧ u = s.atLocator s.src.world (s.src.sreg a.val)) (len : (shownRecord u).length = 8) :
    Completes (.faultrd e d a) e s fun t => t = { behind s.me 1 with s := t.s } ∧
      (∀ i, i < 8 → t.sreg (8 * d.val + i) = (shownRecord u).getD i 0) ∧
      ∀ k, (k < 8 * d.val ∨ 8 * d.val + 8 ≤ k) → t.sreg k = s.me.sreg k := by
  have target : (if s.src.sreg a.val = ones64 then some s.src else s.atLocator s.src.world (s.src.sreg a.val)) = u := by
    rcases named with ⟨own, rfl⟩ | ⟨other, rfl⟩
    · exact if_pos own
    · exact if_neg other
  obtain ⟨t, run, frame, me⟩ := s.done_spec (s.me.setSs (8 * d.val) (shownRecord u)) 1 e
  refine ⟨t, by rw [← run, ← target]; rfl, frame, ?_⟩
  have regs (k : Nat) : t.me.sreg k = (s.me.setSs (8 * d.val) (shownRecord u)).sreg k := by rw [me]; rfl
  refine ⟨?_, fun i hi => ?_, fun k hk => ?_⟩
  · rw [me, Troupe.setSs_frame]; rfl
  · rw [regs, Troupe.sreg_setSs, if_pos (by omega), Nat.add_sub_cancel_left]
  · rw [regs, Troupe.sreg_setSs, if_neg (by omega)]

/-! ### `brk` -/

/-- The end of a run at which no divert is due: the troupe is ready, and its issue slot given up. -/
theorem State.endRun_plain {s : State} {m : Troupe} (h : s.troupe s.book.cur = some m) (divert : m.ctl.divert = false)
    (act : m.act.armed = false) :
    { s.endRun with cores := s.cores, troupes := s.troupes, worlds := s.worlds, book := s.book } = s ∧
      s.endRun.book.cur = s.book.cur ∧ (∀ k, k ≠ s.book.cur → s.endRun.troupe k = s.troupe k) ∧
      (∀ w, { s.endRun.world w with counters := (s.world w).counters } = s.world w) ∧
      s.endRun.me = { m with ctl := { m.ctl with readyAt := s.cycle, stalled := false } } := by
  obtain ⟨frame, others, -, -, worlds, u, hu, -, plain, -⟩ := runEnd s _ m rfl h
  have cur : s.endRun.book.cur = s.book.cur := by
    have found : (s.dropHold s.me.core s.me.tslot).troupe s.book.cur = some m := by rw [State.dropHold_troupe, h]
    obtain ⟨-, same, -⟩ := State.boundary_spec _ _ _ found
    exact same.trans (by rw [State.dropHold_book])
  exact ⟨frame, cur, others, worlds, (State.me_of_troupe cur hu).trans (plain divert act)⟩

/-- A troupe halted for debugging behind its `brk`. -/
def broken (s : State) (r : List W64) : Troupe :=
  { behind s.me 1 with ctl := { (behind s.me 1).ctl with readyAt := s.cycle, debug := true, stepReq := none, record := r } }

/-- `brk` ends its run, and then halts the troupe for debugging with a record (R389). -/
theorem brk_halts (e : Bool) {s : State} (ready : s.haltReady s.src = true) (key : s.me.key = s.book.cur)
    (divert : s.me.ctl.divert = false) (act : s.me.act.armed = false)
    (quiet : (s.mailbox (s.world s.me.world).areas.faultMbx).arming = none) :
    let r := recordAt s s.me 0x0F 0 true s.me.pc s.me.live ones64
    ∃ t, exec (.brk e) s = .next t ∧
      { t with troupes := s.troupes, cores := s.cores, worlds := s.worlds, mbx := s.mbx, book := s.book } = s ∧
      (∀ k, k ≠ s.book.cur → t.troupe k = s.troupe k) ∧ t.me = broken s r ∧ Posted s t s.me.world r := by
  intro r
  generalize ended : (s.setMe (behind s.me 1)).endRun = d
  have here : (s.setMe (behind s.me 1)).troupe s.book.cur = some (behind s.me 1) :=
    (Table.find_put _ _ _ _).trans (if_pos rfl)
  obtain ⟨frame, cur, others, worlds, me⟩ := State.endRun_plain here divert act
  rw [ended] at frame cur others worlds me
  have run : exec (.brk e) s = .next ((d.putTroupe (broken s r)).countAndTell s.me.world s.me.core r) := by
    have advanced : s.advance 1 true = d := ended
    show execBrk e s = _
    rw [execBrk, if_neg (by simp [ready])]
    dsimp only
    rw [State.recordOf_eq, advanced, me]
    rfl
  have world (k : Nat) : (d.putTroupe (broken s r)).world k = d.world k := rfl
  have box (m : Nat) : d.mailbox m = s.mailbox m := by
    have := congrArg (fun x : State => x.mailbox m) frame
    exact this
  have areas : (d.world s.me.world).areas = (s.world s.me.world).areas := by
    have := congrArg World.areas (worlds s.me.world)
    exact this
  obtain ⟨told, tcur, -, posted⟩ := State.countAndTell_spec (s := d.putTroupe (broken s r)) (w := s.me.world) s.me.core r
    (by rw [world, areas]; exact (congrArg Mailbox.arming (box _)).trans quiet)
  generalize (d.putTroupe (broken s r)).countAndTell s.me.world s.me.core r = t at *
  have troupe (k : Nat) : t.troupe k = if (broken s r).key = k then some (broken s r) else d.troupe k := by
    rw [told]; exact State.troupe_putTroupe _ _ _
  have placed : (broken s r).key = s.book.cur := key
  refine ⟨t, run, ?_, fun k hk => ?_, ?_, ?_⟩
  · rw [told]
    have := congrArg (fun x : State => { x with troupes := s.troupes, mbx := s.mbx }) frame
    exact this
  · rw [troupe, placed, if_neg (Ne.symm hk), others k hk]
    exact State.troupe_setMe _ _ _ hk
  · refine State.me_of_troupe (tcur.trans cur) ((troupe _).trans (if_pos placed))
  · unfold Posted at posted ⊢
    rw [world, areas] at posted
    exact ⟨fun k hk => (posted.1 k hk).trans (box k), posted.2.trans (by rw [← box]; rfl)⟩

/-- Settles O24, instruction by instruction; the record and the halt are those of every precise fault. -/
theorem faultsAndTraps : Obligations.FaultsAndTraps := by
  unfold Obligations.FaultsAndTraps
  refine ⟨⟨fun e b s plain => State.fault_taken plain _ _ _ _, fun e s ready key divert act _ _ _ _ quiet => ?_,
    fun e d a s u named => ?_, fun e g d s => ?_⟩, fun s cause access lanes va plain => State.fault_taken plain _ _ _ _,
    fun s cause access lanes va runtime live quiet => State.fault_of_runtime _ _ _ _ runtime live quiet⟩
  · obtain ⟨t, run, frame, others, me, -, posted⟩ := brk_halts e ready key divert act quiet
    refine ⟨t, _, run, frame, others, me, rfl, fun own room => ?_⟩
    rw [posted, if_neg fun foreign => own.elim (· foreign.1) foreign.2, if_pos room]
  · intro r whole
    obtain ⟨len, words⟩ := shownRecord_spec (u := u) whole
    obtain ⟨t, run, frame, me, regs, others⟩ := faultrd_completes (e := e) (d := d) named len
    exact ⟨t, run, frame, me, fun i hi => (regs i hi).trans (words i hi), others⟩
  · simpa only [Sticky.lane_bits] using fstat_completes e g d s

end Sys2Proof.Machine
end

section
/-! SUPPORT. What a step does around instructions and events (R42, R84, R90, R440): the accounts of an instruction that
has issued, and the turns that the bookkeeping names. -/

namespace Sys2Proof.Machine

/-! ### Turns -/

/-- The first event that is due goes before the agenda. -/
theorem step_of_due {s : State} {i : Instr} {rest : List Instr} (powered : s.powered = true) (due : s.book.due = i :: rest) :
    step s = exec i (s.takeDue rest) := by
  rw [step, if_pos powered, State.nextTurn]
  simp only [due]

/-- With no event due, the agenda names the turn. -/
theorem step_of_agenda {s : State} {x : Turn} {rest : List Turn} (powered : s.powered = true) (due : s.book.due = [])
    (agenda : s.book.agenda = x :: rest) : step s = (s.takeTurn rest).turn x := by
  rw [step, if_pos powered, State.nextTurn]
  simp only [due, agenda]

/-- A module without power waits for hot reset (R440). -/
theorem step_of_dark {s : State} (dark : s.powered = false) : step s = s.dark := by
  rw [step, if_neg (by simp [dark])]

theorem State.eventTurn_eq (s : State) (i : Instr) :
    s.eventTurn i = if i.isWord = true ∨ i.wf = false then .next s else exec i s := by
  unfold State.eventTurn
  congr 1
  simp

/-! ### Accounts -/

theorem State.requester_of_troupe {s : State} {k uid : Nat} {x : Troupe} (h : s.troupe k = some x) (same : x.uid = uid) :
    s.requester k uid = some x := by
  have found : s.troupes.find k = some x := h
  simp only [State.requester, found, same, if_true]

/-- What has issued leaves in its troupe: operations, the replay mask and the state of issue (R43, R188, R386). -/
theorem Troupe.afterIssue_frame (t before : Troupe) (n : Nat) : t.afterIssue before n =
    { t with ops := (t.afterIssue before n).ops, sp := { t.sp with replay := (t.afterIssue before n).sp.replay },
             ctl := (t.afterIssue before n).ctl } := by
  have sp : (t.afterIssue before n).sp = { t.sp with replay := (t.afterIssue before n).sp.replay } := by
    unfold Troupe.afterIssue
    dsimp only
    split_ifs <;> rfl
  rw [← sp]
  rfl

/-- Words that are charged count in the run of the troupe that holds its slot (R42). -/
theorem State.islot_charge (s : State) (t : Troupe) (n : Nat) :
    ((s.charge t n).core t.core).islots.get (t.tslot % 4) {} =
      let sl := (s.core t.core).islots.get (t.tslot % 4) {}
      if sl.holder = some t.tslot then { sl with words := sl.words + n } else sl := by
  have core (f : World → World) (c : Core → Core) : ((s.modCore t.core c).modWorld t.world f).core t.core = c (s.core t.core) :=
    (s.core_modCore _ _ c).trans (if_pos rfl)
  rw [State.charge, core]
  dsimp only
  split
  · rw [Table.get_put, if_pos rfl]
  · rfl

theorem State.charge_troupe (s : State) (t : Troupe) (n k : Nat) : (s.charge t n).troupe k = s.troupe k := rfl

theorem State.charge_mem (s : State) (t : Troupe) (n : Nat) : (s.charge t n).mem = s.mem := rfl

theorem State.troupe_modTroupe {s : State} {k : Nat} {x : Troupe} (f : Troupe → Troupe) (h : s.troupe k = some x) (j : Nat) :
    (s.modTroupe k f).troupe j = if k = j then some (f x) else s.troupe j := by
  have found : s.troupes.find k = some x := h
  simp only [State.modTroupe, found]
  exact Table.find_put _ _ _ _

theorem State.modLaunch_troupe (s : State) (n : Nat) (f : Launch → Launch) (k : Nat) :
    (s.modLaunch n f).troupe k = s.troupe k := by
  rw [State.troupe, State.modLaunch_troupes, ← State.troupe]

/-- Issue cycles count in the troupe's state of issue and its act (R86, R87). -/
theorem State.spend_spec {s : State} {p x : Troupe} (n : Nat) (h : s.troupe p.key = some x) :
    (s.spend p n).mem = s.mem ∧ (∀ c, (s.spend p n).core c = s.core c) ∧
      (∀ k, k ≠ p.key → (s.spend p n).troupe k = s.troupe k) ∧
      ∃ y, (s.spend p n).troupe p.key = some y ∧ y = { x with ctl := y.ctl, act := y.act } := by
  unfold State.spend
  dsimp only
  refine ⟨by simp, fun c => ?_, fun k hk => ?_, ?_⟩
  · rw [State.core, State.modLaunch_cores, State.modTroupe_cores, ← State.core]
  · rw [State.modLaunch_troupe, State.troupe_modTroupe _ h, if_neg (Ne.symm hk)]
  · rw [State.modLaunch_troupe, State.troupe_modTroupe _ h, if_pos rfl]
    split
    · exact ⟨_, rfl, rfl⟩
    · exact ⟨_, rfl, rfl⟩

theorem State.islot_markIssued (s : State) (core islot : Nat) :
    ((s.markIssued core islot).core core).islots.get islot {} = { (s.core core).islots.get islot {} with issued := true } := by
  rw [State.markIssued, State.core_modCore, if_pos rfl, Table.get_put, if_pos rfl]

theorem State.markIssued_troupe (s : State) (core islot k : Nat) : (s.markIssued core islot).troupe k = s.troupe k := rfl

theorem State.markIssued_mem (s : State) (core islot : Nat) : (s.markIssued core islot).mem = s.mem := rfl

/-- The troupe of a chain that has issued, before its cycles are counted: what it leaves, and nothing poisoned that it
wrote whole (R429). -/
def State.settled (s : State) (p x : Troupe) (ms : List Member) : Troupe :=
  let y := x.afterIssue p ms.length
  if y.ctl.halted then y else { y with ctl := ms.foldl (fun c m => (s.setMe p).unpoison m c) y.ctl }

theorem State.settled_frame (s : State) (p x : Troupe) (ms : List Member) : s.settled p x ms =
    { x with ops := (s.settled p x ms).ops, sp := { x.sp with replay := (s.settled p x ms).sp.replay },
             ctl := (s.settled p x ms).ctl } := by
  unfold State.settled
  dsimp only
  split
  · exact x.afterIssue_frame p ms.length
  · rw [x.afterIssue_frame p ms.length]

/-- The state in which a chain's accounts are settled: the troupe put back, the words charged, the cycles counted. -/
def State.accounted (s : State) (p x : Troupe) (ms : List Member) : State :=
  (((s.putTroupe (s.settled p x ms)).charge p (chainLen ms)).spend (if armsAct ms then { p with act := {} } else p)
    (chainCycles ms)).markIssued p.core (p.tslot % 4)

theorem State.accounted_spec (s : State) {p x : Troupe} (ms : List Member) (key : x.key = p.key) :
    let t := s.accounted p x ms
    let sl := (s.core p.core).islots.get (p.tslot % 4) {}
    t.mem = s.mem ∧ (∀ k, k ≠ p.key → t.troupe k = s.troupe k) ∧ ∃ y, t.troupe p.key = some y ∧
      y = { x with sp := { x.sp with replay := y.sp.replay }, ops := y.ops, ctl := y.ctl, act := y.act } ∧
      ((t.core p.core).islots.get (p.tslot % 4) {}).words =
        if sl.holder = some p.tslot then sl.words + chainLen ms else sl.words := by
  have frame := s.settled_frame p x ms
  generalize spender : (if armsAct ms then { p with act := {} } else p) = q
  have qkey : q.key = p.key := by rw [← spender]; split <;> rfl
  generalize charged : (s.putTroupe (s.settled p x ms)).charge p (chainLen ms) = c
  have troupe (k : Nat) : c.troupe k = if p.key = k then some (s.settled p x ms) else s.troupe k := by
    have same : (s.settled p x ms).key = p.key := by rw [frame]; exact key
    rw [← charged, State.charge_troupe, State.troupe_putTroupe, same]
  have slot := State.islot_charge (s.putTroupe (s.settled p x ms)) p (chainLen ms)
  rw [charged] at slot
  obtain ⟨mem, cores, others, y, hy, rest⟩ := State.spend_spec (s := c) (p := q) (chainCycles ms) ((troupe _).trans (if_pos qkey.symm))
  intro t sl
  have whole : t = (c.spend q (chainCycles ms)).markIssued p.core (p.tslot % 4) := by rw [← charged, ← spender]; rfl
  clear_value t
  subst whole
  refine ⟨?_, fun k hk => ?_, y, ?_, ?_, ?_⟩
  · rw [State.markIssued_mem, mem, ← charged]; rfl
  · rw [State.markIssued_troupe, others k (qkey ▸ hk), troupe, if_neg (Ne.symm hk)]
  · rw [State.markIssued_troupe, ← qkey, hy]
  · rw [rest, frame]
  · rw [State.islot_markIssued, cores, slot]
    exact apply_ite Islot.words _ _ _

/-- A chain that has issued, in no step of a debugger, settles its accounts; a full run then ends. -/
theorem State.finish_issued {u : State} {p x : Troupe} (ms : List Member) (found : u.troupe p.key = some x)
    (uid : x.uid = p.uid) (stalled : x.ctl.stalled = false) (held : heldBack p x = false) (step : p.ctl.stepReq = none) :
    ∃ s : State, s.mem = u.mem ∧ s.troupes = u.troupes ∧ s.cores = u.cores ∧
      let t := s.accounted p x ms
      u.finish p ms none = if 24 ≤ ((t.core p.core).islots.get (p.tslot % 4) {}).words then t.cutRun (s.settled p x ms) else t := by
  have requester : (u.modBook fun b => { b with chain := none, lanes := none }).requester p.key p.uid = some x :=
    State.requester_of_troupe found uid
  refine ⟨(u.modBook fun b => { b with chain := none, lanes := none }).dropQueries p.uid, rfl, rfl, rfl, ?_⟩
  unfold State.finish
  simp only [requester, stalled, held, step, Option.isSome_none, Bool.false_eq_true, if_false, decide_eq_true_eq]
  rfl

/-- Settles O57. -/
theorem stepsAround : Obligations.StepsAround := by
  unfold Obligations.StepsAround
  refine ⟨fun u p x m found uid key core stalled held step room => ?_, fun s i rest powered due => step_of_due powered due,
    fun s i rest powered due agenda => ?_, fun s dark => ⟨fun other => ?_, fun rest agenda => ?_⟩⟩
  · obtain ⟨s, mem, troupes, cores, finish⟩ := State.finish_issued [m] found uid stalled held step
    have core (k : Nat) : u.core k = s.core k := by rw [State.core, ← cores, ← State.core]
    have troupe (k : Nat) : u.troupe k = s.troupe k := by rw [State.troupe, ← troupes, ← State.troupe]
    have len : chainLen [m] = m.len := Nat.zero_add _
    obtain ⟨amem, others, y, hy, rest, words⟩ := s.accounted_spec (x := x) [m] key
    rw [core, ← len] at room
    have notFull : ¬ 24 ≤ (((s.accounted p x [m]).core p.core).islots.get (p.tslot % 4) {}).words := by
      rw [words]; split <;> omega
    rw [finish, if_neg notFull]
    refine ⟨amem.trans mem, y, hy, rest, fun k hk => (others k hk).trans (troupe k).symm, fun holder => ?_⟩
    rw [words, core, len, if_pos (core _ ▸ holder)]
  · rw [step_of_agenda powered due agenda]
    exact State.eventTurn_eq _ i
  · rw [step_of_dark dark, State.dark]
    split
    · next rest agenda => exact absurd agenda (other rest)
    · rfl
  · rw [step_of_dark dark, State.dark]
    simp only [agenda]
    rfl

end Sys2Proof.Machine
end

section
/-! SUPPORT. No instruction has more than three words (R33), whatever words it is read from. -/

namespace Sys2Proof

/-- An answer of the decoder names an instruction of at most three words, if any. -/
def DecodeResult.Short (r : DecodeResult) : Prop := ∀ i n, r = .ok (i, n) → n ≤ 3

namespace DecodeResult

@[simp] theorem short_error (e : DecodeError) : Short (.error e) := nofun

@[simp] theorem short_ok (i : Instr) (n : Nat) : Short (.ok (i, n)) ↔ n ≤ 3 :=
  ⟨fun h => h i n rfl, fun h _ _ eq => by cases eq; exact h⟩

@[simp] theorem short_need {p : Prop} [Decidable p] {e : DecodeError} {k : DecodeResult} :
    Short (need p e k) ↔ (p → Short k) := by
  unfold need
  split
  · next holds => exact ⟨fun h _ => h, fun h => h holds⟩
  · next fails => exact ⟨fun _ holds => absurd holds fails, fun _ => short_error e⟩

@[simp] theorem short_tail {hdr : Hdr} {k : DecodeResult} : Short (tail hdr k) ↔ (hdr.c = false → Short k) := short_need

@[simp] theorem short_always {g : Guard} {k : DecodeResult} : Short (always g k) ↔ (g = .always → Short k) := short_need

@[simp] theorem short_withExt {rest : List W32} {k : W32 → DecodeResult} (h : ∀ x, Short (k x)) : Short (withExt rest k) := by
  cases rest with
  | nil => exact short_error _
  | cons x _ => exact h x

@[simp] theorem short_withVSrc (b : Nat) (rest : List W32) (mk : VSrc → Instr) : Short (withVSrc b rest mk) := by
  unfold withVSrc
  split <;> simp

@[simp] theorem short_withSSrc (b : Nat) (rest : List W32) (mk : SSrc → Instr) : Short (withSSrc b rest mk) := by
  unfold withSSrc
  split <;> simp

@[simp] theorem short_mVec (rest : List W32) (a b : Nat) (mk : MAddr → Instr) : Short (mVec rest a b mk) := by simp [mVec]

@[simp] theorem short_mScal (rest : List W32) (a b : Nat) (mk : SAddr → Instr) : Short (mScal rest a b mk) := by simp [mScal]

@[simp] theorem short_aFmt (red : Bool) (rest : List W32) (d a b : Nat) (mk : AArgs → Instr) : Short (aFmt red rest d a b mk) := by
  refine short_need.2 fun _ => short_withExt fun x => ?_
  split <;> simp

@[simp] theorem short_cFmt (rest : List W32) (d a b : Nat) (mk : CArgs → Instr) : Short (cFmt rest d a b mk) := by
  refine short_need.2 fun _ => short_withExt fun x => short_need.2 fun _ => ?_
  split
  · simp
  · dsimp only
    split <;> simp

@[simp] theorem short_mxFmt (rest : List W32) (d a b : Nat) (mk : MXArgs → Instr) : Short (mxFmt rest d a b mk) := by
  simp [mxFmt]

/-- Every row of class 0 has one or two words. -/
theorem short_vector (op : Nat) (h : Hdr) (g : Guard) (d a b : Nat) (rest : List W32) :
    Short (decodeVector op h g d a b rest) := by
  unfold decodeVector
  split
  case h_49 => split <;> simp
  all_goals simp

/-- Every row of class 1 has at most three words. -/
theorem short_scalar (op : Nat) (h : Hdr) (d a b : Nat) (rest : List W32) : Short (decodeScalar op h d a b rest) := by
  unfold decodeScalar
  split
  case h_11 => refine short_need.2 fun _ => ?_; split <;> simp
  case h_21 => refine short_need.2 fun _ => ?_; split <;> simp
  all_goals simp

/-- Every row of class 2 has one or two words. -/
theorem short_memory (op : Nat) (h : Hdr) (g : Guard) (d a b : Nat) (rest : List W32) :
    Short (decodeMemory op h g d a b rest) := by
  unfold decodeMemory
  split
  case h_32 => refine short_always.2 fun _ => short_need.2 fun _ => short_withExt fun x => short_need.2 fun _ => ?_; split <;> simp
  case h_44 => refine short_always.2 fun _ => short_need.2 fun _ => ?_; split <;> simp
  all_goals simp

/-- Every row of class 3 has one or two words. -/
theorem short_system (op : Nat) (h : Hdr) (g : Guard) (d a b : Nat) (rest : List W32) :
    Short (decodeSystem op h g d a b rest) := by
  unfold decodeSystem
  split
  case h_3 => split <;> simp
  case h_4 => split <;> simp
  case h_16 => refine short_always.2 fun _ => short_need.2 fun _ => ?_; split <;> simp
  case h_21 => refine short_always.2 fun _ => ?_; split <;> simp
  all_goals simp

end DecodeResult

open DecodeResult in
/-- An instruction that the decoder reads has at most three words (R33). -/
theorem decode_length_le {ws : List W32} {i : Instr} {n : Nat} (read : decode ws = .ok (i, n)) : n ≤ 3 := by
  refine (?_ : Short (decode ws)) i n read
  cases ws with
  | nil => exact short_error _
  | cons w rest =>
    unfold decode
    dsimp only
    split
    · exact short_error _
    · refine short_need.2 fun _ => ?_
      unfold decodeRaw
      dsimp only
      split
      · exact short_vector _ _ _ _ _ _ _
      · exact short_always.2 fun _ => short_scalar _ _ _ _ _ _
      · exact short_tail.2 fun _ => short_memory _ _ _ _ _ _ _
      · exact short_tail.2 fun _ => short_system _ _ _ _ _ _ _
      · exact short_error _

end Sys2Proof
end

section
/-! SUPPORT. A turn of an issue slot (R30, R33, R37, R84): the chain that stands at the program counter, and what
becomes of it. -/

namespace Sys2Proof.Machine

open Sys2Proof.Claims

/-! ### The chain that is decoded -/

/-- An instruction that stands in words that can be fetched is what the decoder reads there, word by word. -/
theorem memberAt_of_isMember {s : State} {p : Troupe} {m : Member} (h : IsMember s p m) : s.memberAt p [] m.pos = .ok m := by
  obtain ⟨ws, len, words, truncated, decoded, -⟩ := h
  have bound : m.len ≤ 3 := decode_length_le decoded
  obtain ⟨i, pos, n⟩ := m
  simp only at len words truncated decoded bound ⊢
  subst len
  have first : pos + BitVec.ofNat 32 0 = pos := BitVec.add_zero pos
  match ws, words, truncated, decoded, bound with
  | [], _, _, decoded, _ => cases decoded
  | [w], words, _, decoded, _ =>
    have word0 : s.codeWord p [] pos = .ok w := first ▸ words 0 (by simp)
    rw [State.memberAt]
    simp only [word0, decoded]
  | [w, y], words, truncated, decoded, _ =>
    have word0 : s.codeWord p [] pos = .ok w := first ▸ words 0 (by simp)
    have word1 : s.codeWord p [] (pos + 1) = .ok y := words 1 (by simp)
    have more1 : decode [w] = .error .truncated := truncated 1 (by simp) (by simp)
    rw [State.memberAt]
    simp only [word0, more1, word1, decoded]
  | [w, y, z], words, truncated, decoded, _ =>
    have word0 : s.codeWord p [] pos = .ok w := first ▸ words 0 (by simp)
    have word1 : s.codeWord p [] (pos + 1) = .ok y := words 1 (by simp)
    have word2 : s.codeWord p [] (pos + 2) = .ok z := words 2 (by simp)
    have more1 : decode [w] = .error .truncated := truncated 1 (by simp) (by simp)
    have more2 : decode [w, y] = .error .truncated := truncated 2 (by simp) (by simp)
    rw [State.memberAt]
    simp only [word0, more1, word1, more2, word2, decoded]
  | _ :: _ :: _ :: _ :: _, _, _, _, bound => simp only [List.length_cons] at bound; omega

/-- The registers that a member names are among the troupe's blocks (R60). -/
theorem regs_below_of_isMember {s : State} {p : Troupe} {m : Member} (h : IsMember s p m) :
    (vregsOf m.instr).any (8 * p.blocks.length ≤ ·) = false := by
  obtain ⟨-, -, -, -, -, below⟩ := h
  rw [List.any_eq_false]
  intro r hr
  have := below r hr
  simpa using this

/-- A chain that stands at a word index is what is fetched and decoded there (R37, R39). -/
theorem chainAt_of_isChain {s : State} {p : Troupe} {ms : List Member} :
    ∀ {i : W32} {n : Nat}, ms.length ≤ n → IsChain s p i ms → s.chainAt p [] i n = .ok ms := by
  induction ms with
  | nil => exact fun _ h => h.elim
  | cons m ms ih =>
    intro i n room chain
    unfold Claims.IsChain at chain
    obtain ⟨rfl, member, rest⟩ := chain
    cases n with
    | zero => simp at room
    | succ n =>
      rw [State.chainAt, memberAt_of_isMember member]
      simp only [regs_below_of_isMember member, Bool.false_eq_true, if_false]
      cases ms with
      | nil => simp [show chains m.instr = false from rest]
      | cons m' ms =>
        obtain ⟨on, same, tail⟩ := rest
        have tailAt := ih (n := n) (by simpa using room) tail
        simp only [on, Bool.not_true, Bool.false_eq_true, if_false]
        rw [if_neg (not_not.2 same)]
        simp only [show w32 m.len = BitVec.ofNat 32 m.len from rfl, tailAt]

/-- Where the first word is illegal whatever follows it, so is the chain (R61). -/
theorem chainAt_of_illegal {s : State} {p : Troupe} {i w : W32} {e : DecodeError} (n : Nat) (word : s.codeWord p [] i = .ok w)
    (illegal : decode [w] = .error e) (complete : e ≠ .truncated) :
    s.chainAt p [] i (n + 1) = .error (.fault 1 0 (s.wordVa p i)) := by
  have member : s.memberAt p [] i = .error (.fault 1 0 (s.wordVa p i)) := by
    cases e <;> simp_all [State.memberAt, State.illegal]
  rw [State.chainAt, member]

/-! ### The state in which a chain is tried -/

/-- No code of the chain lies outside the module: nothing is asked for. -/
theorem fetchFar_of_near {s : State} {t : Troupe} (near : s.farPieces t = []) : s.fetchFar t = (s, some []) := by
  have pieces (k : Nat) (hk : k ∈ codePackets t.pc) : s.piecesOf t k = [] := by
    have := List.flatMap_eq_nil_iff.1 near k hk
    simpa using this
  have split : s.splitPackets t = [] := by
    rw [State.splitPackets, List.filter_eq_nil_iff]
    intro k hk
    simp [pieces k hk]
  have ask : s.askFar t = (s, some []) := by simp [State.askFar, near]
  simp [State.fetchFar, ask, split]

theorem openPacket_src (s : State) (t : Troupe) (far : FarCode) (k : Nat) : (s.openPacket t far k).src = s.src := by
  have kept (s : State) (n : Nat) (f : Launch → Launch) : (s.modLaunch n f).src = s.src := by
    simp [State.src, State.me]
  unfold State.openPacket
  dsimp only
  split
  · exact kept _ _ _
  · exact kept _ _ _

theorem openPackets_src (s : State) (t : Troupe) (far : FarCode) : (s.openPackets t far).src = s.src := by
  unfold State.openPackets
  generalize codePackets t.pc = l
  induction l generalizing s with
  | nil => rfl
  | cons k l ih => rw [List.foldl_cons, ih, openPacket_src]

theorem touchCode_touched (s : State) (t : Troupe) (ms : List Member) : Touched s (s.touchCode t ms) := by
  unfold State.touchCode
  dsimp only
  generalize nub _ = l
  induction l generalizing s with
  | nil => exact .refl s
  | cons k l ih =>
    rw [List.foldl_cons]
    exact (State.touchUtlb_touched _ _ _ _).trans (ih _)

theorem poise_src (s : State) (t : Troupe) : (s.poise t).src = t := rfl

/-! ### What becomes of the chain -/

/-- With no lanes to keep to, the members of a chain are executed one after the other (R37). -/
theorem runChain_eq_foldl (ms : List Member) (s : State) :
    s.runChain none ms = ms.foldl (fun r m => match r with
      | .next u => exec m.instr (u.modBook fun b => { b with lanes := none })
      | r => r) (.next s) := by
  have stopped (r : Res) (no : ∀ u, r ≠ .next u) (ms : List Member) : ms.foldl (fun r m => match r with
      | .next u => exec m.instr (u.modBook fun b => { b with lanes := none })
      | r => r) r = r := by
    induction ms with
    | nil => rfl
    | cons m ms ih =>
      rw [List.foldl_cons]
      cases r with
      | next u => exact absurd rfl (no u)
      | fault f => exact ih
      | refused r => exact ih
  induction ms generalizing s with
  | nil => rfl
  | cons m ms ih =>
    rw [State.runChain, List.foldl_cons]
    simp only [Bool.not_true, Bool.false_eq_true, if_false]
    generalize exec m.instr _ = r
    cases r with
    | next u => exact ih u
    | fault f => exact (stopped _ (fun _ h => by cases h) ms).symm
    | refused r => exact (stopped _ (fun _ h => by cases h) ms).symm

/-- A chain that fits in its run, for which nothing is waited, and that reads poison takes the fault of R429. -/
theorem tryChain_of_poison {s : State} {p : Troupe} {words : Nat} {ms : List Member} {lanes : Mask} {va : W64}
    (room : words + chainLen ms ≤ 24) (gate : s.gated p ms = false) (release : p.needsRelease ms = false)
    (step : p.ctl.stepReq = none) (poison : (ms.findSome? fun m => s.poisonRead m.instr) = some (lanes, va)) :
    s.tryChain p words ms = match s.fault 0x14 0 lanes va with
      | .next u => .next ((u.countIssue p ms (0, 0)).finish p ms none)
      | r => r := by
  rw [State.tryChain, if_neg (by omega), if_neg (by simp [gate, release, step])]
  simp only [poison] <;> rfl

/-- A chain that fits in its run, for which nothing is waited, and that breaks no promise is executed. -/
theorem tryChain_of_clean {s : State} {p : Troupe} {words : Nat} {ms : List Member} (room : words + chainLen ms ≤ 24)
    (gate : s.gated p ms = false) (release : p.needsRelease ms = false) (step : p.ctl.stepReq = none)
    (clean : ∀ m ∈ ms, s.poisonRead m.instr = none) (kept : s.broken p ms = []) :
    s.tryChain p words ms = match s.runChain none ms with
      | .next u =>
        if setsCounter ms = true ∧ u.unissued p = false then
          match (s.countRun p (chainCycles ms) (chainLen ms) (s.chainBeats ms)).runChain none ms with
          | .next v => .next (v.finish p ms none)
          | r => r
        else .next ((u.countIssue p ms (s.chainBeats ms)).finish p ms none)
      | r => r := by
  have none : (ms.findSome? fun m => s.poisonRead m.instr) = none := List.findSome?_eq_none_iff.2 clean
  rw [State.tryChain, if_neg (by omega), if_neg (by simp [gate, release, step])]
  simp only [none, kept, List.isEmpty_nil, if_true, State.issueChain, step, State.stepBeats, Bool.and_eq_true,
    Bool.not_eq_true'] <;> rfl

/-! ### The turn -/

/-- The turn of an issue slot that no lower one goes before, whose troupe may go on. -/
theorem step_of_issue {s : State} {core islot k : Nat} {rest : List Turn} {t : Troupe} (powered : s.powered = true)
    (due : s.book.due = []) (agenda : s.book.agenda = .issue core islot :: rest)
    (issued : ((s.core core).islots.get islot {}).issued = false)
    (holder : ((s.core core).islots.get islot {}).holder = some k) (found : s.troupe (keyOf core k) = some t)
    (first : (s.takeTurn rest).firstSlot core islot = islot) (may : t.mayIssue = true) :
    step s = ((s.takeTurn rest).asking core islot).issueTroupe t ((s.core core).islots.get islot {}).words := by
  have slot : ((((s.takeTurn rest).asking core islot).core core).islots.get islot {}) =
      { (s.core core).islots.get islot {} with asked := some s.cycle } := by
    rw [State.asking, State.core_modCore, if_pos rfl, Table.get_put, if_pos rfl]
    rfl
  have there : ((s.takeTurn rest).asking core islot).troupe (keyOf core k) = some t := found
  rw [step_of_agenda powered due agenda, State.turn, State.issueTurn]
  simp only [first, if_true, State.issue, slot, issued, holder, there, may, Bool.false_eq_true, if_false]

/-- What the chain at the program counter makes of a turn, when no breakpoint stops the troupe and its code is in the
module. -/
theorem issueTroupe_of_near {s : State} {t : Troupe} (words : Nat)
    (run : ((s.dropAbandoned t).poise t.poised).breakpoint t.poised = none)
    (near : ((s.dropAbandoned t).poise t.poised).farPieces t.poised = []) :
    let p := t.poised
    let s1 := ((s.dropAbandoned t).poise p).openPackets p []
    (∀ ms, s1.chainAt p [] p.pc 4 = .ok ms → s.issueTroupe t words = (s1.touchCode p ms).tryChain p words ms) ∧
    ∀ c a va, s1.chainAt p [] p.pc 4 = .error (.fault c a va) → s.issueTroupe t words = match s1.faultAll c a va with
      | .next u => .next (u.noFetch p)
      | r => r := by
  have fetched := fetchFar_of_near near
  refine ⟨fun ms chain => ?_, fun c a va chain => ?_⟩
  · rw [State.issueTroupe]
    simp only [run, fetched, chain]
  · rw [State.issueTroupe]
    simp only [run, fetched, chain] <;> rfl

theorem Troupe.poised_stepReq (t : Troupe) : t.poised.ctl.stepReq = t.ctl.stepReq := by
  unfold Troupe.poised
  split <;> rfl

/-- Settles O56. -/
theorem stepRunsDecoded : Obligations.StepRunsDecoded := by
  unfold Obligations.StepRunsDecoded
  intro s core islot rest k t powered due agenda sl issued holder found first may noStep p s0 s1 run near
  have turn := step_of_issue powered due agenda issued holder found first may
  obtain ⟨tried, faulted⟩ := issueTroupe_of_near sl.words run near
  have step : p.ctl.stepReq = none := t.poised_stepReq.trans noStep
  refine ⟨fun ms short chain room => ?_, fun w e word illegal complete => ?_⟩
  · intro s2 gate release
    have tries : Machine.step s = s2.tryChain p sl.words ms :=
      turn.trans (tried ms (chainAt_of_isChain (by omega) chain))
    refine ⟨?_, fun lanes va poison => ?_, fun clean kept => ?_⟩
    · rw [(touchCode_touched s1 p ms).src, openPackets_src, poise_src]
    · exact tries.trans (tryChain_of_poison room gate release step poison)
    · rw [tries, tryChain_of_clean room gate release step clean kept]
      simp only [runChain_eq_foldl] <;> rfl
  · exact turn.trans (faulted _ _ _ (chainAt_of_illegal 3 word illegal complete))

end Sys2Proof.Machine
end

section
/-! SUPPORT. Global accesses that miss (R183, R186 to R188, R367): what the way to a miss entry leaves unchanged, the
entries of the miss table, and what becomes of the access. -/

namespace Sys2Proof.Machine

open Sys2Proof.Claims

/-! ### What the way to a miss entry leaves unchanged -/

/-- Troupe k, the recent translations and issue slots of the cores, the counters of the worlds, the miss tables, the
mailboxes and the bookkeeping may differ, and nothing else. -/
def MissFrame (k : Nat) (s t : State) : Prop :=
  { t with troupes := s.troupes, cores := s.cores, worlds := s.worlds, clusters := s.clusters, mbx := s.mbx, book := s.book } = s ∧
  (∀ j, j ≠ k → t.troupe j = s.troupe j) ∧
  (∀ j, { t.core j with utlb := (s.core j).utlb, islots := (s.core j).islots } = s.core j) ∧
  (∀ j, { t.cluster j with miss := (s.cluster j).miss } = s.cluster j) ∧
  ∀ w, { t.world w with counters := (s.world w).counters } = s.world w

theorem core_trans {a b c : Core} (h1 : { b with utlb := a.utlb, islots := a.islots } = a)
    (h2 : { c with utlb := b.utlb, islots := b.islots } = b) : { c with utlb := a.utlb, islots := a.islots } = a := by
  have h : { c with utlb := a.utlb, islots := a.islots } =
      { ({ c with utlb := b.utlb, islots := b.islots } : Core) with utlb := a.utlb, islots := a.islots } := rfl
  rw [h, h2, h1]

theorem cluster_trans {a b c : Cluster} (h1 : { b with miss := a.miss } = a) (h2 : { c with miss := b.miss } = b) :
    { c with miss := a.miss } = a := by
  have h : { c with miss := a.miss } = { ({ c with miss := b.miss } : Cluster) with miss := a.miss } := rfl
  rw [h, h2, h1]

namespace MissFrame

variable {k : Nat} {s t : State}

theorem refl (s : State) : MissFrame k s s := ⟨rfl, fun _ _ => rfl, fun _ => rfl, fun _ => rfl, fun _ => rfl⟩

theorem trans {a b c : State} (h1 : MissFrame k a b) (h2 : MissFrame k b c) : MissFrame k a c := by
  obtain ⟨e1, t1, c1, l1, w1⟩ := h1
  obtain ⟨e2, t2, c2, l2, w2⟩ := h2
  refine ⟨?_, fun j hj => (t2 j hj).trans (t1 j hj), fun j => core_trans (c1 j) (c2 j), fun j => cluster_trans (l1 j) (l2 j),
    fun w => counters_trans (w1 w) (w2 w)⟩
  have h : { c with troupes := a.troupes, cores := a.cores, worlds := a.worlds, clusters := a.clusters, mbx := a.mbx, book := a.book } =
      { ({ c with troupes := b.troupes, cores := b.cores, worlds := b.worlds, clusters := b.clusters, mbx := b.mbx,
                  book := b.book } : State) with
        troupes := a.troupes, cores := a.cores, worlds := a.worlds, clusters := a.clusters, mbx := a.mbx, book := a.book } := rfl
  rw [h, e2, e1]

theorem areas (h : MissFrame k s t) (w : Nat) : (t.world w).areas = (s.world w).areas := by
  obtain ⟨-, -, -, -, worlds⟩ := h
  have := congrArg World.areas (worlds w)
  exact this

theorem limits (h : MissFrame k s t) (w : Nat) : (t.world w).limits = (s.world w).limits := by
  obtain ⟨-, -, -, -, worlds⟩ := h
  have := congrArg World.limits (worlds w)
  exact this

theorem isRuntime (h : MissFrame k s t) (u : Troupe) : t.isRuntime u = s.isRuntime u := by
  obtain ⟨-, -, -, -, worlds⟩ := h
  have same : (t.world u.world).runtime = (s.world u.world).runtime := by
    have := congrArg World.runtime (worlds u.world)
    exact this
  rw [State.isRuntime, same, ← State.isRuntime]

theorem mem (h : MissFrame k s t) : t.mem = s.mem := by
  obtain ⟨same, -⟩ := h
  have := congrArg State.mem same
  exact this

theorem reqQ (h : MissFrame k s t) (c : Nat) : (t.cluster c).reqQ = (s.cluster c).reqQ := by
  obtain ⟨-, -, -, clusters, -⟩ := h
  have := congrArg Cluster.reqQ (clusters c)
  exact this

/-- The record of an event is the same before and behind (R369). -/
theorem recordAt (h : MissFrame k s t) (u : Troupe) (cause access : Nat) (halted : Bool) (pc : W32) (lanes : Mask) (va : W64) :
    recordAt t u cause access halted pc lanes va = recordAt s u cause access halted pc lanes va := by
  obtain ⟨same, -, cores, -⟩ := h
  have alm : t.alm = s.alm := by
    have := congrArg State.alm same
    exact this
  have skew : (t.core u.core).almSkew = (s.core u.core).almSkew := by
    have := congrArg Core.almSkew (cores u.core)
    exact this
  simp only [Claims.recordAt, alm, skew]

theorem of_touched (h : Touched s t) : MissFrame k s t := by
  obtain ⟨⟨same, -, cores, worlds⟩, troupes, -⟩ := h
  refine ⟨?_, fun j _ => ?_, fun j => ?_, fun j => ?_, worlds⟩
  · have := congrArg (fun x : State => { x with clusters := s.clusters, mbx := s.mbx }) same
    exact this
  · rw [State.troupe, troupes, ← State.troupe]
  · have := congrArg (fun x : Core => { x with islots := (s.core j).islots }) (cores j)
    exact this
  · have := congrArg (fun x : State => { x.cluster j with miss := (s.cluster j).miss }) same
    exact this

theorem of_modBook (f : Book → Book) : MissFrame k s (s.modBook f) :=
  ⟨rfl, fun _ _ => rfl, fun _ => rfl, fun _ => rfl, fun _ => rfl⟩

theorem of_count (w event core n : Nat) : MissFrame k s (s.count w event core n) :=
  of_touched (State.count_touched _ _ _ _ _)

theorem of_putTroupe {u : Troupe} (key : u.key = k) : MissFrame k s (s.putTroupe u) :=
  ⟨rfl, fun j hj => by rw [State.troupe_putTroupe, if_neg (key ▸ Ne.symm hj)], fun _ => rfl, fun _ => rfl, fun _ => rfl⟩

theorem of_dropHold (core tslot : Nat) : MissFrame k s (s.dropHold core tslot) := by
  refine ⟨by rw [State.dropHold_frame], fun j _ => State.dropHold_troupe _ _ _ _, fun j => ?_, fun j => ?_, fun w => ?_⟩
  · have := congrArg (fun x : Core => { x with utlb := (s.core j).utlb }) (State.dropHold_core s core tslot j)
    exact this
  · rw [State.dropHold_frame]; rfl
  · rw [State.dropHold_world]

theorem of_modTroupe {u : Troupe} (f : Troupe → Troupe) (h : s.troupe k = some u) : MissFrame k s (s.modTroupe k f) := by
  refine ⟨by simp [State.modTroupe, show s.troupes.find k = some u from h],
    fun j hj => by rw [State.troupe_modTroupe f h, if_neg (Ne.symm hj)], fun j => ?_, fun j => ?_, fun w => ?_⟩
  · rw [State.core, State.modTroupe_cores, ← State.core]
  · rw [State.cluster, State.modTroupe_clusters, ← State.cluster]
  · rw [State.world, State.modTroupe_worlds, ← State.world]

theorem of_modCluster (c : Nat) (f : List MissEntry → List MissEntry) :
    MissFrame k s (s.modCluster c fun cl => { cl with miss := f cl.miss }) := by
  refine ⟨rfl, fun _ _ => rfl, fun _ => rfl, fun j => ?_, fun _ => rfl⟩
  rw [State.cluster, State.modCluster, Table.get_put]
  split
  · subst_vars; rfl
  · rfl

end MissFrame

theorem State.cluster_modCluster (s : State) (c k : Nat) (f : Cluster → Cluster) :
    (s.modCluster c f).cluster k = if c = k then f (s.cluster c) else s.cluster k := by
  simp [State.cluster, State.modCluster]

theorem State.count_mbx (s : State) (w event core n : Nat) : (s.count w event core n).mbx = s.mbx := by
  rw [State.count_frame]

theorem State.count_clusters (s : State) (w event core n : Nat) : (s.count w event core n).clusters = s.clusters := by
  rw [State.count_frame]

/-- What is posted depends on the mailboxes and on where the world's fault mailbox is. -/
theorem posted_of_missFrame {k w : Nat} {s a t : State} {r : List W64} (frame : MissFrame k s a) (boxes : a.mbx = s.mbx)
    (h : Posted a t w r) : Posted s t w r := by
  have box (m : Nat) : a.mailbox m = s.mailbox m := by rw [State.mailbox, boxes, ← State.mailbox]
  unfold Posted at h ⊢
  simpa only [frame.areas, box] using h

theorem posted_of_mbx {s t x : State} {w : Nat} {r : List W64} (same : x.mbx = t.mbx) (h : Posted s t w r) : Posted s x w r := by
  have box (m : Nat) : x.mailbox m = t.mailbox m := by rw [State.mailbox, same, ← State.mailbox]
  unfold Posted at h ⊢
  simpa only [box] using h

theorem arming_of_missFrame {k w : Nat} {s a : State} (frame : MissFrame k s a) (boxes : a.mbx = s.mbx)
    (quiet : (s.mailbox (s.world w).areas.faultMbx).arming = none) :
    (a.mailbox (a.world w).areas.faultMbx).arming = none := by
  rw [frame.areas, State.mailbox, boxes, ← State.mailbox, quiet]

/-! ### The entries of the miss table -/

theorem foldl_insertAsc_constant {l : List Nat} {g : Nat} (h : ∀ x ∈ l, x = g) :
    l.foldl (fun a x => insertAsc x a) [g] = [g] := by
  induction l with
  | nil => rfl
  | cons x l ih =>
    obtain rfl : x = g := h x (by simp)
    rw [List.foldl_cons, insertAsc, if_pos rfl]
    exact ih fun y hy => h y (by simp [hy])

/-- Lanes that miss in one page name that page alone. -/
theorem missPages_one {missed : List (Nat × W64)} {g : Nat} (nonempty : missed ≠ [])
    (page : ∀ x ∈ missed, x.2.toNat / 4096 = g) : missPages missed = [g] := by
  cases missed with
  | nil => exact absurd rfl nonempty
  | cons x l =>
    rw [missPages, sortAsc, List.map_cons, List.foldl_cons, page x (by simp), insertAsc]
    refine foldl_insertAsc_constant fun y hy => ?_
    obtain ⟨z, hz, rfl⟩ := List.mem_map.1 hy
    exact page z (by simp [hz])

/-- The troupe's world has an entry for the page in its cluster. -/
def State.hasEntry (s : State) (u : Troupe) (g : Nat) : Bool :=
  (s.cluster (clusterOf u.core)).miss.any fun e => e.world == u.world && e.page == g

/-- The troupe's world may have a new entry in its cluster (R183). -/
def State.hasRoom (s : State) (u : Troupe) : Prop :=
  (s.cluster (clusterOf u.core)).miss.length < 256 ∧
  ((s.cluster (clusterOf u.core)).miss.filter fun e => e.world == u.world).length <
    (s.world u.world).limits.missQuota.get (clusterOf u.core) 0

theorem State.missBarred_one {s : State} {u : Troupe} {missed : List (Nat × W64)} {g : Nat} (pages : missPages missed = [g]) :
    s.missBarred u missed = true ↔
      (s.world u.world).limits.missQuota.get (clusterOf u.core) 0 = 0 ∧ s.hasEntry u g = false := by
  simp [State.missBarred, pages, State.hasEntry]

theorem State.missBarred_of_entry {s : State} {u : Troupe} {missed : List (Nat × W64)} {g : Nat} (pages : missPages missed = [g])
    (entry : s.hasEntry u g = true) : s.missBarred u missed = false := by
  rw [Bool.eq_false_iff, Ne, State.missBarred_one pages]
  simp [entry]

theorem State.missBarred_of_quota {s : State} {u : Troupe} {missed : List (Nat × W64)} {g : Nat} (pages : missPages missed = [g])
    (quota : (s.world u.world).limits.missQuota.get (clusterOf u.core) 0 ≠ 0) : s.missBarred u missed = false := by
  rw [Bool.eq_false_iff, Ne, State.missBarred_one pages]
  exact fun h => quota h.1

theorem State.missServed_one {s : State} {u : Troupe} {missed : List (Nat × W64)} {g : Nat} (pages : missPages missed = [g]) :
    s.missServed u missed = true ↔ s.hasRoom u ∨ s.hasEntry u g = true := by
  simp [State.missServed, pages, State.hasEntry, State.hasRoom]

/-- The state in which a troupe that missed, which the fault of R367 does not take, looks for an entry. -/
def State.missHead (s : State) (u : Troupe) (missed : List (Nat × W64)) : State :=
  (((s.modBook fun b => { b with chain := none }).count u.world 0x0C u.core (missPages missed).length).putTroupe u).dropHold
    u.core u.tslot

theorem State.missHead_spec (s : State) (u : Troupe) (missed : List (Nat × W64)) :
    MissFrame u.key s (s.missHead u missed) ∧ (s.missHead u missed).clusters = s.clusters ∧
      (s.missHead u missed).mbx = s.mbx ∧ (s.missHead u missed).troupe u.key = some u := by
  refine ⟨?_, ?_, ?_, ?_⟩
  · exact (MissFrame.of_modBook _).trans ((MissFrame.of_count _ _ _ _).trans
      ((MissFrame.of_putTroupe rfl).trans (MissFrame.of_dropHold _ _)))
  · rw [State.missHead, State.dropHold_clusters, State.putTroupe_clusters, State.count_clusters]; rfl
  · rw [State.missHead, State.dropHold_mbx, State.putTroupe_mbx, State.count_mbx]; rfl
  · rw [State.missHead, State.dropHold_troupe, State.troupe_putTroupe, if_pos rfl]

theorem missHead_eq {s : State} {u : Troupe} {missed : List (Nat × W64)} {g : Nat} (pages : missPages missed = [g]) :
    (((s.modBook fun b => { b with chain := none }).count u.world 0x0C u.core [g].length).putTroupe u).dropHold
      u.core u.tslot = s.missHead u missed := by
  rw [State.missHead, pages]

/-- A troupe parked on the entry of a page (R183, R188). -/
def Troupe.parkedOn (u : Troupe) (g : Nat) (r : List W64) : Troupe :=
  { u with ctl := { u.ctl with wait := .parked [g], replayPc := some u.pc, stalled := false, stepReq := none, record := r } }

/-- The troupe is parked on the entry of a page, whose table is then as given. -/
def Parked (s t : State) (u : Troupe) (g : Nat) (table : List MissEntry) (r : List W64) : Prop :=
  MissFrame u.key s t ∧ (t.cluster (clusterOf u.core)).miss = table ∧
  (∀ k, k ≠ clusterOf u.core → (t.cluster k).miss = (s.cluster k).miss) ∧ t.troupe u.key = some (u.parkedOn g r)

/-- The troupe joins an entry that is there. -/
def State.joinEntry (s : State) (u : Troupe) (g : Nat) : State :=
  s.modCluster (clusterOf u.core) fun cl => { cl with miss := cl.miss.map fun e =>
    if e.world = u.world ∧ e.page = g then { e with parked := e.parked ++ [u.key] } else e }

/-- A new entry with the troupe on it, which is counted. -/
def State.moreEntries (s : State) (u : Troupe) (g : Nat) : State :=
  (s.modCluster (clusterOf u.core) fun cl => { cl with miss := cl.miss ++ [⟨u.world, g, [u.key]⟩] }).count u.world 0x0B u.core 1

/-- A new entry with the troupe on it, and its record r. -/
def State.openEntry (s : State) (u : Troupe) (g : Nat) (r : List W64) : State :=
  ((s.moreEntries u g).putTroupe { u with ctl := { u.ctl with record := r } }).countAndTell u.world u.core r

/-- The lanes that missed, as a record names them: all that live for a scalar access (R194). -/
def missMask (scalar : Bool) (u : Troupe) (missed : List (Nat × W64)) : Mask :=
  if scalar then u.live else maskOf fun l => missed.any fun x => x.1 == l

theorem lanesMask_eq (scalar : Bool) (u : Troupe) (missed : List (Nat × W64)) :
    lanesMask scalar u (missed.map (·.1)) = missMask scalar u missed := by
  unfold lanesMask missMask
  congr 2
  funext l
  rw [List.contains_eq_any_beq, List.any_map]
  exact List.any_congr rfl fun x => Bool.beq_comm

section

variable {s : State} {u : Troupe} {access : Nat} {scalar : Bool} {missed : List (Nat × W64)} {g : Nat} {va : W64}

theorem State.missPage_join (entry : s.hasEntry u g = true) :
    s.missPage u access scalar missed (s, []) g = (s.joinEntry u g, [g]) := by
  unfold State.hasEntry at entry
  unfold State.missPage State.joinEntry
  simp only [entry, if_true, Bool.and_eq_true, beq_iff_eq]
  rfl

theorem State.missPage_open (here : s.troupe u.key = some u) (entry : s.hasEntry u g = false) (room : s.hasRoom u)
    (page : ∀ x ∈ missed, x.2.toNat / 4096 = g) (first : missed.head?.map (·.2) = some va) :
    s.missPage u access scalar missed (s, []) g =
      (s.openEntry u g (recordAt s u 2 access false u.pc (missMask scalar u missed) va), [g]) := by
  have mine : (missed.filter fun m => m.2.toNat / 4096 == g) = missed :=
    List.filter_eq_self.2 fun x hx => beq_iff_eq.2 (page x hx)
  unfold State.hasEntry at entry
  unfold State.hasRoom at room
  unfold State.missPage State.openEntry
  simp only [entry, Bool.false_eq_true, if_false, if_pos room, mine, first, lanesMask_eq, Option.getD_some,
    State.recordOf_eq, State.count_troupe]
  have found : (s.modCluster (clusterOf u.core) fun cl => { cl with miss := cl.miss ++ [⟨u.world, g, [u.key]⟩] }).troupe u.key =
    some u := here
  simp only [found, Option.getD_some]
  rfl

theorem State.missPage_full (entry : s.hasEntry u g = false) (full : ¬ s.hasRoom u) :
    s.missPage u access scalar missed (s, []) g = (s, []) := by
  unfold State.hasEntry at entry
  unfold State.hasRoom at full
  unfold State.missPage
  simp only [entry, Bool.false_eq_true, if_false, if_neg full]

theorem State.missHead_table : (s.missHead u missed).hasEntry u g = s.hasEntry u g ∧
    ((s.missHead u missed).hasRoom u ↔ s.hasRoom u) := by
  obtain ⟨frame, clusters, -, -⟩ := s.missHead_spec u missed
  have cluster (c : Nat) : (s.missHead u missed).cluster c = s.cluster c := by rw [State.cluster, clusters, ← State.cluster]
  simp only [State.hasEntry, State.hasRoom, cluster, frame.limits, and_self]

/-! ### What becomes of a miss -/

/-- A troupe that gets an entry is parked there, and `perform` is what its instruction still does. -/
theorem State.miss_parks {x : State} {v : Troupe} {perform : State → State} (pages : missPages missed = [g])
    (free : s.missBarred u missed = false)
    (got : (s.missHead u missed).missPage u access scalar missed (s.missHead u missed, []) g = (x, [g]))
    (frame : MissFrame u.key s x) (there : x.troupe u.key = some v) (plain : s.isRuntime u = false)
    (keeps : ∀ t, t.troupe u.key = some (v.parkedOn g v.ctl.record) → MissFrame u.key t (perform t)) :
    ∃ t, s.miss u access scalar missed perform = .next (perform t) ∧ MissFrame u.key x t ∧ t.clusters = x.clusters ∧
      t.mbx = x.mbx ∧ t.troupe u.key = some (v.parkedOn g v.ctl.record) := by
  generalize parks : x.modTroupe u.key (fun t =>
    { t with ctl := { t.ctl with wait := .parked [g], replayPc := some t.pc, stalled := false, stepReq := none } }) = t
  have on : MissFrame u.key x t := parks ▸ MissFrame.of_modTroupe _ there
  have troupe : t.troupe u.key = some (v.parkedOn g v.ctl.record) := by
    rw [← parks, State.troupe_modTroupe _ there, if_pos rfl]; rfl
  have quiet : (perform t).isRuntime u = false := by rw [((frame.trans on).trans (keeps t troupe)).isRuntime, plain]
  refine ⟨t, ?_, on, by rw [← parks, State.modTroupe_clusters], by rw [← parks, State.modTroupe_mbx], troupe⟩
  unfold State.miss
  simp only [free, Bool.false_eq_true, if_false, pages, missHead_eq pages, List.foldl_cons, List.foldl_nil, got, List.isEmpty_cons, parks,
    quiet]

theorem State.miss_joins {perform : State → State} (nonempty : missed ≠ []) (page : ∀ x ∈ missed, x.2.toNat / 4096 = g)
    (entry : s.hasEntry u g = true) (plain : s.isRuntime u = false)
    (keeps : ∀ t r, t.troupe u.key = some (u.parkedOn g r) → MissFrame u.key t (perform t)) :
    ∃ t, s.miss u access scalar missed perform = .next (perform t) ∧ t.mbx = s.mbx ∧
      Parked s t u g ((s.cluster (clusterOf u.core)).miss.map fun e =>
        if e.world = u.world ∧ e.page = g then { e with parked := e.parked ++ [u.key] } else e) u.ctl.record := by
  have pages := missPages_one nonempty page
  have free := State.missBarred_of_entry pages entry
  obtain ⟨head, clusters, boxes, here⟩ := s.missHead_spec u missed
  have joined : MissFrame u.key (s.missHead u missed) ((s.missHead u missed).joinEntry u g) := MissFrame.of_modCluster _ _
  obtain ⟨t, run, frame, tclusters, tboxes, troupe⟩ := State.miss_parks (access := access) (scalar := scalar) pages free
    (State.missPage_join (State.missHead_table.1.trans entry)) (head.trans joined) (v := u) here plain fun t h => keeps t _ h
  have cluster (c : Nat) : t.cluster c = ((s.missHead u missed).joinEntry u g).cluster c := by
    rw [State.cluster, tclusters, ← State.cluster]
  refine ⟨t, run, tboxes.trans boxes, (head.trans joined).trans frame, ?_, fun c hc => ?_, troupe⟩
  · rw [cluster, State.joinEntry, State.cluster_modCluster, if_pos rfl, State.cluster, clusters, ← State.cluster]
  · rw [cluster, State.joinEntry, State.cluster_modCluster, if_neg (Ne.symm hc), State.cluster, clusters, ← State.cluster]

theorem State.moreEntries_spec (s : State) (u : Troupe) (g : Nat) :
    MissFrame u.key s (s.moreEntries u g) ∧ (s.moreEntries u g).mbx = s.mbx ∧ ∀ c, (s.moreEntries u g).cluster c =
      if clusterOf u.core = c then { s.cluster c with miss := (s.cluster c).miss ++ [⟨u.world, g, [u.key]⟩] } else s.cluster c := by
  have grown := MissFrame.of_modCluster (k := u.key) (s := s) (clusterOf u.core) (· ++ [⟨u.world, g, [u.key]⟩])
  refine ⟨grown.trans (MissFrame.of_count _ _ _ _), State.count_mbx _ _ _ _ _, fun c => ?_⟩
  rw [State.cluster, State.moreEntries, State.count_clusters, ← State.cluster, State.cluster_modCluster]
  split
  · subst_vars; rfl
  · rfl

theorem State.openEntry_spec (r : List W64) (quiet : (s.mailbox (s.world u.world).areas.faultMbx).arming = none) :
    MissFrame u.key s (s.openEntry u g r) ∧ Posted s (s.openEntry u g r) u.world r ∧
      (s.openEntry u g r).troupe u.key = some { u with ctl := { u.ctl with record := r } } ∧
      ∀ c, (s.openEntry u g r).cluster c = (s.moreEntries u g).cluster c := by
  obtain ⟨grown, boxes, -⟩ := s.moreEntries_spec u g
  unfold State.openEntry
  generalize s.moreEntries u g = m at *
  generalize put : m.putTroupe { u with ctl := { u.ctl with record := r } } = p
  have placed : MissFrame u.key s p := grown.trans (put ▸ MissFrame.of_putTroupe rfl)
  have pboxes : p.mbx = s.mbx := by rw [← put, State.putTroupe_mbx, boxes]
  have there : p.troupe u.key = some { u with ctl := { u.ctl with record := r } } := by
    rw [← put]
    exact (State.troupe_putTroupe _ _ _).trans (if_pos rfl)
  have clusters : p.clusters = m.clusters := by rw [← put, State.putTroupe_clusters]
  obtain ⟨told, -, worlds, posted⟩ := State.countAndTell_spec (s := p) (w := u.world) u.core r
    (arming_of_missFrame placed pboxes quiet)
  generalize p.countAndTell u.world u.core r = t at *
  have tell : MissFrame u.key p t :=
    ⟨by rw [told], fun j _ => by rw [told]; rfl, fun j => by rw [told]; rfl, fun j => by rw [told]; rfl, worlds⟩
  refine ⟨placed.trans tell, posted_of_missFrame placed pboxes posted, ?_, fun c => ?_⟩
  · rw [told]; exact there
  · rw [told, State.cluster, State.cluster, ← clusters]

theorem State.miss_opens {perform : State → State} (nonempty : missed ≠ []) (page : ∀ x ∈ missed, x.2.toNat / 4096 = g)
    (first : missed.head?.map (·.2) = some va) (entry : s.hasEntry u g = false) (room : s.hasRoom u)
    (plain : s.isRuntime u = false) (quiet : (s.mailbox (s.world u.world).areas.faultMbx).arming = none)
    (keeps : ∀ t r, t.troupe u.key = some (u.parkedOn g r) → MissFrame u.key t (perform t)) :
    let r := recordAt s u 2 access false u.pc (missMask scalar u missed) va
    ∃ t, s.miss u access scalar missed perform = .next (perform t) ∧ Posted s t u.world r ∧
      Parked s t u g ((s.cluster (clusterOf u.core)).miss ++ [⟨u.world, g, [u.key]⟩]) r := by
  intro r
  have pages := missPages_one nonempty page
  have free := State.missBarred_of_quota pages (Nat.ne_of_gt (Nat.zero_lt_of_lt room.2))
  obtain ⟨head, clusters, boxes, here⟩ := s.missHead_spec u missed
  obtain ⟨sameEntry, sameRoom⟩ := s.missHead_table (u := u) (missed := missed) (g := g)
  obtain ⟨-, -, grown⟩ := (s.missHead u missed).moreEntries_spec u g
  obtain ⟨opened, posted, there, cluster⟩ := State.openEntry_spec (g := g) r (arming_of_missFrame head boxes quiet)
  have got := State.missPage_open (access := access) (scalar := scalar) here (sameEntry.trans entry) (sameRoom.2 room) page first
  rw [head.recordAt] at got
  obtain ⟨t, run, frame, tclusters, tboxes, troupe⟩ := State.miss_parks pages free got (head.trans opened) there plain
    fun t h => keeps t r h
  have tcluster (c : Nat) : t.cluster c = ((s.missHead u missed).openEntry u g r).cluster c := by
    rw [State.cluster, tclusters, ← State.cluster]
  have hcluster (c : Nat) : (s.missHead u missed).cluster c = s.cluster c := by rw [State.cluster, clusters, ← State.cluster]
  refine ⟨t, run, posted_of_missFrame head boxes (posted_of_mbx tboxes posted), (head.trans opened).trans frame, ?_,
    fun c hc => ?_, troupe⟩
  · rw [tcluster, cluster, grown, if_pos rfl, hcluster]
  · rw [tcluster, cluster, grown, if_neg (Ne.symm hc), hcluster]

/-- Without an entry, and without room for one, the troupe waits for room (R183). -/
theorem State.miss_waits (nonempty : missed ≠ []) (page : ∀ x ∈ missed, x.2.toNat / 4096 = g) (entry : s.hasEntry u g = false)
    (full : ¬ s.hasRoom u) (quota : (s.world u.world).limits.missQuota.get (clusterOf u.core) 0 ≠ 0) (perform : State → State) :
    ∃ t, s.miss u access scalar missed perform = .next t ∧ MissFrame u.key s t ∧ t.clusters = s.clusters ∧ t.mbx = s.mbx ∧
      t.troupe u.key = some { u with ctl := { u.ctl with wait := .missRoom, stalled := false } } := by
  have pages := missPages_one nonempty page
  have free := State.missBarred_of_quota pages quota
  obtain ⟨head, clusters, boxes, here⟩ := s.missHead_spec u missed
  obtain ⟨sameEntry, sameRoom⟩ := s.missHead_table (u := u) (missed := missed) (g := g)
  have unserved := State.missPage_full (access := access) (scalar := scalar) (missed := missed) (sameEntry.trans entry)
    (fun room => full (sameRoom.1 room))
  refine ⟨(s.missHead u missed).modTroupe u.key fun t => { t with ctl := { t.ctl with wait := .missRoom, stalled := false } }, ?_,
    head.trans (MissFrame.of_modTroupe _ here), by rw [State.modTroupe_clusters, clusters], by rw [State.modTroupe_mbx, boxes],
    by rw [State.troupe_modTroupe _ here, if_pos rfl]⟩
  unfold State.miss
  simp only [free, Bool.false_eq_true, if_false, pages, missHead_eq pages, List.foldl_cons, List.foldl_nil, unserved, List.isEmpty_nil, if_true]

/-- A world without a quota faults where it would need an entry (R367). -/
theorem State.miss_faults (nonempty : missed ≠ []) (page : ∀ x ∈ missed, x.2.toNat / 4096 = g)
    (first : missed.head?.map (·.2) = some va) (entry : s.hasEntry u g = false)
    (quota : (s.world u.world).limits.missQuota.get (clusterOf u.core) 0 = 0) (plain : s.isRuntime u = false)
    (quiet : (s.mailbox (s.world u.world).areas.faultMbx).arming = none) (perform : State → State) :
    let r := recordAt s u 0x13 (if access = 3 then 3 else 0) true u.pc (missMask scalar u missed) va
    ∃ t, s.miss u access scalar missed perform = .next t ∧ t.mem = s.mem ∧ Posted s t u.world r ∧
      t.troupe u.key = some (u.halt r) := by
  intro r
  have barred : s.missBarred u missed = true := (State.missBarred_one (missPages_one nonempty page)).2 ⟨quota, entry⟩
  generalize counted : (s.modBook fun b => { b with chain := none }).count u.world 0x0C u.core (missPages missed).length = c
  have frame : MissFrame u.key s c := counted ▸ (MissFrame.of_modBook _).trans (MissFrame.of_count _ _ _ _)
  have boxes : c.mbx = s.mbx := by rw [← counted, State.count_mbx]; rfl
  have halted := State.haltWith_spec r (arming_of_missFrame frame boxes quiet)
  have run : s.miss u access scalar missed perform = .next (c.haltWith u r) := by
    have free : (c.haltWith u r).isRuntime u = false := by rw [HaltedWith.isRuntime halted, frame.isRuntime, plain]
    unfold State.miss
    simp only [barred, if_true, counted, lanesMask_eq, first, Option.getD_some, State.faultAt_eq, frame.recordAt]
    rw [if_neg (Bool.eq_false_iff.1 free)]
  obtain ⟨same, troupe, -, -, -, -, posted⟩ := halted
  have mem : (c.haltWith u r).mem = c.mem := by
    have := congrArg State.mem same
    exact this
  exact ⟨_, run, mem.trans frame.mem, posted_of_missFrame frame boxes posted, troupe⟩

end

end Sys2Proof.Machine
end

section
/-! SUPPORT. Global loads and stores (R187, R193, R194): they issue where every lane has a translation, and park their
troupe where lanes miss. -/

namespace Sys2Proof.Machine

open Sys2Proof.Claims

/-! ### Accesses that miss -/

theorem Touched.clusters {s t : State} (h : Touched s t) : t.clusters = s.clusters := by
  obtain ⟨⟨same, -⟩, -⟩ := h
  have := congrArg State.clusters same
  exact this

theorem Touched.mbx {s t : State} (h : Touched s t) : t.mbx = s.mbx := by
  obtain ⟨⟨same, -⟩, -⟩ := h
  have := congrArg State.mbx same
  exact this

/-- An access some of whose lanes miss comes to the miss table, behind the use of the translations that its other lanes
have; where it gets an entry, those lanes are performed (R187). -/
theorem State.access_missed {s : State} {n : Need} {scalar : Bool} {lanes : List (Nat × W64)} {ok : List LaneOp}
    {missed : List (Nat × W64)} (h : Missed s n lanes ok missed) (fill : LaneOp → LaneOp) (issue : List LaneOp → State → Res)
    (split : List LaneOp → State → State) :
    ∃ perform, s.access n scalar lanes fill openGate issue split =
        (s.touchAll s.src (ok.map fill)).miss s.src n.access scalar missed perform ∧
      (s.missBarred s.src missed = false → s.missServed s.src missed = true → perform = split (ok.map fill)) := by
  obtain ⟨checked, some, hits, near⟩ := h
  have far : farLanes (s.laneOuts s.src n lanes) = [] := farLanes_nil checked near
  unfold State.checkLanes at checked
  unfold State.access State.admitPeers
  have more : missed.isEmpty = false := by simpa using some
  simp only [far, checked, hits, more, List.isEmpty_nil, Bool.not_true, Bool.false_eq_true, false_and, if_false, if_true, openGate]
  split_ifs with unserved
  · refine ⟨id, rfl, fun free served => ?_⟩
    simp [free, served] at unserved
  · exact ⟨_, rfl, fun _ _ => rfl⟩

/-- What an instruction still does behind its miss: to troupe k, as R says, and to nothing else. -/
def Performs (perform : State → State) (k : Nat) (R : Troupe → Troupe → Prop) : Prop :=
  ∀ t u, t.troupe k = some u → MissFrame k t (perform t) ∧ (perform t).clusters = t.clusters ∧ (perform t).mbx = t.mbx ∧
    ∃ v, (perform t).troupe k = some v ∧ R u v

theorem performs_nothing (k : Nat) {R : Troupe → Troupe → Prop} (h : ∀ u, R u u) : Performs (fun s => s) k R :=
  fun t u found => ⟨.refl t, rfl, rfl, u, found, h u⟩

/-- A troupe that is parked stays so while its instruction performs what it still may. -/
theorem Parked.performed {s a t : State} {u : Troupe} {g : Nat} {table : List MissEntry} {r : List W64}
    {perform : State → State} {R : Troupe → Troupe → Prop} (frame : MissFrame u.key s a) (clusters : a.clusters = s.clusters)
    (parked : Parked a t u g table r) (performs : Performs perform u.key R) :
    MissFrame u.key s (perform t) ∧ (perform t).mbx = t.mbx ∧ (∀ k, k ≠ clusterOf u.core → ((perform t).cluster k).miss = (s.cluster k).miss) ∧
      ((perform t).cluster (clusterOf u.core)).miss = table ∧
      ∃ v, (perform t).troupe u.key = some v ∧ R (u.parkedOn g r) v := by
  obtain ⟨on, here, others, troupe⟩ := parked
  obtain ⟨last, kept, boxes, v, there, done⟩ := performs t _ troupe
  have cluster (k : Nat) : (perform t).cluster k = t.cluster k := by rw [State.cluster, kept, ← State.cluster]
  refine ⟨(frame.trans on).trans last, boxes, fun k hk => ?_, ?_, v, there, done⟩
  · rw [cluster, others k hk, State.cluster, clusters, ← State.cluster]
  · rw [cluster, here]

/-- An access of which some lanes miss, all in one page. -/
theorem misses_of_access {i : Instr} {s : State} {n : Need} {scalar : Bool} {lanes missed : List (Nat × W64)} {ok : List LaneOp}
    {fill : LaneOp → LaneOp} {issue : List LaneOp → State → Res} {split : List LaneOp → State → State}
    {R : Troupe → Troupe → Prop} {rest : State → Troupe → Troupe → Prop}
    (exec : exec i s = s.access n scalar lanes fill openGate issue split) (missing : Missed s n lanes ok missed)
    (performs : Performs (split (ok.map fill)) s.src.key R)
    (does : ∀ t u v, (∀ k, (t.cluster k).reqQ = (s.cluster k).reqQ) → R u v → rest t u v) :
    Misses i s n.access scalar missed rest := by
  obtain ⟨perform, run, splits⟩ := State.access_missed (scalar := scalar) missing fill issue split
  rw [← exec] at run
  have touched := s.touchAll_touched s.src (ok.map fill)
  generalize s.touchAll s.src (ok.map fill) = a at *
  have frame : MissFrame s.src.key s a := .of_touched touched
  have clusters : a.clusters = s.clusters := touched.clusters
  have boxes : a.mbx = s.mbx := touched.mbx
  have cluster (k : Nat) : a.cluster k = s.cluster k := by rw [State.cluster, clusters, ← State.cluster]
  have sameEntry (g : Nat) : a.hasEntry s.src g = s.hasEntry s.src g := by rw [State.hasEntry, cluster, ← State.hasEntry]
  have sameRoom : a.hasRoom s.src ↔ s.hasRoom s.src := by rw [State.hasRoom, cluster, frame.limits, ← State.hasRoom]
  obtain ⟨-, nonempty, -⟩ := missing
  unfold Misses
  intro u c table quota mine mask parked g va ⟨plain, quiet⟩ page first
  have pages := missPages_one nonempty page
  have plainA : a.isRuntime u = false := by rw [frame.isRuntime, plain]
  have quietA := arming_of_missFrame frame boxes quiet
  have keeps (t : State) (r : List W64) (h : t.troupe u.key = some (u.parkedOn g r)) :
      MissFrame u.key t (split (ok.map fill) t) := (performs t _ h).1
  have whole {x : State} {t' : List MissEntry} {r : List W64} (h : Parked a x u g t' r) :
      (split (ok.map fill) x).mbx = x.mbx ∧ parked (split (ok.map fill) x) g t' r := by
    obtain ⟨all, boxes, others, here, v, there, done⟩ := Parked.performed frame clusters h performs
    have reqQ := all.reqQ
    obtain ⟨same, troupes, cores, queues, -⟩ := all
    refine ⟨boxes, same, troupes, cores, fun k => ?_, others, here, v, there, does _ _ _ reqQ done⟩
    have := congrArg (fun x : Cluster => { x with reqQ := (s.cluster k).reqQ }) (queues k)
    exact this
  refine ⟨fun positive there => ?_, fun absent => ⟨fun short below => ?_, fun positive full => ?_, fun noQuota => ?_⟩⟩
  · have entry : s.hasEntry s.src g = true := by
      obtain ⟨e, he, own⟩ := there
      exact List.any_eq_true.2 ⟨e, he, by rw [Bool.and_eq_true, beq_iff_eq, beq_iff_eq]; exact own⟩
    have isSplit := splits (State.missBarred_of_entry pages entry) ((State.missServed_one pages).2 (.inr entry))
    obtain ⟨t, eq, same, on⟩ := State.miss_joins (access := n.access) (scalar := scalar) nonempty page
      ((sameEntry g).trans entry) plainA keeps
    rw [cluster] at on
    obtain ⟨kept, there⟩ := whole on
    exact ⟨_, by rw [run, isSplit, eq], kept.trans (same.trans boxes), there⟩
  all_goals
    have entry : s.hasEntry s.src g = false := by
      rw [State.hasEntry, List.any_eq_false]
      intro e he
      have other : ¬ (e.world = s.src.world ∧ e.page = g) := absent e he
      simpa using other
  · have room : s.hasRoom u := ⟨short, below⟩
    have isSplit := splits (State.missBarred_of_quota pages (Nat.ne_of_gt (Nat.zero_lt_of_lt below)))
      ((State.missServed_one pages).2 (.inl room))
    obtain ⟨t, eq, posted, on⟩ := State.miss_opens (access := n.access) (scalar := scalar) nonempty page first
      ((sameEntry g).trans entry) (sameRoom.2 room) plainA quietA keeps
    rw [frame.recordAt] at posted on
    rw [cluster] at on
    obtain ⟨kept, there⟩ := whole on
    exact ⟨_, by rw [run, isSplit, eq], posted_of_mbx kept (posted_of_missFrame frame boxes posted), there⟩
  · have none : ¬ s.hasRoom s.src := fun ⟨short, below⟩ => by
      rcases full with long | many
      · exact absurd short (Nat.not_lt.2 long)
      · exact absurd below (Nat.not_lt.2 many)
    obtain ⟨t, eq, on, same, mbx, troupe⟩ := State.miss_waits (access := n.access) (scalar := scalar) nonempty page
      ((sameEntry g).trans entry) (fun room => none (sameRoom.1 room)) (by rw [frame.limits]; exact Nat.ne_of_gt positive) perform
    obtain ⟨state, troupes, -⟩ := frame.trans on
    refine ⟨t, run.trans eq, ?_, troupes, troupe⟩
    calc { t with troupes := s.troupes, cores := s.cores, worlds := s.worlds, book := s.book }
        = { t with troupes := s.troupes, cores := s.cores, worlds := s.worlds, clusters := t.clusters, mbx := t.mbx,
                   book := s.book } := rfl
      _ = { t with troupes := s.troupes, cores := s.cores, worlds := s.worlds, clusters := s.clusters, mbx := s.mbx,
                   book := s.book } := by rw [same, clusters, mbx, boxes]
      _ = s := state
  · obtain ⟨t, eq, mem, posted, troupe⟩ := State.miss_faults (access := n.access) (scalar := scalar) nonempty page first
      ((sameEntry g).trans entry) (by rw [frame.limits]; exact noQuota) plainA quietA perform
    rw [frame.recordAt] at posted troupe
    exact ⟨t, run.trans eq, mem.trans frame.mem, posted_of_missFrame frame boxes posted, troupe⟩

/-! ### What stores still perform -/

/-- The lanes of a store that translated are in an operation of their own, and in %replay (R187). -/
def StoredSome (n : Nat) (ok : List LaneOp) (data : LaneOp → LaneOp) (u v : Troupe) : Prop :=
  ∃ id, v = { u with
    ops := if ok = [] then u.ops else u.ops ++ [{ id := id, kind := .store n, lanes := ok.map data }]
    sp := { u.sp with replay := u.sp.replay ||| maskOf fun l => ok.any fun o => o.lane == l } }

theorem maskOf_none : (maskOf fun _ => false) = 0#128 := by
  refine mask_ext fun l hl => ?_
  rw [inMask_maskOf]
  simp [inMask]

theorem storedSome_nothing (n : Nat) (data : LaneOp → LaneOp) (u : Troupe) : StoredSome n [] data u u := by
  refine ⟨0, ?_⟩
  simp only [List.any_nil, maskOf_none, if_true, BitVec.or_zero]

theorem performs_splitOp (k n : Nat) (ok : List LaneOp) {data : LaneOp → LaneOp} (lane : ∀ o, (data o).lane = o.lane) :
    Performs (fun s => s.splitOp k (fun id => { id := id, kind := .store n, lanes := ok.map data }) (ok.map data)) k
      (StoredSome n ok data) := by
  by_cases none : ok = []
  · subst none
    exact performs_nothing k (storedSome_nothing n data)
  intro t u found
  have more : (ok.map data).isEmpty = false := by simpa using none
  have found' : (t.freshId.2).troupe k = some u := found
  simp only [State.splitOp, more, Bool.false_eq_true, if_false]
  refine ⟨(MissFrame.of_modBook _).trans (.of_modTroupe _ found'), by rw [State.modTroupe_clusters]; rfl,
    by rw [State.modTroupe_mbx]; rfl, _, (State.troupe_modTroupe _ found' k).trans (if_pos rfl), t.freshId.1, ?_⟩
  have same (l : Nat) : ((ok.map data).any fun o => o.lane == l) = ok.any fun o => o.lane == l := by
    rw [List.any_map]
    exact List.any_congr rfl fun o => by simp [lane]
  simp only [same, if_neg none]

/-! ### Accesses that issue -/

/-- An operation that is issued stands behind the earlier ones, and %replay is cleared (R187, R195). -/
theorem issueOp_issues {i : Instr} {s a : State} {e : Bool} {la : Fin 16} {kind : OpKind} {lanes : List LaneOp}
    (touched : Touched s a) (run : exec i s = a.issueOp kind lanes la.val 2 e) : Issues i e la.val kind lanes s := by
  have fresh : Touched a a.freshId.2 := ⟨⟨rfl, fun _ _ => rfl, fun _ => rfl, fun _ => rfl⟩, rfl, rfl, rfl, rfl⟩
  obtain ⟨⟨same, troupes, cores, worlds⟩, -, cur, -⟩ := touched.trans fresh
  obtain ⟨t, eq, ⟨only, others⟩, me⟩ := a.freshId.2.done_spec { a.freshId.2.me.replayed with
    ops := a.freshId.2.me.replayed.ops ++ [{ id := a.freshId.1, kind := kind, lanes := lanes, la := la.val }] } 2 e
  refine ⟨t, a.freshId.1, run.trans eq, ⟨?_, fun k hk => ?_, fun c => ?_, fun w => ?_⟩, ?_⟩
  · have := congrArg (fun x : State => { x with troupes := s.troupes, cores := s.cores, worlds := s.worlds, book := s.book }) only
    exact this.trans same
  · rw [others k (by rw [cur]; exact hk), troupes k hk]
  · rw [← cores c, ← only]; rfl
  · rw [← worlds w, ← only]; rfl
  · rw [me, (touched.trans fresh).me]; rfl

/-- An instruction that acts in no lane goes on (R112). -/
theorem advance_completes {i : Instr} {e : Bool} {s : State} (run : exec i s = .next (s.advance 2 e)) :
    Completes i e s fun u => u = behind s.me 2 := by
  obtain ⟨t, eq, only, me⟩ := s.advance_spec 2 e
  exact ⟨t, run.trans (congrArg _ eq), only, me⟩

/-! ### Loads and stores -/

theorem State.loadVector_eq {s : State} {g : Guard} (acts : s.memLanes g ≠ []) (n : Nat) (sext e : Bool) (d : Nat) (m : MAddr)
    (la : Fin 16) : s.loadVector n sext e g d m la =
      s.access { bytes := n, r := true, access := 1 } false ((s.memLanes g).map fun l => (l, laneAddr s.src m l)) id openGate
        (fun ok s => s.issueOp (.load n sext d) ok la.val 2 e) fun _ s => s := by
  have acts : (s.memLanes g).isEmpty = false := by simpa using acts
  simp only [State.loadVector, acts, Bool.false_eq_true, if_false]

/-- A lane of a store with its bytes, from registers from d (R193). -/
def storeData (t : Troupe) (d n : Nat) (o : LaneOp) : LaneOp :=
  { o with data := (laneBytes t d o.lane ((n + 3) / 4)).take n }

theorem State.storeVector_eq {s : State} {g : Guard} (acts : s.memLanes g ≠ []) (n : Nat) (e : Bool) (d : Nat) (m : MAddr)
    (la : Fin 16) : s.storeVector n e g d m la =
      s.access { bytes := n, w := true, access := 2 } false ((s.memLanes g).map fun l => (l, laneAddr s.src m l))
        (storeData s.src d n) openGate (fun ok s => s.issueOp (.store n) ok la.val 2 e)
        fun ok s' => s'.splitOp s.src.key (fun id => { id := id, kind := .store n, lanes := ok }) ok := by
  have acts : (s.memLanes g).isEmpty = false := by simpa using acts
  simp only [State.storeVector, acts, Bool.false_eq_true, if_false]
  rfl

theorem loadVector_loadIssues {i : Instr} {e : Bool} {g : Guard} {m : MAddr} {la : Fin 16} {n d : Nat} {sext : Bool}
    (run : ∀ s, exec i s = s.loadVector n sext e g d m la) : LoadIssues i e g m la.val n sext d := by
  refine ⟨fun s ok acts translated => ?_, fun s ok missed acts missing => ?_, fun s none => ?_⟩
  · have eq := (run s).trans ((State.loadVector_eq acts n sext e d m la).trans
      (State.access_translated _ _ _ _ _ _ _ _ translated))
    rw [List.map_id] at eq
    exact issueOp_issues (s.touchAll_touched _ _) eq
  · have acts : s.memLanes g ≠ [] := fun none => acts (by simp [none])
    exact misses_of_access ((run s).trans (State.loadVector_eq acts n sext e d m la)) missing
      (performs_nothing (R := fun u v => v = u) _ fun u => rfl) fun t u v queues same => ⟨same, queues⟩
  · refine advance_completes ?_
    rw [run, State.loadVector]
    simp [none]

theorem storeVector_storeIssues {i : Instr} {e : Bool} {g : Guard} {m : MAddr} {la : Fin 16} {n d : Nat}
    (run : ∀ s, exec i s = s.storeVector n e g d m la) : StoreIssues i e g m la.val n d := by
  refine ⟨fun s ok acts translated => ?_, fun s ok missed acts missing => ?_, fun s none => ?_⟩
  · exact issueOp_issues (s.touchAll_touched _ _) ((run s).trans ((State.storeVector_eq acts n e d m la).trans
      (State.access_translated _ _ _ _ _ _ _ _ translated)))
  · have acts : s.memLanes g ≠ [] := fun none => acts (by simp [none])
    exact misses_of_access ((run s).trans (State.storeVector_eq acts n e d m la)) missing
      (performs_splitOp _ n ok (data := storeData s.src d n) fun _ => rfl) fun t u v queues stored => ⟨queues, stored⟩
  · refine advance_completes ?_
    rw [run, State.storeVector]
    simp [none]

/-- Where the one lane of an access misses, no lane translated. -/
theorem missed_scalar {s : State} {n : Need} {va : W64} {ok : List LaneOp} {missed : List (Nat × W64)}
    (h : Missed s n [(0, va)] ok missed) : ok = [] := by
  obtain ⟨checked, some, -⟩ := h
  revert checked
  unfold State.checkLanes State.laneOuts gatherLanes
  simp only [List.map_cons, List.map_nil]
  cases s.checkVa s.src.core s.src.world n va with
  | bad st cause => simp [least]
  | miss => simp +contextual [least]
  | ok pa na =>
    simp only [List.filterMap_cons, List.filterMap_nil, least, Checked.go.injEq]
    exact fun h => absurd h.2.symm some

theorem sld_eq (e : Bool) (d : Reg) (m : SAddr) (la : Fin 16) (s : State) : exec (.sld e d m la) s =
    s.access { bytes := 8, r := true, access := 1 } true [(0, scalarAddr s.src m)] id openGate
      (fun ok s => s.issueOp (.sload d.val) ok la.val 2 e) fun _ s => s := rfl

theorem sld_issues (e : Bool) (d : Reg) (m : SAddr) (la : Fin 16) {s : State} {ok : List LaneOp}
    (translated : Translated s { bytes := 8, r := true, access := 1 } [(0, scalarAddr s.src m)] ok) :
    Issues (.sld e d m la) e la.val (.sload d.val) ok s := by
  have eq := (sld_eq e d m la s).trans (State.access_translated _ _ _ _ _ _ _ _ translated)
  rw [List.map_id] at eq
  exact issueOp_issues (s.touchAll_touched _ _) eq

theorem sld_loadMisses (e : Bool) (d : Reg) (m : SAddr) (la : Fin 16) :
    LoadMisses (.sld e d m la) 8 true fun s => [(0, scalarAddr s.src m)] := fun s _ _ _ missing =>
  misses_of_access (sld_eq e d m la s) missing (performs_nothing (R := fun u v => v = u) _ fun _ => rfl)
    fun _ _ _ queues same => ⟨same, queues⟩

/-- The lane of a scalar store with its bytes (R193). -/
def wordData (t : Troupe) (d : Reg) (o : LaneOp) : LaneOp := { o with data := wordBytes (t.sreg d.val) }

theorem sst_eq (e : Bool) (d : Reg) (m : SAddr) (la : Fin 16) (s : State) : exec (.sst e d m la) s =
    s.access { bytes := 8, w := true, access := 2 } true [(0, scalarAddr s.src m)] (wordData s.src d) openGate
      (fun ok s => s.issueOp (.store 8) ok la.val 2 e) fun _ s => s := rfl

theorem sst_issues (e : Bool) (d : Reg) (m : SAddr) (la : Fin 16) {s : State} {ok : List LaneOp}
    (translated : Translated s { bytes := 8, w := true, access := 2 } [(0, scalarAddr s.src m)] ok) :
    Issues (.sst e d m la) e la.val (.store 8) (ok.map (wordData s.src d)) s :=
  issueOp_issues (s.touchAll_touched _ _) ((sst_eq e d m la s).trans (State.access_translated _ _ _ _ _ _ _ _ translated))

theorem sst_storeMisses (e : Bool) (d : Reg) (m : SAddr) (la : Fin 16) :
    StoreMisses (.sst e d m la) 8 true (fun s => [(0, scalarAddr s.src m)]) fun t _ => wordBytes (t.sreg d.val) := by
  intro s ok missed _ missing
  obtain rfl := missed_scalar missing
  exact misses_of_access (sst_eq e d m la s) missing (performs_nothing _ (storedSome_nothing 8 (wordData s.src d)))
    fun t u v queues stored => ⟨queues, stored⟩

/-- Settles O14: every one of them is a vector access, but for the two scalar ones. -/
theorem globalAccessesIssue : Obligations.GlobalAccessesIssue := by
  unfold Obligations.GlobalAccessesIssue
  refine ⟨⟨?_, ?_, ?_, ?_, ?_, ?_, ?_, fun e d m la s ok => sld_issues e d m la, sld_loadMisses⟩, ?_, ?_, ?_, ?_, ?_,
    fun e d m la s ok => sst_issues e d m la, sst_storeMisses⟩
  · exact fun e g d m la => loadVector_loadIssues fun s => rfl
  · exact fun e g d m la => loadVector_loadIssues fun s => rfl
  · exact fun e g d m la => loadVector_loadIssues fun s => rfl
  · exact fun e g d m la => loadVector_loadIssues fun s => rfl
  · exact fun e g d m la => loadVector_loadIssues fun s => rfl
  · exact fun e g d m la => loadVector_loadIssues fun s => rfl
  · exact fun e g d m la => loadVector_loadIssues fun s => rfl
  · exact fun e g d m la => storeVector_storeIssues fun s => rfl
  · exact fun e g d m la => storeVector_storeIssues fun s => rfl
  · exact fun e g d m la => storeVector_storeIssues fun s => rfl
  · exact fun e g d m la => storeVector_storeIssues fun s => rfl
  · exact fun e g d m la => storeVector_storeIssues fun s => rfl

end Sys2Proof.Machine
end

section
/-! SUPPORT. What follows a change of heat or of urgency (R79, R89): a placement opportunity touches the bookkeeping
alone, and the troupes that R27 no longer holds back change in nothing but since when they are ready. -/

namespace Sys2Proof.Machine

/-- A placement opportunity that falls due is bookkeeping (R79). -/
theorem State.opportunity_eq (s : State) : ∃ b, s.opportunity = { s with book := b } := by
  unfold State.opportunity
  split
  · exact ⟨s.book, rfl⟩
  · exact ⟨_, rfl⟩

/-- A troupe that is ready from a time on, when it is held back no more (R89). -/
def Troupe.readied (t : Troupe) (freed : Prop) [Decidable freed] (now : Nat) : Troupe :=
  { t with ctl := { t.ctl with readyAt := if freed then max t.ctl.readyAt now else t.ctl.readyAt } }

theorem State.troupe_readmit {s b : State} {k : Nat} {u o : Troupe} (now : s.troupe k = some u) (before : b.troupe k = some o) :
    (s.readmit b).troupe k = some (u.readied (b.coolFor o = false ∧ s.coolFor u = true) s.cycle) := by
  have found : s.troupes.find k = some u := now
  rw [State.troupe, State.readmit]
  dsimp only
  rw [Table.find_mapVals, found, Option.map_some]
  simp only [before, Troupe.readied, Bool.not_eq_true']
  split <;> rfl

theorem State.troupe_readmit_none {s : State} {k : Nat} (b : State) (free : s.troupe k = none) :
    (s.readmit b).troupe k = none := by
  have found : s.troupes.find k = none := free
  rw [State.troupe, State.readmit]
  dsimp only
  rw [Table.find_mapVals, found, Option.map_none]

end Sys2Proof.Machine
end

section
/-! SUPPORT. Heat states and the power limit (R440 to R443). -/

namespace Sys2Proof.Machine

/-! ### Troupes -/

/-- Beside the times since which troupes are ready, no troupe differs (R89). -/
def ReadyTimesOnly (s t : State) : Prop :=
  ∀ k, (s.troupe k = none → t.troupe k = none) ∧ ∀ u, s.troupe k = some u →
    t.troupe k = some u ∨ t.troupe k = some { u with ctl := { u.ctl with readyAt := max u.ctl.readyAt s.cycle } }

theorem ReadyTimesOnly.of_same {s t : State} (same : t.troupes = s.troupes) : ReadyTimesOnly s t := by
  intro k
  have troupe : t.troupe k = s.troupe k := by rw [State.troupe, same, ← State.troupe]
  exact ⟨fun free => troupe.trans free, fun u found => .inl (troupe.trans found)⟩

theorem ReadyTimesOnly.of_readmit {s n : State} (same : n.troupes = s.troupes) (now : n.cycle = s.cycle) :
    ReadyTimesOnly s (n.readmit s) := by
  intro k
  have troupe : n.troupe k = s.troupe k := by rw [State.troupe, same, ← State.troupe]
  refine ⟨fun free => State.troupe_readmit_none s (troupe.trans free), fun u found => ?_⟩
  rw [State.troupe_readmit (troupe.trans found) found, Troupe.readied, now]
  split
  · exact .inr rfl
  · exact .inl rfl

/-! ### Heat samples -/

/-- Where the configuration record lowers no threshold, it is the table's (R442). -/
theorem State.threshold_of_unset {s : State} {k : Nat} (unset : s.mgmt.config.get (5 + k) 0 = 0) :
    s.threshold k = 75 + 10 * (k : Int) := by
  simp [State.threshold, unset]

/-- A sample's new heat state under the thresholds of R442. -/
theorem State.heatAfter_of_unset {s : State} {old : Nat} (T : Int) (small : old ≤ 3)
    (unset : ∀ k, 6 ≤ k → k ≤ 8 → s.mgmt.config.get k 0 = 0) :
    let up := if 105 ≤ T then 3 else if 95 ≤ T then 2 else if 85 ≤ T then 1 else 0
    s.heatAfter old T = if old < up then up else if old ≠ 0 ∧ T < 75 + 10 * (old : Int) - 3 then old - 1 else old := by
  have table (k : Nat) (low : 1 ≤ k) (high : k ≤ 3) : s.threshold k = 75 + 10 * (k : Int) :=
    State.threshold_of_unset (unset _ (by omega) (by omega))
  have falls : (old ≠ 0 ∧ T < s.threshold old - 3) ↔ (old ≠ 0 ∧ T < 75 + 10 * (old : Int) - 3) :=
    and_congr_right fun warm => by rw [table old (by omega) small]
  simp only [State.heatAfter, table 3 (by decide) (by decide), table 2 (by decide) (by decide), table 1 (by decide) (by decide),
    falls]
  norm_num

/-- A sample of a cluster of the module: the cluster holds it, and a change of heat state readmits troupes (R442). -/
theorem heatSample_spec {s : State} {c : Nat} (T : Int) (there : c < 24) :
    ∃ t, exec (.heatSample c T) s = .next t ∧ { t with clusters := s.clusters, troupes := s.troupes, book := s.book } = s ∧
      ReadyTimesOnly s t ∧
      ∀ k, t.cluster k = if c = k then { s.cluster c with heat := s.heatAfter (s.cluster c).heat T, celsius := T } else s.cluster k := by
  generalize sampled : (s.modCluster c fun x => { x with heat := s.heatAfter (s.cluster c).heat T, celsius := T }) = n
  have cluster (k : Nat) : n.cluster k = _ := sampled ▸ s.cluster_modCluster c k _
  have run : exec (.heatSample c T) s =
      .next (if s.heatAfter (s.cluster c).heat T = (s.cluster c).heat then n else (n.readmit s).opportunity) := by
    subst sampled
    exact if_neg (by omega)
  rw [run]
  refine ⟨_, rfl, ?_⟩
  have same : n.troupes = s.troupes := sampled ▸ rfl
  have frame : { n with clusters := s.clusters } = s := sampled ▸ rfl
  split
  · refine ⟨?_, .of_same same, cluster⟩
    subst sampled; rfl
  · obtain ⟨b, opened⟩ := (n.readmit s).opportunity_eq
    rw [opened]
    refine ⟨?_, .of_readmit same (sampled ▸ rfl), cluster⟩
    subst sampled; rfl

/-! ### The power limit -/

/-- The cluster of a list that draws the most, if the list has any (R443). -/
theorem hungriest_spec (draws : List Nat) {l : List Nat} (nonempty : l ≠ []) :
    ∃ c, hungriest draws l = some c ∧ c ∈ l ∧ ∀ d ∈ l, draws.getD d 0 ≤ draws.getD c 0 := by
  induction l with
  | nil => exact absurd rfl nonempty
  | cons c l ih =>
    by_cases last : l = []
    · subst last
      exact ⟨c, rfl, by simp, by simp⟩
    obtain ⟨d, found, member, most⟩ := ih last
    simp only [hungriest, found]
    split
    · next more =>
      refine ⟨c, rfl, by simp, fun x hx => ?_⟩
      rcases List.mem_cons.1 hx with rfl | hx
      · exact Nat.le_refl _
      · exact (most x hx).trans more
    · next less =>
      refine ⟨d, rfl, by simp [member], fun x hx => ?_⟩
      rcases List.mem_cons.1 hx with rfl | hx
      · exact (Nat.lt_of_not_le less).le
      · exact most x hx

/-- Without a fenced world the hungriest cluster below heat state 3 is raised (R443). -/
theorem State.raiseTarget_spec {s : State} (draws : List Nat) (unfenced : s.fencedWorlds = [])
    (cool : ∃ c, c < 24 ∧ (s.cluster c).heat < 3) :
    ∃ c, s.raiseTarget draws = some c ∧ c < 24 ∧ (s.cluster c).heat < 3 ∧
      ∀ d, d < 24 → (s.cluster d).heat < 3 → draws.getD d 0 ≤ draws.getD c 0 := by
  have low (c : Nat) : c ∈ (List.range 24).filter (fun c => decide ((s.cluster c).heat < 3)) ↔ c < 24 ∧ (s.cluster c).heat < 3 := by
    simp
  obtain ⟨x, hx⟩ := cool
  obtain ⟨c, found, member, most⟩ := hungriest_spec draws (List.ne_nil_of_mem ((low x).2 hx))
  refine ⟨c, ?_, ((low c).1 member).1, ((low c).1 member).2, fun d hd cold => most d ((low d).2 ⟨hd, cold⟩)⟩
  simp [State.raiseTarget, unfenced, found]

/-- A check of the power forgets the raise of the check before it (R443). -/
def State.unraised (s : State) (watts : Nat) : State :=
  { s with mgmt := { s.mgmt with power := watts % 2 ^ 32 }, clusters := s.clusters.mapVals fun _ c => { c with raised := 0 } }

theorem State.cluster_unraised (s : State) (watts c : Nat) : (s.unraised watts).cluster c = { s.cluster c with raised := 0 } := by
  rw [State.cluster, State.unraised, Table.get]
  dsimp only
  rw [Table.find_mapVals, State.cluster, Table.get]
  cases s.clusters.find c <;> rfl

theorem execPowerCheck_eq (watts : Nat) (draws : List Nat) (s : State) :
    exec (.powerCheck watts draws) s = .next (State.opportunity (State.readmit
      (match (if watts ≤ s.powerLimit then none else (s.unraised watts).raiseTarget draws) with
        | none => s.unraised watts
        | some c => (s.unraised watts).modCluster c fun x => { x with raised := x.heat + 1 }) s)) := rfl

/-- A check of the power raises the cluster that it chooses, if any, and no other (R443). -/
theorem powerCheck_spec (watts : Nat) (draws : List Nat) (s : State) :
    let raise := if watts ≤ s.powerLimit then none else (s.unraised watts).raiseTarget draws
    ∃ t, exec (.powerCheck watts draws) s = .next t ∧
      { t with clusters := s.clusters, troupes := s.troupes, mgmt := s.mgmt, book := s.book } = s ∧ ReadyTimesOnly s t ∧
      t.mgmt = { s.mgmt with power := watts % 2 ^ 32 } ∧
      ∀ c, t.cluster c = { s.cluster c with raised := if raise = some c then (s.cluster c).heat + 1 else 0 } := by
  intro raise
  rw [execPowerCheck_eq]
  obtain ⟨n, checked, same, frame, mgmt, cluster⟩ : ∃ n : State,
      (match raise with
        | none => s.unraised watts
        | some c => (s.unraised watts).modCluster c fun x => { x with raised := x.heat + 1 }) = n ∧ n.troupes = s.troupes ∧
      { n with clusters := s.clusters, mgmt := s.mgmt } = s ∧ n.mgmt = { s.mgmt with power := watts % 2 ^ 32 } ∧
      ∀ c, n.cluster c = { s.cluster c with raised := if raise = some c then (s.cluster c).heat + 1 else 0 } := by
    cases raise with
    | none => exact ⟨_, rfl, rfl, rfl, rfl, fun c => s.cluster_unraised watts c⟩
    | some d =>
      refine ⟨_, rfl, rfl, rfl, rfl, fun c => ?_⟩
      rw [State.cluster_modCluster]
      simp only [State.cluster_unraised, Option.some.injEq]
      split
      · subst_vars; rfl
      · rfl
  obtain ⟨b, opened⟩ := (n.readmit s).opportunity_eq
  refine ⟨_, congrArg (fun n : State => Host.Outcome.next (n.readmit s).opportunity) checked, ?_⟩
  rw [opened]
  have now : n.cycle = s.cycle := by
    have := congrArg State.cycle frame
    exact this
  refine ⟨?_, .of_readmit same now, mgmt, cluster⟩
  have := congrArg (fun x : State => { x with troupes := s.troupes, book := s.book }) frame
  exact this

/-- Settles O49: the three events, each by its rule above. -/
theorem heatAndPower : Obligations.HeatAndPower := by
  unfold Obligations.HeatAndPower
  intro readied
  have of_only {s t : State} (h : ReadyTimesOnly s t) : readied s t := by
    intro k
    obtain ⟨absent, present⟩ := h k
    cases found : s.troupe k with
    | none => exact absent found
    | some u => exact present u found
  refine ⟨fun c T s there small unset => ?_, fun watts draws s unset wide => ?_, fun T s => ⟨fun hot => ?_, fun cool => ?_⟩⟩
  · obtain ⟨t, run, frame, ready, cluster⟩ := heatSample_spec (s := s) T there
    refine ⟨t, run, frame, of_only ready, ?_, fun k other => ?_⟩
    · rw [cluster, if_pos rfl, State.heatAfter_of_unset T small unset]
    · rw [cluster, if_neg (Ne.symm other)]
  · have limit : s.powerLimit = 4000 := by simp [State.powerLimit, unset]
    obtain ⟨t, run, frame, ready, mgmt, cluster⟩ := powerCheck_spec watts draws s
    rw [limit] at cluster
    refine ⟨t, run, frame, of_only ready, ?_, fun c => ?_, fun within c => ?_, fun above unfenced cool => ?_⟩
    · rw [mgmt, Nat.mod_eq_of_lt wide]
    · rw [cluster]
    · rw [cluster, if_pos within]; rfl
    · have heat (c : Nat) : ((s.unraised watts).cluster c).heat = (s.cluster c).heat := by rw [State.cluster_unraised]
      obtain ⟨c, target, low, cold, most⟩ := State.raiseTarget_spec (s := s.unraised watts) draws unfenced (by simpa only [heat] using cool)
      simp only [heat] at cold most
      rw [if_neg (by omega), target] at cluster
      refine ⟨c, low, cold, ?_, fun d other => ?_, most⟩
      · rw [cluster]; exact if_pos rfl
      · rw [cluster]; exact if_neg fun same => other (Option.some.inj same).symm
  · exact congrArg Host.Outcome.next (if_pos hot)
  · exact congrArg Host.Outcome.next (if_neg (by omega))

end Sys2Proof.Machine
end

section
/-! SUPPORT. Facts about lists and tables that arbitration, placement and the copies use. -/

namespace Sys2Proof

theorem Table.get_foldl_put {α : Type} (f : Nat → α) (l : List Nat) (t : Table α) (k : Nat) (d : α) :
    (l.foldl (fun t c => Table.put t c (f c)) t).get k d = if k ∈ l then f k else t.get k d := by
  induction l generalizing t with
  | nil => simp
  | cons c l ih =>
    rw [List.foldl_cons, ih, Table.get_put]
    by_cases later : k ∈ l
    · simp [later]
    · by_cases now : c = k
      · simp [now]
      · simp [later, now, Ne.symm now]

theorem Table.find_eq_none {α : Type} {t : Table α} {k : Nat} (h : k ∉ t.keys) : t.find k = none := by
  induction t with
  | nil => rfl
  | cons e t ih =>
    obtain ⟨i, a⟩ := e
    simp only [Table.keys, List.map_cons, List.mem_cons, not_or] at h
    rw [Table.find, if_neg (Ne.symm h.1)]
    exact ih h.2

namespace Machine

theorem least_mem {α : Type} {key : α → Nat} {l : List α} {x : α} (h : least key l = some x) : x ∈ l := by
  induction l generalizing x with
  | nil => cases h
  | cons y l ih =>
    simp only [least] at h
    split at h
    · cases h; simp
    · next z found =>
      split at h
      · cases h; simp
      · cases h; exact List.mem_cons_of_mem _ (ih found)

/-- A minimum taken along a list is no greater than what any member gives. -/
theorem foldl_min_le {α : Type} (f : α → Nat) {l : List α} {x : α} (m : Nat) (h : x ∈ l) :
    l.foldl (fun m y => min m (f y)) m ≤ f x := by
  have below (l : List α) (m : Nat) : l.foldl (fun m y => min m (f y)) m ≤ m := by
    induction l generalizing m with
    | nil => exact Nat.le_refl m
    | cons y l ih => exact (ih _).trans (Nat.min_le_left _ _)
  induction l generalizing m with
  | nil => cases h
  | cons y l ih =>
    rcases List.mem_cons.1 h with rfl | h
    · exact (below l _).trans (Nat.min_le_right _ _)
    · exact ih _ h

end Machine

end Sys2Proof
end

section
/-! SUPPORT. Run arbitration, token refill and slack classes (R87 to R93). -/

namespace Sys2Proof.Machine

/-! ### What counting leaves unchanged -/

/-- Counters, and the bookkeeping of those that overflow, may differ, and nothing else. -/
def CountersOnly (s t : State) : Prop :=
  { t with worlds := s.worlds, book := s.book } = s ∧ ∀ w, { t.world w with counters := (s.world w).counters } = s.world w

namespace CountersOnly

variable {s t : State}

theorem refl (s : State) : CountersOnly s s := ⟨rfl, fun _ => rfl⟩

theorem trans {a b c : State} (h1 : CountersOnly a b) (h2 : CountersOnly b c) : CountersOnly a c := by
  obtain ⟨frame1, worlds1⟩ := h1
  obtain ⟨frame2, worlds2⟩ := h2
  refine ⟨?_, fun w => counters_trans (worlds1 w) (worlds2 w)⟩
  calc { c with worlds := a.worlds, book := a.book }
      = { ({ c with worlds := b.worlds, book := b.book } : State) with worlds := a.worlds, book := a.book } := rfl
    _ = a := by rw [frame2, frame1]

theorem of_count (s : State) (w event core n : Nat) : CountersOnly s (s.count w event core n) := by
  refine ⟨?_, State.count_world s w event core n⟩
  rw [State.count_frame]

theorem core (h : CountersOnly s t) (k : Nat) : t.core k = s.core k := by
  obtain ⟨frame, -⟩ := h
  have := congrArg (State.core · k) frame
  exact this

end CountersOnly

/-! ### Arbitration (R92) -/

/-- The winner is a candidate of the worlds that are chosen from, and none of theirs is more urgent (R92). -/
theorem State.winner_spec {s : State} {last : Nat} {pool : List Nat} {cand : List Troupe} {t : Troupe}
    (won : s.winner last pool cand = some t) :
    t ∈ cand ∧ t.world ∈ pool ∧ ∀ x ∈ cand, x.world ∈ pool → s.urgency t ≤ s.urgency x := by
  simp only [State.winner] at won
  split at won
  · cases won
  · next f _ =>
    have among := least_mem won
    simp only [List.mem_filter, beq_iff_eq, List.contains_iff_mem] at among
    obtain ⟨⟨⟨isCand, inPool⟩, urgent⟩, -⟩ := among
    refine ⟨isCand, inPool, fun x hx inPool' => ?_⟩
    rw [urgent]
    exact foldl_min_le s.urgency 5 (List.mem_filter.2 ⟨hx, by simpa using inPool'⟩)

/-- An issue slot that a troupe has won (R92). -/
def Islot.wonBy (sl : Islot) (t : Troupe) (now : Nat) : Islot :=
  { sl with holder := some t.tslot, words := 0, last := t.world, overdue := sl.overdue.filter (· != t.world)
            won := sl.won.put t.world now }

/-- The issue slot goes to a troupe, before the win is counted. -/
def State.giveSlot (s : State) (core islot : Nat) (t : Troupe) : State :=
  s.modCore core fun c => { c with islots := c.islots.put islot (((s.core core).islots.get islot {}).wonBy t s.cycle) }

theorem State.core_giveSlot (s : State) (core islot : Nat) (t : Troupe) (k : Nat) :
    (s.giveSlot core islot t).core k = if core = k then { s.core core with
      islots := (s.core core).islots.put islot (((s.core core).islots.get islot {}).wonBy t s.cycle) } else s.core k :=
  s.core_modCore core k _

/-- The troupes of an issue slot that have yielded may run again (R120). -/
def State.unyield (s : State) (core islot : Nat) : State :=
  (s.onSlotOf core islot).foldl (fun s x => s.modTroupe x.key fun x => { x with ctl := { x.ctl with yielded := false } }) s

theorem State.unyield_eq (s : State) (core islot : Nat) : ∃ ts, s.unyield core islot = { s with troupes := ts } := by
  refine List.foldlRecOn (motive := fun t : State => ∃ ts, t = { s with troupes := ts }) _ _ ⟨s.troupes, rfl⟩ ?_
  rintro t ⟨ts, rfl⟩ x -
  unfold State.modTroupe
  split
  · exact ⟨ts, rfl⟩
  · exact ⟨_, rfl⟩

/-- An arbitration with a winner gives it the issue slot; troupes that have yielded may run again, and the win is
counted (R92, R120). -/
theorem runArbitration_spec {s : State} {core islot : Nat} {t : Troupe} (low : islot < 4) :
    let sl := (s.core core).islots.get islot {}
    let cand := s.cand core islot
    sl.holder = none → s.winner sl.last (s.pool core sl.overdue cand).1 cand = some t →
    ∃ u, exec (.runArbitration core islot) s = .next u ∧ CountersOnly ((s.giveSlot core islot t).unyield core islot) u := by
  intro sl cand free won
  have choosing : ¬ (sl.holder.isSome = true ∨ 4 ≤ islot) := by
    rw [free]
    simpa using low
  have run : exec (.runArbitration core islot) s =
      let u := ((s.giveSlot core islot t).unyield core islot).count t.world 3 core 1
      .next (if (s.pool core sl.overdue cand).2 then u.count t.world 4 core 1 else u) := by
    show execRunArbitration core islot s = _
    unfold execRunArbitration
    dsimp only
    rw [if_neg choosing, won]
    rfl
  refine ⟨_, run, ?_⟩
  split
  · exact (CountersOnly.of_count _ _ _ _ _).trans (.of_count _ _ _ _ _)
  · exact .of_count _ _ _ _ _

/-! ### Refill (R90, R91) -/

/-- With no budget of its own for the next period, a world's limits change in the balances alone (R90). -/
theorem Limits.refill_eq {l : Limits} (stays : l.nextBudget = []) : l.refill = { l with balance := l.refill.balance } := by
  unfold Limits.refill
  simp only [stays, List.foldl_nil]

/-- A refilled balance is the budget, less a debt (R90). -/
theorem Limits.balance_refill {l : Limits} (stays : l.nextBudget = []) (c : Nat) :
    l.refill.balance.get c 0 = max 0 ((l.budget.get c 0 : Int) + min (l.balance.get c 0) 0) := by
  unfold Limits.refill
  simp only [stays, List.foldl_nil]
  rw [Table.get_foldl_put (fun c => max 0 (((l.budget.get c 0 : Nat) : Int) + min (l.balance.get c 0) 0))]
  split
  · rfl
  · next unlisted =>
    rw [List.mem_append, not_or] at unlisted
    simp [Table.get, Table.find_eq_none unlisted.1, Table.find_eq_none unlisted.2, Table.find]

theorem State.world_mapVals (s : State) (f : World → World) (blank : f {} = {}) (w : Nat) :
    State.world { s with worlds := s.worlds.mapVals fun _ => f } w = f (s.world w) := by
  rw [State.world, Table.get]
  dsimp only
  rw [Table.find_mapVals, State.world, Table.get]
  cases s.worlds.find w with
  | none => exact blank.symm
  | some x => rfl

/-- Issue slots may differ, and nothing else. -/
def IslotsOnly (s t : State) : Prop :=
  { t with cores := s.cores } = s ∧ ∀ c, { t.core c with islots := (s.core c).islots } = s.core c

theorem IslotsOnly.refl (s : State) : IslotsOnly s s := ⟨rfl, fun _ => rfl⟩

theorem IslotsOnly.modCore {s t : State} (h : IslotsOnly s t) (k : Nat) (f : Table Islot → Table Islot) :
    IslotsOnly s (t.modCore k fun c => { c with islots := f c.islots }) := by
  obtain ⟨frame, cores⟩ := h
  refine ⟨frame, fun c => ?_⟩
  rw [State.core_modCore]
  split
  · subst_vars; exact cores _
  · exact cores c

/-- A refill at the end of a period: every world's limits are refilled, and worlds may become overdue on issue slots. -/
theorem tokenRefill_spec {s : State} (ends : s.cycle % 4096 = 0) :
    ∃ t, exec .tokenRefill s = .next t ∧
      IslotsOnly { s with worlds := s.worlds.mapVals fun _ w => { w with limits := w.limits.refill } } t := by
  have run : exec .tokenRefill s = execTokenRefill s := rfl
  unfold execTokenRefill at run
  rw [if_neg (not_not.2 ends)] at run
  refine ⟨_, run, ?_⟩
  refine List.foldlRecOn _ _ (.refl _) fun t before core _ => ?_
  refine List.foldlRecOn _ _ before fun t before i _ => ?_
  dsimp only
  split
  · exact before
  · exact before.modCore core fun islots => islots.put i _

/-! ### Slack classes (R87) -/

theorem i64_of_small {x : Int} (low : -(2 ^ 63) ≤ x) (high : x < 2 ^ 63) : i64 x = x := by
  rw [i64, BitVec.toInt_ofInt, Int.bmod_eq_of_le_mul_two] <;> norm_num <;> omega

/-- Rounding up, as the negation of rounding down and with the floor of a shifted dividend. -/
theorem neg_ediv_neg_eq {a b : Int} (pos : 0 < b) : -((-a) / b) = (a + b - 1) / b := by
  have bounds := (Int.ediv_eq_iff_of_pos (x := -a) pos).1 rfl
  refine ((Int.ediv_eq_iff_of_pos pos).2 ?_).symm
  constructor <;> linarith [bounds.1, bounds.2]

/-- The slack class of a deadline, from the work left at 21 instructions in 20 ns for each issue slot (R87). -/
theorem slackClass_eq {deadline work : W64} {used n alm : Nat} (due : deadline ≠ 0) (slots : 0 < n)
    (near : deadline.toNat < 2 ^ 62) (short : work.toNat < 2 ^ 50) (early : alm < 2 ^ 62) (left : used ≤ work.toNat) :
    let time : Int := ((work.toNat - used) * 20 + 21 * n - 1) / (21 * n)
    let slack : Int := deadline.toNat - alm - time
    slackClass deadline work used n alm = if slack < 0 then 0 else if slack < 100000 then 1 else if slack < 1000000 then 2 else 3 := by
  intro time slack
  have workInt : work.toInt = work.toNat := BitVec.toInt_eq_toNat_of_lt (by omega)
  have deadlineInt : deadline.toInt = deadline.toNat := BitVec.toInt_eq_toNat_of_lt (by omega)
  have remaining : max 0 (i64 (work.toInt - used)) = (work.toNat : Int) - used := by
    rw [workInt, i64_of_small (by omega) (by omega), max_eq_right (by omega)]
  have divisor : (0 : Int) < 21 * n := by omega
  have timeEq : -((-(i64 (((work.toNat : Int) - used) * 20))) / (21 * (max 1 n : Nat) : Int)) = time := by
    rw [i64_of_small (by omega) (by omega), max_eq_right slots, neg_ediv_neg_eq divisor]
  have timeLow : 0 ≤ time := Int.ediv_nonneg (by omega) divisor.le
  have timeHigh : time ≤ ((work.toNat : Int) - used) * 20 := by
    rw [Int.ediv_le_iff_le_mul divisor]
    have : 0 ≤ (((work.toNat : Int) - used) * 20) * (21 * n - 1) := mul_nonneg (by omega) (by omega)
    linarith
  have slackEq : i64 (deadline.toInt - alm - time) = slack := by
    rw [deadlineInt, i64_of_small (by omega) (by omega)]
  simp only [slackClass, if_neg due, remaining, timeEq, slackEq]

/-- An armed act with its slack class computed anew (R87). -/
def State.reclassed (s : State) (t : Troupe) : Troupe :=
  { t with act := if t.act.armed then { t.act with slack := s.actSlack t.act } else t.act }

/-- Every slack class computed anew, before anyone is readmitted. -/
def State.reclass (s : State) : State :=
  { s with launches := s.launches.mapVals fun n l => { l with slack := s.slackOf n }, troupes := s.troupes.mapVals fun _ t => s.reclassed t }

theorem slackRecompute_eq (s : State) : exec .slackRecompute s = .next (s.reclass.readmit s).opportunity := by
  have same : (fun (_ : Nat) (t : Troupe) => s.reclassed t) =
      fun _ t => if t.act.armed then { t with act := { t.act with slack := s.actSlack t.act } } else t := by
    funext _ t
    unfold State.reclassed
    split <;> rfl
  rw [State.reclass, same]
  rfl

theorem State.troupe_reclass {s : State} {k : Nat} {u : Troupe} (found : s.troupe k = some u) :
    s.reclass.troupe k = some (s.reclassed u) := by
  have listed : s.troupes.find k = some u := found
  rw [State.troupe, State.reclass]
  dsimp only
  rw [Table.find_mapVals, listed, Option.map_some]

theorem State.launches_reclass {s : State} {n : Nat} {l : Launch} (found : s.launches.find n = some l) :
    s.reclass.launches.find n = some { l with slack := s.slackOf n } := by
  rw [State.reclass]
  dsimp only
  rw [Table.find_mapVals, found, Option.map_some]

/-- Settles O30: the winner, the refill, the classes and their formula, each by its rule above. -/
theorem arbitrationAndSlack : Obligations.ArbitrationAndSlack := by
  unfold Obligations.ArbitrationAndSlack
  refine ⟨⟨fun core islot s t low => ?_, fun s ends => ?_⟩, fun s => ?_, fun work used n alm => rfl,
    fun deadline work used n alm => slackClass_eq⟩
  · intro sl cand pool free won
    obtain ⟨isCand, inPool, most⟩ := State.winner_spec won
    obtain ⟨u, run, counted⟩ := runArbitration_spec low free won
    obtain ⟨ts, awake⟩ := (s.giveSlot core islot t).unyield_eq core islot
    rw [awake] at counted
    have cores (k : Nat) : u.core k = _ := (counted.core k).trans (s.core_giveSlot core islot t k)
    obtain ⟨frame, worlds⟩ := counted
    refine ⟨isCand, inPool, most, u, run, ?_, ?_, ?_, fun k other => ?_, worlds⟩
    · have := congrArg (fun x : State => { x with troupes := s.troupes, cores := s.cores }) frame
      exact this
    · rw [cores, if_pos rfl]
    · rw [cores, if_pos rfl]
      exact (Table.get_put _ _ _ _ _).trans (if_pos rfl)
    · rw [cores, if_neg (Ne.symm other)]
  · obtain ⟨t, run, frame, cores⟩ := tokenRefill_spec ends
    have world (w : Nat) : t.world w = { s.world w with limits := (s.world w).limits.refill } := by
      have := congrArg (State.world · w) frame
      exact this.trans (s.world_mapVals (fun w => { w with limits := w.limits.refill }) rfl w)
    refine ⟨t, run, ?_, cores, fun w stays => ⟨?_, fun c => ?_⟩⟩
    · have := congrArg (fun x : State => { x with worlds := s.worlds }) frame
      exact this
    · rw [world]
      exact congrArg (fun l => { s.world w with limits := l }) (Limits.refill_eq stays)
    · rw [world]
      exact Limits.balance_refill stays c
  · obtain ⟨b, opened⟩ := (s.reclass.readmit s).opportunity_eq
    refine ⟨_, slackRecompute_eq s, ?_, fun n l found => ?_, fun k u found => ?_⟩
    · rw [opened]; rfl
    · rw [opened]
      exact State.launches_reclass found
    · rw [opened]
      exact State.troupe_readmit (State.troupe_reclass found) found

end Sys2Proof.Machine
end

section
/-! SUPPORT. Launches (R72, R75 to R83): a free number, a descriptor that needs nothing of the outside, acceptance and
rejection, and the troupes that a placement puts into free slots. -/

namespace Sys2Proof

theorem Table.mem_keys_of_find {α : Type} {t : Table α} {k : Nat} {a : α} (h : t.find k = some a) : k ∈ t.keys := by
  induction t with
  | nil => cases h
  | cons e t ih =>
    obtain ⟨i, b⟩ := e
    simp only [Table.find] at h
    split at h
    · next same => simp [Table.keys, same]
    · exact List.mem_cons_of_mem _ (ih h)

/-- A table with fewer than n entries leaves a number below n free. -/
theorem Table.exists_find_none {α : Type} {t : Table α} {n : Nat} (room : t.length < n) : ∃ k, k < n ∧ t.find k = none := by
  by_contra full
  push Not at full
  have listed : List.range n ⊆ t.keys := fun k hk => by
    obtain ⟨a, found⟩ := Option.ne_none_iff_exists'.1 (full k (List.mem_range.1 hk))
    exact Table.mem_keys_of_find found
  have := (List.subperm_of_subset List.nodup_range listed).length_le
  simp only [List.length_range, Table.keys, List.length_map] at this
  omega

theorem Lanes.lane_zero (i : Nat) : Lanes.zero.lane i = 0 := by
  unfold Lanes.lane
  split
  · exact List.getElem_replicate _
  · rfl

namespace Machine

open Sys2Proof.Claims

/-! ### A free launch number (R77) -/

theorem findFrom_spec {p : Nat → Bool} {n k i : Nat} (h : findFrom p n k = some i) : p i = true ∧ i < k + n := by
  induction n generalizing k with
  | zero => cases h
  | succ n ih =>
    simp only [findFrom] at h
    split at h
    · next holds => cases h; exact ⟨holds, by omega⟩
    · obtain ⟨holds, below⟩ := ih h
      exact ⟨holds, by omega⟩

theorem findFrom_isSome {p : Nat → Bool} {n k i : Nat} (holds : p i = true) (low : k ≤ i) (high : i < k + n) :
    (findFrom p n k).isSome = true := by
  induction n generalizing k with
  | zero => omega
  | succ n ih =>
    simp only [findFrom]
    split
    · rfl
    · next fails =>
      have other : k ≠ i := by rintro rfl; exact fails holds
      exact ih (by omega) (by omega)

/-- While the placer has room it finds a number that no launch has (R77). -/
theorem State.freeLaunch_spec {s : State} (room : s.launches.length < 4096) :
    ∃ n b, s.freeLaunch = (some n, { s with book := b }) ∧ n < 4096 ∧ s.launches.find n = none := by
  obtain ⟨free, small, unused⟩ := Table.exists_find_none room
  generalize start : Config.freeNat s.book.fresh = k
  have reached : (k + (free + 4096 - k % 4096) % 4096) % 4096 = free := by omega
  have some := findFrom_isSome (p := fun i => (s.launches.find ((k + i) % 4096)).isNone) (n := 4096) (k := 0)
    (i := (free + 4096 - k % 4096) % 4096) (by simp [reached, unused]) (by omega) (by omega)
  obtain ⟨i, found⟩ := Option.isSome_iff_exists.1 some
  obtain ⟨none, -⟩ := findFrom_spec found
  refine ⟨(k + i) % 4096, { s.book with fresh := s.book.fresh + 1 }, ?_, by omega, by simpa using none⟩
  have below : findBelow 4096 (fun i => (s.launches.find ((k + i) % 4096)).isNone) = Option.some i := found
  simp only [State.freeLaunch, State.freeNat, start]
  exact congrArg (fun x => (Option.map (fun i => (k + i) % 4096) x, _)) below

/-! ### Acceptance and rejection (R75 to R78) -/

theorem State.writeResult_of_no_record {s : State} {n : Nat} (parts : List (Nat × List Byte)) (no : (s.launch n).result = 0) :
    s.writeResult n parts = s := by
  simp only [State.writeResult, no, if_true]

/-- A launch without record, signal and table needs nothing of the host and of peers. -/
theorem State.readyLaunch_of_plain {s : State} {l : Launch} (record : l.result = 0) (signal : l.signal = 0)
    (table : fld (l.word 1) 37 36 ≠ 2) (packet : Option (Nat × Nat)) : s.readyLaunch l packet = (s, some []) := by
  have places : s.peerPlaces l = [] := by simp [State.peerPlaces, record, signal]
  have none : l.hasTable = false := by simp [Launch.hasTable, table]
  simp [State.readyLaunch, State.askPlaces, places, State.readTable, none]

/-- A presented launch is taken up. -/
def State.takeUp (s : State) (i : Nat) : State := { s with presented := s.presented.take i ++ s.presented.drop (i + 1) }

section

variable {s : State} {i : Nat} {p : Presented}

/-- A launch that needs nothing of the outside and breaks no rule is accepted (R75). -/
theorem launchAcceptance_accepts (there : s.presented[i]? = some p) (room : s.placerOpen p.world = true)
    (record : (describe p.world p.desc).result = 0) (signal : (describe p.world p.desc).signal = 0)
    (table : fld ((describe p.world p.desc).word 1) 37 36 ≠ 2) (packet : p.packet = none)
    (sound : (s.takeUp i).launchCauses (describe p.world p.desc) [] = []) :
    exec (.launchAcceptance i) s =
      .next (((s.takeUp i).acceptLaunch (describe p.world p.desc) [] none).dropQuestions (placeKey none)) := by
  show execLaunchAcceptance i s = _
  rw [State.takeUp] at sound ⊢
  simp only [execLaunchAcceptance, there, room, packet, State.readyLaunch_of_plain record signal table, sound]
  rfl

/-- One that breaks a rule is rejected with the least cause (R75). -/
theorem launchAcceptance_rejects (there : s.presented[i]? = some p) (room : s.placerOpen p.world = true)
    (record : (describe p.world p.desc).result = 0) (signal : (describe p.world p.desc).signal = 0)
    (table : fld ((describe p.world p.desc).word 1) 37 36 ≠ 2) (packet : p.packet = none) {c : Nat}
    (cause : least id ((s.takeUp i).launchCauses (describe p.world p.desc) []) = some c) :
    exec (.launchAcceptance i) s =
      .next (((s.takeUp i).rejectLaunch (describe p.world p.desc) c none).dropQuestions (placeKey none)) := by
  show execLaunchAcceptance i s = _
  rw [State.takeUp] at cause ⊢
  simp only [execLaunchAcceptance, there, room, packet, State.readyLaunch_of_plain record signal table, cause]
  rfl

end

/-- A launch as it is accepted, with its order: every troupe is to be placed (R75, R87, R205). -/
def Launch.acceptedAt (l : Launch) (s : State) (order : Nat) : Launch :=
  { l with order := order, alive := l.troupes, packet := none, floor := s.maxTs, table := []
           slack := slackClass (l.word 7) (l.word 9) 0 1 s.alm }

theorem Launch.slack_acceptedAt {l : Launch} (standing : l.deadline = 0) (s : State) (order : Nat) : (l.acceptedAt s order).slack = 3 := by
  have never : l.word 7 = 0 := BitVec.eq_of_toNat_eq standing
  rw [Launch.acceptedAt, never]
  rfl

/-- The launch stands in the table under number n, and a runtime launch is its world's (R75). -/
def State.entered (s : State) (n : Nat) (l : Launch) : State :=
  let s := { s with launches := s.launches.put n l }
  if bit (l.word 1) 39 then s.modWorld l.world fun w => { w with runtime := some n } else s

theorem State.launches_entered (s : State) (n : Nat) (l : Launch) : (s.entered n l).launches = s.launches.put n l := by
  unfold State.entered
  dsimp only
  split <;> rfl

theorem State.entered_frame (s : State) (n : Nat) (l : Launch) :
    { s.entered n l with launches := s.launches, worlds := s.worlds } = s := by
  unfold State.entered
  dsimp only
  split <;> rfl

theorem State.runtime_entered {s : State} {n : Nat} {l : Launch} (runtime : bit (l.word 1) 39 = true) :
    ((s.entered n l).world l.world).runtime = some n := by
  unfold State.entered
  dsimp only
  rw [if_pos runtime, State.world_modWorld, if_pos rfl]

/-- A launch without record and deadline that is accepted is entered under a free number, and nothing else of it is done
before the next placement (R77, R79). -/
theorem State.acceptLaunch_spec {s : State} {l : Launch} (room : s.launches.length < 4096) (record : l.result = 0)
    (standing : l.deadline = 0) :
    ∃ n o b, n < 4096 ∧ s.launches.find n = none ∧
      s.acceptLaunch l [] none = { s.entered n (l.acceptedAt s o) with book := b } := by
  obtain ⟨n, b, free, small, unused⟩ := State.freeLaunch_spec room
  generalize entering : ({ s with book := { b with nextOrder := b.nextOrder + 1 } } : State).entered n
    (l.acceptedAt s b.nextOrder) = e
  have launch : e.launch n = l.acceptedAt s b.nextOrder := by
    rw [State.launch, ← entering, State.launches_entered, Table.get_put, if_pos rfl]
  have noRecord : (e.launch n).result = 0 := by rw [launch]; exact record
  have accepted : s.acceptLaunch l [] none =
      let t := (e.writeResult n [(0, List.replicate 64 0)]).tellPacket none (.ok n)
      if l.deadline ≠ 0 ∧ l.divertTime ≤ t.alm then t.reachV n else t.opportunity := by
    rw [← entering, State.acceptLaunch, free]
    rfl
  rw [State.writeResult_of_no_record _ noRecord] at accepted
  dsimp only at accepted
  rw [if_neg fun late => late.1 standing] at accepted
  obtain ⟨c, opened⟩ := e.opportunity_eq
  refine ⟨n, b.nextOrder, c, small, unused, ?_⟩
  rw [accepted, State.tellPacket, opened, ← entering]
  unfold State.entered
  dsimp only
  split <;> rfl

/-- The record of a rejected launch, which names no troupe: its program counter, lanes and address are given by no rule
(R75, log 12). -/
def IsRejection (w c : Nat) (r : List W64) : Prop := r.headD 0 = BitVec.ofNat 64 (4 + c * 2 ^ 8 + w * 2 ^ 24 + 255 * 2 ^ 32)

/-- A launch without record and signal that is rejected leaves one record, in a fault mailbox that arms no barrier. -/
theorem State.rejectLaunch_spec {s : State} {l : Launch} (c : Nat) (record : l.result = 0) (signal : l.signal = 0)
    (live : (s.world l.world).st ≠ .absent) (quiet : (s.mailbox (s.world l.world).areas.faultMbx).arming = none) :
    ∃ r, IsRejection l.world c r ∧ { s.rejectLaunch l c none with mbx := s.mbx, book := s.book } = s ∧
      Posted s (s.rejectLaunch l c none) l.world r := by
  generalize fresh : (s.modBook fun b => { b with fresh := b.fresh + 1 + 1 + 1 }) = a
  obtain ⟨r, named, told⟩ : ∃ r, IsRejection l.world c r ∧ s.rejectLaunch l c none = a.tellFault l.world r := by
    refine ⟨faultRecord c 0 l.world none false (w32 (Config.freeNat (s.book.fresh + 1)))
      (BitVec.ofNat 128 (Config.freeNat (s.book.fresh + 1 + 1))) (w64 (Config.freeNat s.book.fresh)) s.alm none, ?_, ?_⟩
    · simp [IsRejection, faultRecord, b2n]
    · subst fresh
      simp only [State.rejectLaunch, record, signal, true_or, if_true, State.tellPacket, State.postOwn, State.freeNat]
      rw [State.postPlain, if_neg (by exact live)]
      rfl
  obtain ⟨frame, posted⟩ := State.tellFault_spec (s := a) (w := l.world) r (fresh ▸ quiet)
  refine ⟨r, named, ?_, ?_⟩
  · rw [told, frame, ← fresh]; rfl
  · rw [told]
    unfold Posted at posted ⊢
    rw [← fresh] at posted ⊢
    exact posted

/-! ### Placement (R79 to R83) -/

/-- The table of launches and the bookkeeping may differ, and nothing else. -/
def LaunchesOnly (s t : State) : Prop := { t with launches := s.launches, book := s.book } = s

theorem LaunchesOnly.trans {a b c : State} (h1 : LaunchesOnly a b) (h2 : LaunchesOnly b c) : LaunchesOnly a c := by
  unfold LaunchesOnly at h1 h2 ⊢
  calc { c with launches := a.launches, book := a.book }
      = { ({ c with launches := b.launches, book := b.book } : State) with launches := a.launches, book := a.book } := rfl
    _ = a := by rw [h2, h1]

theorem LaunchesOnly.of_modLaunch (s : State) (n : Nat) (f : Launch → Launch) : LaunchesOnly s (s.modLaunch n f) := by
  unfold State.modLaunch
  split <;> rfl

theorem LaunchesOnly.of_fireNode (s : State) (n level node : Nat) : LaunchesOnly s (s.fireNode n level node) := by
  unfold State.fireNode
  dsimp only
  split
  · rfl
  · exact LaunchesOnly.trans (.of_modLaunch s n _) rfl

theorem LaunchesOnly.of_fireZero (s : State) (n : Nat) (nodes : List (Nat × Nat)) : LaunchesOnly s (s.fireZero n nodes) := by
  unfold State.fireZero
  split
  · rfl
  · refine List.foldlRecOn nodes _ rfl fun t only x _ => ?_
    split
    · exact only.trans (.of_fireNode t n _ _)
    · exact only

/-- The slot that is chosen is a free one of the world on the core (R81). -/
theorem State.chooseSlot_spec {s : State} {w core slot : Nat} (chosen : s.chooseSlot w core = some slot) :
    slot < 32 ∧ (s.core core).tslotOwner.get slot 0 = w ∧ s.troupe (keyOf core slot) = none := by
  have free := least_mem chosen
  simpa [State.freeSlots] using free

/-- The next troupe of launch n, as it starts in a slot of a core (R72, R81 to R83, R205). -/
def State.newTroupe (s : State) (n core slot : Nat) : Troupe :=
  let l := s.launch n
  { Troupe.blank with
    uid := s.book.nextUid, world := l.world, launch := n, tid := l.nextTid, core := core, tslot := slot
    blocks := (s.freeBlocks l.world core).take l.blocks
    exec := liveLanes l.threads l.nextTid, live := liveLanes l.threads l.nextTid, pc := w32 (fld (l.word 1) 31 0), pts := l.floor
    ctl := { readyAt := s.cycle + 32, debug := l.debug } }.setS 0 (l.word 10)

/-- Placing a troupe puts it into the chosen slot, and changes no other troupe, no memory and no world. -/
theorem State.placeOn_spec {s : State} {n core slot : Nat} (chosen : s.chooseSlot (s.launch n).world core = some slot) :
    let t := s.placeOn n core
    t.mem = s.mem ∧ t.worlds = s.worlds ∧ t.troupes = s.troupes.put (keyOf core slot) (s.newTroupe n core slot) := by
  have place : keyOf (s.newTroupe n core slot).core (s.newTroupe n core slot).tslot = keyOf core slot := by
    rw [State.newTroupe, Troupe.setS_frame]
  generalize put : ((s.modBook fun b => { b with nextUid := b.nextUid + 1 }).putTroupe (s.newTroupe n core slot)).modCluster
    (clusterOf core) (fun c => { c with lastPlace := some s.cycle }) = a
  have frame : a.mem = s.mem ∧ a.worlds = s.worlds ∧ a.troupes = s.troupes.put (keyOf core slot) (s.newTroupe n core slot) := by
    subst put
    exact ⟨rfl, rfl, congrArg (s.troupes.put · _) place⟩
  obtain ⟨f, placed⟩ : ∃ f, s.placeOn n core =
      let b := a.modLaunch n f
      if (b.launch n).allPlaced = true then b.fireAll n else b := by
    subst put
    exact ⟨_, by
      rw [State.placeOn]
      simp only [chosen]
      rfl⟩
  have only : LaunchesOnly a (s.placeOn n core) := by
    rw [placed]
    dsimp only
    split
    · exact LaunchesOnly.trans (.of_modLaunch a n f) (.of_fireZero _ n _)
    · exact .of_modLaunch a n f
  have mem : (s.placeOn n core).mem = a.mem := by
    have := congrArg State.mem only
    exact this
  have worlds : (s.placeOn n core).worlds = a.worlds := by
    have := congrArg State.worlds only
    exact this
  have troupes : (s.placeOn n core).troupes = a.troupes := by
    have := congrArg State.troupes only
    exact this
  obtain ⟨mem', worlds', troupes'⟩ := frame
  exact ⟨mem.trans mem', worlds.trans worlds', troupes.trans troupes'⟩

/-- What a placement leaves as it is: memory, worlds, and every troupe that is placed. -/
def KeepsTroupes (s t : State) : Prop := t.mem = s.mem ∧ t.worlds = s.worlds ∧ ∀ k u, s.troupe k = some u → t.troupe k = some u

theorem KeepsTroupes.refl (s : State) : KeepsTroupes s s := ⟨rfl, rfl, fun _ _ h => h⟩

theorem KeepsTroupes.trans {a b c : State} (h1 : KeepsTroupes a b) (h2 : KeepsTroupes b c) : KeepsTroupes a c := by
  obtain ⟨mem1, worlds1, kept1⟩ := h1
  obtain ⟨mem2, worlds2, kept2⟩ := h2
  exact ⟨mem2.trans mem1, worlds2.trans worlds1, fun k u found => kept2 k u (kept1 k u found)⟩

theorem KeepsTroupes.of_placeOn (s : State) (n core : Nat) : KeepsTroupes s (s.placeOn n core) := by
  cases chosen : s.chooseSlot (s.launch n).world core with
  | none =>
    have same : s.placeOn n core = s := by simp only [State.placeOn, chosen]
    rw [same]
    exact .refl s
  | some slot =>
    obtain ⟨mem, worlds, troupes⟩ := State.placeOn_spec chosen
    obtain ⟨-, -, free⟩ := State.chooseSlot_spec chosen
    refine ⟨mem, worlds, fun k u found => ?_⟩
    have other : keyOf core slot ≠ k := by
      rintro rfl
      rw [free] at found
      cases found
    rw [State.troupe, troupes, Table.find_put, if_neg other]
    exact found

theorem KeepsTroupes.of_placeLaunch (s : State) (n k : Nat) : KeepsTroupes s (s.placeLaunch n k) := by
  induction k generalizing s with
  | zero => exact .refl s
  | succ k ih =>
    rw [State.placeLaunch]
    split
    · exact .refl s
    · split
      · exact .refl s
      · exact (KeepsTroupes.of_placeOn s n _).trans (ih _)

theorem KeepsTroupes.of_placementOpportunity (s : State) :
    KeepsTroupes s (s.placeOrder.foldl (fun s n => s.placeLaunch n 25) s) :=
  List.foldlRecOn _ _ (.refl s) fun t keeps n _ => keeps.trans (.of_placeLaunch t n 25)

/-- The only launch places its next troupe in the slot that is chosen on the core that is chosen. -/
theorem placementOpportunity_of_only {s : State} {n c slot : Nat} {l : Launch} (only : s.launches = [(n, l)])
    (more : l.allPlaced = false) (written : s.recordPending n = false) (core : s.chooseCore n l = some c)
    (chosen : s.chooseSlot l.world c = some slot) :
    ∃ t, exec .placementOpportunity s = .next t ∧ t.troupe (keyOf c slot) = some (s.newTroupe n c slot) := by
  have launch : s.launch n = l := by simp [State.launch, only, Table.get, Table.find]
  have order : s.placeOrder = [n] := by
    rw [State.placeOrder, only]
    rfl
  have first : s.placeLaunch n 25 = (s.placeOn n c).placeLaunch n 24 := by
    rw [State.placeLaunch]
    simp only [launch, more, written, core, Bool.false_eq_true, or_self, if_false]
  obtain ⟨-, -, troupes⟩ := State.placeOn_spec (launch ▸ chosen)
  have there : (s.placeOn n c).troupe (keyOf c slot) = some (s.newTroupe n c slot) := by
    rw [State.troupe, troupes, Table.find_put, if_pos rfl]
  obtain ⟨-, -, kept⟩ := KeepsTroupes.of_placeLaunch (s.placeOn n c) n 24
  refine ⟨s.placeLaunch n 25, ?_, ?_⟩
  · show execPlacementOpportunity s = _
    rw [execPlacementOpportunity, order]
    rfl
  · rw [first]
    exact kept _ _ there

/-! ### A troupe that starts (R83) -/

theorem Troupe.sreg_blank (r : Nat) : Troupe.blank.sreg r = 0 := by
  unfold Troupe.sreg
  split
  · exact List.getElem_replicate _
  · rfl

theorem Troupe.preg_blank (r : Nat) : Troupe.blank.preg r = 0 := by
  unfold Troupe.preg
  split
  · exact List.getElem_replicate _
  · rfl

theorem Troupe.vreg_blank (r : Nat) : Troupe.blank.vreg r = Lanes.zero := by
  unfold Troupe.vreg
  split
  · exact List.getElem_replicate _
  · rfl

/-- A troupe starts at its launch's entry, with its lanes live and its registers zero but for s[0] (R72, R83, R205). -/
theorem State.newTroupe_spec (s : State) (n c slot : Nat) :
    let l := s.launch n
    let u := s.newTroupe n c slot
    u.world = l.world ∧ u.launch = n ∧ u.tid = l.nextTid ∧ u.core = c ∧ u.tslot = slot ∧
      u.blocks = (s.freeBlocks l.world c).take l.blocks ∧ u.pc = BitVec.ofNat 32 (fld (l.word 1) 31 0) ∧ u.pts = l.floor ∧
      (∀ i, i < 128 → inMask u.live i = decide (128 * l.nextTid + i < l.threads)) ∧ u.exec = u.live ∧
      u.sreg 0 = l.word 10 ∧ (∀ r, r ≠ 0 → u.sreg r = 0) ∧ (∀ r i, (u.vreg r).lane i = 0) ∧ (∀ r, u.preg r = 0) ∧ u.f = 0 := by
  intro l u
  have lanes (i : Nat) (h : i < 128) : inMask (liveLanes l.threads l.nextTid) i = decide (128 * l.nextTid + i < l.threads) := by
    rw [liveLanes, inMask_maskOf, decide_eq_true h, Bool.true_and]
  have scalar (r : Nat) : u.sreg r = if 0 = r then l.word 10 else 0 := by
    refine (Troupe.sreg_setS _ 0 r (l.word 10)).trans ?_
    by_cases first : 0 = r
    · rw [if_pos ⟨first, by decide⟩, if_pos first]
    · rw [if_neg fun h => first h.1, if_neg first]
      exact Troupe.sreg_blank r
  have vector (r i : Nat) : (u.vreg r).lane i = 0 := (congrArg (Lanes.lane · i) (Troupe.vreg_blank r)).trans (Lanes.lane_zero i)
  exact ⟨rfl, rfl, rfl, rfl, rfl, rfl, rfl, rfl, lanes, rfl, by rw [scalar, if_pos rfl], fun r other => by rw [scalar, if_neg (Ne.symm other)],
    vector, Troupe.preg_blank, rfl⟩

/-- What room the placer has, and that the world is not Halted (R77, R321). -/
theorem State.placerOpen_room {s : State} {w : Nat} (room : s.placerOpen w = true) : s.launches.length < 4096 := by
  simp only [State.placerOpen, Bool.and_eq_true, decide_eq_true_eq] at room
  exact room.1

/-- Settles O31: acceptance, rejection and placement, each by its rule above. -/
theorem launchesPlaced : Obligations.LaunchesPlaced := by
  unfold Obligations.LaunchesPlaced
  refine ⟨fun s i p there room => ?_, fun s => ?_, fun s n l c slot only more written core chosen => ?_⟩
  · intro l rest s1 record signal standing packet table
    refine ⟨fun sound => ?_, fun c cause live => ?_⟩
    · have run := launchAcceptance_accepts there room record signal table packet sound
      obtain ⟨n, o, b, small, free, accepted⟩ := State.acceptLaunch_spec (s := s1) (State.placerOpen_room room) record standing
      have frame := s1.entered_frame n (l.acceptedAt s1 o)
      have launches (k : Nat) : ((s1.entered n (l.acceptedAt s1 o)).launches).find k =
          if n = k then some (l.acceptedAt s1 o) else s.launches.find k := by
        rw [State.launches_entered, Table.find_put]
      refine ⟨_, n, l.acceptedAt s1 o, run.trans (congrArg (fun t : State => Host.Outcome.next (t.dropQuestions _)) accepted), small, free, ?_,
        rfl, rfl, rfl, rfl, rfl, Launch.slack_acceptedAt standing s1 o, rfl, fun k other => ?_, ?_, ?_, ?_, fun runtime => ?_⟩
      · exact (launches n).trans (if_pos rfl)
      · exact (launches k).trans (if_neg (Ne.symm other))
      · have := congrArg State.presented frame
        exact this
      · have := congrArg State.troupes frame
        exact this
      · have := congrArg State.mem frame
        exact this
      · exact State.runtime_entered (s := s1) (n := n) (l := l.acceptedAt s1 o) runtime
    · intro m quiet short own
      have run := launchAcceptance_rejects there room record signal table packet cause
      obtain ⟨r, named, frame, -, posted⟩ := State.rejectLaunch_spec (s := s1) (l := l) c record signal live quiet
      refine ⟨_, r, run, ?_, ?_, ?_, ?_, ?_, named⟩
      · have := congrArg State.launches frame
        exact this
      · have := congrArg State.presented frame
        exact this
      · have := congrArg State.troupes frame
        exact this
      · have := congrArg State.mem frame
        exact this
      · rw [if_neg fun foreign => own.elim (· foreign.1) foreign.2] at posted
        exact congrArg Mailbox.entries (posted.trans (if_pos short))
  · obtain ⟨mem, worlds, kept⟩ := KeepsTroupes.of_placementOpportunity s
    exact ⟨_, rfl, mem, worlds, kept⟩
  · obtain ⟨low, owner, free⟩ := State.chooseSlot_spec chosen
    obtain ⟨t, run, placed⟩ := placementOpportunity_of_only only more written core chosen
    have launch : s.launch n = l := by simp [State.launch, only, Table.get, Table.find]
    have starts := s.newTroupe_spec n c slot
    rw [launch] at starts
    exact ⟨low, owner, free, t, _, run, placed, starts⟩

end Machine

end Sys2Proof
end

section
/-! SUPPORT. Troupes that retire, and launch nodes that fire (R73, R96 to R98): what a step of the counting leaves as it
is, and the completion of a launch with its last troupe. -/

namespace Sys2Proof.Machine

/-! ### Launches read back -/

theorem State.find_modLaunch {s : State} {n : Nat} {l : Launch} (f : Launch → Launch) (found : s.launches.find n = some l) (k : Nat) :
    (s.modLaunch n f).launches.find k = if n = k then some (f l) else s.launches.find k := by
  simp only [State.modLaunch, found, Table.find_put]

theorem State.launch_of_find {s : State} {n : Nat} {l : Launch} (found : s.launches.find n = some l) : s.launch n = l := by
  simp [State.launch, Table.get, found]

theorem State.find_of_toPost {s : State} {n : Nat} {x : Nat × Nat} (waits : x ∈ (s.launch n).toPost) :
    s.launches.find n = some (s.launch n) := by
  cases found : s.launches.find n with
  | none => simp [State.launch, Table.get, found, Launch.blank] at waits
  | some l => rw [State.launch_of_find found]

/-! ### Steps of the counting -/

/-- A step of launch n: its nodes may fire, and its record is written if w says so; no troupe, no memory, no other launch,
and no request to the outside differs. -/
def LaunchStep (n : Nat) (w : Launch → Bool) (s t : State) : Prop :=
  t.mem = s.mem ∧ t.troupes = s.troupes ∧ t.ext = s.ext ∧ (∀ k, k ≠ n → t.launches.find k = s.launches.find k) ∧
  ∀ l, s.launches.find n = some l → ∃ fired toPost, (∀ x ∈ l.fired, x ∈ fired) ∧
    t.launches.find n = some { l with fired := fired, toPost := toPost, written := w l }

/-- Nodes of launch n may fire, and that is all. -/
abbrev NodesFire (n : Nat) (s t : State) : Prop := LaunchStep n Launch.written s t

namespace LaunchStep

variable {n : Nat} {s : State}

theorem of_same {t : State} (mem : t.mem = s.mem) (troupes : t.troupes = s.troupes) (ext : t.ext = s.ext)
    (launches : t.launches = s.launches) : NodesFire n s t :=
  ⟨mem, troupes, ext, fun k _ => by rw [launches], fun l found => ⟨l.fired, l.toPost, fun _ h => h, by rw [launches, found]⟩⟩

theorem refl (s : State) : NodesFire n s s := of_same rfl rfl rfl rfl

theorem trans {w : Launch → Bool} {a b c : State} (h1 : LaunchStep n w a b) (h2 : NodesFire n b c) : LaunchStep n w a c := by
  obtain ⟨mem1, troupes1, ext1, others1, own1⟩ := h1
  obtain ⟨mem2, troupes2, ext2, others2, own2⟩ := h2
  refine ⟨mem2.trans mem1, troupes2.trans troupes1, ext2.trans ext1, fun k other => (others2 k other).trans (others1 k other),
    fun l found => ?_⟩
  obtain ⟨_, _, kept1, found1⟩ := own1 l found
  obtain ⟨fired, toPost, kept2, found2⟩ := own2 _ found1
  exact ⟨fired, toPost, fun x h => kept2 x (kept1 x h), found2⟩

theorem of_modLaunch (fired toPost : Launch → List (Nat × Nat)) (w : Launch → Bool) (kept : ∀ l, ∀ x ∈ l.fired, x ∈ fired l) :
    LaunchStep n w s (s.modLaunch n fun l => { l with fired := fired l, toPost := toPost l, written := w l }) := by
  refine ⟨by simp, by simp, by simp, fun k other => ?_, fun l found => ⟨fired l, toPost l, kept l, ?_⟩⟩
  · unfold State.modLaunch
    split
    · rfl
    · exact (Table.find_put _ _ _ _).trans (if_neg (Ne.symm other))
  · rw [State.find_modLaunch _ found, if_pos rfl]

theorem of_fireNode (s : State) (n level node : Nat) : NodesFire n s (s.fireNode n level node) := by
  unfold State.fireNode
  dsimp only
  split
  · exact refl s
  · exact (of_modLaunch (fun l => l.fired ++ [(level, node)]) (fun l => l.toPost ++ [(level, node)]) Launch.written
      fun l x h => List.mem_append_left _ h).trans (of_same rfl rfl rfl rfl)

theorem of_fireZero (s : State) (n : Nat) (nodes : List (Nat × Nat)) : NodesFire n s (s.fireZero n nodes) := by
  unfold State.fireZero
  split
  · exact refl s
  · refine List.foldlRecOn nodes _ (refl s) fun t step x _ => ?_
    split
    · exact step.trans (of_fireNode t n _ _)
    · exact step

/-- What the step leaves of launch n. -/
theorem own {t : State} {w : Launch → Bool} (step : LaunchStep n w s t) {l : Launch} (found : s.launches.find n = some l) :
    ∃ fired toPost, (∀ x ∈ l.fired, x ∈ fired) ∧
      t.launches.find n = some { l with fired := fired, toPost := toPost, written := w l } := by
  obtain ⟨-, -, -, -, own⟩ := step
  exact own l found

theorem recordPending {t : State} {w : Launch → Bool} (step : LaunchStep n w s t) (k : Nat) :
    t.recordPending k = s.recordPending k := by
  obtain ⟨-, -, ext, -⟩ := step
  rw [State.recordPending, ext, ← State.recordPending]

end LaunchStep

/-! ### The end of a launch (R96, R97) -/

theorem State.launchGone_eq (s : State) (packet : Option (Nat × Nat)) (n : Nat) :
    ∃ q b, s.launchGone packet n = { s with queues := q, book := b } := by
  unfold State.launchGone
  split
  · exact ⟨s.queues, s.book, rfl⟩
  · unfold State.raisePacket
    split
    · exact ⟨_, s.book, rfl⟩
    · exact ⟨_, _, rfl⟩

/-- The launch node has fired. -/
theorem State.fired_fireNode {s : State} {n : Nat} {l : Launch} (found : s.launches.find n = some l) (level node : Nat) :
    (level, node) ∈ ((s.fireNode n level node).launch n).fired := by
  unfold State.fireNode
  dsimp only
  split
  · next already => simpa using already
  · have after := (State.find_modLaunch (fun l => { l with fired := l.fired ++ [(level, node)], toPost := l.toPost ++ [(level, node)] })
      found n).trans (if_pos rfl)
    show _ ∈ ((s.modLaunch n _).launch n).fired
    rw [State.launch_of_find after]
    exact List.mem_append_right l.fired (List.mem_singleton_self _)

/-- A launch whose record is written ends: its node has fired, whatever the packet does that presented it. -/
theorem State.endLaunch_spec {s : State} {n : Nat} {l : Launch} (found : s.launches.find n = some l) (written : l.written = true)
    (stands : s.recordPending n = false) : NodesFire n s (s.endLaunch n) ∧ (3, 0) ∈ ((s.endLaunch n).launch n).fired := by
  have launch := State.launch_of_find found
  unfold State.endLaunch
  dsimp only
  split
  · next waits =>
    simp only [launch, written, stands, Bool.not_true, Bool.false_eq_true, false_or, or_false] at waits
    exact ⟨.refl s, by rw [launch]; simpa using waits⟩
  · generalize gone : State.launchGone _ (s.launch n).packet n = a
    obtain ⟨q, b, eq⟩ := State.launchGone_eq (s.modWorld (s.launch n).world fun w => { w with runtime := if w.runtime = some n then none else w.runtime })
      (s.launch n).packet n
    have whole := gone.symm.trans eq
    have same : a.launches = s.launches := by rw [whole]; rfl
    have step : NodesFire n s a := .of_same (by rw [whole]; rfl) (by rw [whole]; rfl) (by rw [whole]; rfl) same
    exact ⟨step.trans (.of_fireNode a n 3 0), State.fired_fireNode (same ▸ found) 3 0⟩

/-- Where no record is to be written, the launch node fires once no troupe is left (R96, R97). -/
theorem State.completeLaunch_spec {s : State} {n : Nat} {l : Launch} (found : s.launches.find n = some l) (fresh : l.written = false)
    (none : l.result = 0) (stands : s.recordPending n = false) :
    ∃ w, LaunchStep n w s (s.completeLaunch n) ∧ (l.alive = 0 → (3, 0) ∈ ((s.completeLaunch n).launch n).fired) := by
  have launch := State.launch_of_find found
  unfold State.completeLaunch
  dsimp only
  rw [launch]
  by_cases left : l.alive = 0
  · rw [if_neg (by simp [left, fresh])]
    have step : LaunchStep n (fun _ => true) s (s.modLaunch n fun l => { l with written := true }) :=
      .of_modLaunch Launch.fired Launch.toPost (fun _ => true) fun _ _ h => h
    have after := (State.find_modLaunch (fun l => { l with written := true }) found n).trans (if_pos rfl)
    rw [State.writeResult_of_no_record _ (by rw [State.launch_of_find after]; exact none)]
    obtain ⟨ends, fires⟩ := State.endLaunch_spec after rfl ((step.recordPending n).trans stands)
    exact ⟨_, step.trans ends, fun _ => fires⟩
  · rw [if_pos (.inl left)]
    exact ⟨_, .refl s, fun gone => absurd gone left⟩

/-- A troupe more is counted: the counts and the nodes of its launch, and with the last one the launch node. -/
theorem State.retireCount_spec {s : State} {n : Nat} {l : Launch} (core : Nat) (found : s.launches.find n = some l)
    (fresh : l.written = false) (none : l.result = 0) (stands : s.recordPending n = false) :
    let t := s.retireCount n core
    t.mem = s.mem ∧ t.troupes = s.troupes ∧ (∀ k, k ≠ n → t.launches.find k = s.launches.find k) ∧
      (t.launch n).retired = l.retired ∧ (t.launch n).alive = l.alive - 1 ∧ (t.launch n).faulted = l.faulted ∧
      (l.alive = 1 → (3, 0) ∈ (t.launch n).fired) := by
  intro t
  generalize counted : (s.modLaunch n fun l =>
    { l with alive := l.alive - 1, coreCount := l.coreCount.put core (l.coreCount.get core 0 - 1) }) = a
  generalize zeros : a.fireZero n [(0, core), (1, clusterOf core), (2, dieOf core)] = b
  have whole : t = b.completeLaunch n := by subst zeros counted; rfl
  have launches (k : Nat) : a.launches.find k = _ := counted ▸ State.find_modLaunch _ found k
  obtain ⟨firedB, toPostB, -, foundB⟩ := (zeros ▸ LaunchStep.of_fireZero a n _ : NodesFire n a b).own ((launches n).trans (if_pos rfl))
  obtain ⟨memB, troupesB, extB, othersB, -⟩ := (zeros ▸ LaunchStep.of_fireZero a n _ : NodesFire n a b)
  obtain ⟨w, step, fires⟩ := State.completeLaunch_spec foundB fresh none (by
    rw [State.recordPending, extB, ← counted, State.modLaunch_ext, ← State.recordPending, stands])
  obtain ⟨firedT, toPostT, -, foundT⟩ := step.own foundB
  obtain ⟨memT, troupesT, -, othersT, -⟩ := step
  have last := State.launch_of_find foundT
  rw [← whole] at last memT troupesT othersT fires
  refine ⟨memT.trans (memB.trans ?_), troupesT.trans (troupesB.trans ?_), fun k other => ?_, by rw [last], by rw [last], by rw [last],
    fun one => fires ?_⟩
  · rw [← counted, State.modLaunch_mem]
  · rw [← counted, State.modLaunch_troupes]
  · rw [othersT k other, othersB k other, launches, if_neg (Ne.symm other)]
  · exact congrArg (· - 1) one

/-- The launch of a troupe that has left its slot, with the troupe counted as retired. -/
def Launch.afterRetired (l : Launch) (t : Troupe) : Launch :=
  { l with retired := if t.ctl.stopped then l.retired else l.retired + 1, faulted := l.faulted || t.ctl.resumeRetired }

/-- A troupe that is in no ensemble leaves its slot, and its launch counts it (R73). -/
theorem troupeRetirement_eq {core tslot : Nat} {s : State} {u : Troupe} (found : s.troupe (keyOf core tslot) = some u)
    (exited : u.ctl.exited = true) (done : s.outstanding u = false) (alone : u.ctl.ens = []) :
    exec (.troupeRetirement core tslot) s = .next (((({ s.dropHold core tslot with troupes := s.troupes.del u.key } : State).modLaunch
      u.launch fun l => l.afterRetired u).retireCount u.launch core).opportunity) := by
  show execTroupeRetirement core tslot s = _
  unfold execTroupeRetirement
  simp only [found, exited, done, alone, true_or, not_true, Bool.false_eq_true, or_false, if_false, List.foldl_nil, State.dropHold_troupes]
  rfl

end Sys2Proof.Machine
end

section
/-! SUPPORT. A store by an agent outside the troupes (R223): what the slices, the counters and the packets make of it is
off the memory; the memory itself takes the bytes. -/

namespace Sys2Proof.Machine

/-- The memory and the troupes are as they were. -/
def OffMemory (s t : State) : Prop := t.mem = s.mem ∧ t.troupes = s.troupes

namespace OffMemory

theorem refl (s : State) : OffMemory s s := ⟨rfl, rfl⟩

theorem trans {a b c : State} (h1 : OffMemory a b) (h2 : OffMemory b c) : OffMemory a c :=
  ⟨h2.1.trans h1.1, h2.2.trans h1.2⟩

theorem either {p : Prop} {_ : Decidable p} {s a b : State} (h1 : OffMemory s a) (h2 : OffMemory s b) :
    OffMemory s (if p then a else b) := by
  split
  · exact h1
  · exact h2

/-- Steps off the memory, one for each element of a list. -/
theorem foldl {α : Type} {f : State → α → State} (step : ∀ s x, OffMemory s (f s x)) (xs : List α) (s : State) :
    OffMemory s (xs.foldl f s) :=
  List.foldlRecOn (motive := fun t : State => OffMemory s t) xs f (refl s) fun t h x _ => h.trans (step t x)

theorem count (s : State) (w event core n : Nat) : OffMemory s (s.count w event core n) :=
  ⟨s.count_mem w event core n, by rw [State.count_frame]⟩

theorem modSlice (s : State) (i : Nat) (f : Slice → Slice) : OffMemory s (s.modSlice i f) := ⟨rfl, rfl⟩

theorem freshId (s : State) : OffMemory s s.freshId.2 := ⟨rfl, rfl⟩

theorem wroteLines (s : State) (pa n : Nat) : OffMemory s (s.wroteLines pa n) := by
  unfold State.wroteLines
  split <;> exact ⟨rfl, rfl⟩

theorem evictLine (s : State) (ln : Nat) : OffMemory s (s.evictLine ln) := by
  unfold State.evictLine
  dsimp only
  split
  · exact refl s
  · next l _ =>
    have out := modSlice s (sliceOf (ln * 128)) fun sl => { sl with lines := sl.lines.del ln, floor := max sl.floor l.rts }
    have back (a : State) : OffMemory a (if l.dirty then a.wroteLines (ln * 128) 128 else a) :=
      either (wroteLines _ _ _) (refl a)
    exact either ((out.trans (back _)).trans ⟨rfl, rfl⟩) (out.trans (back _))

theorem makePlace (w ln code n : Nat) (s : State) : OffMemory s (s.makePlace w ln code n).1 := by
  induction n generalizing s with
  | zero => exact refl s
  | succ n ih =>
    unfold State.makePlace
    dsimp only
    split
    · exact refl s
    · split
      · exact refl s
      · exact (foldl evictLine _ s).trans (ih _)

theorem newPlace (s : State) (ln : Nat) (l : L2Line) (code : Nat) : OffMemory s (s.newPlace ln l code).1 := by
  have others (ps : List (Nat × L2Line)) : OffMemory s (ps.foldl (fun s p => s.evictLine p.1) s) :=
    foldl (α := Nat × L2Line) (fun s p => evictLine s p.1) ps s
  unfold State.newPlace
  dsimp only
  split
  · exact refl s
  · split
    · split
      · exact refl s
      · split
        · exact others _
        · exact makePlace _ _ _ _ s
    · exact makePlace _ _ _ _ s

theorem install (s : State) (w core ln : Nat) (stream dirty : Bool) (back : List Byte) (pinned : Option Nat) (wts rts : Nat) :
    OffMemory s (s.install w core ln stream dirty back pinned wts rts) := by
  unfold State.install
  dsimp only
  generalize placed : (if stream = true ∨ (s.world w).limits.dways.get (sliceOf (ln * 128)) 0 = 0 then _ else _ :
    State × Option (Option Nat)) = a
  have place : OffMemory s a.1 := by
    subst placed
    split
    · exact refl s
    · exact makePlace _ _ _ _ s
  split
  · exact (place.trans (either (wroteLines _ _ _) (refl _))).trans (modSlice _ _ _)
  · exact ((place.trans (freshId _)).trans (either (count _ _ _ _ _) (refl _))).trans (modSlice _ _ _)

theorem recode (s : State) (ln : Nat) (l : L2Line) (code : Nat) : OffMemory s (s.recode ln l code) := by
  unfold State.recode
  dsimp only
  generalize placed : State.newPlace _ ln l code = a
  have place : OffMemory s a.1 := placed ▸ (modSlice s _ _).trans (newPlace _ ln l code)
  split
  · exact place.trans (modSlice _ _ _)
  · split
    · exact place.trans (modSlice _ _ _)
    · exact (place.trans (modSlice _ _ _)).trans (evictLine _ _)

theorem countFabric (s : State) (core : Nat) : OffMemory s (s.countFabric core) := by
  have free (s : State) (event c : Nat) : OffMemory s (s.freeNat.2.count 0 event c s.freeNat.1) :=
    trans (b := s.freeNat.2) ⟨rfl, rfl⟩ (count _ _ _ _ _)
  unfold State.countFabric
  dsimp only
  refine either ?_ (refl s)
  exact trans (either (free s _ _) (refl s)) (either (free _ _ _) (refl _))

theorem reachLine (s : State) (w core ln : Nat) (na : Bool) (wrote : Option (List Byte)) (wts rts : Nat) :
    OffMemory s (s.reachLine w core ln na wrote wts rts) := by
  unfold State.reachLine
  dsimp only
  generalize counted : (State.countFabric _ core).noteTs rts = a
  have reach : OffMemory s a := counted ▸ ((count s w 8 core 1).trans (countFabric _ core)).trans ⟨rfl, rfl⟩
  split
  · exact (reach.trans (count _ _ _ _ _)).trans (install _ _ _ _ _ _ _ _ _ _)
  · have named := reach.trans (freshId a)
    split
    · exact named.trans (modSlice _ _ _)
    · split
      · exact named.trans (modSlice _ _ _)
      · exact named.trans (recode _ _ _ _)

theorem pokeBarriers (s : State) (lns : List Nat) : OffMemory s (s.pokeBarriers lns) := by
  unfold State.pokeBarriers
  refine foldl (fun t q => foldl (fun u p => ?_) _ t) _ s
  split
  · exact refl u
  · split <;> exact ⟨rfl, rfl⟩

end OffMemory

/-- A store of one lane writes its bytes to memory (R204). -/
theorem State.storeAt_one (s : State) (w core pts : Nat) (o : LaneOp) (bs : List Byte) :
    OffMemory (s.memWrite o.pa bs) (s.storeAt w core pts [(o, bs)]).1 := by
  unfold State.storeAt
  exact (OffMemory.foldl (fun s _ => OffMemory.reachLine s _ _ _ _ _ _ _) _ _).trans (OffMemory.pokeBarriers _ _)

/-- Bytes within one line are stored at once (R223). -/
theorem State.storeBytes_spec (s : State) {pa : Nat} {bs : List Byte} (some : bs ≠ []) (fits : pa % 128 + bs.length ≤ 128) :
    OffMemory (s.memWrite pa bs) (s.storeBytes pa bs) := by
  have long : 0 < bs.length := List.length_pos_iff.2 some
  have whole : min bs.length (128 - pa % 128) = bs.length := by omega
  have one := s.storeAt_one (s.frameOwner pa) 255 s.maxTs { lane := 0, va := 0, pa := pa } bs
  unfold State.storeBytes State.storeFrom
  rw [State.storeFrom.go]
  dsimp only
  rw [whole, if_neg (by omega), List.take_length, List.drop_length, State.storeFrom.go]
  dsimp only
  rw [if_pos (by simp)]
  exact one

theorem wordBytes_length (x : W64) : (wordBytes x).length = 8 := rfl

/-- A signal of module memory is stepped down in place, and nothing else in memory changes (R98). -/
theorem State.stepDown_spec {s : State} {w va pa : Nat} (launch : Option Nat) (at_ : s.feTranslate w va 8 true true false = .ok pa)
    (here : inModule pa = true) (aligned : pa % 8 = 0) (wf : s.mem.wf = true) :
    let t := s.addSignal w va ones64 launch
    t.troupes = s.troupes ∧ t.mem.read pa 8 = wordBytes (s.memWord pa - 1) ∧
      ∀ x, (x < pa ∨ pa + 8 ≤ x) → t.mem.byte x = s.mem.byte x := by
  have down : s.memWord pa + ones64 = s.memWord pa - 1 := by
    rw [ones64, show BitVec.allOnes 64 = (-1 : W64) from rfl, ← BitVec.sub_eq_add_neg]
  have stored : s.addSignal w va ones64 launch = s.storeBytes pa (wordBytes (s.memWord pa - 1)) := by
    simp only [State.addSignal, at_, here, if_true, down]
  generalize kept : wordBytes (s.memWord pa - 1) = bs at stored
  have eight : bs.length = 8 := kept ▸ wordBytes_length _
  obtain ⟨mem, troupes⟩ := s.storeBytes_spec (pa := pa) (bs := bs) (by rintro rfl; simp at eight) (by omega)
  intro t
  rw [← stored] at mem troupes
  have mem : t.mem = s.mem.write pa bs := mem
  refine ⟨troupes, ?_, fun x out => ?_⟩
  · rw [mem, ← eight, Bytes.read_write wf]
  · rw [mem, Bytes.byte_write wf, if_neg (by omega)]

end Sys2Proof.Machine
end

section
/-! Retirement and the events of launch nodes (R73, R96 to R98). -/

namespace Sys2Proof.Machine

/-- The event of a launch node that EVENTS selects, by its bit (R97). -/
def Launch.selects (l : Launch) (level b : Nat) : Bool := l.events / 2 ^ (3 * level + b) % 2 == 1

/-- A node of a launch waits no longer to post its events. -/
def State.posted (s : State) (n : Nat) (x : Nat × Nat) : State :=
  s.modLaunch n fun l => { l with toPost := l.toPost.filter (· != x) }

theorem State.launch_posted {s : State} {n : Nat} {x : Nat × Nat} (waits : x ∈ (s.launch n).toPost) :
    (s.posted n x).launch n = { s.launch n with toPost := (s.launch n).toPost.filter (· != x) } :=
  State.launch_of_find ((State.find_modLaunch _ (State.find_of_toPost waits) n).trans (if_pos rfl))

theorem State.posted_eq {s : State} {n : Nat} {x : Nat × Nat} (waits : x ∈ (s.launch n).toPost) :
    ∃ ls, s.posted n x = { s with launches := ls } :=
  ⟨_, by unfold State.posted State.modLaunch; simp only [State.find_of_toPost waits]; rfl⟩

/-- A vector that no mask holds back is sent (R434). -/
theorem State.irq_spec {s : State} {n : Nat} (v : Nat) (present : s.fnPresent n = true) :
    let t := s.irq n v
    { t with fns := s.fns, out := s.out } = s ∧ (t.fn n).irqStatus = (s.fn n).irqStatus ||| 1#8 <<< v ∧
      ((s.fn n).irqMask.getLsbD v = false → t.out = s.out ++ [.irq n v]) := by
  intro t
  have whole : t = s.irq n v := rfl
  simp only [State.irq, present, Bool.not_true, Bool.false_eq_true, if_false, State.fn_modFn_same] at whole
  generalize raised : s.modFn n _ = a at whole
  have status : (a.fn n).irqStatus = (s.fn n).irqStatus ||| 1#8 <<< v := by rw [← raised, State.fn_modFn_same]
  have frame : { a with fns := s.fns, out := s.out } = s := by rw [← raised]; rfl
  have out : a.out = s.out := by rw [← raised]; rfl
  rw [whole]
  split
  · next masked => exact ⟨frame, status, fun opened => absurd masked (by simp [opened])⟩
  · exact ⟨frame, status, fun _ => by rw [← out]⟩

/-! ### Events of a node, each alone -/

/-- A launch whose last node has posted its events is forgotten (R97). -/
def State.forgets (s : State) (n : Nat) : State :=
  let l := s.launch n
  if l.alive = 0 ∧ l.toPost.isEmpty ∧ l.fired.contains (3, 0) then { s with launches := s.launches.del n } else s

theorem State.forgets_of_alive {s : State} {n : Nat} (left : (s.launch n).alive ≠ 0) : s.forgets n = s :=
  if_neg fun h => left h.1

theorem State.forgets_mem (s : State) (n : Nat) : (s.forgets n).mem = s.mem ∧ (s.forgets n).troupes = s.troupes := by
  unfold State.forgets
  dsimp only
  split <;> exact ⟨rfl, rfl⟩

section
variable {n i : Nat} {s : State} (waits : (i / 256, i % 256) ∈ (s.launch n).toPost)
include waits

theorem nodeEventPost_mail (mail : (s.launch n).selects (i / 256) 0 = true) (signal : (s.launch n).selects (i / 256) 1 = false)
    (irq : (s.launch n).selects (i / 256) 2 = false)
    (own : (s.mailbox (fld ((s.launch n).word 13) 25 16)).owner = (s.launch n).world) :
    exec (.nodeEventPost n i) s = .next (((s.posted n (i / 256, i % 256)).mbxPut (fld ((s.launch n).word 13) 25 16)
      [w64 (3 + i / 256 * 2 ^ 8 + (s.launch n).world * 2 ^ 16 + n * 2 ^ 32), w64 (i % 256), w64 s.alm, 0, 0, 0, 0, 0]).forgets n) := by
  unfold Launch.selects at mail signal irq
  have owned : ((s.posted n (i / 256, i % 256)).mailbox (fld ((s.launch n).word 13) 25 16)).owner = (s.launch n).world := by
    rw [State.mailbox, State.posted, State.modLaunch_mbx, ← State.mailbox, own]
  have alm : (s.posted n (i / 256, i % 256)).alm = s.alm := by rw [State.posted, State.modLaunch_alm]
  show execNodeEventPost n i s = _
  unfold execNodeEventPost
  dsimp only
  rw [← State.posted, if_neg (by simpa using waits)]
  simp only [mail, signal, irq, owned, alm, Bool.not_true, Bool.false_eq_true, false_and, if_false, if_true]
  rfl

theorem nodeEventPost_signal (mail : (s.launch n).selects (i / 256) 0 = false) (signal : (s.launch n).selects (i / 256) 1 = true)
    (irq : (s.launch n).selects (i / 256) 2 = false) (signals : (s.launch n).signal ≠ 0) :
    exec (.nodeEventPost n i) s = .next (((s.posted n (i / 256, i % 256)).addSignal (s.launch n).world (s.launch n).signal ones64
      (some n)).forgets n) := by
  unfold Launch.selects at mail signal irq
  show execNodeEventPost n i s = _
  unfold execNodeEventPost
  dsimp only
  rw [← State.posted, if_neg (by simpa using waits)]
  simp only [mail, signal, irq, signals, Bool.not_false, Bool.false_eq_true, and_true, if_false, if_true, not_false_eq_true, ne_eq]
  rfl

theorem nodeEventPost_irq (mail : (s.launch n).selects (i / 256) 0 = false) (signal : (s.launch n).selects (i / 256) 1 = false)
    (irq : (s.launch n).selects (i / 256) 2 = true) :
    exec (.nodeEventPost n i) s = .next (((s.posted n (i / 256, i % 256)).irq (s.launch n).world 0).forgets n) := by
  unfold Launch.selects at mail signal irq
  show execNodeEventPost n i s = _
  unfold execNodeEventPost
  dsimp only
  rw [← State.posted, if_neg (by simpa using waits)]
  simp only [mail, signal, irq, Bool.not_false, Bool.false_eq_true, false_and, if_false, if_true]
  rfl

end

theorem Launch.selects_iff (l : Launch) (level b : Nat) : l.selects level b = true ↔ l.events / 2 ^ (3 * level + b) % 2 = 1 :=
  beq_iff_eq

theorem Launch.selects_false_iff (l : Launch) (level b : Nat) :
    l.selects level b = false ↔ ¬ l.events / 2 ^ (3 * level + b) % 2 = 1 := by
  rw [← l.selects_iff, Bool.not_eq_true]

/-- A node of a launch with troupes left does not end it: what is done for it stands. -/
theorem State.forgets_of_posted {s t : State} {n : Nat} {x : Nat × Nat} (waits : x ∈ (s.launch n).toPost)
    (left : (s.launch n).alive ≠ 0) (same : t.launches = (s.posted n x).launches) :
    t.forgets n = t ∧ (t.launch n).toPost = (s.launch n).toPost.filter (· != x) := by
  have launch : t.launch n = { s.launch n with toPost := (s.launch n).toPost.filter (· != x) } := by
    rw [State.launch, same, ← State.launch, State.launch_posted waits]
  exact ⟨State.forgets_of_alive (by rw [launch]; exact left), by rw [launch]⟩

/-- The retirement of a troupe that is in no ensemble, with the counts of its launch (R73, R96). -/
theorem troupeRetirement_spec {core tslot : Nat} {s : State} {u : Troupe} (found : s.troupe (keyOf core tslot) = some u)
    (key : u.key = keyOf core tslot) (exited : u.ctl.exited = true) (kept : u.ctl.stopped = false) (done : s.outstanding u = false)
    (alone : u.ctl.ens = []) (none : (s.launch u.launch).result = 0) (known : (s.launches.find u.launch).isSome = true)
    (stands : s.recordPending u.launch = false) (fresh : (s.launch u.launch).written = false) :
    ∃ t, exec (.troupeRetirement core tslot) s = .next t ∧ t.mem = s.mem ∧ t.troupe (keyOf core tslot) = .none ∧
      (∀ k, k ≠ keyOf core tslot → t.troupe k = s.troupe k) ∧
      (t.launch u.launch).retired = (s.launch u.launch).retired + 1 ∧ (t.launch u.launch).alive = (s.launch u.launch).alive - 1 ∧
      (t.launch u.launch).faulted = ((s.launch u.launch).faulted || u.ctl.resumeRetired) ∧
      ((s.launch u.launch).alive = 1 → (3, 0) ∈ (t.launch u.launch).fired) ∧
      ∀ n, n ≠ u.launch → t.launches.find n = s.launches.find n := by
  obtain ⟨l, foundL⟩ := Option.isSome_iff_exists.1 known
  have launch := State.launch_of_find foundL
  rw [launch] at none fresh ⊢
  have launches : ({ s.dropHold core tslot with troupes := s.troupes.del u.key } : State).launches = s.launches := by simp
  have own := State.find_modLaunch (fun l => l.afterRetired u) ((congrArg (·.find u.launch) launches).trans foundL)
  refine ⟨_, troupeRetirement_eq found exited done alone, ?_⟩
  generalize left : (State.modLaunch _ u.launch fun l => l.afterRetired u) = a
  rw [left] at own
  have mem : a.mem = s.mem := by rw [← left]; simp
  have troupes : a.troupes = s.troupes.del u.key := by rw [← left]; simp
  have ext : a.ext = s.ext := by rw [← left]; simp
  obtain ⟨mem', troupes', others, retired, alive, faulted, fires⟩ := State.retireCount_spec core ((own _).trans (if_pos rfl))
    fresh none (by rw [State.recordPending, ext, ← State.recordPending, stands])
  obtain ⟨b, opened⟩ := (a.retireCount u.launch core).opportunity_eq
  rw [opened]
  have slots (k : Nat) : (a.retireCount u.launch core).troupe k = if keyOf core tslot = k then .none else s.troupe k := by
    rw [State.troupe, troupes', troupes, Table.find_del, key]
    rfl
  refine ⟨mem'.trans mem, (slots _).trans (if_pos rfl), fun k other => (slots k).trans (if_neg (Ne.symm other)),
    retired.trans (by simp [Launch.afterRetired, kept]), alive, faulted, fires, fun n other => ?_⟩
  exact (others n other).trans ((own n).trans ((if_neg (Ne.symm other)).trans (congrArg (·.find n) launches)))

/-- Settles O32: the slot is freed and the launch counts what left it; the last troupe fires the launch node. A node's
events are the mailbox entry, the step of the signal, a store off which nothing of the memory moves, and the vector. -/
theorem retirementAndEvents : Obligations.RetirementAndEvents := by
  unfold Obligations.RetirementAndEvents
  refine ⟨fun core tslot s u found key exited kept done alone none known stands fresh =>
    troupeRetirement_spec found key exited kept done alone none known stands fresh, fun n i s => ?_⟩
  intro l level node m sel waits left
  obtain ⟨ls, posted⟩ := State.posted_eq waits
  refine ⟨fun mail signal irq own quiet room => ?_, fun mail signal irq signals wf pa at_ here aligned => ?_,
    fun mail signal irq present => ?_⟩
  · generalize entry : [w64 (3 + i / 256 * 2 ^ 8 + (s.launch n).world * 2 ^ 16 + n * 2 ^ 32), w64 (i % 256), w64 s.alm, 0, 0, 0, 0, 0] = e
    have run := nodeEventPost_mail waits ((l.selects_iff _ _).2 mail) ((l.selects_false_iff _ _).2 signal)
      ((l.selects_false_iff _ _).2 irq) own
    have boxes : (s.posted n (level, node)).mbx = s.mbx := by rw [State.posted, State.modLaunch_mbx]
    have box (k : Nat) : (s.posted n (level, node)).mailbox k = s.mailbox k := congrArg (fun t : Table Mailbox => t.get k {}) boxes
    rw [entry, State.mbxPut_unarmed e (by rw [box]; exact quiet)] at run
    obtain ⟨stands, toPost⟩ := State.forgets_of_posted (t := (s.posted n (level, node)).modMailbox m fun x => x.gain e) waits left rfl
    refine ⟨_, run.trans (by rw [stands]), by rw [posted]; rfl, toPost, ?_, fun k other => ?_⟩
    · rw [State.mailbox_modMailbox, if_pos rfl, box, Mailbox.gain, if_pos room, ← entry]
    · rw [State.mailbox_modMailbox, if_neg (Ne.symm other), box]
  · have run := nodeEventPost_signal waits ((l.selects_false_iff _ _).2 mail) ((l.selects_iff _ _).2 signal)
      ((l.selects_false_iff _ _).2 irq) signals
    rw [posted] at run
    obtain ⟨troupes, stepped, rest⟩ := State.stepDown_spec (s := { s with launches := ls }) (some n) at_ here aligned wf
    obtain ⟨mem', troupes'⟩ := State.forgets_mem (State.addSignal { s with launches := ls } l.world l.signal ones64 (some n)) n
    exact ⟨_, run, troupes'.trans troupes, by rw [mem']; exact stepped, fun x out => by rw [mem']; exact rest x out⟩
  · have run := nodeEventPost_irq waits ((l.selects_false_iff _ _).2 mail) ((l.selects_false_iff _ _).2 signal)
      ((l.selects_iff _ _).2 irq)
    rw [posted] at run
    obtain ⟨frame, status, sent⟩ := State.irq_spec (s := { s with launches := ls }) 0 present
    have launches : (State.irq { s with launches := ls } l.world 0).launches = ls := by
      have := congrArg State.launches frame
      exact this
    obtain ⟨stands, -⟩ := State.forgets_of_posted (t := State.irq { s with launches := ls } l.world 0) waits left
      (launches.trans (by rw [posted]))
    refine ⟨_, run.trans (by rw [stands]), ?_, status, sent⟩
    have := congrArg (fun x : State => { x with launches := s.launches }) frame
    exact this

end Sys2Proof.Machine
end

section
/-! SUPPORT. Shared units of a core (R85): an instruction holds its issue slot until the unit takes it. Copies enter the
copy unit so (R263, R269, R271). -/

namespace Sys2Proof.Machine

open Sys2Proof.Claims

/-! ### Contending for a shared unit -/

/-- Nothing differs but the issuing troupe, which holds its issue slot for unit u (R84, R85). -/
def Contends (s : State) (u : Nat) (t : State) : Prop :=
  { t with troupes := s.troupes, book := s.book } = s ∧ (∀ k, k ≠ s.book.cur → t.troupe k = s.troupe k) ∧
    t.me = { s.src with ctl := { s.src.ctl with stalled := true, since := some (u, s.waitsSince s.src u) } }

theorem State.contend_spec (s : State) (u : Nat) : Gives (s.contend u) (Contends s u) :=
  ⟨_, rfl, rfl, fun k other => State.troupe_setMe (s.modBook fun b => { b with chain := none }) _ k other, State.me_setMe _ _⟩

/-- The unit u of its core has taken the issuing troupe's instruction (R85). -/
def State.taken (s : State) (u : Nat) : State :=
  (s.modCore s.src.core fun c => { c with taken := c.taken.put u s.cycle }).modCtl fun c => { c with since := none }

theorem State.enter_of_may {s : State} {u : Nat} (may : s.mayEnter s.src u = true) (go : State → Res) :
    s.enter u go = go (s.taken u) := if_pos may

theorem State.enter_of_not {s : State} {u : Nat} (may : s.mayEnter s.src u = false) (go : State → Res) :
    s.enter u go = s.contend u := if_neg (by simp [may])

theorem State.taken_me (s : State) (u : Nat) : (s.taken u).me = { s.me with ctl := { s.me.ctl with since := none } } :=
  State.me_setMe _ _

theorem State.taken_troupe (s : State) (u k : Nat) (other : k ≠ s.book.cur) : (s.taken u).troupe k = s.troupe k :=
  State.troupe_setMe (s.modCore s.src.core fun c => { c with taken := c.taken.put u s.cycle }) _ k other

theorem State.taken_core (s : State) (u k : Nat) :
    (s.taken u).core k = { s.core k with taken := if k = s.src.core then (s.core k).taken.put u s.cycle else (s.core k).taken } := by
  refine (State.core_modCore s s.src.core k fun c => { c with taken := c.taken.put u s.cycle }).trans ?_
  by_cases same : s.src.core = k
  · subst same
    rw [if_pos rfl, if_pos rfl]
  · rw [if_neg same, if_neg (Ne.symm same)]

/-! ### The issue of a copy (R263, R269, R271) -/

/-- The reads of an index table at the troupe's logical time, for a gather (R207, R269). -/
def State.readsIndex (s : State) (gather : Bool) (core : Nat) : State × Nat :=
  if gather then s.spadReadTs core s.me.pts else (s, s.me.pts)

/-- Reads of an index table step times, and nothing else. -/
theorem State.readsIndex_spec (s : State) (gather : Bool) (core : Nat) :
    let t := (s.readsIndex gather core).1
    { t with cores := s.cores, maxTs := s.maxTs } = s ∧ ∀ k, { t.core k with srts := (s.core k).srts } = s.core k := by
  cases gather with
  | false => exact ⟨rfl, fun k => rfl⟩
  | true =>
    refine ⟨rfl, fun k => ?_⟩
    generalize later : max (s.core core).srts (max s.me.pts (s.core core).swts) = r
    have cores : (s.readsIndex true core).1.core k = (s.modCore core fun c => { c with srts := r }).core k := later ▸ rfl
    rw [cores, State.core_modCore]
    split
    · next same => rw [same]
    · rfl

/-- The fields of a copy as it is accepted, from the troupe that issues it (R263, R269). -/
def Copy.Accepted (c : Copy) (t : Troupe) (x : CArgs) (gather : Bool) (index : List W32) : Prop :=
  c.src = scalarRec t x.srec.val ∧ c.dst = scalarRec t x.drec.val ∧
  c.uid = t.uid ∧ c.world = t.world ∧ c.launch = t.launch ∧ c.core = t.core ∧ c.gather = gather ∧
  c.bar = (if x.bar.val = 63 then none else some (t.sreg x.bar.val).toNat) ∧
  c.cw = x.cw.map (fun r => (t.sreg r.val, t.sreg (r.val + 1))) ∧
  c.todo = chunksOf (scalarRec t x.srec.val) ∧ c.started = false ∧ c.landed = 0 ∧ c.cause = none ∧
  c.index = index

/-- The index table of a gather (R269). -/
def Core.indexTable (c : Core) (r : Rec) : List W32 :=
  (List.range (recWin r 3)).map fun i => w32 (leNat (c.spadRead (rfld r 11 20 0 + 4 * i) 4))

/-- A copy that passes its checks waits for the copy unit of its core (R263, R271). -/
theorem State.copy_of_kept {s : State} {e : Bool} {x : CArgs} {gather : Bool} (checks : s.copyChecks s.src x gather = none)
    (calm : gather = true → s.src.busyOps = false)
    (room : (s.copies.filter fun c => c.core == s.src.core && c.queue.isNone).length < 16) (may : s.mayEnter s.src 1 = false) :
    s.copy e x gather = s.contend 1 := by
  unfold State.copy
  dsimp only
  rw [checks]
  dsimp only
  rw [if_neg (by cases gather with | false => simp | true => simp [calm rfl]), if_neg (by omega), State.enter_of_not may]

/-- A copy that its core's unit takes joins the copies (R263, R269, R271). -/
theorem State.copy_of_taken {s : State} (e : Bool) {x : CArgs} {gather : Bool} (checks : s.copyChecks s.src x gather = none)
    (calm : gather = true → s.src.busyOps = false)
    (room : (s.copies.filter fun c => c.core == s.src.core && c.queue.isNone).length < 16) (may : s.mayEnter s.src 1 = true)
    {b : State} {p : Nat} (reads : (s.taken 1).readsIndex gather s.src.core = (b, p)) :
    ∃ c, s.copy e x gather = State.done { b.freshId.2 with copies := b.copies ++ [c] } { b.me with pts := p } 2 e ∧
      c.Accepted s.src x gather (if gather then (b.core s.src.core).indexTable (scalarRec s.src x.srec.val) else []) := by
  unfold State.copy
  dsimp only
  rw [checks]
  dsimp only
  rw [if_neg (by cases gather with | false => simp | true => simp [calm rfl]), if_neg (by omega), State.enter_of_may may]
  unfold State.readsIndex at reads
  rw [reads]
  exact ⟨_, rfl, rfl, rfl, rfl, rfl, rfl, rfl, rfl, rfl, rfl, rfl, rfl, rfl, rfl, rfl⟩

/-- Settles O19: the copy unit takes the copy or the troupe waits for it; the copy that joins holds the records of its
scalars, and its index table as it reads at issue. -/
theorem copyIssue : Obligations.CopyIssue := by
  unfold Obligations.CopyIssue
  intro e x s gather checks calm room
  have issue : exec (if gather then .cpyg e x else .cpy e x) s = s.copy e x gather := by
    cases gather <;> rfl
  rw [issue]
  refine ⟨fun may => ?_, fun may => ?_⟩
  · rw [State.copy_of_kept checks calm room may]
    exact s.contend_spec 1
  · obtain ⟨frame, cores⟩ := (s.taken 1).readsIndex_spec gather s.src.core
    cases reads : (s.taken 1).readsIndex gather s.src.core with
    | mk b p =>
      rw [reads] at frame cores
      dsimp only at frame cores
      obtain ⟨c, run, src, dst, uid, world, launch, core, gathers, bar, cw, todo, started, landed, cause, index⟩ :=
        State.copy_of_taken e checks calm room may reads
      have troupes : b.troupes = (s.taken 1).troupes := by
        have := congrArg State.troupes frame
        exact this
      have cur : b.book.cur = s.book.cur := by
        have := congrArg (fun t : State => t.book.cur) frame
        exact this
      have me : b.me = { s.me with ctl := { s.me.ctl with since := none } } := by
        rw [State.me, troupes, cur]
        exact s.taken_me 1
      obtain ⟨t, ends, ⟨only, others⟩, last⟩ := State.done_spec { b.freshId.2 with copies := b.copies ++ [c] } { b.me with pts := p } 2 e
      have cores' (k : Nat) : t.core k = b.core k := by
        have := congrArg (fun u : State => u.core k) only
        exact this
      have spared (k : Nat) : { b.core k with srts := (s.core k).srts, taken := (s.core k).taken } = s.core k := by
        have := congrArg (fun y : Core => { y with srts := (s.core k).srts, taken := (s.core k).taken }) (cores k)
        rw [s.taken_core 1 k] at this
        exact this
      refine ⟨t, c, run.trans ends, ?_, fun k other => ?_, fun k => by rw [cores']; exact spared k, ?_, ?_, src, dst, uid, world,
        launch, core, gathers, bar, cw, todo, started, landed, cause, fun yes => ?_⟩
      · calc { t with troupes := s.troupes, cores := s.cores, copies := s.copies, maxTs := s.maxTs, book := s.book }
            = { b with troupes := s.troupes, cores := s.cores, copies := s.copies, maxTs := s.maxTs, book := s.book } := by
              have := congrArg (fun u : State => { u with
                troupes := s.troupes, cores := s.cores, copies := s.copies, maxTs := s.maxTs, book := s.book }) only
              exact this
          _ = s := by
              have := congrArg (fun u : State => { u with
                troupes := s.troupes, cores := s.cores, copies := s.copies, maxTs := s.maxTs, book := s.book }) frame
              exact this
      · rw [others k (by rw [← cur] at other; exact other)]
        exact (congrArg (fun y : Table Troupe => y.find k) troupes).trans (s.taken_troupe 1 k other)
      · rw [last, me]
        rfl
      · have joined := congrArg State.copies only
        have stood := congrArg State.copies frame
        exact joined.trans (congrArg (· ++ [c]) stood)
      · rw [index, if_pos yes, ← spared s.src.core]
        rfl

end Sys2Proof.Machine
end

section
/-! An echo barrier that a store has marked failed (R257), while a troupe waits on it: the unit's next operation, which
`ebar.arrive` performs (R254, R277), fails that troupe too (R256). -/

namespace Sys2Proof.Machine

open Sys2Proof.Claims

/-- Troupe 1, member of ensemble 0, is to arrive there; its echo barrier is the object at 0 of its core, whose ERROR bit is
set and on which troupe 2 waits. -/
def State.failedEcho : State := { State.reset with
  troupes := [(0, { Troupe.blank with uid := 1, world := 1, live := 1, exec := 1 }),
    (1, { Troupe.blank with uid := 2, world := 1, tslot := 1, live := 1, exec := 1, ctl := { wait := .bar 0 0 0 0 } })]
  cores := [(0, { plotOwner := [(0, 1)], spad := [(3, 2)] })]
  ens := [(0, { owner := 1, allocated := true, members := [1] })] }

/-- The step leaves a halted troupe in slot k. -/
def haltsAt (k : Nat) : Res → Bool
  | .next t => (t.troupe k).any fun u => u.ctl.halted
  | _ => false

/-- The troupe that waits on the failed object is halted by the arrival (R256, R259). -/
theorem State.failedEcho_halts_waiter : haltsAt 1 (exec (.ebarArrive false 9 1 (.reg 1)) .failedEcho) = true := by
  decide +kernel

theorem State.failedEcho_waiter_runs : haltsAt 1 (.next .failedEcho) = false := by decide +kernel

/-- Refutes O18: of `ebar.arrive` no other troupe is to change, but with an echo barrier that has failed (a store may set
ERROR, R257) the unit's operation halts the troupe that waits on it. -/
theorem not_ringAndExchangeIssue : ¬ Obligations.RingAndExchangeIssue := by
  unfold Obligations.RingAndExchangeIssue
  rintro ⟨-, -, -, arrives⟩
  obtain ⟨t, run, -, others, -⟩ := arrives false 9 1 (.reg 1) .failedEcho (by decide +kernel) (by decide +kernel)
    (by decide +kernel) (by decide +kernel) (by decide +kernel) (by decide +kernel) (by decide +kernel) (by decide +kernel)
    (by decide +kernel) (by decide +kernel) (by decide +kernel) (by decide +kernel)
  have halted : haltsAt 1 (.next t) = true := by
    have := State.failedEcho_halts_waiter
    rw [run] at this
    exact this
  have same : t.troupe 1 = State.failedEcho.troupe 1 := others 1 (by decide +kernel)
  have runs := State.failedEcho_waiter_runs
  simp only [haltsAt, same] at halted runs
  rw [halted] at runs
  cases runs

end Sys2Proof.Machine
end

section
/-! SUPPORT. Scalar arithmetic, bit fields and flags (R108 to R110): each instruction is one write, of a value that is
read here as the specification gives it. -/

namespace Sys2Proof.Machine

open Sys2Proof.Claims

/-! ### Instructions that are one write -/

section

variable {i : Instr} {s : State} {len : Nat} {e : Bool}

/-- An instruction that puts the troupe `u` back and goes on. -/
theorem State.done_completes {u : Troupe} (run : exec i s = s.done u len e) {P : Troupe → Prop} (holds : P (behind u len)) :
    Completes i e s P := by
  obtain ⟨t, eq, only, me⟩ := s.done_spec u len e
  exact ⟨t, run.trans eq, only, me ▸ holds⟩

theorem State.scalar_completes {d : Reg} {x : W64} (run : exec i s = s.scalar d x len e) :
    Completes i e s (ScalarWritten s d.val len x) := by
  obtain ⟨t, eq, only, written⟩ := s.scalar_spec d x len e
  exact ⟨t, run.trans eq, only, written⟩

theorem State.compare_completes {f : Fin 8} {x : Bool} (run : exec i s = s.compare f x len e) :
    Completes i e s (FlagWritten s f.val len x) := by
  obtain ⟨t, eq, only, written⟩ := s.compare_spec f x len e
  exact ⟨t, run.trans eq, only, written⟩

theorem State.pair_completes {n : Nat} {m : Mask} (run : exec i s = s.done (s.me.setPair n m) len e) (inRange : n + 1 < 64) :
    Completes i e s (PairWritten s n len m) := by
  obtain ⟨t, eq, only, written⟩ := s.pair_spec n m len e inRange
  exact ⟨t, run.trans eq, only, written⟩

theorem State.advance_completes (run : exec i s = .next (s.advance len e)) : Completes i e s fun u => u = behind s.me len := by
  obtain ⟨t, eq, only, me⟩ := s.advance_spec len e
  exact ⟨t, run.trans (congrArg _ eq), only, me⟩

end

/-- Scalar arithmetic writes one scalar with what its two sources give. -/
theorem computesS_of_scalar {op : Hdr → Reg → Reg → SSrc → Instr} {f : W64 → W64 → W64}
    (run : ∀ h d a b s, exec (op h d a b) s = s.scalar d (f (s.src.sreg a.val) (sval b s.src)) (slen b) h.e) :
    ComputesS op f := fun h d a b s => State.scalar_completes (run h d a b s)

theorem comparesS_of_compare {op : Hdr → Fin 8 → Reg → SSrc → Instr} {f : W64 → W64 → Bool}
    (run : ∀ h i a b s, exec (op h i a b) s = s.compare i (f (s.src.sreg a.val) (sval b s.src)) (slen b) h.e) :
    ComparesS op f := fun h i a b s => State.compare_completes (run h i a b s)

/-! ### Shifts and literals (R108) -/

/-- The low six bits of a shift count (R108). -/
theorem shiftCount (b : W64) : b.toNat % 64 = (b.setWidth 6).toNat := (BitVec.toNat_setWidth 6 b).symm

theorem sshiftRight_eq_div (a : W64) (n : Nat) : a.sshiftRight n = BitVec.ofInt 64 (a.toInt / 2 ^ n) := by
  rw [BitVec.sshiftRight_eq, Int.shiftRight_eq_div_pow]
  simp

theorem append_eq_ofNat (hi lo : W32) : (hi ++ lo : W64) = BitVec.ofNat 64 (hi.toNat * 2 ^ 32 + lo.toNat) := by
  apply BitVec.eq_of_toNat_eq
  have := hi.isLt
  have := lo.isLt
  rw [BitVec.toNat_append, BitVec.toNat_ofNat, ← Nat.shiftLeft_add_eq_or_of_lt lo.isLt, Nat.shiftLeft_eq, Nat.mod_eq_of_lt (by omega)]

/-! ### Bit fields (R109) -/

theorem fieldSpec_eq (b : W64) : fieldSpec b = ((b.setWidth 6).toNat, (b.extractLsb' 8 6).toNat + 1) := by
  simp [fieldSpec, fld, BitVec.extractLsb'_toNat, Nat.shiftRight_eq_div_pow]

/-- The bits of a run of ones at the bottom of a word. -/
theorem getLsbD_ones (width i : Nat) (hi : i < 64) : (BitVec.ofNat 64 (2 ^ width - 1)).getLsbD i = decide (i < width) := by
  rw [BitVec.getLsbD_ofNat, Nat.testBit_two_pow_sub_one]
  simp [hi]

theorem extractField_getLsbD (a b : W64) (i : Nat) (hi : i < 64) : (extractField a b).getLsbD i =
    (decide (i < (b.extractLsb' 8 6).toNat + 1 ∧ (b.setWidth 6).toNat + i ≤ 63) && a.getLsbD ((b.setWidth 6).toNat + i)) := by
  rw [extractField, fieldSpec_eq]
  dsimp only
  rw [BitVec.getLsbD_and, BitVec.getLsbD_ushiftRight, getLsbD_ones _ _ hi]
  generalize (b.setWidth 6).toNat = lo
  generalize (b.extractLsb' 8 6).toNat + 1 = width
  by_cases there : lo + i ≤ 63
  · simp [there, Bool.and_comm]
  · simp [there, BitVec.getLsbD_of_ge a _ (by omega : 64 ≤ lo + i)]

theorem insertField_getLsbD (old a b : W64) (i : Nat) (hi : i < 64) : (insertField old a b).getLsbD i =
    if (b.setWidth 6).toNat ≤ i ∧ i < (b.setWidth 6).toNat + ((b.extractLsb' 8 6).toNat + 1) then
      a.getLsbD (i - (b.setWidth 6).toNat) else old.getLsbD i := by
  rw [insertField, fieldSpec_eq]
  generalize (b.setWidth 6).toNat = lo
  generalize (b.extractLsb' 8 6).toNat + 1 = width
  dsimp only
  simp only [BitVec.getLsbD_or, BitVec.getLsbD_and, BitVec.getLsbD_not, BitVec.getLsbD_shiftLeft, hi, decide_true, Bool.true_and]
  by_cases below : i < lo
  · simp [below]
  · rw [getLsbD_ones width (i - lo) (by omega)]
    by_cases inside : i < lo + width
    · simp [below, inside, Nat.le_of_not_lt below, (by omega : i - lo < width)]
    · have outside : ¬ i - lo < width := by omega
      simp [inside, outside]

/-- Settles O7: each instruction is one write of a scalar. -/
theorem scalarArithmetic : Obligations.ScalarArithmetic := by
  unfold Obligations.ScalarArithmetic
  refine ⟨⟨computesS_of_scalar fun h d a b s => rfl, computesS_of_scalar fun h d a b s => rfl,
    computesS_of_scalar fun h d a b s => rfl, computesS_of_scalar fun h d a b s => rfl,
    computesS_of_scalar fun h d a b s => rfl, computesS_of_scalar fun h d a b s => rfl,
    computesS_of_scalar fun h d a b s => ?_, computesS_of_scalar fun h d a b s => ?_,
    computesS_of_scalar fun h d a b s => ?_, fun h d b s => State.scalar_completes rfl, fun h d lo hi s => ?_⟩,
    fun h d a b s => ⟨⟨_, State.scalar_completes rfl, extractField_getLsbD _ _⟩,
      ⟨_, State.scalar_completes rfl, insertField_getLsbD _ _ _⟩⟩⟩
  · exact congrArg (fun n => s.scalar d (s.src.sreg a.val <<< n) (slen b) h.e) (shiftCount _)
  · exact congrArg (fun n => s.scalar d (s.src.sreg a.val >>> n) (slen b) h.e) (shiftCount _)
  · rw [← shiftCount, ← sshiftRight_eq_div]; rfl
  · exact append_eq_ofNat hi lo ▸ State.scalar_completes rfl

end Sys2Proof.Machine
end

section
/-! SUPPORT. Scalar compares, the logic of predicates and `ballot` (R110, R157, R158), and the mask instructions (R111). -/

namespace Sys2Proof.Machine

open Sys2Proof.Claims

/-! ### Predicates (R157, R158) -/

/-- Logic on predicates writes the lanes of the effective mask, and raises no exception. -/
theorem State.predOp_completes {i : Instr} {s : State} {h : Hdr} {g : Guard} {pd : Pred} {x : Mask} {f : Nat → Bool}
    (run : exec i s = s.predOp h g pd x) (lanes : ∀ l, l < 128 → inMask x l = f l) :
    Completes i h.e s (PredWritten s (s.effective g) pd.val 1 f fun _ => 0) := by
  have frame (y : Mask) : s.me.setP pd.val y = { s.me with p := (s.me.setP pd.val y).p } := Troupe.setP_frame _ _ _
  refine State.done_completes run ⟨?_, fun l hl => ?_, fun r hr => ?_, fun l _ => ?_⟩
  · rw [frame]; rfl
  · show inMask ((s.me.setP pd.val _).preg pd.val) l = _
    rw [Troupe.preg_setP, if_pos ⟨rfl, pd.isLt⟩, inMask_or, inMask_and, inMask_not, inMask_and, lanes l hl]
    by_cases acts : inMask (s.effective g) l = true <;> simp [acts, hl]
  · show (s.me.setP pd.val _).preg r = _
    rw [Troupe.preg_setP, if_neg (by omega)]
  · rw [frame]; simp [behind]

/-- A lane of a mask of `ballot` is set where its predicate is, and nothing is written without a lane (R158). -/
theorem ballot_eq (h : Hdr) (g : Guard) (d : Pair) (pa : Pred) (s : State) : exec (.ballot h g d pa) s =
    if s.effective g = 0 then .next (s.advance 1 h.e)
    else s.done (s.me.setPair (2 * d.val) (s.src.preg pa.val &&& s.effective g)) 1 h.e := rfl

/-- Settles O6: compares are one write of a flag, and logic on predicates one of a predicate. -/
theorem flagsAndPredicates : Obligations.FlagsAndPredicates := by
  unfold Obligations.FlagsAndPredicates
  refine ⟨⟨?_, ?_, ?_, ?_, ?_, ?_⟩, fun h g pd pa pb s => ?_, fun h g pd pa pb s => ?_, fun h g pd pa pb s => ?_,
    fun h g pd pa s => ?_, fun h g d pa s => ⟨fun some => ?_, fun none => ?_⟩⟩
  · exact comparesS_of_compare fun h i a b s => congrArg (s.compare i · _ _) (beq_eq_decide _ _)
  · exact comparesS_of_compare fun h i a b s => congrArg (s.compare i · _ _) (bne_eq_decide_ne _ _)
  · exact comparesS_of_compare fun h i a b s => rfl
  · exact comparesS_of_compare fun h i a b s => rfl
  · exact comparesS_of_compare fun h i a b s => rfl
  · exact comparesS_of_compare fun h i a b s => rfl
  · exact State.predOp_completes rfl fun l _ => inMask_and _ _ l
  · exact State.predOp_completes rfl fun l _ => inMask_or _ _ l
  · exact State.predOp_completes rfl fun l _ => inMask_xor _ _ l
  · exact State.predOp_completes rfl fun l hl => by simp [hl]
  · exact State.pair_completes ((ballot_eq h g d pa s).trans (if_neg some)) (by omega)
  · exact State.advance_completes ((ballot_eq h g d pa s).trans (if_pos none))

/-! ### Masks (R111) -/

theorem popMask_eq_countP (m : Mask) : popMask m = (List.range 128).countP fun l => inMask m l :=
  List.countP_eq_length_filter.symm

theorem exif_completes (h : Hdr) (d : Pair) (p : Pred) (s : State) : Completes (.exif h d p) h.e s fun u =>
    PairWritten s (2 * d.val) 1 s.src.exec { u with exec := s.me.exec } ∧ u.exec = s.src.exec &&& s.src.preg p.val := by
  have frame := s.me.setPair_frame (2 * d.val) s.src.exec
  refine State.done_completes rfl ⟨⟨?_, ?_, fun r low high => ?_⟩, rfl⟩
  · rw [frame]; rfl
  · exact s.me.pair_setPair (2 * d.val) s.src.exec (by omega)
  · exact s.me.sreg_setPair (2 * d.val) r s.src.exec low high

/-- Settles O9: each instruction puts the troupe back with another mask, or with a mask or a count in its scalars. -/
theorem maskInstructions : Obligations.MaskInstructions := by
  unfold Obligations.MaskInstructions
  refine ⟨fun h d live s => State.pair_completes rfl (by omega), fun h a s => State.done_completes rfl rfl,
    fun h p s => State.done_completes rfl rfl, fun h p s => State.done_completes rfl rfl, exif_completes,
    fun h a s => State.done_completes rfl rfl, fun h d live s => ?_⟩
  rw [← popMask_eq_countP]
  exact State.scalar_completes rfl

end Sys2Proof.Machine
end

section
/-! SUPPORT. Special registers (R103 to R105, R119, R137). -/

namespace Sys2Proof.Machine

open Sys2Proof.Claims

theorem srds_of_word {h : Hdr} {d : Reg} {n : Fin 18} {s : State} {x : W64} (word : n.val ≠ 16) (value : s.special s.src n.val = x) :
    Completes (.srds h d n) h.e s (ScalarWritten s d.val 1 x) :=
  value ▸ State.scalar_completes (if_neg word)

theorem Launch.wrapEntry_eq (l : Launch) : l.wrapEntry = (l.word 8).extractLsb' 0 32 := by
  apply BitVec.eq_of_toNat_eq
  simp [Launch.wrapEntry, fld]

theorem Sticky.clear_lane (k : Sticky) (x : W64) (l : Nat) :
    inMask (k.clear (x.setWidth 5)).inv l = (inMask k.inv l && !x.getLsbD 0) ∧
    inMask (k.clear (x.setWidth 5)).dz l = (inMask k.dz l && !x.getLsbD 1) ∧
    inMask (k.clear (x.setWidth 5)).ovf l = (inMask k.ovf l && !x.getLsbD 2) ∧
    inMask (k.clear (x.setWidth 5)).unf l = (inMask k.unf l && !x.getLsbD 3) ∧
    inMask (k.clear (x.setWidth 5)).nx l = (inMask k.nx l && !x.getLsbD 4) := by
  have cleared (b : Bool) (m : Mask) : inMask (if b then 0 else m) l = (inMask m l && !b) := by
    cases b <;> simp [inMask]
  simp only [Sticky.clear, cleared, BitVec.getLsbD_setWidth]
  simp

/-- Settles O8: reads are one write of a scalar, and a write of a special register is one of its fields. -/
theorem specialRegisters : Obligations.SpecialRegisters := by
  unfold Obligations.SpecialRegisters
  refine ⟨fun h d s => ?_, fun h a s => ⟨State.done_completes rfl rfl, State.done_completes rfl rfl,
    State.done_completes rfl rfl, State.done_completes rfl rfl, State.done_completes rfl ⟨rfl, fun i hi => ?_, ?_⟩⟩⟩
  · intro t reads l
    have read {n : Fin 18} {x : W64} (word : n.val ≠ 16) (value : s.special t n.val = x) : reads n x := srds_of_word word value
    have deadline : (if t.act.armed then t.act.ad else w64 l.deadline) = if t.act.armed then t.act.ad else l.word 7 := by
      simp [Launch.deadline]
    have wrap : l.wrapEntry.setWidth 64 = ((l.word 8).extractLsb' 0 32).setWidth 64 := by rw [Launch.wrapEntry_eq]
    have batch : w64 (t.sp.batch.toNat + b2n t.sp.special * 2 ^ 32) =
        BitVec.ofNat 64 (t.sp.batch.toNat + if t.sp.special then 2 ^ 32 else 0) := by
      cases t.sp.special <;> rfl
    refine ⟨read (by decide) rfl, read (by decide) rfl, read (by decide) rfl, read (by decide) rfl, read (by decide) rfl,
      read (by decide) rfl, read (by decide) rfl, read (by decide) deadline, read (by decide) wrap, read (by decide) rfl,
      read (by decide) rfl, read (by decide) rfl, read (by decide) rfl, read (by decide) rfl, read (by decide) rfl,
      read (by decide) rfl, read (by decide) batch, fun even => State.pair_completes rfl (by omega),
      State.scalar_completes rfl, State.scalar_completes rfl⟩
  · show (s.me.reported &&& ~~~ (s.src.sreg a.val).setWidth 5).getLsbD i = _
    simp [hi]
  · exact Sticky.clear_lane s.me.sticky (s.src.sreg a.val)

end Sys2Proof.Machine
end

section
/-! The state after hot reset (R103, R205, R207, R220, R320, R392, R415, R431, R434). -/

namespace Sys2Proof.Machine

/-- After reset world 0 alone is there (R320). -/
theorem State.reset_world {w : Nat} (other : w ≠ 0) : State.reset.world w = {} := by
  have unlisted : State.reset.worlds.find w = none := if_neg (Ne.symm other)
  rw [State.world, Table.get, unlisted]
  rfl

/-- After reset every resource is world 0's (R320). -/
theorem State.reset_ownerOf (cls n : Nat) : State.reset.ownerOf cls n = 0 := by
  unfold State.ownerOf
  split
  · split <;> rfl
  all_goals rfl

/-- Settles O58: the tables of the state after reset list world 0 alone, and what a table does not list is at rest. -/
theorem afterReset : Obligations.AfterReset := by
  unfold Obligations.AfterReset
  exact ⟨rfl, rfl, rfl, fun _ => ⟨rfl, rfl, rfl, rfl⟩, fun _ => ⟨rfl, rfl⟩, fun _ => ⟨rfl, rfl⟩, fun _ => ⟨rfl, rfl, rfl⟩,
    rfl, fun _ other => congrArg World.st (State.reset_world other), State.reset_ownerOf, rfl, rfl, rfl, rfl, fun _ => rfl,
    fun _ => ⟨rfl, rfl, rfl⟩, fun _ => ⟨rfl, rfl, rfl⟩, rfl, rfl, rfl, fun _ => rfl⟩

end Sys2Proof.Machine
end

section
/-! SUPPORT. Functions of one value and conversions (R144, R145, R148 to R150). -/

namespace Sys2Proof.Machine

open Sys2Proof.Claims

/-! ### FP32 codes -/

/-- The value of an FP32 lane by its fields (R124, R125). -/
theorem f32v_eq (a : W32) : f32v a =
    if a.toNat / 2 ^ 23 % 2 ^ 8 = 255 then
      if a.toNat % 2 ^ 23 = 0 then .inf (a.toNat / 2 ^ 31 % 2 == 1) else .nan (a.toNat % 2 ^ 23 / 2 ^ 22 == 0)
    else if a.toNat / 2 ^ 23 % 2 ^ 8 = 0 then .num (a.toNat / 2 ^ 31 % 2 == 1) (a.toNat % 2 ^ 23) (-149)
    else .num (a.toNat / 2 ^ 31 % 2 == 1) (2 ^ 23 + a.toNat % 2 ^ 23) ((a.toNat / 2 ^ 23 % 2 ^ 8 : Nat) - 150) := by
  have reserved : (a.toNat / 2 ^ 23 % 2 ^ 8 + 1 = 2 ^ 8) ↔ a.toNat / 2 ^ 23 % 2 ^ 8 = 255 := by omega
  have scale (k : Nat) : (k : Int) - (127 : Nat) - (23 : Nat) = k - 150 := by omega
  unfold f32v Fmt.value
  simp only [fp32, reserved, and_true, Bool.not_false, Bool.true_and, scale]
  by_cases top : a.toNat / 2 ^ 23 % 2 ^ 8 = 255
  · simp only [top, if_true]
  · simp only [top, false_and, if_false]
    rfl

/-- A lane whose exponent is reserved and whose fraction is not 0 is a NaN, quiet where bit 22 is set (R124, R125). -/
theorem f32v_of_nan {a : W32} (nan : 0x7F800000 < a.toNat % 2 ^ 31) : f32v a = .nan (!a.getLsbD 22) := by
  have signalling : (a.toNat % 2 ^ 23 / 2 ^ 22 == 0) = !a.getLsbD 22 := by
    rw [← BitVec.testBit_toNat, Nat.testBit_eq_decide_div_mod_eq, beq_eq_decide, ← decide_not]
    exact decide_eq_decide.2 (by omega)
  rw [f32v_eq, if_pos (by omega), if_neg (by omega), signalling]

/-- A negative number that is not 0. -/
theorem f32v_of_negative {a : W32} (low : 0x80000000 < a.toNat) (high : a.toNat < 0xFF800000) :
    ∃ m e, m ≠ 0 ∧ f32v a = .num true m e := by
  have sign : (a.toNat / 2 ^ 31 % 2 == 1) = true := beq_iff_eq.2 (by omega)
  rw [f32v_eq, if_neg (by omega), sign]
  split
  · exact ⟨_, _, by omega, rfl⟩
  · exact ⟨_, _, by omega, rfl⟩

/-- No number is finer than the least subnormal one (R124). -/
theorem f32v_num_exponent {a : W32} {neg : Bool} {m : Nat} {e : Int} (h : f32v a = .num neg m e) : -149 ≤ e := by
  rw [f32v_eq] at h
  split_ifs at h <;> injection h <;> omega

/-- Every function of one value passes a NaN on as the canonical one (R126, R145). -/
theorem function_of_nan {g : Rm → Fp → Nat × Exc} (function : g = fpRcp ∨ g = fpRsq ∨ g = fpEx2 ∨ g = fpLg2 ∨ g = fpTanh)
    (rm : Rm) (s : Bool) : g rm (.nan s) = (fp32.nan, if s then excInv else 0) := by
  rcases function with rfl | rfl | rfl | rfl | rfl <;> rfl

/-! ### `fex2` of an integer (R145) -/

theorem signed_mul (neg : Bool) (m p : Nat) : signed neg (m * p) = signed neg m * p := by
  cases neg <;> simp [signed]

theorem natAbs_signed (neg : Bool) (m : Nat) : (signed neg m).natAbs = m := by
  cases neg <;> simp [signed]

/-- The code of 2^n, for the n of normal and of subnormal numbers; it is exact. -/
theorem round_pow {n : Int} (low : -149 ≤ n) (high : n ≤ 127) (rm : Rm) : fp32.round rm false 1 n false false =
    (if -126 ≤ n then ((n + 127) * 2 ^ 23).toNat else 2 ^ (n + 149).toNat, 0) := by
  have log : Nat.log2 1 = 0 := by decide
  by_cases normal : -126 ≤ n
  · have quantum : max (((0 : Nat) : Int) + n) (1 - ((127 : Nat) : Int)) - (23 : Nat) = n - 23 := by omega
    have below : n - 23 ≤ n := by omega
    have significand : 1 * 2 ^ (n - (n - 23)).toNat = 2 ^ 23 := by rw [Int.sub_sub_self]; rfl
    have code : (n - 23 + (23 : Nat) + (127 : Nat)).toNat * 2 ^ 23 + (2 ^ 23 - 2 ^ 23) = ((n + 127) * 2 ^ 23).toNat := by omega
    have finite : ¬ 0x7F7FFFFF < ((n + 127) * 2 ^ 23).toNat := by omega
    have one : ((2 : Nat) ^ 23 == 2 ^ (23 + 1)) = false := by decide
    unfold Fmt.round
    simp only [fp32, log, quantum, if_pos below, significand, one, if_pos normal, Bool.false_eq_true, if_false, if_true, Fmt.sign,
      ne_eq, not_true_eq_false, false_and, one_ne_zero, le_refl, code, finite, Nat.zero_add]
  · have quantum : max (((0 : Nat) : Int) + n) (1 - ((127 : Nat) : Int)) - (23 : Nat) = -149 := by omega
    have shift : n - -149 = n + 149 := by omega
    obtain ⟨j, hj⟩ := Int.eq_ofNat_of_zero_le (by omega : 0 ≤ n + 149)
    have small : 2 ^ j < 2 ^ 23 := Nat.pow_lt_pow_right (by decide) (by omega)
    have one : ((2 : Nat) ^ j == 2 ^ (23 + 1)) = false := beq_eq_false_iff_ne.2 (by omega)
    have finite : ¬ 0x7F7FFFFF < 2 ^ j := by omega
    unfold Fmt.round
    simp only [fp32, log, quantum, if_pos low, shift, hj, Int.toNat_natCast, one, if_neg normal, Bool.false_eq_true, if_false,
      Fmt.sign, ne_eq, not_true_eq_false, false_and, one_ne_zero, Nat.one_mul, Nat.not_le.2 small, finite, Nat.zero_add, if_true]

/-- `fex2` of a number comes to the rounding of 2^y, y being the number in fixed point, where it is neither so small
that the result lies next to 1 nor out of range (R145). -/
theorem fpEx2_of_num (rm : Rm) {neg : Bool} {m : Nat} {e : Int} (some : m ≠ 0) (low : -30 ≤ (Nat.log2 m : Int) + e)
    (high : (Nat.log2 m : Int) + e < 8) {n : Int}
    (value : signed neg (if 0 ≤ e then m * 2 ^ e.toNat * fixOne else m * 2 ^ (fixBits - (-e).toNat)) = n * fixOne) :
    fpEx2 rm (.num neg m e) = fp32.round rm false 1 n false false := by
  have positive : (fixOne : Int) ≠ 0 := by decide
  simp only [fpEx2, if_neg some, if_neg (Int.not_lt.2 low), if_neg (Int.not_le.2 high), value, Int.mul_emod_left,
    Int.mul_ediv_cancel n positive, Int.toNat_zero, if_true]

/-- An integer n as m × 2^e: the power of two of its leading bit, and its value in fixed point. -/
theorem fixedPoint_of_int {neg : Bool} {m : Nat} {e n : Int} (least : -149 ≤ e) (some : m ≠ 0) (low : -149 ≤ n) (high : n ≤ 127)
    (value : signed neg m * 2 ^ (e + 149).toNat = n * 2 ^ 149) :
    0 ≤ (Nat.log2 m : Int) + e ∧ (Nat.log2 m : Int) + e < 8 ∧
      signed neg (if 0 ≤ e then m * 2 ^ e.toNat * fixOne else m * 2 ^ (fixBits - (-e).toNat)) = n * fixOne := by
  obtain ⟨k, hk⟩ := Int.eq_ofNat_of_zero_le (by omega : 0 ≤ e + 149)
  rw [hk, Int.toNat_natCast] at value
  have size : m * 2 ^ k = n.natAbs * 2 ^ 149 := by
    have := congrArg Int.natAbs value
    rwa [Int.natAbs_mul, Int.natAbs_mul, natAbs_signed, Int.natAbs_pow, Int.natAbs_pow] at this
  have nonzero : n.natAbs ≠ 0 := fun zero => by
    rw [zero, Nat.zero_mul] at size
    exact absurd size (Nat.mul_ne_zero some (by positivity))
  have lower : 2 ^ Nat.log2 m ≤ m := Nat.log2_self_le some
  have upper : m < 2 ^ (Nat.log2 m + 1) := Nat.lt_log2_self
  refine ⟨Int.not_lt.1 fun small => ?_, Int.not_le.1 fun large => ?_, ?_⟩
  · have : m * 2 ^ k < 2 ^ 149 := calc
      m * 2 ^ k < 2 ^ (Nat.log2 m + 1) * 2 ^ k := Nat.mul_lt_mul_of_pos_right upper (by positivity)
      _ = 2 ^ (Nat.log2 m + 1 + k) := (Nat.pow_add ..).symm
      _ ≤ 2 ^ 149 := Nat.pow_le_pow_right (by decide) (by omega)
    omega
  · have : 2 ^ 157 ≤ m * 2 ^ k := calc
      2 ^ 157 ≤ 2 ^ (Nat.log2 m + k) := Nat.pow_le_pow_right (by decide) (by omega)
      _ = 2 ^ Nat.log2 m * 2 ^ k := Nat.pow_add ..
      _ ≤ m * 2 ^ k := Nat.mul_le_mul_right _ lower
    omega
  · have one : (fixOne : Int) = 2 ^ 149 * 2 ^ 43 := by decide
    split
    · have expo : k = e.toNat + 149 := by omega
      have whole : signed neg m * 2 ^ e.toNat = n := by
        rw [expo, Int.pow_add, ← Int.mul_assoc] at value
        exact Int.eq_of_mul_eq_mul_right (by decide) value
      rw [signed_mul, signed_mul, Int.natCast_pow, ← whole]
      rfl
    · have expo : fixBits - (-e).toNat = k + 43 := by
        have : fixBits = 192 := rfl
        omega
      rw [signed_mul, expo, Int.natCast_pow, Int.pow_add, ← Int.mul_assoc, one, ← Int.mul_assoc, ← value]
      rfl

/-- `fex2` of an integer is its power of two, exactly, as long as that is a number (R145). -/
theorem fpEx2_of_int (rm : Rm) {neg : Bool} {m : Nat} {e n : Int} (least : -149 ≤ e) (low : -149 ≤ n) (high : n ≤ 127)
    (value : signed neg m * 2 ^ (e + 149).toNat = n * 2 ^ 149) : asLane (fpEx2 rm (.num neg m e)) =
      (if -126 ≤ n then BitVec.ofInt 32 ((n + 127) * 2 ^ 23) else 1#32 <<< (n + 149).toNat, 0) := by
  by_cases zero : m = 0
  · have none : n = 0 := by
      subst zero
      have nothing : signed neg 0 = 0 := by cases neg <;> rfl
      rw [nothing, Int.zero_mul] at value
      omega
    subst none zero
    rfl
  · obtain ⟨least, below, fixed⟩ := fixedPoint_of_int least zero low high value
    rw [fpEx2_of_num rm zero (by omega) below fixed, round_pow low high, asLane]
    split
    · next normal =>
      obtain ⟨k, hk⟩ := Int.eq_ofNat_of_zero_le (by omega : 0 ≤ (n + 127) * 2 ^ 23)
      rw [hk, Int.toNat_natCast, BitVec.ofInt_natCast]
    · congr 1
      apply BitVec.eq_of_toNat_eq
      simp [Nat.shiftLeft_eq]

/-! ### Parts of a destination (R149) -/

/-- The field that was put in. -/
theorem putBits_field (d : W32) (lo n x : Nat) (inside : lo + n ≤ 32) : (putBits d lo n x).extractLsb' lo n = BitVec.ofNat n x := by
  apply BitVec.eq_of_getLsbD_eq
  intro i hi
  have here : lo + i < 32 := by omega
  simp only [putBits, BitVec.getLsbD_extractLsb', BitVec.getLsbD_or, BitVec.getLsbD_and, BitVec.getLsbD_not, BitVec.getLsbD_ofNat, hi,
    here, decide_true, Bool.true_and, ← Nat.shiftLeft_eq, Nat.testBit_shiftLeft, Nat.testBit_two_pow_sub_one, Nat.testBit_mod_two_pow,
    Nat.add_sub_cancel_left, Nat.le_add_right, ge_iff_le]
  simp

/-- A field beside the one that was put in stays. -/
theorem putBits_beside (d : W32) (lo n x lo' n' : Nat) (apart : lo' + n' ≤ lo ∨ lo + n ≤ lo') (inside : lo' + n' ≤ 32) :
    (putBits d lo n x).extractLsb' lo' n' = d.extractLsb' lo' n' := by
  apply BitVec.eq_of_getLsbD_eq
  intro i hi
  have here : lo' + i < 32 := by omega
  have outside : ¬ (lo ≤ lo' + i ∧ lo' + i - lo < n) := by omega
  simp only [putBits, BitVec.getLsbD_extractLsb', BitVec.getLsbD_or, BitVec.getLsbD_and, BitVec.getLsbD_not, BitVec.getLsbD_ofNat, hi,
    here, decide_true, Bool.true_and, ← Nat.shiftLeft_eq, Nat.testBit_shiftLeft, Nat.testBit_two_pow_sub_one, Nat.testBit_mod_two_pow,
    ge_iff_le]
  by_cases above : lo ≤ lo' + i
  · have : ¬ lo' + i - lo < n := fun h => outside ⟨above, h⟩
    simp [this]
  · simp [above]

/-- The codes that narrow a value into n bits of d, or of a cleared lane, from bit `lo` on (R149). -/
inductive Narrows (code : Nat) : Nat → Nat → Fmt → Prop
  | fp16Low : code = 0x0A → Narrows code 0 16 fp16
  | fp16High : code = 0x0B → Narrows code 16 16 fp16
  | bf16Low : code = 0x0C → Narrows code 0 16 bf16
  | bf16High : code = 0x0D → Narrows code 16 16 bf16
  | e4m3 (k : Nat) : k < 4 → code = 0x16 + k → Narrows code (8 * k) 8 e4m3
  | e5m2 (k : Nat) : k < 4 → code = 0x1A + k ∨ code = 0x1E + k → Narrows code (8 * k) 8 e5m2

/-- What a narrowing code leaves of d: nothing where it clears the lane (R149). -/
def keptOf (code : Nat) (d : W32) : W32 := if code = 0x0A ∨ code = 0x0C then 0 else d

theorem convert_narrows {code lo n : Nat} {f : Fmt} (narrows : Narrows code lo n f) (rm : Rm) (a d : W32) :
    ∃ sat, convert code rm a d = putNarrow (keptOf code d) lo n (narrow f rm sat (f32v a)) := by
  cases narrows with
  | fp16Low is => subst is; exact ⟨_, rfl⟩
  | fp16High is => subst is; exact ⟨_, rfl⟩
  | bf16Low is => subst is; exact ⟨_, rfl⟩
  | bf16High is => subst is; exact ⟨_, rfl⟩
  | e4m3 k small is => subst is; interval_cases k <;> exact ⟨_, rfl⟩
  | e5m2 k small is => rcases is with rfl | rfl <;> interval_cases k <;> exact ⟨_, rfl⟩

theorem narrows_of_range {code : Nat} (low : 0x0A ≤ code) (high : code ≤ 0x21) (gap : code < 0x0E ∨ 0x16 ≤ code) :
    ∃ lo n f, Narrows code lo n f := by
  rcases gap with wide | bytes
  · obtain rfl | rfl | rfl | rfl : code = 0x0A ∨ code = 0x0B ∨ code = 0x0C ∨ code = 0x0D := by omega
    · exact ⟨_, _, _, .fp16Low rfl⟩
    · exact ⟨_, _, _, .fp16High rfl⟩
    · exact ⟨_, _, _, .bf16Low rfl⟩
    · exact ⟨_, _, _, .bf16High rfl⟩
  · by_cases four : code < 0x1A
    · exact ⟨_, _, _, .e4m3 (code - 0x16) (by omega) (by omega)⟩
    · by_cases five : code < 0x1E
      · exact ⟨_, _, _, .e5m2 (code - 0x1A) (by omega) (.inl (by omega))⟩
      · exact ⟨_, _, _, .e5m2 (code - 0x1E) (by omega) (.inr (by omega))⟩

theorem Narrows.inside {code lo n : Nat} {f : Fmt} (narrows : Narrows code lo n f) : lo + n ≤ 32 := by
  cases narrows <;> omega

/-- A narrowing code leaves what lies beside its field. -/
theorem convert_beside {code lo n : Nat} {f : Fmt} (narrows : Narrows code lo n f) (rm : Rm) (a d : W32) {lo' n' : Nat}
    (apart : lo' + n' ≤ lo ∨ lo + n ≤ lo') (inside : lo' + n' ≤ 32) :
    (convert code rm a d).1.extractLsb' lo' n' = (keptOf code d).extractLsb' lo' n' := by
  obtain ⟨sat, eq⟩ := convert_narrows narrows rm a d
  rw [eq]
  exact putBits_beside _ _ _ _ _ _ apart inside

/-- A NaN is narrowed to the format's canonical one, and a signalling one is invalid (R126, R150). -/
theorem convert_of_nan {code lo n : Nat} {f : Fmt} (narrows : Narrows code lo n f) (rm : Rm) {a : W32} (d : W32)
    (nan : 0x7F800000 < a.toNat % 2 ^ 31) : (convert code rm a d).1.extractLsb' lo n = BitVec.ofNat n f.nan ∧
      (convert code rm a d).2 = if a.getLsbD 22 then 0 else 1 := by
  obtain ⟨sat, eq⟩ := convert_narrows narrows rm a d
  rw [eq, f32v_of_nan nan]
  refine ⟨putBits_field _ _ _ _ narrows.inside, ?_⟩
  show (if (!a.getLsbD 22) = true then excInv else 0) = _
  cases a.getLsbD 22 <;> rfl

/-- The codes of integers in a byte (R149). -/
theorem convert_toByte {k : Nat} (small : k < 4) (rm : Rm) (a d : W32) : convert (0x26 + k) rm a d =
    (putBits d (8 * k) 8 (BitVec.ofInt 8 (max (-128) (min 127 a.toInt))).toNat, 0) := by
  have clamp : min (max a.toInt (-128)) 127 = max (-128) (min 127 a.toInt) := by omega
  rw [← clamp]
  interval_cases k <;> rfl

theorem convert_ofByte {k : Nat} (small : k < 4) (rm : Rm) (a d : W32) :
    convert (0x22 + k) rm a d = ((a.extractLsb' (8 * k) 8).signExtend 32, 0) := by
  have byte (k : Nat) : BitVec.ofNat 8 (byteOf a k) = a.extractLsb' (8 * k) 8 := by
    apply BitVec.eq_of_toNat_eq
    simp [byteOf, BitVec.extractLsb'_toNat, Nat.shiftRight_eq_div_pow]
  rw [← byte]
  interval_cases k <;> rfl

/-- The codes into the low half clear the high one (R149). -/
theorem convert_clears {code : Nat} (is : code = 0x0A ∨ code = 0x0C) (rm : Rm) (a d : W32) :
    (convert code rm a d).1.extractLsb' 16 16 = 0 := by
  rcases is with rfl | rfl
  · exact (convert_beside (.fp16Low rfl) rm a d (.inr (le_refl _)) (by decide : 16 + 16 ≤ 32)).trans (by simp [keptOf])
  · exact (convert_beside (.bf16Low rfl) rm a d (.inr (le_refl _)) (by decide : 16 + 16 ≤ 32)).trans (by simp [keptOf])

/-- The codes into the high half keep the low one (R149). -/
theorem convert_keepsLow {code : Nat} (is : code = 0x0B ∨ code = 0x0D) (rm : Rm) (a d : W32) :
    (convert code rm a d).1.extractLsb' 0 16 = d.extractLsb' 0 16 := by
  rcases is with rfl | rfl
  · exact convert_beside (.fp16High rfl) rm a d (.inl (le_refl _)) (by decide)
  · exact convert_beside (.bf16High rfl) rm a d (.inl (le_refl _)) (by decide)

/-- The codes into byte k keep the other bytes (R149). -/
theorem convert_keepsBytes {code k j : Nat} (hj : j < 4) (other : j ≠ k) (hk : k < 4)
    (is : code = 0x16 + k ∨ code = 0x1A + k ∨ code = 0x1E + k ∨ code = 0x26 + k) (rm : Rm) (a d : W32) :
    (convert code rm a d).1.extractLsb' (8 * j) 8 = d.extractLsb' (8 * j) 8 := by
  have apart : 8 * j + 8 ≤ 8 * k ∨ 8 * k + 8 ≤ 8 * j := by omega
  have kept : keptOf code d = d := if_neg (by omega)
  rcases is with four | five | five | byte
  · exact (convert_beside (.e4m3 k hk four) rm a d apart (by omega)).trans (by rw [kept])
  · exact (convert_beside (.e5m2 k hk (.inl five)) rm a d apart (by omega)).trans (by rw [kept])
  · exact (convert_beside (.e5m2 k hk (.inr five)) rm a d apart (by omega)).trans (by rw [kept])
  · rw [byte, convert_toByte hk]
    exact putBits_beside _ _ _ _ _ _ apart (by omega)

/-! ### Truncation to integers (R150) -/

/-- An integer brought into a range, and whether it lay outside, or else was exact (R150). -/
def saturated (lo hi v : Int) (exact : Bool) : Int × Exc :=
  (max lo (min hi v), if v < lo ∨ hi < v then 1 else if exact then 0 else 16)

theorem saturated_eq {lo hi : Int} (order : lo ≤ hi) (v : Int) (exact : Bool) : saturated lo hi v exact =
    if v < lo then (lo, excInv) else if hi < v then (hi, excInv) else (v, if exact then 0 else excNx) := by
  unfold saturated
  by_cases below : v < lo
  · rw [if_pos below, if_pos (.inl below), (by omega : max lo (min hi v) = lo)]; rfl
  · by_cases above : hi < v
    · rw [if_neg below, if_pos above, if_pos (.inr above), (by omega : max lo (min hi v) = hi)]; rfl
    · rw [if_neg below, if_neg above, if_neg (by omega), (by omega : max lo (min hi v) = v)]; rfl

/-- Integers that lie outside on the same side are saturated alike. -/
theorem saturated_outside {lo hi v w : Int} (order : lo ≤ hi) (outside : v < lo ∧ w < lo ∨ hi < v ∧ hi < w) (exact : Bool) :
    saturated lo hi v exact = saturated lo hi w exact := by
  unfold saturated
  rw [if_pos (by omega), if_pos (by omega), (by omega : max lo (min hi v) = max lo (min hi w))]

/-- Cutting a scale of 2^64 or more off at 2^64 does not matter to an integer of at most 64 bits. -/
theorem saturated_scaled {lo hi : Int} (low : -2 ^ 64 < lo) (order : lo ≤ hi) (high : hi < 2 ^ 64) (neg : Bool) (m k : Nat) (exact : Bool) :
    saturated lo hi (signed neg (m * 2 ^ min k 64)) exact = saturated lo hi (signed neg (m * 2 ^ k)) exact := by
  by_cases small : k ≤ 64
  · rw [Nat.min_eq_left small]
  · by_cases zero : m = 0
    · subst zero; simp
    · have most : m * 2 ^ 64 ≤ m * 2 ^ k := Nat.mul_le_mul_left m (Nat.pow_le_pow_right (by decide) (by omega))
      have least : 2 ^ 64 ≤ m * 2 ^ 64 := Nat.le_mul_of_pos_left _ (Nat.pos_of_ne_zero zero)
      rw [Nat.min_eq_right (by omega)]
      refine saturated_outside order ?_ exact
      generalize m * 2 ^ k = x at *
      cases neg with
      | false => right; simp only [signed, Bool.false_eq_true, if_false]; omega
      | true => left; simp only [signed, if_true]; omega

/-- The integer part of a number's magnitude, and whether it is the number (R150). -/
def integerPart (m : Nat) (e : Int) : Nat := if 0 ≤ e then m * 2 ^ e.toNat else m / 2 ^ (-e).toNat

def isInteger (m : Nat) (e : Int) : Bool := decide (0 ≤ e ∨ m % 2 ^ (-e).toNat = 0)

/-- Truncation of a number to an integer of a range (R150). -/
theorem fpToInt_rz {lo hi : Int} (low : -2 ^ 64 < lo) (order : lo ≤ hi) (high : hi < 2 ^ 64) (neg : Bool) (m : Nat) (e : Int) :
    fpToInt .rz lo hi (.num neg m e) = saturated lo hi (signed neg (integerPart m e)) (isInteger m e) := by
  unfold integerPart isInteger
  by_cases whole : 0 ≤ e
  · rw [if_pos whole, ← saturated_scaled low order high, saturated_eq order]
    simp only [fpToInt, toInteger, whole, if_true, true_or, decide_true]
  · rw [if_neg whole, saturated_eq order]
    have rest : (m % 2 ^ (-e).toNat == 0) = decide (0 ≤ e ∨ m % 2 ^ (-e).toNat = 0) := by
      rw [beq_eq_decide]
      exact decide_eq_decide.2 (by simp [whole])
    simp only [fpToInt, toInteger, if_neg whole, Rm.up, Bool.false_eq_true, and_false, if_false, rest]

theorem convert_truncates {code : Nat} {lo hi : Int} (low : -2 ^ 64 < lo) (order : lo ≤ hi) (high : hi < 2 ^ 64) (rm : Rm) {a d : W32}
    (run : convert code rm a d = fpInt .rz lo hi a) {neg : Bool} {m : Nat} {e : Int} (value : f32v a = .num neg m e) :
    convert code rm a d = (BitVec.ofInt 32 (saturated lo hi (signed neg (integerPart m e)) (isInteger m e)).1,
      (saturated lo hi (signed neg (integerPart m e)) (isInteger m e)).2) := by
  rw [run, fpInt, value, fpToInt_rz low order high]

theorem convert_toInt_of_nan {code : Nat} (low : 2 ≤ code) (high : code ≤ 5) (rm : Rm) {a : W32} (d : W32)
    (nan : 0x7F800000 < a.toNat % 2 ^ 31) : convert code rm a d = (0, 1) := by
  have invalid (rm : Rm) (lo hi : Int) : fpInt rm lo hi a = (0, 1) := by rw [fpInt, f32v_of_nan nan]; rfl
  interval_cases code <;> exact invalid _ _ _

/-! ### The instructions -/

theorem computes1_of_int1 {op : Hdr → Guard → Reg → Reg → Instr} {f : W32 → W32}
    (run : ∀ h g d a s, exec (op h g d a) s = s.lanes0 (s.effective g) d.val (fun l => (f (vsrc s.src a l), 0)) 1 h.e) :
    Computes1 op f := by
  intro h g d a s
  obtain ⟨t, eq, only, written⟩ := s.lanes0_spec (s.effective g) d (fun l => (f (vsrc s.src a l), 0)) 1 h.e
  exact ⟨t, (run h g d a s).trans eq, only, written⟩

theorem computesFp1_of_float1 {op : Hdr → Guard → Reg → Reg → Instr} {f : Rm → Fp → Nat × Exc}
    (run : ∀ h g d a s, exec (op h g d a) s = s.float1 h g d a f) : ComputesFp1 op fun rm a => asLane (f rm (f32v a)) := by
  intro h g d a s
  obtain ⟨t, eq, only, written⟩ := s.lanes0_spec (s.effective g) d (fun l => asLane (f s.src.rm (f32v (vsrc s.src a l)))) 1 h.e
  exact ⟨t, (run h g d a s).trans eq, only, written⟩

theorem cvt_completes (h : Hdr) (g : Guard) (d a : Reg) (code : Fin 42) (s : State) : Completes (.cvt h g d a code) h.e s
    (VectorWritten s (s.effective g) d.val 1 (fun l => (convert code.val s.src.rm (vsrc s.src a l) (vsrc s.src d l)).1)
      fun l => (convert code.val s.src.rm (vsrc s.src a l) (vsrc s.src d l)).2) := by
  obtain ⟨t, eq, only, written⟩ := s.lanes0_spec (s.effective g) d
    (fun l => convert code.val s.src.rm (vsrc s.src a l) (vsrc s.src d l)) 1 h.e
  exact ⟨t, eq, only, written⟩

/-- The sign bit inverted, or cleared, above the other bits (R144). -/
theorem sign_inverted (a : W32) : a ^^^ 0x80000000 = BitVec.ofBool (!a.msb) ++ a.extractLsb' 0 31 := by
  apply BitVec.eq_of_getLsbD_eq
  intro i hi
  rw [BitVec.getLsbD_append, BitVec.getLsbD_xor, (by decide : (0x80000000 : W32) = BitVec.twoPow 32 31), BitVec.getLsbD_twoPow]
  by_cases low : i < 31
  · have other : ¬ 31 = i := by omega
    simp [low, other]
  · obtain rfl : i = 31 := by omega
    simp [BitVec.msb_eq_getLsbD_last]

theorem sign_cleared (a : W32) : a &&& 0x7FFFFFFF = BitVec.ofBool false ++ a.extractLsb' 0 31 := by
  apply BitVec.eq_of_getLsbD_eq
  intro i hi
  rw [BitVec.getLsbD_append, BitVec.getLsbD_and, (by decide : (0x7FFFFFFF : W32) = BitVec.ofNat 32 (2 ^ 31 - 1)), BitVec.getLsbD_ofNat,
    Nat.testBit_two_pow_sub_one]
  by_cases low : i < 31
  · simp [low, hi]
  · obtain rfl : i = 31 := by omega
    simp

/-! ### The table of special cases (R145) -/

theorem f32v_special : f32v 0xFF800000 = .inf true ∧ f32v 0x7F800000 = .inf false ∧ f32v 0x80000000 = .num true 0 (-149) ∧
    f32v 0 = .num false 0 (-149) ∧ f32v 0x3F800000 = .num false (2 ^ 23) (-23) := by decide

theorem fpLg2_one (rm : Rm) : fpLg2 rm (.num false (2 ^ 23) (-23)) = (0, 0) := by
  have log : Nat.log2 (2 ^ 23) = 23 := by decide
  simp only [fpLg2, log]
  simp

theorem functions_special (rm : Rm) :
    let table (g : Rm → Fp → Nat × Exc) (xs : List (W32 × W32 × Exc)) : Prop := ∀ x ∈ xs, asLane (g rm (f32v x.1)) = x.2
    let ninf : W32 := 0xFF800000
    let pinf : W32 := 0x7F800000
    let nzero : W32 := 0x80000000
    table fpRcp [(ninf, nzero, 0), (nzero, ninf, 2), (0, pinf, 2), (pinf, 0, 0)] ∧
    table fpRsq [(ninf, 0x7FC00000, 1), (nzero, ninf, 2), (0, pinf, 2), (pinf, 0, 0)] ∧
    table fpEx2 [(ninf, 0, 0), (nzero, 0x3F800000, 0), (0, 0x3F800000, 0), (pinf, pinf, 0)] ∧
    table fpLg2 [(ninf, 0x7FC00000, 1), (nzero, ninf, 2), (0, ninf, 2), (0x3F800000, 0, 0), (pinf, pinf, 0)] ∧
    table fpTanh [(ninf, 0xBF800000, 0), (nzero, nzero, 0), (0, 0, 0), (pinf, 0x3F800000, 0)] := by
  obtain ⟨ninf, pinf, nzero, zero, one⟩ := f32v_special
  simp only [List.forall_mem_cons, List.not_mem_nil, IsEmpty.forall_iff, implies_true, and_true, ninf, pinf, nzero, zero, one, fpLg2_one]
  exact ⟨⟨rfl, rfl, rfl, rfl⟩, ⟨rfl, rfl, rfl, rfl⟩, ⟨rfl, rfl, rfl, rfl⟩, ⟨rfl, rfl, rfl, rfl, rfl⟩, rfl, rfl, rfl, rfl⟩

/-- The square root and the logarithm of a negative number are invalid (R145). -/
theorem functions_of_negative (rm : Rm) {a : W32} (low : 0x80000000 < a.toNat) (high : a.toNat < 0xFF800000) :
    asLane (fpRsq rm (f32v a)) = (0x7FC00000, 1) ∧ asLane (fpLg2 rm (f32v a)) = (0x7FC00000, 1) := by
  obtain ⟨m, e, some, value⟩ := f32v_of_negative low high
  rw [value]
  simp only [fpRsq, fpLg2, if_neg some, if_true]
  exact ⟨rfl, rfl⟩

theorem convert_number (rm : Rm) (d : W32) {a : W32} {neg : Bool} {m : Nat} {e : Int} (value : f32v a = .num neg m e) :
    let whole : Int := signed neg (if 0 ≤ e then m * 2 ^ e.toNat else m / 2 ^ (-e).toNat)
    let exact : Bool := decide (0 ≤ e ∨ m % 2 ^ (-e).toNat = 0)
    let goes (lo hi : Int) (r : W32 × Exc) : Prop :=
      r = (BitVec.ofInt 32 (max lo (min hi whole)), if whole < lo ∨ hi < whole then 1 else if exact then 0 else 16)
    goes (-2 ^ 31) (2 ^ 31 - 1) (convert 4 rm a d) ∧ goes 0 (2 ^ 32 - 1) (convert 5 rm a d) :=
  ⟨convert_truncates (by decide) (by decide) (by decide) rm rfl value, convert_truncates (by decide) (by decide) (by decide) rm rfl value⟩

/-- Settles O3: the functions' values by kinds of operand, the conversions by kinds of code, and each instruction as one
write of lanes. -/
theorem floatFunctions : Obligations.FloatFunctions := by
  unfold Obligations.FloatFunctions
  refine ⟨?_, ?_, ?_, computesFp1_of_float1 fun h g d a s => rfl, computesFp1_of_float1 fun h g d a s => rfl,
    computesFp1_of_float1 fun h g d a s => rfl, computesFp1_of_float1 fun h g d a s => rfl,
    computesFp1_of_float1 fun h g d a s => rfl, cvt_completes⟩
  · intro isNaN quiet
    refine ⟨fun g function rm a nan => ?_, functions_special, fun rm a => functions_of_negative rm,
      fun rm a neg m e n value low high => value ▸ fpEx2_of_int rm (f32v_num_exponent value) low high, fun rm a d => ?_⟩
    · rw [f32v_of_nan nan, function_of_nan function]
      show _ = (_, if a.getLsbD 22 = true then _ else _)
      cases a.getLsbD 22 <;> rfl
    · refine ⟨fun code low => ?_, fun code high => ?_, fun code k j hj other hk is => ?_, fun k hk => convert_ofByte hk rm a d, fun k hk => ?_,
        fun nan => ⟨fun code low high => convert_toInt_of_nan low high rm d nan, fun k hk => ?_, ?_, ?_, fun code low high gap => ?_⟩,
        fun neg m e value => convert_number rm d value⟩
      · exact convert_clears low rm a d
      · exact convert_keepsLow high rm a d
      · exact convert_keepsBytes hj other hk is rm a d
      · rw [convert_toByte hk]
        exact ⟨rfl, (putBits_field _ _ _ _ (by omega)).trans ((BitVec.ofNat_toNat ..).trans (BitVec.setWidth_eq _))⟩
      · exact ⟨(convert_of_nan (.e4m3 k hk rfl) rm d nan).1, (convert_of_nan (.e5m2 k hk (.inl rfl)) rm d nan).1,
          (convert_of_nan (.e5m2 k hk (.inr rfl)) rm d nan).1⟩
      · exact (convert_of_nan (.fp16Low rfl) rm d nan).1
      · exact (convert_of_nan (.bf16Low rfl) rm d nan).1
      · obtain ⟨lo, n, f, narrows⟩ := narrows_of_range low high gap
        exact (convert_of_nan narrows rm d nan).2
  · exact computes1_of_int1 fun h g d a s => by simp only [← sign_inverted]; rfl
  · exact computes1_of_int1 fun h g d a s => by simp only [← sign_cleared]; rfl

end Sys2Proof.Machine
end

section
/-! SUPPORT. The ensemble instructions (R115 to R117): a number that names no ensemble of the world, the least free one,
and what becomes of the ensemble that is named. -/

namespace Sys2Proof.Machine

open Sys2Proof.Claims

/-! ### The least number -/

theorem findFrom_none {p : Nat → Bool} {n k : Nat} (no : ∀ i, k ≤ i → i < k + n → p i = false) : findFrom p n k = none := by
  induction n generalizing k with
  | zero => rfl
  | succ n ih =>
    rw [findFrom, no k (le_refl k) (by omega)]
    exact ih fun i low high => no i (by omega) (by omega)

theorem findFrom_some {p : Nat → Bool} {n k i : Nat} (low : k ≤ i) (high : i < k + n) (yes : p i = true)
    (no : ∀ j, k ≤ j → j < i → p j = false) : findFrom p n k = some i := by
  induction n generalizing k with
  | zero => omega
  | succ n ih =>
    rw [findFrom]
    by_cases here : k = i
    · rw [here, yes]; rfl
    · rw [no k (le_refl k) (by omega)]
      exact ih (by omega) (by omega) fun j above below => no j (by omega) below

theorem findBelow_none {p : Nat → Bool} {n : Nat} (no : ∀ i, i < n → p i = false) : findBelow n p = none :=
  findFrom_none fun i _ high => no i (by omega)

theorem findBelow_some {p : Nat → Bool} {n i : Nat} (high : i < n) (yes : p i = true) (no : ∀ j, j < i → p j = false) :
    findBelow n p = some i := findFrom_some (Nat.zero_le i) (by omega) yes fun j _ below => no j below

/-! ### The number that an instruction names (R116) -/

/-- Scalar a holds the number n of an ensemble bound to the issuing troupe's world. -/
def State.namesEns (s : State) (a : Reg) (n : Nat) : Prop :=
  s.src.sreg a.val = BitVec.ofNat 64 n ∧ n < 4096 ∧ (s.ensemble n).owner = s.src.world

theorem State.onEns_of_named {s : State} {a : Reg} {n : Nat} (named : s.namesEns a n) (go : Nat → Res) : s.onEns a go = go n := by
  obtain ⟨number, range, owner⟩ := named
  have value : (s.src.sreg a.val).toNat = n := by
    rw [number, BitVec.toNat_ofNat, Nat.mod_eq_of_lt (by omega)]
  have ok : s.ensOk s.src (s.src.sreg a.val) = true := by simp [State.ensOk, value, range, owner]
  simp only [State.onEns, ok, if_true, value]

/-- A number that names no ensemble of the world is a fault; its record's address is free (R116; log 12). -/
theorem State.onEns_faults {s : State} {a : Reg} (plain : Plain s)
    (unnamed : 4096 ≤ (s.src.sreg a.val).toNat ∨ (s.ensemble (s.src.sreg a.val).toNat).owner ≠ s.src.world) (go : Nat → Res) :
    ∃ va t, s.onEns a go = .next t ∧ FaultTaken s t s.src 4 0 s.src.live va := by
  have bad : s.ensOk s.src (s.src.sreg a.val) = false := by
    rcases unnamed with large | foreign
    · simp [State.ensOk, Nat.not_lt.2 large]
    · simp [State.ensOk, foreign]
  obtain ⟨t, run, taken⟩ := State.fault_taken (s := s.freeNat.2) plain 4 0 s.src.live (w64 s.freeNat.1)
  refine ⟨w64 s.freeNat.1, t, ?_, HaltedWith.of_modBook taken⟩
  simp only [State.onEns, bad, Bool.false_eq_true, if_false]
  exact run

theorem ens_faults {e : Bool} {d a : Reg} {i : Instr} {s : State} (is : i = .ensJoin e d a ∨ i = .ensLeave e d a ∨ i = .ensFree e d a)
    (plain : Plain s) (unnamed : 4096 ≤ (s.src.sreg a.val).toNat ∨ (s.ensemble (s.src.sreg a.val).toNat).owner ≠ s.src.world) :
    ∃ va, Faults i s 4 0 s.src.live va := by
  obtain ⟨go, run⟩ : ∃ go, exec i s = s.onEns a go := by
    rcases is with rfl | rfl | rfl
    · exact ⟨_, show execEnsJoin e d a s = _ from rfl⟩
    · exact ⟨_, show execEnsLeave e d a s = _ from rfl⟩
    · exact ⟨_, show execEnsFree e d a s = _ from rfl⟩
  obtain ⟨va, t, eq, taken⟩ := State.onEns_faults plain unnamed go
  exact ⟨va, t, run.trans eq, taken⟩

/-! ### What becomes of an ensemble -/

theorem State.ensemble_modEns (s : State) (n k : Nat) (f : Ens → Ens) :
    (s.modEns n f).ensemble k = if n = k then f (s.ensemble n) else s.ensemble k := by
  simp [State.ensemble, State.modEns]

/-- Nothing but the issuing troupe and ensemble n differs, and that has become as f makes it. -/
def EnsembleBecomes (s t : State) (n : Nat) (f : Ens → Ens) : Prop :=
  { t with troupes := s.troupes, ens := s.ens } = s ∧ (∀ k, k ≠ s.book.cur → t.troupe k = s.troupe k) ∧
    t.ensemble n = f (s.ensemble n) ∧ ∀ k, k ≠ n → t.ensemble k = s.ensemble k

theorem State.modEns_done (s : State) (n : Nat) (f : Ens → Ens) (u : Troupe) (e : Bool) :
    ∃ t, (s.modEns n f).done u 1 e = .next (ended e t) ∧ EnsembleBecomes s t n f ∧ t.me = behind u 1 := by
  obtain ⟨t, run, ⟨only, others⟩, me⟩ := (s.modEns n f).done_spec u 1 e
  have ens (k : Nat) : t.ensemble k = (s.modEns n f).ensemble k := by
    have := congrArg (fun x : State => x.ensemble k) only
    exact this
  refine ⟨t, run, ⟨congrArg (fun x : State => { x with troupes := s.troupes, ens := s.ens }) only, others, ?_, fun k hk => ?_⟩, me⟩
  · rw [ens, State.ensemble_modEns, if_pos rfl]
  · rw [ens, State.ensemble_modEns, if_neg (Ne.symm hk)]

theorem scalarWritten_behind (s : State) (d : Reg) (x : W64) : ScalarWritten s d.val 1 x (behind (s.me.setS d.val x) 1) :=
  scalarWritten_of_setS (by rw [Troupe.setS_frame]; rfl) rfl

/-- A troupe's scalars do not depend on its issue state. -/
theorem scalarWritten_of_ctl (s : State) (d : Reg) (x : W64) (c : Ctl) :
    ScalarWritten s d.val 1 x { behind ({ s.me with ctl := c }.setS d.val x) 1 with ctl := (behind s.me 1).ctl } := by
  refine scalarWritten_of_setS (by rw [Troupe.setS_frame]; rfl) ?_
  show ({ s.me with ctl := c }.setS d.val x).s = _
  unfold Troupe.setS
  split <;> rfl

/-- `ens.new` takes the least free ensemble of the world (R117). -/
theorem ensNew_takes (e : Bool) (d : Reg) {s : State} {n : Nat} (range : n < 4096) (owner : (s.ensemble n).owner = s.me.world)
    (free : (s.ensemble n).allocated = false)
    (least : ∀ k, k < n → (s.ensemble k).owner = s.me.world → (s.ensemble k).allocated = true) :
    exec (.ensNew e d) s = (s.modEns n fun x =>
      { x with allocated := true, members := [], phase := 0, arrived := [], pending := [] }).scalar d (w64 n) 1 e := by
  have found : findBelow 4096 (fun n => (s.ensemble n).owner == s.me.world && !(s.ensemble n).allocated) = some n := by
    refine findBelow_some range (by simp [owner, free]) fun k below => ?_
    by_cases mine : (s.ensemble k).owner = s.me.world
    · simp [least k below mine]
    · simp [mine]
  show execEnsNew e d s = _
  simp only [execEnsNew, found]

theorem ensNew_none (e : Bool) (d : Reg) {s : State}
    (full : ∀ n, n < 4096 → (s.ensemble n).owner = s.me.world → (s.ensemble n).allocated = true) :
    exec (.ensNew e d) s = s.scalar d ones64 1 e := by
  have found : findBelow 4096 (fun n => (s.ensemble n).owner == s.me.world && !(s.ensemble n).allocated) = none := by
    refine findBelow_none fun k below => ?_
    by_cases mine : (s.ensemble k).owner = s.me.world
    · simp [full k below mine]
    · simp [mine]
  show execEnsNew e d s = _
  simp only [execEnsNew, found]

section

variable {s : State} {a : Reg} {n : Nat}

/-- `ens.join` of a named ensemble, by its cases (R117; log 82). -/
theorem ensJoin_eq (e : Bool) (d : Reg) (named : s.namesEns a n) : exec (.ensJoin e d a) s =
    if (s.ensemble n).allocated = false then s.scalar d 1 1 e
    else if n ∈ s.me.ctl.ens then s.scalar d 2 1 e
    else if 4095 ≤ (s.ensemble n).members.length ∨ 8 ≤ s.me.ctl.ens.length then s.scalar d 3 1 e
    else (s.modEns n fun x => { x with members := x.members ++ [s.me.uid] }).done
      ({ s.me with ctl := { s.me.ctl with ens := s.me.ctl.ens ++ [n] } }.setS d.val 0) 1 e := by
  show execEnsJoin e d a s = _
  rw [execEnsJoin, State.onEns_of_named named]
  simp only [Bool.not_eq_true', List.contains_iff_mem]

/-- `ens.leave` of a named ensemble, by its cases (R117). -/
theorem ensLeave_eq (e : Bool) (d : Reg) (named : s.namesEns a n) : exec (.ensLeave e d a) s =
    if (s.ensemble n).allocated = false then s.scalar d 1 1 e
    else if n ∉ s.me.ctl.ens then s.scalar d 2 1 e
    else (s.leaveEns s.me.uid n).done
      ({ s.me with ctl := { s.me.ctl with ens := s.me.ctl.ens.filter (· != n) } }.setS d.val 0) 1 e := by
  show execEnsLeave e d a s = _
  rw [execEnsLeave, State.onEns_of_named named]
  simp only [Bool.not_eq_true', List.contains_eq_mem, decide_eq_false_iff_not]

/-- `ens.free` of a named ensemble, by its cases (R117). -/
theorem ensFree_eq (e : Bool) (d : Reg) (named : s.namesEns a n) : exec (.ensFree e d a) s =
    if (s.ensemble n).allocated = false then s.scalar d 1 1 e
    else if (s.ensemble n).members ≠ [] then s.scalar d 4 1 e
    else (s.modEns n fun x => { x with allocated := false }).scalar d 0 1 e := by
  show execEnsFree e d a s = _
  rw [execEnsFree, State.onEns_of_named named]
  simp only [Bool.not_eq_true', ne_eq, List.isEmpty_eq_false_iff]

end

/-- A member leaves an ensemble: beside that ensemble, a phase that is complete now falls due (R117, R276). -/
theorem State.leaveEns_done (s : State) (uid n : Nat) (u : Troupe) (e : Bool) :
    ∃ t, (s.leaveEns uid n).done u 1 e = .next (ended e t) ∧ { t with troupes := s.troupes, ens := s.ens, book := s.book } = s ∧
      (∀ k, k ≠ s.book.cur → t.troupe k = s.troupe k) ∧ t.me = behind u 1 ∧
      (t.ensemble n).members = (s.ensemble n).members.filter (· != uid) ∧ ∀ k, k ≠ n → t.ensemble k = s.ensemble k := by
  generalize left : s.modEns n (fun x => { x with
    members := x.members.filter (· != uid), arrived := x.arrived.filter (fun a => a.1 != uid)
    pending := x.pending.filter (fun a => a.1 != uid) }) = v
  obtain ⟨due, checked⟩ : ∃ b, s.leaveEns uid n = { v with book := { v.book with due := b } } := by
    rw [State.leaveEns, left, State.checkEns]
    split
    · exact ⟨_, rfl⟩
    · exact ⟨_, rfl⟩
  have frame : v = { s with ens := v.ens } := by rw [← left]; rfl
  have ensemble (k : Nat) : (s.leaveEns uid n).ensemble k = v.ensemble k := by rw [checked]; rfl
  obtain ⟨t, run, ⟨only, others⟩, me⟩ := (s.leaveEns uid n).done_spec u 1 e
  have ens (k : Nat) : t.ensemble k = v.ensemble k := by
    have := congrArg (fun x : State => x.ensemble k) only
    exact this.trans (ensemble k)
  rw [checked] at only others
  have cur : v.book.cur = s.book.cur := by rw [frame]
  have troupe (k : Nat) : v.troupe k = s.troupe k := by rw [frame]; rfl
  refine ⟨t, run, ?_, fun k hk => ?_, me, ?_, fun k hk => ?_⟩
  · have := congrArg (fun x : State => { x with troupes := s.troupes, ens := s.ens, book := s.book }) only
    exact this.trans (by rw [frame])
  · exact (others k (by rw [← cur] at hk; exact hk)).trans (troupe k)
  · rw [ens, ← left, State.ensemble_modEns, if_pos rfl]
  · rw [ens, ← left, State.ensemble_modEns, if_neg (Ne.symm hk)]

/-- Settles O13: each instruction by the cases of its status. -/
theorem ensembleInstructions : Obligations.EnsembleInstructions := by
  unfold Obligations.EnsembleInstructions
  intro named
  refine ⟨fun e d s full => State.scalar_completes (ensNew_none e d full), fun e d a s n name => ⟨fun free => ⟨?_, ?_, ?_⟩,
      fun taken => ⟨fun member => ?_, fun other full => ?_, fun other => ?_, fun members => ?_⟩⟩,
    fun e d a i s is plain unnamed => ens_faults is plain unnamed, fun e d s n range owner free least => ?_,
    fun e d a s n number range owner taken other room places => ?_, fun e d a s n number range owner taken member => ?_,
    fun e d a s n number range owner taken empty => ?_⟩
  · exact State.scalar_completes ((ensJoin_eq e d name).trans (if_pos free))
  · exact State.scalar_completes ((ensLeave_eq e d name).trans (if_pos free))
  · exact State.scalar_completes ((ensFree_eq e d name).trans (if_pos free))
  · exact State.scalar_completes (by rw [ensJoin_eq e d name, if_neg (by simp [taken]), if_pos member])
  · exact State.scalar_completes (by rw [ensJoin_eq e d name, if_neg (by simp [taken]), if_neg other, if_pos full])
  · exact State.scalar_completes (by rw [ensLeave_eq e d name, if_neg (by simp [taken]), if_pos other])
  · exact State.scalar_completes (by rw [ensFree_eq e d name, if_neg (by simp [taken]), if_pos members])
  · obtain ⟨t, run, ⟨only, others, new, rest⟩, me⟩ := s.modEns_done n
      (fun x => { x with allocated := true, members := [], phase := 0, arrived := [], pending := [] }) (s.me.setS d.val (w64 n)) e
    exact ⟨t, (ensNew_takes e d range owner free least).trans run, only, others, me ▸ scalarWritten_behind s d _, by rw [new],
      by rw [new], by rw [new]; exact owner, rest⟩
  · obtain ⟨t, run, ⟨only, others, joined, rest⟩, me⟩ := s.modEns_done n (fun x => { x with members := x.members ++ [s.me.uid] })
      ({ s.me with ctl := { s.me.ctl with ens := s.me.ctl.ens ++ [n] } }.setS d.val 0) e
    refine ⟨t, ?_, only, others, me ▸ scalarWritten_of_ctl s d 0 _, ?_, by rw [joined], rest⟩
    · rw [ensJoin_eq e d ⟨number, range, owner⟩, if_neg (by simp [taken]), if_neg other, if_neg (by omega), run]
    · rw [me, Troupe.setS_frame]; rfl
  · obtain ⟨t, run, only, others, me, left, rest⟩ := s.leaveEns_done s.me.uid n
      ({ s.me with ctl := { s.me.ctl with ens := s.me.ctl.ens.filter (· != n) } }.setS d.val 0) e
    refine ⟨t, ?_, only, others, me ▸ scalarWritten_of_ctl s d 0 _, ?_, fun u => by rw [left]; simp, rest⟩
    · rw [ensLeave_eq e d ⟨number, range, owner⟩, if_neg (by simp [taken]), if_neg (by simp [member]), run]
    · rw [me, Troupe.setS_frame]
      simp [behind]
  · obtain ⟨t, run, ⟨only, others, freed, rest⟩, me⟩ := s.modEns_done n (fun x => { x with allocated := false }) (s.me.setS d.val 0) e
    refine ⟨t, ?_, only, others, me ▸ scalarWritten_behind s d 0, by rw [freed], rest⟩
    rw [ensFree_eq e d ⟨number, range, owner⟩, if_neg (by simp [taken]), if_neg (by simp [empty])]
    exact run

end Sys2Proof.Machine
end

section
/-! SUPPORT. The timer, `yield` and the retirement of lanes (R119 to R122, R373); what a report point leaves of the troupe
(R137, R138). -/

namespace Sys2Proof.Machine

open Sys2Proof.Claims

/-! ### The timer, `tret`, `yield` -/

/-- An instruction that puts the troupe `u` back and goes on at another word, where its run ends. -/
theorem State.jump_completes {i : Instr} {s : State} {u : Troupe} {pc : W32} (run : exec i s = .next ((s.setMe u).jump pc))
    {P : Troupe → Prop} (holds : P { behind u 1 with pc := pc }) : Completes i true s P := by
  refine ⟨(s.setMe u).setMe { u with pc := pc, ctl := { u.ctl with stalled := false } }, run.trans ?_, s.setMe_setMe _ _,
    (State.me_setMe _ _).symm ▸ holds⟩
  rw [State.jump, State.me_setMe]
  rfl

/-! ### Retirement (R121) -/

/-- A troupe that issues nothing further. -/
def Troupe.exitedNow (u : Troupe) : Troupe :=
  { u with live := 0, exec := 0, ctl := { u.ctl with exited := true, wait := .no, halted := false, stalled := false } }

/-- The last instruction of a troupe changes the troupe, gives up its issue slot, and may let its retirement fall due. -/
theorem State.exitNow_spec (s : State) (u : Troupe) :
    { s.exitNow u with troupes := s.troupes, cores := s.cores, book := s.book } = s ∧
      (∀ k, k ≠ u.key → (s.exitNow u).troupe k = s.troupe k) ∧ (s.exitNow u).troupe u.key = some u.exitedNow ∧
      (((s.exitNow u).core u.core).islots.get (u.tslot % 4) {}).holder ≠ some u.tslot ∧ (s.exitNow u).book.cur = s.book.cur := by
  generalize dropped : (s.putTroupe u.exitedNow).dropHold u.core u.tslot = d
  have exits : s.exitNow u = d.tryRetire u.key := by rw [← dropped]; rfl
  have frame : d = { s.putTroupe u.exitedNow with cores := d.cores } := dropped ▸ State.dropHold_frame _ _ _
  have troupe (k : Nat) : d.troupe k = if u.key = k then some u.exitedNow else s.troupe k := by
    rw [← dropped, State.dropHold_troupe]
    exact State.troupe_putTroupe _ _ _
  have free : ((d.core u.core).islots.get (u.tslot % 4) {}).holder ≠ some u.tslot := dropped ▸ State.dropHold_free _ _ _
  obtain ⟨retired, cur, -⟩ := d.tryRetire_frame u.key
  have same (k : Nat) : (d.tryRetire u.key).troupe k = d.troupe k := by rw [retired]; rfl
  rw [exits]
  refine ⟨by rw [retired, frame]; rfl, fun k hk => ?_, ?_, by rw [retired]; exact free, cur.trans (by rw [frame]; rfl)⟩
  · rw [same, troupe, if_neg (Ne.symm hk)]
  · rw [same, troupe, if_pos rfl]

/-! ### What waiting and ending a run leave of a troupe -/

/-- Troupe v has the registers, the lanes and the reported exceptions of u, and has exited where u has. -/
def SameWork (u v : Troupe) : Prop :=
  v.reported = u.reported ∧ v.v = u.v ∧ v.s = u.s ∧ v.sticky = u.sticky ∧ v.ctl.exited = u.ctl.exited ∧ v.live = u.live

theorem SameWork.refl (u : Troupe) : SameWork u u := ⟨rfl, rfl, rfl, rfl, rfl, rfl⟩

theorem SameWork.trans {u v w : Troupe} (h1 : SameWork u v) (h2 : SameWork v w) : SameWork u w := by
  obtain ⟨a1, b1, c1, d1, e1, f1⟩ := h1
  obtain ⟨a2, b2, c2, d2, e2, f2⟩ := h2
  exact ⟨a2.trans a1, b2.trans b1, c2.trans c1, d2.trans d1, e2.trans e1, f2.trans f1⟩

/-- Between the states the mailboxes and the issuing troupe's number stay, and troupe k keeps its work. -/
def KeepsWork (k : Nat) (s t : State) : Prop :=
  t.mbx = s.mbx ∧ t.book.cur = s.book.cur ∧ ∀ u, s.troupe k = some u → ∃ v, t.troupe k = some v ∧ SameWork u v

namespace KeepsWork

variable {k : Nat} {s t : State}

theorem of_troupes (boxes : t.mbx = s.mbx) (cur : t.book.cur = s.book.cur) (troupes : t.troupes = s.troupes) : KeepsWork k s t :=
  ⟨boxes, cur, fun u h => ⟨u, by rw [State.troupe, troupes]; exact h, .refl u⟩⟩

theorem trans {r : State} (h1 : KeepsWork k s t) (h2 : KeepsWork k t r) : KeepsWork k s r := by
  obtain ⟨b1, c1, t1⟩ := h1
  obtain ⟨b2, c2, t2⟩ := h2
  refine ⟨b2.trans b1, c2.trans c1, fun u hu => ?_⟩
  obtain ⟨v, hv, same⟩ := t1 u hu
  obtain ⟨w, hw, same'⟩ := t2 v hv
  exact ⟨w, hw, same.trans same'⟩

theorem of_count (w event core n : Nat) : KeepsWork k s (s.count w event core n) :=
  of_troupes (State.count_mbx _ _ _ _ _) (State.count_cur _ _ _ _ _).1 (by rw [State.count_frame])

theorem of_dropHold (core tslot : Nat) : KeepsWork k s (s.dropHold core tslot) :=
  of_troupes (by rw [State.dropHold_frame]) (by rw [State.dropHold_frame]) (by rw [State.dropHold_frame])

/-- A troupe of another slot, or one that keeps its work, is put into its slot. -/
theorem of_put {j : Nat} {v : Troupe} (keeps : ∀ u, j = k → s.troupe k = some u → SameWork u v) :
    KeepsWork k s { s with troupes := s.troupes.put j v } := by
  refine ⟨rfl, rfl, fun u hu => ?_⟩
  by_cases here : j = k
  · exact ⟨v, (Table.find_put _ _ _ _).trans (if_pos here), keeps u here hu⟩
  · exact ⟨u, (Table.find_put _ _ _ _).trans ((if_neg here).trans hu), .refl u⟩

theorem of_modTroupe (j : Nat) {f : Troupe → Troupe} (keeps : ∀ u, SameWork u (f u)) : KeepsWork k s (s.modTroupe j f) := by
  unfold State.modTroupe
  split
  · exact of_troupes rfl rfl rfl
  · next x found =>
    refine of_put fun u here hu => ?_
    subst here
    obtain rfl : x = u := Option.some.inj (found.symm.trans hu)
    exact keeps x

/-- The issuing troupe keeps its work. -/
theorem of_setMe {v : Troupe} (keeps : SameWork s.me v) : KeepsWork k s (s.setMe v) :=
  of_put fun _ here hu => State.me_of_troupe here hu ▸ keeps

theorem of_divertNow (j : Nat) {x : Troupe} (cause : Nat) (here : ∀ u, j = k → s.troupe k = some u → SameWork u x) :
    KeepsWork k s (s.divertNow j x cause) := by
  unfold State.divertNow
  refine (of_put fun u same hu => (here u same hu).trans ?_).trans (of_count _ _ _ _)
  unfold Troupe.readyFrom
  split <;> exact ⟨rfl, rfl, rfl, rfl, rfl, rfl⟩

theorem of_boundary (j : Nat) : KeepsWork k s (s.boundary j) := by
  unfold State.boundary
  split
  · exact of_troupes rfl rfl rfl
  next x found =>
  have put {y : Troupe} (work : SameWork x y) : KeepsWork k s { s with troupes := s.troupes.put j y } := of_put fun u here hu => by
    subst here
    obtain rfl : x = u := Option.some.inj (found.symm.trans hu)
    exact work
  have divert (c : Nat) {y : Troupe} (work : SameWork x y) :
      KeepsWork k s (State.divertNow { s with troupes := s.troupes.put j y } j y c) :=
    (put work).trans (of_divertNow j c fun u here hu => by
      subst here
      obtain rfl : y = u := Option.some.inj (((Table.find_put s.troupes j j y).trans (if_pos rfl)).symm.trans hu)
      exact .refl y)
  have work : SameWork x { x with ctl := { x.ctl with readyAt := s.cycle, stalled := false } } := ⟨rfl, rfl, rfl, rfl, rfl, rfl⟩
  dsimp only
  split_ifs
  · exact put work
  · exact divert 1 work
  · exact divert 2 work
  · exact (put work).trans (of_troupes rfl rfl rfl)
  · exact put work

theorem of_endRun : KeepsWork k s s.endRun := (of_dropHold _ _).trans (of_boundary _)

theorem of_advance (len : Nat) (e : Bool) : KeepsWork k s (s.advance len e) := by
  have put : KeepsWork k s (s.setMe (behind s.me len)) := of_setMe ⟨rfl, rfl, rfl, rfl, rfl, rfl⟩
  cases e with
  | false => exact put
  | true => exact put.trans of_endRun

theorem of_endInWait : KeepsWork k s s.endInWait := by
  have drop : KeepsWork k s (s.dropHold s.me.core s.me.tslot) := of_dropHold _ _
  have cur : (s.dropHold s.me.core s.me.tslot).book.cur = s.book.cur := by rw [State.dropHold_book]
  have divert (c : Nat) := drop.trans (of_divertNow (k := k) (s.dropHold s.me.core s.me.tslot).book.cur (x := s.me) c
    fun u here hu => State.me_of_troupe (cur.symm.trans here) ((State.dropHold_troupe _ _ _ _).symm.trans hu) ▸ .refl u)
  unfold State.endInWait
  dsimp only
  split_ifs
  · exact drop
  · exact divert 1
  · exact divert 2
  · exact drop

theorem of_releasePassed (b : Bar) (ks : List Nat) : KeepsWork k s (s.releasePassed b ks) := by
  unfold State.releasePassed
  induction ks generalizing s with
  | nil => exact of_troupes rfl rfl rfl
  | cons j ks ih =>
    rw [List.foldl_cons]
    refine .trans ?_ ih
    split
    · split
      · split
        · exact of_modTroupe j fun u => ⟨rfl, rfl, rfl, rfl, rfl, rfl⟩
        · exact of_troupes rfl rfl rfl
      · exact of_troupes rfl rfl rfl
    · exact of_troupes rfl rfl rfl

end KeepsWork

/-! ### The completion test of an object that stands (R254) -/

theorem Bar.after_test_error (b : Bar) : (b.after .test).error = b.error := by
  have done : b.after .test = b.complete := rfl
  rw [done, Bar.complete]
  split <;> rfl

/-- The object at an address has not failed, nor is its row poisoned (R256, R429). -/
def Core.standing (c : Core) (a : Nat) : Prop := (c.bar a).error = false ∧ c.spadBad.contains (c.phys a / 16) = false

/-- The completion test of an object that stands may wake troupes, which keep their work. -/
theorem KeepsWork.of_barTest {k : Nat} {s : State} {core a : Nat} (stands : (s.core core).standing a) :
    KeepsWork k s (s.barDo core a .test) := by
  obtain ⟨well, whole⟩ := stands
  have error : (((s.core core).bar a).after .test).error = false := (Bar.after_test_error _).trans well
  show KeepsWork k s (State.barUnit (1024 + 1) s core a .test)
  unfold State.barUnit
  simp only [whole, error, Bool.false_eq_true, if_false, reduceCtorEq]
  refine .trans ?_ (KeepsWork.of_releasePassed _ _)
  exact KeepsWork.of_troupes rfl rfl rfl

/-- The same for the issuing troupe, at its logical time. -/
theorem KeepsWork.of_barMine {k : Nat} {s : State} {a : Nat} (stands : (s.core s.me.core).standing a) :
    KeepsWork k s (s.barMine a .test) := by
  generalize timed : s.modCore s.me.core (fun c => { c with srts := max c.srts s.me.pts }) = x
  have time : KeepsWork k s x := timed ▸ KeepsWork.of_troupes rfl rfl rfl
  have core : x.core s.me.core = { s.core s.me.core with srts := max (s.core s.me.core).srts s.me.pts } := by
    rw [← timed, State.core_modCore, if_pos rfl]
  have run : s.barMine a .test = (x.barDo s.me.core a .test).barStamp := by rw [← timed]; rfl
  rw [run]
  refine (time.trans (KeepsWork.of_barTest ?_)).trans (KeepsWork.of_setMe ⟨rfl, rfl, rfl, rfl, rfl, rfl⟩)
  rw [core]
  exact stands

/-! ### Report points (R137, R138) -/

theorem State.report_none {s : State} (none : s.src.newExceptions = 0) (go : State → Res) : s.report go = go s := if_pos none

/-- A report point where HALT is set halts the troupe with its record, and takes no effect. -/
theorem State.report_halts {s : State} (new : s.src.newExceptions ≠ 0) (plain : Plain s) (halts : s.src.haltEnabled = true)
    (go : State → Res) : ∃ t, s.report go = .next t ∧
      HaltedWith s t { s.src with reported := s.src.reported ||| s.src.newExceptions }
        (recordAt s s.src 0x0D 0 true s.me.pc (s.src.sticky.having s.src.newExceptions) (s.src.newExceptions.setWidth 64)) := by
  obtain ⟨free, quiet⟩ := plain
  generalize record : recordAt s s.src 0x0D 0 true s.me.pc (s.src.sticky.having s.src.newExceptions)
    (s.src.newExceptions.setWidth 64) = r
  generalize told : ({ s.src with reported := s.src.reported ||| s.src.newExceptions } : Troupe) = u
  have quiet' : (s.mailbox (s.world u.world).areas.faultMbx).arming = none := by rw [← told]; exact quiet
  have halted : HaltedWith s _ u r :=
    HaltedWith.of_modBook (State.haltWith_spec (s := s.modBook fun b => { b with chain := none }) r quiet')
  have free' : ((s.modBook fun b => { b with chain := none }).haltWith u r).isRuntime s.src = false := by
    have same := HaltedWith.isRuntime halted
    rw [← told] at same ⊢
    exact same.trans free
  refine ⟨_, ?_, halted⟩
  unfold State.report
  simp only [if_neg new, if_pos halts, State.recordOf_eq, record, told]
  subst told
  exact congrArg Host.Outcome.next (if_neg (Bool.eq_false_iff.1 free'))

/-- The troupe that has reported exceptions n with record r, and goes on. -/
def Troupe.reporting (u : Troupe) (n : BitVec 5) (r : List W64) : Troupe :=
  { u with reported := u.reported ||| n, ctl := { u.ctl with record := r } }

/-- A report point elsewhere posts its record, and takes effect on the troupe that has reported. -/
theorem State.report_goes {s : State} (new : s.src.newExceptions ≠ 0) (plain : Plain s) (key : s.me.key = s.book.cur)
    (world : s.me.world = s.src.world) (goes : s.src.haltEnabled = false) (go : State → Res) :
    let r := recordAt s s.src 0x0D 0 false s.me.pc (s.src.sticky.having s.src.newExceptions) (s.src.newExceptions.setWidth 64)
    ∃ x, s.report go = go x ∧ Posted s x s.me.world r ∧ x.cores = s.cores ∧ x.book.cur = s.book.cur ∧
      x.troupe s.book.cur = some (s.me.reporting s.src.newExceptions r) := by
  intro r
  obtain ⟨-, quiet⟩ := plain
  generalize put : s.putTroupe (s.me.reporting s.src.newExceptions r) = p
  have quiet' : (p.mailbox (p.world s.me.world).areas.faultMbx).arming = none := by
    rw [← put, world]
    exact quiet
  obtain ⟨frame, cur, -, posted⟩ := State.countAndTell_spec s.me.core r quiet'
  refine ⟨p.countAndTell s.me.world s.me.core r, ?_, ?_, ?_, ?_, ?_⟩
  · unfold State.report
    simp only [if_neg new, goes, Bool.false_eq_true, if_false, State.recordOf_eq]
    rw [← put]
    rfl
  · rw [← put] at posted ⊢
    exact posted
  · rw [frame, ← put]; rfl
  · rw [cur, ← put]; rfl
  · rw [frame, ← put]
    exact (State.troupe_putTroupe _ _ _).trans (if_pos key)

/-- An instruction that reports, and then does `go`, which posts nothing. -/
theorem reports_of_report {i : Instr} {s : State} {go : State → Res} {effect : Troupe → Prop} (run : exec i s = s.report go)
    (acts : ∀ x m n r, m = s.me.reporting n r → x.cores = s.cores → x.book.cur = s.book.cur → x.troupe s.book.cur = some m →
      m.key = s.book.cur → ∃ t u, go x = .next t ∧ t.mbx = x.mbx ∧ t.troupe s.book.cur = some u ∧
        (u.reported = m.reported ∧ u.v = m.v ∧ u.s = m.s ∧ u.sticky = m.sticky) ∧ effect u) : Reports i s effect := by
  intro new plain key world
  refine ⟨fun halts => ?_, fun goes => ?_⟩
  · obtain ⟨t, eq, halted⟩ := State.report_halts new plain halts go
    exact ⟨t, run.trans eq, halted⟩
  · obtain ⟨x, eq, posted, cores, cur, there⟩ := State.report_goes new plain key world goes go
    obtain ⟨t, u, next, boxes, here, ⟨reported, v, s', sticky⟩, effect⟩ := acts x _ _ _ rfl cores cur there key
    exact ⟨t, u, run.trans (eq.trans next), posted_of_mbx boxes posted, key ▸ here, reported, v, s', sticky, effect⟩

/-! ### `exit` and `lexit` (R121, R122) -/

theorem lexit_last {s : State} (e : Bool) (last : s.src.live &&& ~~~ s.src.exec = 0) :
    exec (.lexit e) s = s.report fun s => .next (s.exitNow s.me) := if_pos last

theorem lexit_some {s : State} (e : Bool) (more : s.src.live &&& ~~~ s.src.exec ≠ 0) :
    exec (.lexit e) s = s.done { s.me with live := s.src.live &&& ~~~ s.src.exec, exec := 0 } 1 e := if_neg more

/-- `exit`, and `lexit` that retires the last lanes, is a report point at which the troupe exits. -/
theorem exits_eq {e : Bool} {i : Instr} {s : State} (is : i = .exit e ∨ (i = .lexit e ∧ s.src.live &&& ~~~ s.src.exec = 0)) :
    exec i s = s.report fun s => .next (s.exitNow s.me) := by
  rcases is with rfl | ⟨rfl, last⟩
  · rfl
  · exact lexit_last e last

theorem exits_gives {e : Bool} {i : Instr} {s : State} (is : i = .exit e ∨ (i = .lexit e ∧ s.src.live &&& ~~~ s.src.exec = 0))
    (none : s.src.newExceptions = 0) : exec i s = .next (s.exitNow s.me) := (exits_eq is).trans (State.report_none none _)

theorem exits_reports {e : Bool} {i : Instr} {s : State} (is : i = .exit e ∨ (i = .lexit e ∧ s.src.live &&& ~~~ s.src.exec = 0)) :
    Reports i s fun u => u.ctl.exited = true ∧ u.live = 0 ∧ u.exec = 0 := by
  refine reports_of_report (exits_eq is) fun x m n r _ _ cur there key => ?_
  have me : x.me = m := State.me_of_troupe cur there
  obtain ⟨frame, -, exited, -⟩ := x.exitNow_spec m
  refine ⟨_, m.exitedNow, by rw [me], ?_, key ▸ exited, ⟨rfl, rfl, rfl, rfl⟩, rfl, rfl, rfl⟩
  have := congrArg State.mbx frame
  exact this

/-! ### `bar.wait` (R260, R262) -/

/-- What `bar.wait` does once it has reported, on the object at n. -/
def State.barWaits (s : State) (b : SSrc) (n : Nat) : Res :=
  let q : W32 := (sval b s.src).setWidth 32
  if (s.barFound s.me.core n).passed q then .next (((s.barMine n .test).advance (slen b) true).modTroupe s.book.cur fun t =>
    { t with ctl := { t.ctl with readyAt := s.cycle + 8 } })
  else
    let t := s.me
    let s := s.setMe { t with ctl := { t.ctl with
      wait := .bar n q (s.almOf t.core) (t.pc + w32 (slen b)), head := if s.src.pc = t.pc then none else some s.src.saved, stalled := false } }
    .next (s.barDo t.core n .test).endInWait

/-- On an object that stands `bar.wait` goes on or waits, and the troupe keeps its work. -/
theorem State.barWaits_keeps {s : State} (b : SSrc) {n : Nat} (stands : (s.core s.me.core).standing n) (k : Nat) :
    ∃ t, s.barWaits b n = .next t ∧ KeepsWork k s t := by
  unfold State.barWaits
  dsimp only
  split
  · exact ⟨_, rfl, ((KeepsWork.of_barMine stands).trans (KeepsWork.of_advance _ _)).trans
      (KeepsWork.of_modTroupe _ fun u => ⟨rfl, rfl, rfl, rfl, rfl, rfl⟩)⟩
  · refine ⟨_, rfl, .trans (.trans (KeepsWork.of_setMe ?_) (KeepsWork.of_barTest ?_)) KeepsWork.of_endInWait⟩
    · exact ⟨rfl, rfl, rfl, rfl, rfl, rfl⟩
    · exact stands

theorem barWait_eq (e : Bool) {a : Reg} (b : SSrc) {s : State} (cause : s.barCause s.src (s.src.sreg a.val) = none)
    (calm : s.src.busyOps = false) (stands : (s.core s.me.core).standing (s.src.sreg a.val).toNat) :
    exec (.barWait e a b) s = s.report fun s' => s'.barWaits b (s.src.sreg a.val).toNat := by
  obtain ⟨well, whole⟩ := stands
  have found : (s.barFound s.me.core (s.src.sreg a.val).toNat).error = false := by
    simp only [State.barFound, whole, Bool.false_eq_true, if_false, well]
  show execBarWait e a b s = _
  simp only [execBarWait, State.onBar, cause, calm, found, Bool.not_true, Bool.false_eq_true, if_false]
  rfl

theorem barWait_reports (e : Bool) {a : Reg} (b : SSrc) {s : State} (ready : BarReady s a)
    (well : ((s.core s.me.core).bar (s.src.sreg a.val).toNat).error = false) :
    Reports (.barWait e a b) s fun u => u.ctl.exited = s.me.ctl.exited ∧ u.live = s.me.live := by
  obtain ⟨cause, calm, -, whole, -⟩ := ready
  refine reports_of_report (barWait_eq e b cause calm ⟨well, whole⟩) fun x m n r is cores cur there _ => ?_
  have me : x.me = m := State.me_of_troupe cur there
  have core : x.core x.me.core = s.core s.me.core := by rw [me, is, State.core, cores]; rfl
  have stands : (x.core x.me.core).standing (s.src.sreg a.val).toNat := by rw [core]; exact ⟨well, whole⟩
  obtain ⟨t, run, boxes, -, troupe⟩ := x.barWaits_keeps b stands s.book.cur
  obtain ⟨u, here, reported, v, s', sticky, exited, live⟩ := troupe m there
  exact ⟨t, u, run, boxes, here, ⟨reported, v, s', sticky⟩, exited.trans (by rw [is]; rfl), live.trans (by rw [is]; rfl)⟩

/-- Settles O11: the timer instructions put the troupe back, `tret` and `yield` also end its run, and `exit`, the last
`lexit` and `bar.wait` are report points. -/
theorem timeAndRetirement : Obligations.TimeAndRetirement := by
  unfold Obligations.TimeAndRetirement
  refine ⟨fun e a b s => State.done_completes rfl rfl, fun e s => State.done_completes rfl rfl, fun e s => State.jump_completes rfl rfl,
    fun e s => State.done_completes rfl rfl, fun e s more => State.done_completes (lexit_some e more) rfl, fun e i s is none => ?_,
    fun e i s => exits_reports, fun e a b s => barWait_reports e b⟩
  obtain ⟨frame, others, exited, free, -⟩ := s.exitNow_spec s.me
  exact ⟨_, exits_gives is none, frame, others, ⟨_, exited, rfl, rfl⟩, free⟩

end Sys2Proof.Machine
end

section
/-! SUPPORT. Bytes, lanes and addresses of the scratchpad (R161 to R164, R193, R194): where an address stands, what the
lanes of an access read, and what stands after their writes. -/

namespace Sys2Proof.Machine

open Sys2Proof.Claims

/-! ### Bytes -/

theorem length_leBytes (n v : Nat) : (leBytes n v).length = n := by
  induction n generalizing v with
  | zero => rfl
  | succ n ih => rw [leBytes, List.length_cons, ih]

theorem length_laneBytes (t : Troupe) (d l n : Nat) : (laneBytes t d l n).length = 4 * n := by
  induction n generalizing d with
  | zero => rfl
  | succ n ih => rw [laneBytes, List.length_append, length_leBytes, ih]; omega

theorem Bytes.take_read (m : Bytes) (a : Nat) {k n : Nat} (h : k ≤ n) : (m.read a n).take k = m.read a k := by
  induction n generalizing a k with
  | zero => obtain rfl : k = 0 := by omega
            rfl
  | succ n ih =>
    cases k with
    | zero => rfl
    | succ k => rw [Bytes.read, Bytes.read, List.take_succ_cons, ih _ (by omega)]

theorem Bytes.drop_read (m : Bytes) (a n i : Nat) : (m.read a n).drop i = m.read (a + i) (n - i) := by
  induction i generalizing a n with
  | zero => rfl
  | succ i ih =>
    cases n with
    | zero => simp [Bytes.read]
    | succ n => rw [Bytes.read, List.drop_succ_cons, ih, Nat.add_right_comm, Nat.add_assoc, Nat.succ_sub_succ]

/-- A part of the bytes of a range. -/
theorem Bytes.part_read (m : Bytes) (a : Nat) {i k n : Nat} (h : i + k ≤ n) : ((m.read a n).drop i).take k = m.read (a + i) k := by
  rw [Bytes.drop_read, Bytes.take_read _ _ (by omega)]

/-! ### Lanes of a load (R193) -/

theorem Troupe.putLane_frame (t : Troupe) (d l : Nat) (sext : Bool) (bs : List Byte) (n : Nat) :
    t.putLane d l sext bs n = { t with v := (t.putLane d l sext bs n).v } := by
  induction n generalizing t d bs with
  | zero => rfl
  | succ n ih => rw [Troupe.putLane, ih, Troupe.setV_frame]

/-- Word j of a lane's bytes goes to the lane of register d + j; every other lane stays. -/
theorem Troupe.vreg_putLane (t : Troupe) {d l : Nat} (bs : List Byte) {n : Nat} (room : d + n ≤ 64) (lane : l < 128) (r l' : Nat) :
    ((t.putLane d l false bs n).vreg r).lane l' =
      if l = l' ∧ d ≤ r ∧ r < d + n then w32 (leNat ((bs.drop (4 * (r - d))).take 4)) else (t.vreg r).lane l' := by
  induction n generalizing t d bs with
  | zero => rw [if_neg (by omega)]; rfl
  | succ n ih =>
    rw [Troupe.putLane, ih _ _ (by omega), List.drop_drop]
    by_cases behind : l = l' ∧ d + 1 ≤ r ∧ r < d + 1 + n
    · have same : 4 + 4 * (r - (d + 1)) = 4 * (r - d) := by omega
      rw [if_pos behind, if_pos (by omega), same]
    · rw [if_neg behind, Troupe.vreg_setV]
      by_cases here : d = r
      · subst here
        rw [if_pos ⟨rfl, by omega⟩, Lanes.lane_setLane]
        by_cases own : l = l'
        · rw [if_pos ⟨own, lane⟩, if_pos (⟨own, le_refl d, by omega⟩ : l = l' ∧ d ≤ d ∧ d < d + (n + 1)), Nat.sub_self]
          rfl
        · rw [if_neg (by omega), if_neg (by omega)]
      · rw [if_neg (by omega), if_neg (by omega)]

theorem Troupe.putLoad_frame (t : Troupe) (n : Nat) (sext : Bool) (d : Nat) (got : List (Nat × List Byte)) :
    t.putLoad n sext d got = { t with v := (t.putLoad n sext d got).v } := by
  unfold Troupe.putLoad
  induction got generalizing t with
  | nil => rfl
  | cons x got ih => rw [List.foldl_cons, ih, Troupe.putLane_frame]

section

variable {n d : Nat} (room : d + (n + 3) / 4 ≤ 64)

include room

/-- Lanes that a load does not have, and registers that it does not have, stay. -/
theorem Troupe.vreg_putLoad_other (t : Troupe) {got : List (Nat × List Byte)} (lanes : ∀ x ∈ got, x.1 < 128) {r l : Nat}
    (other : r < d ∨ d + (n + 3) / 4 ≤ r ∨ ∀ x ∈ got, x.1 ≠ l) :
    ((t.putLoad n false d got).vreg r).lane l = (t.vreg r).lane l := by
  unfold Troupe.putLoad
  induction got generalizing t with
  | nil => rfl
  | cons x got ih =>
    rw [List.foldl_cons, ih _ (fun y hy => lanes y (by simp [hy])) (by simp at other; tauto),
      Troupe.vreg_putLane t x.2 room (lanes x (by simp)), if_neg]
    rintro ⟨same, low, high⟩
    rcases other with below | above | absent
    · omega
    · omega
    · exact absent x (by simp) same

/-- A lane of a load of distinct lanes gets its words. -/
theorem Troupe.vreg_putLoad_lane (t : Troupe) {got : List (Nat × List Byte)} (lanes : ∀ x ∈ got, x.1 < 128)
    (distinct : (got.map (·.1)).Nodup) {x : Nat × List Byte} (mem : x ∈ got) {j : Nat} (small : j < (n + 3) / 4) :
    ((t.putLoad n false d got).vreg (d + j)).lane x.1 = w32 (leNat ((x.2.drop (4 * j)).take 4)) := by
  induction got generalizing t with
  | nil => cases mem
  | cons y got ih =>
    rw [List.map_cons, List.nodup_cons] at distinct
    obtain ⟨first, distinct⟩ := distinct
    rcases List.mem_cons.1 mem with rfl | later
    · have rest := Troupe.vreg_putLoad_other (d := d) room (t.putLane d x.1 false x.2 ((n + 3) / 4))
        (fun y hy => lanes y (by simp [hy])) (r := d + j) (l := x.1)
        (.inr (.inr fun y hy same => first (List.mem_map.2 ⟨y, hy, same⟩)))
      refine rest.trans ?_
      rw [Troupe.vreg_putLane t x.2 room (lanes x (by simp)), if_pos (by omega), Nat.add_sub_cancel_left]
    · exact ih _ (fun y hy => lanes y (by simp [hy])) distinct later

end

/-! ### Where addresses stand (R161, R273) -/

/-- An address stands as it is, or in the odd plot of the exchange pair in whose even plot it lies. -/
theorem Core.phys_cases (c : Core) (a : Nat) : c.phys a = a ∨
    (c.phys a = a + 16384 ∧ a / 16384 % 2 = 0 ∧ (c.xtab.find (a / 32768)).isSome = true) := by
  unfold Core.phys
  split
  · next x found =>
    split
    · next even => exact .inr ⟨rfl, even.1, by rw [found]; rfl⟩
    · exact .inl rfl
  · exact .inl rfl

/-- Addresses of one plot keep their distances. -/
theorem Core.phys_add (c : Core) {a i : Nat} (plot : (a + i) / 16384 = a / 16384) : c.phys (a + i) = c.phys a + i := by
  have pair : (a + i) / 32768 = a / 32768 := by omega
  unfold Core.phys
  rw [pair, plot]
  split
  · split <;> omega
  · rfl

/-- An access width of the scratchpad. -/
def isWidth (n : Nat) : Prop := n = 4 ∨ n = 8 ∨ n = 16

/-- Aligned accesses to different addresses of a world's plots stand apart. -/
theorem Core.phys_apart {c : Core} {w n a b : Nat} (width : isWidth n) (plotA : c.plotOk w a = true) (plotB : c.plotOk w b = true)
    (alignA : a % n = 0) (alignB : b % n = 0) (other : a ≠ b) : c.phys a + n ≤ c.phys b ∨ c.phys b + n ≤ c.phys a := by
  have even {x : Nat} (plot : c.plotOk w x = true) (pair : (c.xtab.find (x / 32768)).isSome = true) : x / 16384 % 2 ≠ 1 := by
    intro odd
    simp [Core.plotOk, pair, odd] at plot
  have pairOf {x y : Nat} (next : y = x + 16384) (low : x / 16384 % 2 = 0) (pair : (c.xtab.find (x / 32768)).isSome = true)
      (plot : c.plotOk w y = true) : False := by
    have same : y / 32768 = x / 32768 := by omega
    exact even plot (same ▸ pair) (by omega)
  rcases c.phys_cases a with pa | ⟨pa, lowA, pairA⟩ <;> rcases c.phys_cases b with pb | ⟨pb, lowB, pairB⟩ <;> rw [pa, pb]
  · rcases width with rfl | rfl | rfl <;> omega
  · have : a ≠ b + 16384 := fun next => pairOf next lowB pairB plotA
    rcases width with rfl | rfl | rfl <;> omega
  · have : b ≠ a + 16384 := fun next => pairOf next lowA pairA plotB
    rcases width with rfl | rfl | rfl <;> omega
  · rcases width with rfl | rfl | rfl <;> omega

/-- Word j of an aligned access, read by itself. -/
theorem Core.spadRead_part (c : Core) {n a j : Nat} (width : isWidth n) (align : a % n = 0) (inside : j < n / 4) :
    ((c.spadRead a n).drop (4 * j)).take 4 = c.spadRead (a + 4 * j) 4 := by
  have plot : (a + 4 * j) / 16384 = a / 16384 := by rcases width with rfl | rfl | rfl <;> omega
  unfold Core.spadRead
  rw [c.phys_add plot]
  exact Bytes.part_read _ _ (by rcases width with rfl | rfl | rfl <;> omega)

end Sys2Proof.Machine
end

section
/-! SUPPORT. Scratchpad loads and stores (R161 to R164, R193, R194): the lanes that pass the checks, what a load leaves in
their registers, and what a store leaves at their addresses. -/

namespace Sys2Proof.Machine

open Sys2Proof.Claims

/-! ### Lanes that pass the checks (R187) -/

/-- The lanes that pass are among those that were checked, in their order. -/
theorem gatherLanes_go {outs : List (Nat × W64 × LaneOut)} {ok : List LaneOp} {missed : List (Nat × W64)}
    (h : gatherLanes outs = .go ok missed) : (ok.map (·.lane)).Sublist (outs.map (·.1)) ∧
      ∀ o ∈ ok, ∃ va na, (o.lane, va, LaneOut.ok o.pa na) ∈ outs := by
  unfold gatherLanes at h
  dsimp only at h
  split at h
  · cases h
  · next unfailing =>
    injection h with oks misses
    subst oks misses
    refine ⟨?_, fun o ho => ?_⟩
    · clear unfailing
      induction outs with
      | nil => exact List.Sublist.slnil
      | cons x outs ih =>
        obtain ⟨l, va, o⟩ := x
        cases o with
        | ok pa na => exact ih.cons_cons l
        | miss => exact ih.cons l
        | bad step cause => exact ih.cons l
    · obtain ⟨⟨l, va, out⟩, mem, some⟩ := List.mem_filterMap.1 ho
      cases out with
      | ok pa na => cases some; exact ⟨va, na, mem⟩
      | _ => cases some

/-- Each lane's place is aligned and in a plot of the world. -/
def Placed (c : Core) (w n : Nat) (ok : List LaneOp) : Prop := ∀ o ∈ ok, o.pa % n = 0 ∧ c.plotOk w o.pa = true

theorem State.checkSpad_placed {s : State} {t : Troupe} {n : Nat} {lanes : List (Nat × W64)} {ok : List LaneOp}
    {missed : List (Nat × W64)} (h : s.checkSpad t n lanes = .go ok missed) :
    Placed (s.core t.core) t.world n ok ∧ (ok.map (·.lane)).Sublist (lanes.map (·.1)) := by
  obtain ⟨order, from_⟩ := gatherLanes_go h
  rw [List.map_map] at order
  refine ⟨fun o ho => ?_, order⟩
  obtain ⟨va, na, mem⟩ := from_ o ho
  obtain ⟨⟨l, a⟩, -, eq⟩ := List.mem_map.1 mem
  obtain ⟨-, -, out⟩ : l = o.lane ∧ a = va ∧ s.checkPlace t.core t.world n a = .ok o.pa na := by simpa using eq
  unfold State.checkPlace at out
  split_ifs at out with range align plot whole
  obtain ⟨place, -⟩ : a.toNat = o.pa ∧ false = na := by simpa using out
  exact place ▸ ⟨not_not.1 align, by simpa using plot⟩

/-- The lanes of a mask ascend. -/
theorem lanesOf_ascend (m : Mask) : (lanesOf m).Pairwise (· < ·) := List.Pairwise.filter _ List.pairwise_lt_range

/-- The lanes of a vector access that pass its checks ascend, and are lanes. -/
theorem State.checkSpad_lanes {s : State} {t : Troupe} {n : Nat} {g : Guard} {addr : Nat → W64} {ok : List LaneOp}
    {missed : List (Nat × W64)} (h : s.checkSpad t n ((s.memLanes g).map fun l => (l, addr l)) = .go ok missed) :
    (ok.map (·.lane)).Pairwise (· < ·) ∧ ∀ o ∈ ok, o.lane < 128 := by
  obtain ⟨-, order⟩ := State.checkSpad_placed h
  rw [List.map_map, show (fun x : Nat × W64 => x.1) ∘ (fun l => (l, addr l)) = id from rfl, List.map_id] at order
  refine ⟨(lanesOf_ascend _).sublist order, fun o ho => ?_⟩
  have mem := order.subset (List.mem_map.2 ⟨o, ho, rfl⟩)
  exact inMask_lt ((mem_lanesOf _ _).1 mem)

/-! ### What a scratchpad access touches -/

/-- Nothing differs but the scratchpads and their times. -/
def TouchesSpad (s x : State) : Prop :=
  { x with cores := s.cores, maxTs := s.maxTs } = s ∧
  ∀ k, { x.core k with spad := (s.core k).spad, spadBad := (s.core k).spadBad, swts := (s.core k).swts
                       srts := (s.core k).srts } = s.core k

theorem onlyScratchpad_of {s x t : State} (touches : TouchesSpad s x) (only : OnlyIssuer x t) : OnlyScratchpad s t := by
  obtain ⟨frame, cores⟩ := touches
  obtain ⟨same, others⟩ := only
  have troupes : x.troupes = s.troupes := by
    have := congrArg State.troupes frame
    exact this
  have cur : x.book.cur = s.book.cur := by
    have := congrArg (fun y : State => y.book.cur) frame
    exact this
  have core (k : Nat) : t.core k = x.core k := by
    have := congrArg (fun y : State => y.core k) same
    exact this
  refine ⟨?_, fun k hk => (others k (cur ▸ hk)).trans (by rw [State.troupe, troupes]; rfl), fun k => by rw [core]; exact cores k⟩
  have := congrArg (fun y : State => { y with troupes := s.troupes, cores := s.cores, maxTs := s.maxTs }) same
  have stood := congrArg (fun y : State => { y with troupes := s.troupes }) frame
  exact this.trans stood

/-! ### Loads -/

/-- The state in which a scratchpad load of the issuing troupe finds the bytes: the scratchpad's times have gone on. -/
def State.loadsSpad (s : State) : State := (s.spadReadTs s.me.core s.me.pts).1

theorem State.loadsSpad_spec (s : State) : TouchesSpad s s.loadsSpad ∧
    ∀ k, (s.loadsSpad.core k).spad = (s.core k).spad ∧ (s.loadsSpad.core k).xtab = (s.core k).xtab := by
  obtain ⟨frame, cores⟩ := s.readsIndex_spec true s.me.core
  have cores' (k : Nat) : { s.loadsSpad.core k with srts := (s.core k).srts } = s.core k := cores k
  refine ⟨⟨frame, fun k => ?_⟩, fun k => ⟨?_, ?_⟩⟩
  · have := congrArg (fun c : Core => { c with spad := (s.core k).spad, spadBad := (s.core k).spadBad, swts := (s.core k).swts }) (cores' k)
    exact this
  · have := congrArg Core.spad (cores' k)
    exact this
  · have := congrArg Core.xtab (cores' k)
    exact this

theorem Core.phys_of_xtab {c c' : Core} (same : c'.xtab = c.xtab) (a : Nat) : c'.phys a = c.phys a := by
  rw [Core.phys, same, ← Core.phys]

theorem State.loadsSpad_read (s : State) (k a n : Nat) : (s.loadsSpad.core k).spadRead a n = (s.core k).spadRead a n := by
  obtain ⟨-, cores⟩ := s.loadsSpad_spec
  obtain ⟨bytes, pairs⟩ := cores k
  rw [Core.spadRead, Core.spadRead, bytes, Core.phys_of_xtab pairs]

theorem State.onSpad_of_go {s : State} {access n : Nat} {scalar : Bool} {lanes : List (Nat × W64)} {ok : List LaneOp}
    {missed : List (Nat × W64)} (calm : s.src.busyOps = false) (checked : s.checkSpad s.src n lanes = .go ok missed)
    (go : List LaneOp → Res) : s.onSpad access n scalar lanes go = go ok := by
  simp only [State.onSpad, checked, calm, Bool.false_eq_true, if_false]

theorem State.spadLoad_eq {s : State} {g : Guard} {n d : Nat} {m : MAddr} {ok : List LaneOp} {missed : List (Nat × W64)}
    (acts : s.memLanes g ≠ []) (calm : s.src.busyOps = false)
    (checked : s.checkSpad s.src n ((s.memLanes g).map fun l => (l, laneAddr s.src m l)) = .go ok missed) (e : Bool) :
    s.spadLoad n e g d m = s.loadsSpad.done { s.me.putLoad n false d
      (ok.map fun o => (o.lane, (s.core s.me.core).spadRead o.pa n)) with pts := (s.spadReadTs s.me.core s.me.pts).2 } 2 e := by
  have acts : (s.memLanes g).isEmpty = false := by simpa using acts
  unfold State.spadLoad
  simp only [acts, Bool.false_eq_true, if_false, State.onSpad_of_go calm checked]
  simp only [← s.loadsSpad_read]
  rfl

theorem spadLoad_spadLoads {i : Instr} {e : Bool} {g : Guard} {m : MAddr} {n d : Nat} (width : isWidth n) (room : d + n / 4 ≤ 64)
    (run : ∀ s, exec i s = s.spadLoad n e g d m) : SpadLoads i e g m n d := by
  have words : (n + 3) / 4 = n / 4 := by rcases width with rfl | rfl | rfl <;> rfl
  refine ⟨fun s ok missed acts calm checked => ?_, fun s none => ?_⟩
  · obtain ⟨touches, bytes⟩ := s.loadsSpad_spec
    obtain ⟨placed, -⟩ := State.checkSpad_placed checked
    obtain ⟨ascend, lanes⟩ := State.checkSpad_lanes checked
    generalize got : ok.map (fun o => (o.lane, (s.core s.me.core).spadRead o.pa n)) = l
    have small : ∀ x ∈ l, x.1 < 128 := fun x hx => by
      rw [← got] at hx
      obtain ⟨o, ho, rfl⟩ := List.mem_map.1 hx
      exact lanes o ho
    have distinct : (l.map (·.1)).Nodup := by
      rw [← got, List.map_map]
      exact ascend.imp Nat.ne_of_lt
    obtain ⟨t, eq, only, me⟩ := s.loadsSpad.done_spec { s.me.putLoad n false d l with pts := (s.spadReadTs s.me.core s.me.pts).2 } 2 e
    have core (k : Nat) : t.core k = s.loadsSpad.core k := by
      have := congrArg (fun y : State => y.core k) only.1
      exact this
    have vreg (r : Nat) : t.me.vreg r = (s.me.putLoad n false d l).vreg r := by rw [me]; rfl
    refine ⟨t, (run s).trans ((State.spadLoad_eq acts calm checked e).trans (got ▸ eq)), onlyScratchpad_of touches only,
      fun c a => by rw [core, (bytes c).1], ?_, fun o ho j hj => ?_, fun r l' other => ?_⟩
    · rw [me, Troupe.putLoad_frame]; rfl
    · have mem : (o.lane, (s.core s.me.core).spadRead o.pa n) ∈ l := got ▸ List.mem_map.2 ⟨o, ho, rfl⟩
      rw [vreg, Troupe.vreg_putLoad_lane (words ▸ room) _ small distinct mem (words ▸ hj),
        Core.spadRead_part _ width (placed o ho).1 hj]
    · rw [vreg, Troupe.vreg_putLoad_other (words ▸ room) _ small]
      rw [words]
      refine other.imp_right (Or.imp_right fun absent x hx => ?_)
      rw [← got] at hx
      obtain ⟨o, ho, rfl⟩ := List.mem_map.1 hx
      exact absent o ho
  · refine advance_completes ?_
    rw [run, State.spadLoad]
    simp [none]

/-! ### Stores -/

/-- The writes of a store's lanes, each with its data. -/
def Core.stores (c : Core) (data : LaneOp → List Byte) (ok : List LaneOp) : Core :=
  ok.foldl (fun c o => c.spadWrite o.pa (data o)) c

theorem Core.stores_frame (c : Core) (data : LaneOp → List Byte) (ok : List LaneOp) :
    c.stores data ok = { c with spad := (c.stores data ok).spad, spadBad := (c.stores data ok).spadBad } := by
  unfold Core.stores
  induction ok generalizing c with
  | nil => rfl
  | cons o ok ih => rw [List.foldl_cons, ih]; rfl

theorem Core.stores_phys (c : Core) (data : LaneOp → List Byte) (ok : List LaneOp) (a : Nat) : (c.stores data ok).phys a = c.phys a :=
  Core.phys_of_xtab (by rw [Core.stores_frame]) a

theorem Core.stores_wf {c : Core} (wf : c.spad.wf = true) (data : LaneOp → List Byte) (ok : List LaneOp) :
    (c.stores data ok).spad.wf = true := by
  unfold Core.stores
  induction ok generalizing c with
  | nil => exact wf
  | cons o ok ih => exact ih (c := c.spadWrite o.pa (data o)) (Bytes.wf_write wf _ _)

/-- A byte where no lane stores stays. -/
theorem Core.stores_byte {c : Core} (wf : c.spad.wf = true) {data : LaneOp → List Byte} {ok : List LaneOp} {a : Nat}
    (outside : ∀ o ∈ ok, ¬ (c.phys o.pa ≤ a ∧ a < c.phys o.pa + (data o).length)) :
    (c.stores data ok).spad.byte a = c.spad.byte a := by
  unfold Core.stores
  induction ok generalizing c with
  | nil => rfl
  | cons o ok ih =>
    refine (ih (c := c.spadWrite o.pa (data o)) (Bytes.wf_write wf _ _) fun p hp => outside p (by simp [hp])).trans ?_
    exact (Bytes.byte_write wf _ _ _).trans (if_neg (outside o (by simp)))

/-- A lane's data stand where it stored them, as no later lane has stored there. -/
theorem Core.stores_read {c : Core} (wf : c.spad.wf = true) {data : LaneOp → List Byte} (before : List LaneOp) (o : LaneOp)
    {after : List LaneOp} (apart : ∀ p ∈ after, c.phys o.pa + (data o).length ≤ c.phys p.pa ∨ c.phys p.pa + (data p).length ≤ c.phys o.pa) :
    (c.stores data (before ++ o :: after)).spadRead o.pa (data o).length = data o := by
  have split : c.stores data (before ++ o :: after) = ((c.stores data before).spadWrite o.pa (data o)).stores data after := by
    rw [Core.stores, List.foldl_append]; rfl
  have wf' := Core.stores_wf wf data before
  have phys (a : Nat) : ((c.stores data before).spadWrite o.pa (data o)).phys a = c.phys a := Core.stores_phys c data before a
  rw [Core.spadRead, split, Core.stores_phys, phys]
  have kept : (((c.stores data before).spadWrite o.pa (data o)).stores data after).spad.read (c.phys o.pa) (data o).length =
      ((c.stores data before).spadWrite o.pa (data o)).spad.read (c.phys o.pa) (data o).length :=
    Bytes.read_congr fun k low high => Core.stores_byte (Bytes.wf_write wf' _ _) fun p hp => by
      rw [phys]
      have := apart p hp
      omega
  rw [kept]
  show ((c.stores data before).spad.write ((c.stores data before).phys o.pa) (data o)).read _ _ = _
  rw [Core.stores_phys]
  exact Bytes.read_write wf' _ _

/-- The state behind a scratchpad store of the issuing troupe, which has changed its core as F says. -/
def State.storesSpad (s : State) (F : Core → Core) : State := (s.spadWriteTs s.src.core s.me.pts).1.modCore s.src.core F

/-- A change of a scratchpad and its poisoned rows alone. -/
def SpadOnly (F : Core → Core) : Prop := ∀ c, F c = { c with spad := (F c).spad, spadBad := (F c).spadBad }

/-- The time of a scratchpad store (R207). -/
theorem State.core_spadWriteTs (s : State) (c p k : Nat) : (s.spadWriteTs c p).1.core k = if c = k then
    { s.core c with swts := max p ((s.core c).srts + 1), srts := max p ((s.core c).srts + 1) } else s.core k :=
  State.core_modCore s c k fun x => { x with swts := max p ((s.core c).srts + 1), srts := max p ((s.core c).srts + 1) }

theorem State.storesSpad_spec (s : State) {F : Core → Core} (spadOnly : SpadOnly F) :
    TouchesSpad s (s.storesSpad F) ∧ (∀ k, k ≠ s.src.core → (s.storesSpad F).core k = s.core k) ∧
      ∃ ts, (s.storesSpad F).core s.src.core = F { s.core s.src.core with swts := ts, srts := ts } := by
  have others (k : Nat) (other : k ≠ s.src.core) : (s.storesSpad F).core k = s.core k := by
    rw [State.storesSpad, State.core_modCore, if_neg (Ne.symm other), State.core_spadWriteTs, if_neg (Ne.symm other)]
  have own : (s.storesSpad F).core s.src.core = F { s.core s.src.core with
      swts := max s.me.pts ((s.core s.src.core).srts + 1), srts := max s.me.pts ((s.core s.src.core).srts + 1) } := by
    rw [State.storesSpad, State.core_modCore, if_pos rfl, State.core_spadWriteTs, if_pos rfl]
  refine ⟨⟨rfl, fun k => ?_⟩, others, _, own⟩
  by_cases same : k = s.src.core
  · rw [same, own, spadOnly]
  · rw [others k same]

/-- What a scratchpad store leaves: at each lane's address its data, where no later lane has stored, and elsewhere the
bytes that stood there (R194). -/
theorem State.storesSpad_bytes {s : State} {F : Core → Core} {n w : Nat} {ok : List LaneOp} {data : LaneOp → List Byte} (width : isWidth n)
    (spadOnly : SpadOnly F) (stores : ∀ c, (F c).spad = (c.stores data ok).spad) (wf : (s.core s.src.core).spad.wf = true)
    (placed : Placed (s.core s.src.core) w n ok) (length : ∀ o, (data o).length = n) :
    (∀ c a, (c = s.src.core → ∀ o ∈ ok, ¬ ((s.core c).phys o.pa ≤ a ∧ a < (s.core c).phys o.pa + n)) →
      ((s.storesSpad F).core c).spad.byte a = (s.core c).spad.byte a) ∧
    ∀ before o after, ok = before ++ o :: after → (∀ p ∈ after, p.pa ≠ o.pa) →
      ((s.storesSpad F).core s.src.core).spadRead o.pa n = data o := by
  obtain ⟨-, others, ts, own⟩ := s.storesSpad_spec spadOnly
  generalize timed : ({ s.core s.src.core with swts := ts, srts := ts } : Core) = c at own
  have wf' : c.spad.wf = true := by rw [← timed]; exact wf
  have phys (a : Nat) : c.phys a = (s.core s.src.core).phys a := Core.phys_of_xtab (by rw [← timed]) a
  refine ⟨fun k a outside => ?_, fun before o after split later => ?_⟩
  · by_cases same : k = s.src.core
    · subst same
      rw [own, stores, Core.stores_byte wf' fun o ho => by rw [phys, length]; exact outside rfl o ho, ← timed]
    · rw [others k same]
  · have read : ((s.storesSpad F).core s.src.core).spadRead o.pa n = (c.stores data ok).spadRead o.pa n := by
      rw [own, Core.spadRead, Core.spadRead, stores, Core.stores_phys]
      exact congrArg (fun a => Bytes.read _ a n) (Core.phys_of_xtab (by rw [spadOnly]) _)
    have stood := Core.stores_read wf' (data := data) before o (after := after) fun p hp => by
      have mem {q : LaneOp} (h : q ∈ o :: after) : q ∈ ok := split ▸ List.mem_append_right _ h
      obtain ⟨alignO, plotO⟩ := placed o (mem (by simp))
      obtain ⟨alignP, plotP⟩ := placed p (mem (by simp [hp]))
      rw [phys, phys, length, length]
      exact Core.phys_apart width plotO plotP alignO alignP (Ne.symm (later p hp))
    rw [length, ← split] at stood
    exact read.trans stood

/-- A scratchpad store that has passed its checks, by the change F of its core. -/
theorem State.storesSpad_done {i : Instr} {s : State} {e : Bool} {F : Core → Core} {n w : Nat} {ok : List LaneOp}
    {data : LaneOp → List Byte} (run : exec i s = (s.storesSpad F).done { s.me with pts := (s.spadWriteTs s.src.core s.me.pts).2 } 2 e)
    (width : isWidth n) (spadOnly : SpadOnly F) (stores : ∀ c, (F c).spad = (c.stores data ok).spad)
    (wf : (s.core s.src.core).spad.wf = true) (placed : Placed (s.core s.src.core) w n ok) (length : ∀ o, (data o).length = n) :
    ∃ t, exec i s = .next (ended e t) ∧ OnlyScratchpad s t ∧ t.me = { behind s.me 2 with pts := t.me.pts } ∧
      (∀ c a, (c = s.src.core → ∀ o ∈ ok, ¬ ((s.core c).phys o.pa ≤ a ∧ a < (s.core c).phys o.pa + n)) →
        (t.core c).spad.byte a = (s.core c).spad.byte a) ∧
      ∀ before o after, ok = before ++ o :: after → (∀ p ∈ after, p.pa ≠ o.pa) →
        (t.core s.src.core).spadRead o.pa n = data o := by
  obtain ⟨touches, -, -⟩ := s.storesSpad_spec spadOnly
  obtain ⟨outside, stood⟩ := State.storesSpad_bytes width spadOnly stores wf placed length
  obtain ⟨t, eq, only, me⟩ := (s.storesSpad F).done_spec { s.me with pts := (s.spadWriteTs s.src.core s.me.pts).2 } 2 e
  have core (k : Nat) : t.core k = (s.storesSpad F).core k := by
    have := congrArg (fun y : State => y.core k) only.1
    exact this
  refine ⟨t, run.trans eq, onlyScratchpad_of touches only, ?_, fun c a out => ?_, fun before o after split later => ?_⟩
  · rw [me]; rfl
  · rw [core]; exact outside c a out
  · rw [core]; exact stood before o after split later

theorem spadStore_spadStores {i : Instr} {e : Bool} {g : Guard} {m : MAddr} {n d : Nat} (width : isWidth n)
    (run : ∀ s, exec i s = s.spadStore n e g d m) : SpadStores i e g m n d := by
  refine ⟨fun s ok missed acts calm wf checked => ?_, fun s none => ?_⟩
  · have acts' : (s.memLanes g).isEmpty = false := by simpa using acts
    obtain ⟨placed, -⟩ := State.checkSpad_placed checked
    obtain ⟨ascend, -⟩ := State.checkSpad_lanes checked
    have exact_ : exec i s = (s.storesSpad fun c =>
        (c.stores (fun o => laneBytes s.src d o.lane (n / 4)) ok).healRows (ok.map fun o => (c.phys o.pa, n))).done
          { s.me with pts := (s.spadWriteTs s.src.core s.me.pts).2 } 2 e := by
      rw [run]
      unfold State.spadStore
      simp only [acts', Bool.false_eq_true, if_false, State.onSpad_of_go calm checked]
      rfl
    obtain ⟨t, eq, only, me, outside, stood⟩ := State.storesSpad_done exact_ width
      (fun c => by rw [Core.healRows, Core.stores_frame]) (fun c => rfl) wf placed
      (fun o => by rw [length_laneBytes]; rcases width with rfl | rfl | rfl <;> rfl)
    refine ⟨t, eq, only, me, outside, fun o ho later => ?_⟩
    obtain ⟨before, after, split⟩ := List.append_of_mem ho
    refine stood before o after split fun p hp => later p (split ▸ List.mem_append_right _ (List.mem_cons_of_mem _ hp)) ?_
    rw [split, List.map_append, List.map_cons, List.pairwise_append, List.pairwise_cons] at ascend
    exact ascend.2.1.1 p.lane (List.mem_map.2 ⟨p, hp, rfl⟩)
  · refine advance_completes ?_
    rw [run, State.spadStore]
    simp [none]

/-! ### The scalar accesses -/

theorem slds_loads {e : Bool} {d : Reg} {m : SAddr} {la : Fin 16} {s : State} {o : LaneOp} {missed : List (Nat × W64)}
    (calm : s.src.busyOps = false) (checked : s.checkSpad s.src 8 [(0, scalarAddr s.src m)] = .go [o] missed) :
    ∃ t, exec (.slds e d m la) s = .next (ended e t) ∧ OnlyScratchpad s t ∧
      (∀ c a, (t.core c).spad.byte a = (s.core c).spad.byte a) ∧
      ScalarWritten s d.val 2 (BitVec.ofNat 64 (leNat ((s.core s.me.core).spadRead o.pa 8))) { t.me with pts := s.me.pts } := by
  obtain ⟨touches, bytes⟩ := s.loadsSpad_spec
  generalize read : (BitVec.ofNat 64 (leNat ((s.core s.me.core).spadRead o.pa 8)) : W64) = x
  have run : exec (.slds e d m la) s =
      s.loadsSpad.done { s.me.setS d.val x with pts := (s.spadReadTs s.me.core s.me.pts).2 } 2 e := by
    rw [← read, ← s.loadsSpad_read]
    exact State.onSpad_of_go calm checked _
  obtain ⟨t, eq, only, me⟩ := s.loadsSpad.done_spec { s.me.setS d.val x with pts := (s.spadReadTs s.me.core s.me.pts).2 } 2 e
  have core (k : Nat) : t.core k = s.loadsSpad.core k := by
    have := congrArg (fun y : State => y.core k) only.1
    exact this
  refine ⟨t, run.trans eq, onlyScratchpad_of touches only, fun c a => by rw [core, (bytes c).1], scalarWritten_of_setS ?_ ?_⟩
  · rw [me, s.me.setS_frame]; rfl
  · rw [me]; rfl

theorem ssts_stores {e : Bool} {d : Reg} {m : SAddr} {la : Fin 16} {s : State} {o : LaneOp} {missed : List (Nat × W64)}
    (calm : s.src.busyOps = false) (wf : (s.core s.src.core).spad.wf = true)
    (checked : s.checkSpad s.src 8 [(0, scalarAddr s.src m)] = .go [o] missed) :
    ∃ t, exec (.ssts e d m la) s = .next (ended e t) ∧ OnlyScratchpad s t ∧
      t.me = { behind s.me 2 with pts := t.me.pts } ∧
      (∀ c a, (c = s.src.core → ¬ ((s.core c).phys o.pa ≤ a ∧ a < (s.core c).phys o.pa + 8)) →
        (t.core c).spad.byte a = (s.core c).spad.byte a) ∧
      (t.core s.src.core).spadRead o.pa 8 = wordBytes (s.src.sreg d.val) := by
  obtain ⟨placed, -⟩ := State.checkSpad_placed checked
  obtain ⟨t, eq, only, me, outside, stood⟩ := State.storesSpad_done (i := .ssts e d m la) (s := s) (e := e)
    (F := fun c => c.spadWrite o.pa (wordBytes (s.src.sreg d.val))) (n := 8) (ok := [o])
    (data := fun _ => wordBytes (s.src.sreg d.val)) (State.onSpad_of_go calm checked _) (.inr (.inl rfl))
    (fun c => rfl) (fun c => rfl) wf placed (fun o => length_leBytes 8 _)
  exact ⟨t, eq, only, me, fun c a out => outside c a (by simpa using out), stood [] o [] rfl (by simp)⟩

/-- Settles O15: a load leaves in each lane's registers the words at its address, as distinct lanes do not write each
other's; of a store's lanes the last one at an address leaves its bytes there, as aligned accesses to different addresses
of a world's plots stand apart, in an exchange pair too. -/
theorem scratchpadAccesses : Obligations.ScratchpadAccesses :=
  ⟨⟨fun _ _ d _ _ => spadLoad_spadLoads (.inl rfl) (by have := d.isLt; omega) fun _ => rfl,
    fun _ _ d _ _ => spadLoad_spadLoads (.inr (.inl rfl)) (by have := d.isLt; omega) fun _ => rfl,
    fun _ _ d _ _ => spadLoad_spadLoads (.inr (.inr rfl)) (by have := d.isLt; omega) fun _ => rfl,
    fun _ _ _ _ _ _ _ => slds_loads⟩,
   ⟨fun _ _ _ _ _ => spadStore_spadStores (.inl rfl) fun _ => rfl,
    fun _ _ _ _ _ => spadStore_spadStores (.inr (.inl rfl)) fun _ => rfl,
    fun _ _ _ _ _ => spadStore_spadStores (.inr (.inr rfl)) fun _ => rfl,
    fun _ _ _ _ _ _ _ => ssts_stores⟩⟩

end Sys2Proof.Machine
end

section
/-! SUPPORT. Which service troupes an atomic's lines go to (R189, R353): what the choice rests on, and that an access on
its way to its requests leaves that as it was. -/

namespace Sys2Proof.Machine

open Sys2Proof.Claims

/-! ### Ascending lists -/

theorem mem_insertAsc (x y : Nat) (l : List Nat) : y ∈ insertAsc x l ↔ y = x ∨ y ∈ l := by
  induction l with
  | nil => simp [insertAsc]
  | cons z l ih =>
    rw [insertAsc]
    split
    · subst_vars; simp
    · split
      · rw [List.mem_cons]
      · rw [List.mem_cons, ih, List.mem_cons]; tauto

theorem insertAsc_ascends (x : Nat) {l : List Nat} (asc : l.Pairwise (· < ·)) : (insertAsc x l).Pairwise (· < ·) := by
  induction l with
  | nil => exact List.pairwise_singleton _ _
  | cons z l ih =>
    obtain ⟨above, rest⟩ := List.pairwise_cons.1 asc
    rw [insertAsc]
    split
    · exact asc
    · split
      · next lower => exact List.pairwise_cons.2 ⟨fun y hy => (List.mem_cons.1 hy).elim (fun e => e ▸ lower)
          fun h => Nat.lt_trans lower (above y h), asc⟩
      · refine List.pairwise_cons.2 ⟨fun y hy => ?_, ih rest⟩
        rcases (mem_insertAsc x y l).1 hy with rfl | later
        · omega
        · exact above y later

theorem foldl_insertAsc_ascends (l : List Nat) {a : List Nat} (asc : a.Pairwise (· < ·)) :
    (l.foldl (fun a x => insertAsc x a) a).Pairwise (· < ·) := by
  induction l generalizing a with
  | nil => exact asc
  | cons x l ih => exact ih (insertAsc_ascends x asc)

theorem mem_foldl_insertAsc (y : Nat) (l a : List Nat) : y ∈ l.foldl (fun a x => insertAsc x a) a ↔ y ∈ l ∨ y ∈ a := by
  induction l generalizing a with
  | nil => simp
  | cons x l ih => rw [List.foldl_cons, ih, mem_insertAsc, List.mem_cons]; tauto

theorem mem_sortAsc (y : Nat) (l : List Nat) : y ∈ sortAsc l ↔ y ∈ l := by
  rw [sortAsc, mem_foldl_insertAsc]; simp

/-- Lists with the same members are the same in order. -/
theorem sortAsc_congr {l l' : List Nat} (same : ∀ y, y ∈ l ↔ y ∈ l') : sortAsc l = sortAsc l' := by
  have asc (l : List Nat) : (sortAsc l).SortedLT := (foldl_insertAsc_ascends l List.Pairwise.nil).sortedLT
  exact (asc l).eq_of_mem_iff (asc l') fun y => by rw [mem_sortAsc, mem_sortAsc, same]

/-! ### Entries of a table with a property -/

/-- The table lists an entry of number k that has a property, be it the one that is found there or one behind it. -/
def ListsWith {α : Type} (P : α → Bool) (t : Table α) (k : Nat) : Prop := ∃ x, (k, x) ∈ t ∧ P x = true

theorem Table.mem_of_find {α : Type} {t : Table α} {k : Nat} {x : α} (found : t.find k = some x) : (k, x) ∈ t := by
  induction t with
  | nil => cases found
  | cons e t ih =>
    obtain ⟨i, b⟩ := e
    rw [Table.find] at found
    split at found
    · next same => cases found; subst same; exact List.mem_cons_self
    · exact List.mem_cons_of_mem _ (ih found)

theorem Table.mem_put {α : Type} {t : Table α} {k : Nat} {a : α} {e : Nat × α} (mem : e ∈ t.put k a) : e = (k, a) ∨ e ∈ t := by
  induction t with
  | nil => simpa [Table.put] using mem
  | cons f t ih =>
    obtain ⟨i, b⟩ := f
    rw [Table.put] at mem
    split at mem
    · rcases List.mem_cons.1 mem with here | later
      · exact .inl here
      · exact .inr (List.mem_cons_of_mem _ later)
    · split at mem
      · exact List.mem_cons.1 mem
      · rcases List.mem_cons.1 mem with here | later
        · exact .inr (here ▸ List.mem_cons_self)
        · exact (ih later).imp_right (List.mem_cons_of_mem _)

theorem Table.put_mem_self {α : Type} (t : Table α) (k : Nat) (a : α) : (k, a) ∈ t.put k a :=
  Table.mem_of_find (by rw [Table.find_put, if_pos rfl])

/-- What stood in a table stands there behind a change, but for the entry that was changed. -/
theorem Table.mem_put_of_mem {α : Type} {t : Table α} {k : Nat} (a d : α) {e : Nat × α} (mem : e ∈ t) :
    e ∈ t.put k a ∨ e = (k, t.get k d) := by
  induction t with
  | nil => cases mem
  | cons f t ih =>
    obtain ⟨i, b⟩ := f
    rw [Table.put, Table.get, Table.find]
    split
    · next same =>
      subst same
      rcases List.mem_cons.1 mem with here | later
      · exact .inr here
      · exact .inl (List.mem_cons_of_mem _ later)
    · split
      · exact .inl (List.mem_cons_of_mem _ mem)
      · rcases List.mem_cons.1 mem with here | later
        · exact .inl (here ▸ List.mem_cons_self)
        · exact (ih later).imp_left (List.mem_cons_of_mem _)

/-- An entry that is changed, and has the property as before, leaves the numbers of the entries with it the same. -/
theorem listsWith_put {α : Type} {P : α → Bool} {t : Table α} {k : Nat} {a d : α} (kept : P a = P (t.get k d))
    (absent : P d = false) (j : Nat) : ListsWith P (t.put k a) j ↔ ListsWith P t j := by
  refine ⟨fun ⟨x, mem, has⟩ => ?_, fun ⟨x, mem, has⟩ => ?_⟩
  · rcases Table.mem_put mem with new | old
    · cases new
      rw [kept, Table.get] at has
      cases found : t.find k with
      | none => rw [found, Option.getD_none, absent] at has; cases has
      | some y =>
        rw [found] at has
        exact ⟨y, Table.mem_of_find found, has⟩
    · exact ⟨x, old, has⟩
  · rcases Table.mem_put_of_mem a d mem with stays | changed
    · exact ⟨x, stays, has⟩
    · cases changed
      exact ⟨a, Table.put_mem_self t k a, kept.trans has⟩

/-! ### What the choice of a service troupe rests on -/

/-- The core has a troupe slot of the world. -/
def Core.servesWorld (w : Nat) (c : Core) : Bool := c.tslotOwner.any fun o => o.2 == w

/-- The world has a timing fence. -/
def World.isFenced (w : World) : Bool := w.limits.fenced

/-- The owners of the frames, the fenced worlds, the cores with troupe slots of a world and the worlds' runtime launches
are as before. -/
def SameService (s t : State) : Prop :=
  t.extents = s.extents ∧ (∀ w, ListsWith World.isFenced t.worlds w ↔ ListsWith World.isFenced s.worlds w) ∧
  (∀ w k, ListsWith (Core.servesWorld w) t.cores k ↔ ListsWith (Core.servesWorld w) s.cores k) ∧
  ∀ w, (t.world w).runtime = (s.world w).runtime

namespace SameService

variable {s t : State}

theorem of_eq (extents : t.extents = s.extents) (worlds : t.worlds = s.worlds) (cores : t.cores = s.cores) : SameService s t :=
  ⟨extents, fun w => by rw [worlds], fun w k => by rw [cores], fun w => by rw [State.world, worlds]; rfl⟩

theorem refl (s : State) : SameService s s := of_eq rfl rfl rfl

theorem trans {a b c : State} (h1 : SameService a b) (h2 : SameService b c) : SameService a c := by
  obtain ⟨extents1, worlds1, cores1, runtime1⟩ := h1
  obtain ⟨extents2, worlds2, cores2, runtime2⟩ := h2
  exact ⟨extents2.trans extents1, fun w => (worlds2 w).trans (worlds1 w), fun w k => (cores2 w k).trans (cores1 w k),
    fun w => (runtime2 w).trans (runtime1 w)⟩

theorem isRuntime (h : SameService s t) (u : Troupe) : t.isRuntime u = s.isRuntime u := by
  obtain ⟨-, -, -, runtime⟩ := h
  rw [State.isRuntime, runtime, ← State.isRuntime]

/-! Steps that keep it -/

theorem of_modCore (k : Nat) {f : Core → Core} (slots : ∀ c, (f c).tslotOwner = c.tslotOwner) : SameService s (s.modCore k f) := by
  refine ⟨rfl, fun _ => .rfl, fun w j => listsWith_put (d := {}) ?_ rfl j, fun _ => rfl⟩
  rw [Core.servesWorld, slots]; rfl

theorem of_modWorld (k : Nat) {f : World → World} (limits : ∀ w, (f w).limits = w.limits)
    (runtime : ∀ w, (f w).runtime = w.runtime) : SameService s (s.modWorld k f) := by
  refine ⟨rfl, fun w => listsWith_put (d := {}) ?_ rfl w, fun _ _ => .rfl, fun w => ?_⟩
  · rw [World.isFenced, limits]; rfl
  · rw [State.world, State.modWorld, Table.get_put]
    split
    · subst_vars; exact runtime _
    · rfl

theorem of_countIn (w event core n i : Nat) : SameService s (s.countIn w event core n i) := by
  unfold State.countIn
  dsimp only
  split
  · have stepped (d : Counter) : SameService s (s.modWorld w fun x => { x with counters := x.counters.put i d }) :=
      of_modWorld w (fun _ => rfl) fun _ => rfl
    split
    · exact (stepped _).trans (of_eq rfl rfl rfl)
    · exact stepped _
  · exact refl s

theorem of_count (w event core n : Nat) : SameService s (s.count w event core n) := by
  unfold State.count
  split
  · exact refl s
  · generalize List.range 8 = l
    induction l generalizing s with
    | nil => exact refl s
    | cons i l ih => exact (of_countIn w event core n i).trans ih

theorem of_touchUtlb (core w : Nat) (sw : Nat × Nat) : SameService s (s.touchUtlb core w sw) := by
  have moved (x : State) (f : List (Nat × Nat) → List (Nat × Nat)) : SameService x (x.modCore core fun c => { c with utlb := f c.utlb }) :=
    of_modCore core fun _ => rfl
  unfold State.touchUtlb
  dsimp only
  split
  · exact moved _ fun l => (sw :: l.filter (· != sw)).take 128
  · exact (of_count _ _ _ _).trans (moved _ fun l => (sw :: l.filter (· != sw)).take 128)

theorem of_touchAll (u : Troupe) (ok : List LaneOp) : SameService s (s.touchAll u ok) := by
  unfold State.touchAll
  generalize nub _ = l
  induction l generalizing s with
  | nil => exact refl s
  | cons k l ih => exact (of_touchUtlb _ _ _).trans ih

theorem of_dropHold (core tslot : Nat) : SameService s (s.dropHold core tslot) := by
  unfold State.dropHold
  dsimp only
  split
  · exact of_modCore core fun _ => rfl
  · exact refl s

theorem of_modTroupe (k : Nat) (f : Troupe → Troupe) : SameService s (s.modTroupe k f) :=
  of_eq (State.modTroupe_extents ..) (State.modTroupe_worlds ..) (State.modTroupe_cores ..)

theorem of_modCluster (k : Nat) (f : Cluster → Cluster) : SameService s (s.modCluster k f) := of_eq rfl rfl rfl

theorem of_missHead (u : Troupe) (missed : List (Nat × W64)) : SameService s (s.missHead u missed) :=
  (of_eq rfl rfl rfl : SameService s (s.modBook fun b => { b with chain := none })).trans <| (of_count _ _ _ _).trans <|
    (of_eq rfl rfl rfl).trans (of_dropHold _ _)

theorem of_openEntry {u : Troupe} {g : Nat} {r : List W64} (quiet : (s.mailbox (s.world u.world).areas.faultMbx).arming = none) :
    SameService s (s.openEntry u g r) := by
  obtain ⟨grown, boxes, -⟩ := s.moreEntries_spec u g
  have more : SameService s (s.moreEntries u g) := by
    unfold State.moreEntries
    exact (of_modCluster _ _).trans (of_count _ _ _ _)
  unfold State.openEntry State.countAndTell
  generalize s.moreEntries u g = m at *
  generalize put : m.putTroupe { u with ctl := { u.ctl with record := r } } = p
  have placed : SameService m p := put ▸ of_eq rfl rfl rfl
  have onward : MissFrame u.key m p := put ▸ MissFrame.of_putTroupe rfl
  have pboxes : p.mbx = m.mbx := by rw [← put, State.putTroupe_mbx]
  generalize counted : p.count u.world 0x13 u.core 1 = c
  have stepped : SameService p c := counted ▸ of_count _ _ _ _
  have frame : MissFrame u.key s c := grown.trans (onward.trans (counted ▸ MissFrame.of_count _ _ _ _))
  have cboxes : c.mbx = s.mbx := by rw [← counted, State.count_mbx, pboxes, boxes]
  obtain ⟨told, -⟩ := State.tellFault_spec r (arming_of_missFrame frame cboxes quiet)
  refine ((more.trans placed).trans stepped).trans ?_
  rw [told]
  exact of_eq rfl rfl rfl

/-! What it keeps -/

theorem mem_fencedWorlds (s : State) (w : Nat) : w ∈ s.fencedWorlds ↔ ListsWith World.isFenced s.worlds w := by
  rw [State.fencedWorlds, List.mem_map]
  refine ⟨fun ⟨⟨i, x⟩, mem, same⟩ => ?_, fun ⟨x, mem, has⟩ => ⟨(w, x), List.mem_filter.2 ⟨mem, has⟩, rfl⟩⟩
  obtain ⟨mem, has⟩ := List.mem_filter.1 mem
  cases same
  exact ⟨x, mem, has⟩

theorem fenced_contains (h : SameService s t) (w : Nat) : t.fencedWorlds.contains w = s.fencedWorlds.contains w := by
  obtain ⟨-, worlds, -⟩ := h
  rw [Bool.eq_iff_iff, List.contains_iff_mem, List.contains_iff_mem, mem_fencedWorlds, mem_fencedWorlds, worlds]

theorem clustersOf (h : SameService s t) (w : Nat) : t.clustersOf w = s.clustersOf w := by
  obtain ⟨-, -, cores, -⟩ := h
  have mem (x : State) (c : Nat) : (c ∈ (x.cores.filter fun e => e.2.tslotOwner.any fun o => o.2 == w).map fun e => clusterOf e.1) ↔
      ∃ k, ListsWith (Core.servesWorld w) x.cores k ∧ clusterOf k = c := by
    rw [List.mem_map]
    refine ⟨fun ⟨⟨k, e⟩, mem, same⟩ => ?_, fun ⟨k, ⟨e, mem, has⟩, same⟩ => ⟨(k, e), List.mem_filter.2 ⟨mem, has⟩, same⟩⟩
    obtain ⟨mem, has⟩ := List.mem_filter.1 mem
    exact ⟨k, ⟨e, mem, has⟩, same⟩
  exact sortAsc_congr fun c => by rw [mem, mem]; simp only [cores]

theorem closed_contains (h : SameService s t) (c : Nat) :
    (t.fencedWorlds.flatMap t.clustersOf).contains c = (s.fencedWorlds.flatMap s.clustersOf).contains c := by
  have fenced (w : Nat) : w ∈ t.fencedWorlds ↔ w ∈ s.fencedWorlds := by
    rw [← List.contains_iff_mem, h.fenced_contains, List.contains_iff_mem]
  rw [Bool.eq_iff_iff, List.contains_iff_mem, List.contains_iff_mem, List.mem_flatMap, List.mem_flatMap]
  simp only [fenced, h.clustersOf]

theorem serviceCluster (h : SameService s t) (mine pa : Nat) : t.serviceCluster mine pa = s.serviceCluster mine pa := by
  have owner : t.frameOwner pa = s.frameOwner pa := by
    obtain ⟨extents, -⟩ := h
    rw [State.frameOwner, State.extentOf, extents]; rfl
  unfold State.serviceCluster
  simp only [owner, h.fenced_contains, h.clustersOf, h.closed_contains]

/-- The lines of an atomic go where they went before. -/
theorem splitRequests (h : SameService s t) (mine : Nat) (os : List LaneOp) : t.splitRequests mine os = s.splitRequests mine os := by
  unfold State.splitRequests
  simp only [h.serviceCluster]

end SameService

end Sys2Proof.Machine
end

section
/-! SUPPORT. Atomics and reductions (R112, R183, R187 to R190, R196, R200): the requests that they put into the queues, and
what becomes of those some of whose lanes miss. -/

namespace Sys2Proof.Machine

open Sys2Proof.Claims

/-! ### Requests in their queues (R190) -/

/-- The bookkeeping, troupe k and the request queues may differ, and nothing else. -/
def RequestFrame (k : Nat) (s t : State) : Prop :=
  { t with troupes := s.troupes, clusters := s.clusters, book := s.book } = s ∧ (∀ j, j ≠ k → t.troupe j = s.troupe j) ∧
  ∀ c, { t.cluster c with reqQ := (s.cluster c).reqQ } = s.cluster c

namespace RequestFrame

variable {k : Nat} {s t : State}

theorem refl (s : State) : RequestFrame k s s := ⟨rfl, fun _ _ => rfl, fun _ => rfl⟩

theorem trans {a b c : State} (h1 : RequestFrame k a b) (h2 : RequestFrame k b c) : RequestFrame k a c := by
  obtain ⟨same1, troupes1, queues1⟩ := h1
  obtain ⟨same2, troupes2, queues2⟩ := h2
  refine ⟨?_, fun j hj => (troupes2 j hj).trans (troupes1 j hj), fun j => ?_⟩
  · have := congrArg (fun x : State => { x with troupes := a.troupes, clusters := a.clusters, book := a.book }) same2
    exact this.trans same1
  · have := congrArg (fun x : Cluster => { x with reqQ := (a.cluster j).reqQ }) (queues2 j)
    exact this.trans (queues1 j)

theorem mbx (h : RequestFrame k s t) : t.mbx = s.mbx := by
  have := congrArg State.mbx h.1
  exact this

theorem core (h : RequestFrame k s t) (j : Nat) : t.core j = s.core j := by
  have := congrArg (fun x : State => x.core j) h.1
  exact this

theorem miss (h : RequestFrame k s t) (c : Nat) : (t.cluster c).miss = (s.cluster c).miss := by
  obtain ⟨-, -, queues⟩ := h
  have := congrArg Cluster.miss (queues c)
  exact this

theorem isRuntime (h : RequestFrame k s t) (u : Troupe) : t.isRuntime u = s.isRuntime u := by
  have := congrArg (fun x : State => x.isRuntime u) h.1
  exact this

theorem of_modBook (f : Book → Book) : RequestFrame k s (s.modBook f) := ⟨rfl, fun _ _ => rfl, fun _ => rfl⟩

theorem of_modTroupe (f : Troupe → Troupe) : RequestFrame k s (s.modTroupe k f) := by
  unfold State.modTroupe
  split
  · exact refl s
  · exact ⟨rfl, fun j hj => (Table.find_put _ _ _ _).trans (if_neg (Ne.symm hj)), fun _ => rfl⟩

end RequestFrame

/-- The request of a troupe for the lanes of a line, to which its instruction adds what it does. -/
def Troupe.requestFor (t : Troupe) (r : Nat × List LaneOp) : Request :=
  { opId := 0, tkey := t.key, uid := t.uid, world := t.world, core := t.core, aop := .or
    wide := true, returns := false, reduces := false, pts := t.pts, lanes := r.2
    after := if r.2.any fun o => inModule o.pa then (t.ops.filter Op.ordinary).map (·.id) else [] }

/-- Each request stands at the end of the queue of its cluster. -/
theorem State.sendRequests_spec (s : State) (t : Troupe) (mk : Request → Request) (rs : List (Nat × List LaneOp)) (k : Nat) :
    RequestFrame k s (s.sendRequests t mk rs) ∧ (s.sendRequests t mk rs).troupes = s.troupes ∧
      (s.sendRequests t mk rs).book = s.book ∧ ∀ c, ((s.sendRequests t mk rs).cluster c).reqQ =
        (s.cluster c).reqQ ++ (rs.filter fun r => r.1 == c).map fun r => mk (t.requestFor r) := by
  induction rs generalizing s with
  | nil => exact ⟨.refl s, rfl, rfl, fun c => by simp [State.sendRequests]⟩
  | cons r rs ih =>
    generalize put : s.modCluster r.1 (fun c => { c with reqQ := c.reqQ ++ [mk (t.requestFor r)] }) = x
    have step : s.sendRequests t mk (r :: rs) = x.sendRequests t mk rs := put ▸ rfl
    have cluster (c : Nat) : x.cluster c =
        if r.1 = c then { s.cluster c with reqQ := (s.cluster c).reqQ ++ [mk (t.requestFor r)] } else s.cluster c := by
      rw [← put, State.cluster_modCluster]
      split
      · subst_vars; rfl
      · rfl
    have first : RequestFrame k s x := by
      refine ⟨by rw [← put]; rfl, fun _ _ => by rw [← put]; rfl, fun c => ?_⟩
      rw [cluster]
      split <;> rfl
    obtain ⟨frame, troupes, book, queues⟩ := ih x
    rw [step]
    refine ⟨first.trans frame, troupes.trans (by rw [← put]; rfl), book.trans (by rw [← put]; rfl), fun c => ?_⟩
    rw [queues, cluster]
    by_cases here : r.1 = c
    · simp [here]
    · simp [here]

/-- A troupe whose operations alone differ. -/
def OpsOnly (u v : Troupe) : Prop := v = { u with ops := v.ops }

/-- What is kept of a request: its world, its function, its width, whether it reduces, and its lanes. -/
def Request.asked (r : Request) : Nat × AOp × Bool × Bool × List LaneOp := (r.world, r.aop, r.wide, r.reduces, r.lanes)

/-- A new operation of the troupe in a slot. -/
theorem State.pushOp_spec (s : State) (k : Nat) (o : Op) :
    RequestFrame k s (s.pushOp k o) ∧ (s.pushOp k o).clusters = s.clusters ∧ (s.pushOp k o).book = s.book ∧
      ∀ j u, s.troupe j = some u → ∃ v, (s.pushOp k o).troupe j = some v ∧ OpsOnly u v := by
  have frame : RequestFrame k s (s.pushOp k o) := .of_modTroupe _
  refine ⟨frame, State.modTroupe_clusters .., State.modTroupe_book .., fun j u found => ?_⟩
  by_cases own : k = j
  · subst own
    exact ⟨_, (State.troupe_modTroupe _ found _).trans (if_pos rfl), rfl⟩
  · obtain ⟨-, others, -⟩ := frame
    exact ⟨u, (others j (Ne.symm own)).trans found, rfl⟩

/-- The issuing troupe of a state in which troupes that were there have other operations at most. -/
theorem opsOnly_me {s t : State} (cur : t.book.cur = s.book.cur) (none : s.troupe s.book.cur = none → t.troupe s.book.cur = none)
    (some : ∀ u, s.troupe s.book.cur = some u → ∃ v, t.troupe s.book.cur = some v ∧ OpsOnly u v) : OpsOnly s.me t.me := by
  have me (x : State) : x.me = (x.troupe x.book.cur).getD Troupe.blank := rfl
  rw [me, me, cur]
  cases found : s.troupe s.book.cur with
  | none => rw [none found]; rfl
  | some u =>
    obtain ⟨v, there, only⟩ := some u found
    rw [there]
    exact only

theorem State.pushOp_me (s : State) (k : Nat) (o : Op) : OpsOnly s.me (s.pushOp k o).me := by
  obtain ⟨⟨-, others, -⟩, -, book, troupes⟩ := s.pushOp_spec k o
  refine opsOnly_me (congrArg Book.cur book) (fun absent => ?_) (troupes _)
  by_cases own : k = s.book.cur
  · subst own
    have here : s.troupes.find s.book.cur = none := absent
    rw [State.pushOp, State.modTroupe, here]
    exact absent
  · exact (others _ (Ne.symm own)).trans absent

/-- An atomic instruction puts the requests of its lanes into their queues, one for each line, and changes of its troupe
the operations alone (R189, R190, R200). -/
theorem State.issueAtomic_spec (s : State) (t : Troupe) (x : AArgs) (reduces part : Bool) (got : List (Nat × List Byte))
    (os : List LaneOp) : let y := s.issueAtomic t x reduces part got os
    RequestFrame t.key s y ∧ y.book.cur = s.book.cur ∧
      (∀ k u, s.troupe k = some u → ∃ v, y.troupe k = some v ∧ OpsOnly u v) ∧ OpsOnly s.me y.me ∧
      ∀ c, ((y.cluster c).reqQ.drop (s.cluster c).reqQ.length).map Request.asked =
        ((s.splitRequests (clusterOf t.core) os).filter fun r => r.1 == c).map fun r => (t.world, x.aop, x.wide, reduces, r.2) := by
  by_cases none : os = []
  · subst none
    exact ⟨.refl s, rfl, fun k u found => ⟨u, found, rfl⟩, rfl, fun c => by simp [State.issueAtomic, State.splitRequests, sortAsc]⟩
  have more : os.isEmpty = false := by simpa using none
  generalize slot : (if x.d.val = 63 then Option.none else some x.d.val) = ret
  have fresh : RequestFrame t.key s s.freshId.2 := .of_modBook _
  have split : s.freshId.2.splitRequests (clusterOf t.core) os = s.splitRequests (clusterOf t.core) os :=
    (SameService.of_eq rfl rfl rfl : SameService s s.freshId.2).splitRequests _ _
  obtain ⟨sent, troupes, book, queues⟩ := s.freshId.2.sendRequests_spec t
    (fun q => { q with opId := s.freshId.1, aop := x.aop, wide := x.wide, returns := ret.isSome, reduces := reduces })
    (s.freshId.2.splitRequests (clusterOf t.core) os) t.key
  generalize sends : s.freshId.2.sendRequests t
    (fun q => { q with opId := s.freshId.1, aop := x.aop, wide := x.wide, returns := ret.isSome, reduces := reduces })
    (s.freshId.2.splitRequests (clusterOf t.core) os) = z at *
  have run : ∃ o, s.issueAtomic t x reduces part got os = if reduces then z else z.pushOp t.key o := by
    rw [← sends, ← slot]
    unfold State.issueAtomic
    simp only [more, Bool.false_eq_true, if_false]
    exact ⟨_, rfl⟩
  have asked (c : Nat) : ((z.cluster c).reqQ.drop (s.cluster c).reqQ.length).map Request.asked =
      ((s.splitRequests (clusterOf t.core) os).filter fun r => r.1 == c).map fun r => (t.world, x.aop, x.wide, reduces, r.2) := by
    have grown := queues c
    rw [split] at grown
    have same : (s.freshId.2.cluster c).reqQ = (s.cluster c).reqQ := rfl
    rw [grown, same, List.drop_left, List.map_map]
    rfl
  have troupe (k : Nat) : z.troupe k = s.troupe k := congrArg (·.find k) troupes
  have cur : z.book.cur = s.book.cur := (congrArg Book.cur book).trans rfl
  have me : z.me = s.me := by rw [State.me, State.me, troupes, cur]; rfl
  intro y
  obtain ⟨o, run⟩ : ∃ o, y = if reduces then z else z.pushOp t.key o := run
  clear_value y
  cases reduces with
  | true =>
    obtain rfl : y = z := run
    exact ⟨fresh.trans sent, cur, fun k u found => ⟨u, (troupe k).trans found, rfl⟩, me ▸ rfl, asked⟩
  | false =>
    obtain rfl : y = z.pushOp t.key o := run
    obtain ⟨pushed, clusters, bookZ, others⟩ := z.pushOp_spec t.key o
    have cluster (c : Nat) : (z.pushOp t.key o).cluster c = z.cluster c := congrArg (·.get c {}) clusters
    exact ⟨(fresh.trans sent).trans pushed, (congrArg Book.cur bookZ).trans cur,
      fun k u found => others k u ((troupe k).trans found), me ▸ z.pushOp_me _ _, fun c => by rw [cluster, asked]⟩

/-! ### Misses whose other lanes send requests (R183, R187) -/

theorem checkLanes_outs {s : State} {n : Need} {lanes missed : List (Nat × W64)} {ok : List LaneOp}
    (checked : s.checkLanes s.src n lanes = .go ok missed) (near : ∀ o ∈ ok, o.atPeer = false) :
    gatherLanes (s.laneOuts s.src n lanes) = .go ok missed ∧ farLanes (s.laneOuts s.src n lanes) = [] :=
  ⟨checked, farLanes_nil checked near⟩

/-- A gate that goes on with the lanes of an access is as good as none. -/
theorem State.access_opens {s : State} {n : Need} {scalar : Bool} {lanes missed : List (Nat × W64)} {ok : List LaneOp}
    {fill : LaneOp → LaneOp} {gate : List LaneOp → (State → Res) → State → Res} {issue : List LaneOp → State → Res}
    {split : List LaneOp → State → State} (checked : s.checkLanes s.src n lanes = .go ok missed)
    (hits : s.watchHits s.src n ok = []) (near : ∀ o ∈ ok, o.atPeer = false) (opens : ∀ go, gate (ok.map fill) go s = go s) :
    s.access n scalar lanes fill gate issue split = s.access n scalar lanes fill openGate issue split := by
  obtain ⟨outs, far⟩ := checkLanes_outs checked near
  unfold State.access State.admitPeers
  simp only [far, outs, hits, List.isEmpty_nil, Bool.not_true, Bool.false_eq_true, false_and, if_false, if_true, opens, openGate]

/-- An access that gets no entry of the miss table performs nothing, whatever it would do with one. -/
theorem State.access_unserved {s : State} {n : Need} {scalar : Bool} {lanes missed : List (Nat × W64)} {ok : List LaneOp}
    {fill : LaneOp → LaneOp} {issue : List LaneOp → State → Res} (missing : Missed s n lanes ok missed)
    (unserved : s.missServed s.src missed = false ∨ s.missBarred s.src missed = true) (split split' : List LaneOp → State → State) :
    s.access n scalar lanes fill openGate issue split = s.access n scalar lanes fill openGate issue split' := by
  obtain ⟨checked, some, hits, near⟩ := missing
  obtain ⟨outs, far⟩ := checkLanes_outs checked near
  have more : missed.isEmpty = false := by simpa using some
  have barred : s.missBarred s.src missed = true ∨ (!s.missServed s.src missed) = true := by
    rw [Bool.not_eq_true']; exact unserved.symm
  unfold State.access State.admitPeers
  simp only [far, outs, hits, more, barred, List.isEmpty_nil, Bool.not_true, Bool.false_eq_true, false_and, if_false, if_true]

theorem State.hasEntry_iff {s : State} {u : Troupe} {g : Nat} :
    s.hasEntry u g = true ↔ ∃ e ∈ (s.cluster (clusterOf u.core)).miss, e.world = u.world ∧ e.page = g := by
  simp [State.hasEntry]

/-- A page that has an entry, or for which there is room, does not want for a quota. -/
theorem State.missBarred_of_got {s : State} {u : Troupe} {missed : List (Nat × W64)} {g : Nat} (pages : missPages missed = [g])
    (got : s.hasEntry u g = true ∨ s.hasRoom u) : s.missBarred u missed = false := by
  rcases got with entry | ⟨-, below⟩
  · exact State.missBarred_of_entry pages entry
  · exact State.missBarred_of_quota pages (Nat.ne_of_gt (Nat.zero_lt_of_lt below))

/-- A troupe that gets an entry for its page is parked in one state, whatever its instruction still performs, and the
service troupes of that state are as before. -/
theorem State.miss_takes {s : State} {u : Troupe} {access : Nat} {scalar : Bool} {missed : List (Nat × W64)} {g : Nat} {va : W64}
    (nonempty : missed ≠ []) (page : ∀ x ∈ missed, x.2.toNat / 4096 = g) (first : missed.head?.map (·.2) = some va)
    (got : s.hasEntry u g = true ∨ s.hasRoom u) (quiet : (s.mailbox (s.world u.world).areas.faultMbx).arming = none) :
    ∃ t, SameService s t ∧ ∀ perform : State → State, (perform t).isRuntime u = false →
      s.miss u access scalar missed perform = .next (perform t) := by
  have pages := missPages_one nonempty page
  have free := State.missBarred_of_got pages got
  obtain ⟨head, -, boxes, here⟩ := s.missHead_spec u missed
  obtain ⟨sameEntry, sameRoom⟩ := s.missHead_table (u := u) (missed := missed) (g := g)
  obtain ⟨x, onward, taken⟩ : ∃ x, SameService (s.missHead u missed) x ∧
      (s.missHead u missed).missPage u access scalar missed (s.missHead u missed, []) g = (x, [g]) := by
    cases entry : s.hasEntry u g with
    | true => exact ⟨_, .of_modCluster _ _, State.missPage_join (sameEntry.trans entry)⟩
    | false =>
      have room : s.hasRoom u := got.resolve_left (by rw [entry]; exact Bool.false_ne_true)
      exact ⟨_, .of_openEntry (arming_of_missFrame head boxes quiet),
        State.missPage_open here (sameEntry.trans entry) (sameRoom.2 room) page first⟩
  refine ⟨_, ((SameService.of_missHead u missed).trans onward).trans (.of_modTroupe u.key fun t =>
    { t with ctl := { t.ctl with wait := .parked [g], replayPc := some t.pc, stalled := false, stepReq := none } }), fun perform plain => ?_⟩
  unfold State.miss
  simp only [free, Bool.false_eq_true, if_false, pages, missHead_eq pages, List.foldl_cons, List.foldl_nil, taken, List.isEmpty_cons, plain]

/-- What an instruction still does behind its miss, when it may put requests into queues: as `rest` says, and to nothing
else. -/
def Sends (perform : State → State) (s : State) (k : Nat) (rest : State → Troupe → Troupe → Prop) : Prop :=
  ∀ t u, SameService s t → (∀ c, (t.cluster c).reqQ = (s.cluster c).reqQ) → t.troupe k = some u →
    RequestFrame k t (perform t) ∧ ∃ v, (perform t).troupe k = some v ∧ rest (perform t) u v

/-- What differs of the module behind a miss whose other lanes have sent requests. -/
theorem RequestFrame.behind_miss {k : Nat} {s t y : State} (all : MissFrame k s t) (sent : RequestFrame k t y) :
    { y with troupes := s.troupes, cores := s.cores, worlds := s.worlds, clusters := s.clusters, mbx := s.mbx, book := s.book } = s ∧
    (∀ j, j ≠ k → y.troupe j = s.troupe j) ∧
    (∀ j, { y.core j with utlb := (s.core j).utlb, islots := (s.core j).islots } = s.core j) ∧
    ∀ j, { y.cluster j with miss := (s.cluster j).miss, reqQ := (s.cluster j).reqQ } = s.cluster j := by
  have core := sent.core
  obtain ⟨same, troupes, cores, tables, -⟩ := all
  obtain ⟨sentSame, sentTroupes, queues⟩ := sent
  refine ⟨?_, fun j hj => (sentTroupes j hj).trans (troupes j hj), fun j => by rw [core]; exact cores j, fun j => ?_⟩
  · have := congrArg (fun x : State => { x with
      troupes := s.troupes, cores := s.cores, worlds := s.worlds, clusters := s.clusters, mbx := s.mbx, book := s.book }) sentSame
    exact this.trans same
  · have onward := congrArg (fun x : Cluster => { x with miss := (s.cluster j).miss, reqQ := (s.cluster j).reqQ }) (queues j)
    have back := congrArg (fun x : Cluster => { x with reqQ := (s.cluster j).reqQ }) (tables j)
    exact onward.trans back

/-- An access of which some lanes miss, all in one page, and whose other lanes send requests. -/
theorem misses_of_sends {i : Instr} {s : State} {n : Need} {scalar : Bool} {lanes missed : List (Nat × W64)} {ok : List LaneOp}
    {fill : LaneOp → LaneOp} {issue : List LaneOp → State → Res} {split : List LaneOp → State → State}
    {rest : State → Troupe → Troupe → Prop} (exec : exec i s = s.access n scalar lanes fill openGate issue split)
    (missing : Missed s n lanes ok missed) (sends : Sends (split (ok.map fill)) s s.src.key rest) :
    Misses i s n.access scalar missed rest := by
  have unserved (none : s.missServed s.src missed = false ∨ s.missBarred s.src missed = true) :
      Misses i s n.access scalar missed fun _ u v => v = u :=
    misses_of_access (exec.trans (State.access_unserved missing none split fun _ s => s)) missing
      (performs_nothing (R := fun u v => v = u) _ fun _ => rfl) fun _ _ _ _ same => same
  obtain ⟨perform, run, splits⟩ := State.access_missed (scalar := scalar) missing fill issue split
  rw [← exec] at run
  have touched := s.touchAll_touched s.src (ok.map fill)
  have service : SameService s (s.touchAll s.src (ok.map fill)) := .of_touchAll _ _
  generalize s.touchAll s.src (ok.map fill) = a at *
  have frame : MissFrame s.src.key s a := .of_touched touched
  have cluster (k : Nat) : a.cluster k = s.cluster k := by rw [State.cluster, touched.clusters, ← State.cluster]
  have sameEntry (g : Nat) : a.hasEntry s.src g = s.hasEntry s.src g := by rw [State.hasEntry, cluster, ← State.hasEntry]
  have sameRoom : a.hasRoom s.src ↔ s.hasRoom s.src := by rw [State.hasRoom, cluster, frame.limits, ← State.hasRoom]
  obtain ⟨-, nonempty, -⟩ := missing
  unfold Misses
  intro u c table quota mine mask parked g va ⟨plain, quiet⟩ page first
  have pages := missPages_one nonempty page
  have plainA : a.isRuntime u = false := by rw [frame.isRuntime, plain]
  have quietA := arming_of_missFrame frame touched.mbx quiet
  -- The state in which the troupe is parked, and from it what the instruction still performs.
  have whole (got : s.hasEntry u g = true ∨ s.hasRoom u) {x : State} {t' : List MissEntry} {r : List W64}
      (idle : a.miss u n.access scalar missed (fun s => s) = .next x) (on : Parked a x u g t' r) :
      ∃ y, Machine.exec i s = .next y ∧ y.mbx = x.mbx ∧ parked y g t' r := by
    obtain ⟨t, stays, takes⟩ := State.miss_takes (access := n.access) (scalar := scalar) nonempty page first
      (got.imp (sameEntry g).trans sameRoom.2) quietA
    obtain rfl : t = x := by
      injection (takes (fun s => s) ((stays.isRuntime u).trans plainA)).symm.trans idle
    obtain ⟨moved, here, others, troupe⟩ := on
    have all := frame.trans moved
    obtain ⟨sent, v, there, does⟩ := sends t _ (service.trans stays) all.reqQ troupe
    have isSplit := splits (State.missBarred_of_got pages got) ((State.missServed_one pages).2 got.symm)
    have done := takes (split (ok.map fill)) ((sent.isRuntime u).trans ((stays.isRuntime u).trans plainA))
    refine ⟨_, run.trans (isSplit ▸ done), sent.mbx, ?_⟩
    obtain ⟨same, troupes, cores, clusters⟩ := sent.behind_miss all
    exact ⟨same, troupes, cores, clusters, fun k hk => (sent.miss k).trans ((others k hk).trans (by rw [cluster])),
      (sent.miss _).trans here, v, there, does⟩
  refine ⟨fun positive there => ?_, fun absent => ⟨fun short below => ?_, fun positive full => ?_, fun noQuota => ?_⟩⟩
  · have entry : s.hasEntry s.src g = true := State.hasEntry_iff.2 there
    obtain ⟨x, idle, same, on⟩ := State.miss_joins (access := n.access) (scalar := scalar) (perform := fun s => s) nonempty page
      ((sameEntry g).trans entry) plainA fun _ _ _ => .refl _
    rw [cluster] at on
    obtain ⟨y, eq, kept, there⟩ := whole (.inl entry) idle on
    exact ⟨y, eq, kept.trans (same.trans touched.mbx), there⟩
  all_goals
    have entry : s.hasEntry s.src g = false := by
      rw [Bool.eq_false_iff, Ne, State.hasEntry_iff]
      exact fun ⟨e, he, own⟩ => absent e he own
  · have room : s.hasRoom u := ⟨short, below⟩
    obtain ⟨x, idle, posted, on⟩ := State.miss_opens (access := n.access) (scalar := scalar) (perform := fun s => s) nonempty page first
      ((sameEntry g).trans entry) (sameRoom.2 room) plainA quietA fun _ _ _ => .refl _
    rw [frame.recordAt] at posted on
    rw [cluster] at on
    obtain ⟨y, eq, kept, there⟩ := whole (.inr room) idle on
    exact ⟨y, eq, posted_of_mbx kept (posted_of_missFrame frame touched.mbx posted), there⟩
  · have none : s.missServed s.src missed = false := by
      rw [Bool.eq_false_iff, Ne, State.missServed_one pages]
      rintro (⟨short, below⟩ | present)
      · exact full.elim (Nat.not_le.2 short) (Nat.not_le.2 below)
      · rw [entry] at present; cases present
    exact ((unserved (.inl none) g va ⟨plain, quiet⟩ page first).2 absent).2.1 positive full
  · have barred : s.missBarred s.src missed = true := (State.missBarred_one pages).2 ⟨noQuota, entry⟩
    exact ((unserved (.inr barred) g va ⟨plain, quiet⟩ page first).2 absent).2.2 noQuota

end Sys2Proof.Machine
end

section
/-! SUPPORT. The atomic instructions (R112, R183, R187 to R190, R196, R200): what holds their lanes back, and what they do once
nothing does. -/

namespace Sys2Proof.Machine

open Sys2Proof.Claims

/-! ### What holds the lanes of an atomic back -/

/-- What the lanes of an atomic access ask for (R187, R196). -/
def atomicNeed (x : AArgs) (moduleOnly reduces : Bool) : Need :=
  { bytes := if x.wide then 8 else 4, r := true, w := true, moduleOnly := moduleOnly
    noHost := !reduces && !hostOp x.aop, watchR := !reduces, access := 3 }

/-- The queues of an atomic's requests, and the host, which its lanes there are put to first (R190, R199). -/
def atomicGate (t : Troupe) (x : AArgs) (reduces : Bool) (ok : List LaneOp) (go : State → Res) (s : State) : Res :=
  s.queueGate t false ok fun s =>
    let host := if reduces then [] else ok.filter LaneOp.atHost
    if host.isEmpty then go s
    else
      let (id, s) := s.freshId
      (s.sendRequests t (fun q => { q with opId := id, aop := x.aop, wide := x.wide, sync := true })
        (s.splitRequests (clusterOf t.core) host)).awaitHost

/-- An atomic that has all its lanes. -/
def atomicIssue (t : Troupe) (x : AArgs) (reduces e : Bool) (ok : List LaneOp) (s : State) : Res :=
  let u := { s.me.replayed with ctl := { s.me.replayed.ctl with gathered := [] } }
  .next (((s.setMe u).issueAtomic u x reduces false t.ctl.gathered ok).advance 2 e)

/-- An atomic some of whose lanes have missed performs the others (R187). -/
def atomicSplit (t : Troupe) (x : AArgs) (reduces : Bool) (ok : List LaneOp) (s : State) : State :=
  (s.modTroupe t.key fun t =>
    { t with sp := { t.sp with replay := t.sp.replay ||| maskOf fun l => ok.any fun o => o.lane == l } }).issueAtomic
      t x reduces true [] ok

theorem atomicData_place (t : Troupe) (x : AArgs) (o : LaneOp) :
    (atomicData t x o).lane = o.lane ∧ (atomicData t x o).pa = o.pa := by
  unfold atomicData
  dsimp only
  split_ifs <;> exact ⟨rfl, rfl⟩

theorem atHost_of_inModule {o : LaneOp} (inside : inModule o.pa = true) : o.atHost = false := by
  unfold inModule at inside
  unfold LaneOp.atHost
  cases region : regionOf o.pa with
  | host => rw [region] at inside; cases inside
  | _ => rfl

/-- Lanes in module memory whose requests fit go on. -/
theorem atomicGate_opens {s : State} {t : Troupe} {x : AArgs} {reduces : Bool} {ok : List LaneOp}
    (inside : ∀ o ∈ ok, inModule o.pa = true) (quota : s.overQuota t.world (s.splitRequests (clusterOf t.core) ok) = false)
    (fit : s.requestsFit t.world (s.splitRequests (clusterOf t.core) ok) = true) (go : State → Res) :
    atomicGate t x reduces ok go s = go s := by
  have noHost : ok.filter LaneOp.atHost = [] :=
    List.filter_eq_nil_iff.2 fun o ho => by rw [atHost_of_inModule (inside o ho)]; exact Bool.false_ne_true
  unfold atomicGate State.queueGate
  simp only [quota, fit, noHost, ite_self, List.isEmpty_nil, Bool.not_true, Bool.false_eq_true, if_false, if_true]

section

variable {s : State} {e : Bool} {g : Guard} {x : AArgs} {moduleOnly reduces : Bool}
  (idle : s.hostPending s.src = false) (answered : s.hostAnswers s.src = [])

include idle answered

/-- With no lane to act in, an atomic that has gathered no result goes on, and %replay is cleared (R112, R188). -/
theorem State.atomic_none (gathered : s.src.ctl.gathered = []) (none : s.memLanes g = []) :
    s.atomic e g x moduleOnly reduces = .next ((if s.src.sp.replay = 0 then s else s.setMe s.me.replayed).advance 2 e) := by
  unfold State.atomic State.atomicOver
  simp only [idle, answered, none, gathered, List.isEmpty_nil, Bool.not_true, Bool.false_eq_true, if_false, if_true]

/-- Lanes in module memory that no queue holds back go on to the access. -/
theorem State.atomic_eq (acts : s.memLanes g ≠ []) (steady : s.fenceChanging = false)
    (slot : x.d.val = 63 ∨ ∀ o ∈ s.src.ops, ∀ aop wide d, o.kind ≠ .atomic aop wide (some d))
    {ok : List LaneOp} {missed : List (Nat × W64)}
    (checked : s.checkLanes s.src (atomicNeed x moduleOnly reduces) ((s.memLanes g).map fun l => (l, atomicAddr s.src x l)) = .go ok missed)
    (hits : s.watchHits s.src (atomicNeed x moduleOnly reduces) ok = []) (near : ∀ o ∈ ok, o.atPeer = false)
    (inside : ∀ o ∈ ok, inModule o.pa = true)
    (quota : s.overQuota s.src.world (s.splitRequests (clusterOf s.src.core) (ok.map (atomicData s.src x))) = false)
    (fit : s.requestsFit s.src.world (s.splitRequests (clusterOf s.src.core) (ok.map (atomicData s.src x))) = true) :
    s.atomic e g x moduleOnly reduces = s.access (atomicNeed x moduleOnly reduces) false
      ((s.memLanes g).map fun l => (l, atomicAddr s.src x l)) (atomicData s.src x) openGate (atomicIssue s.src x reduces e)
      (atomicSplit s.src x reduces) := by
  have acts : (s.memLanes g).isEmpty = false := by simpa using acts
  have free : ¬ (x.d.val ≠ 63 ∧ (s.src.ops.any fun o => match o.kind with | .atomic _ _ (some _) => true | _ => false) = true) := by
    rintro ⟨other, busy⟩
    obtain ⟨o, ho, waits⟩ := List.any_eq_true.1 busy
    have none := slot.resolve_left other o ho
    split at waits
    · next kind => exact none _ _ _ kind
    · cases waits
  have inside' : ∀ o ∈ ok.map (atomicData s.src x), inModule o.pa = true := fun o ho => by
    obtain ⟨p, hp, rfl⟩ := List.mem_map.1 ho
    rw [(atomicData_place s.src x p).2]
    exact inside p hp
  rw [← State.access_opens (gate := atomicGate s.src x reduces) checked hits near (atomicGate_opens inside' quota fit)]
  unfold State.atomic
  simp only [idle, answered, acts, steady, List.isEmpty_nil, Bool.not_true, Bool.false_eq_true, if_false]
  exact if_neg free

end

/-! ### What an atomic does -/

/-- An atomic with all its lanes sends their requests, and the registers stay (R190, R200). -/
theorem atomicIssue_sends {s a : State} {e : Bool} {x : AArgs} {reduces : Bool} {os : List LaneOp} (touched : Touched s a)
    (service : SameService s a) : ∃ t, atomicIssue s.src x reduces e os a = .next (ended e t) ∧
      { t with troupes := s.troupes, cores := s.cores, clusters := s.clusters, worlds := s.worlds, book := s.book } = s ∧
      t.me.v = s.me.v ∧ t.me.s = s.me.s ∧ t.me.p = s.me.p ∧ t.me.exec = s.me.exec ∧ t.me.pc = s.me.pc + 2 ∧
      ∀ c, ((t.cluster c).reqQ.drop (s.cluster c).reqQ.length).map Request.asked =
        ((s.splitRequests (clusterOf s.me.core) os).filter fun r => r.1 == c).map fun r => (s.me.world, x.aop, x.wide, reduces, r.2) := by
  generalize replayed : ({ a.me.replayed with ctl := { a.me.replayed.ctl with gathered := [] } } : Troupe) = u
  have uAt : u = { s.me with sp := { s.me.sp with replay := 0 }, ctl := { s.me.ctl with replayPc := none, gathered := [] } } := by
    rw [← replayed, touched.me]; rfl
  obtain ⟨frame, -, -, only, queues⟩ := (a.setMe u).issueAtomic_spec u x reduces false s.src.ctl.gathered os
  generalize issued : (a.setMe u).issueAtomic u x reduces false s.src.ctl.gathered os = y at *
  have split : (a.setMe u).splitRequests (clusterOf u.core) os = s.splitRequests (clusterOf s.me.core) os := by
    rw [(service.trans (.of_eq rfl rfl rfl : SameService a (a.setMe u))).splitRequests, uAt]
  have cluster (c : Nat) : (a.setMe u).cluster c = s.cluster c := congrArg (·.get c {}) touched.clusters
  rw [State.me_setMe] at only
  obtain ⟨t, eq, ⟨onlyT, -⟩, me⟩ := y.advance_spec 2 e
  have clusterT (c : Nat) : t.cluster c = y.cluster c := by
    have := congrArg (fun z : State => z.cluster c) onlyT
    exact this
  have regs : t.me.v = s.me.v ∧ t.me.s = s.me.s ∧ t.me.p = s.me.p ∧ t.me.exec = s.me.exec ∧ t.me.pc = s.me.pc + 2 := by
    rw [me, only, uAt]
    exact ⟨rfl, rfl, rfl, rfl, rfl⟩
  obtain ⟨v, sregs, p, exec, pc⟩ := regs
  refine ⟨t, ?_, ?_, v, sregs, p, exec, pc, fun c => ?_⟩
  · rw [← eq, ← issued, ← replayed]; rfl
  · obtain ⟨sent, -⟩ := frame
    obtain ⟨⟨same, -⟩, -⟩ := touched
    have first := congrArg (fun z : State => { z with
      troupes := s.troupes, cores := s.cores, clusters := s.clusters, worlds := s.worlds, book := s.book }) onlyT
    have second := congrArg (fun z : State => { z with
      troupes := s.troupes, cores := s.cores, clusters := s.clusters, worlds := s.worlds, book := s.book }) sent
    have third := congrArg (fun z : State => { z with clusters := s.clusters }) same
    exact first.trans (second.trans third)
  · have grown := queues c
    rw [split, cluster, uAt] at grown
    rw [clusterT, grown]

/-- An atomic some of whose lanes have missed sends the requests of the others, and %replay gains them (R187). -/
theorem atomicSplit_sends {s : State} {u : Troupe} {x : AArgs} {reduces : Bool} (ok : List LaneOp) {data : LaneOp → LaneOp}
    (lane : ∀ o, (data o).lane = o.lane) : Sends (atomicSplit u x reduces (ok.map data)) s u.key fun t u' v =>
      v = { u' with
        ops := v.ops, sp := { u'.sp with replay := u'.sp.replay ||| maskOf fun l => ok.any fun o => o.lane == l } } ∧
      ∀ c, ((t.cluster c).reqQ.drop (s.cluster c).reqQ.length).map Request.asked =
        ((s.splitRequests (clusterOf u.core) (ok.map data)).filter fun r => r.1 == c).map
          fun r => (u.world, x.aop, x.wide, reduces, r.2) := by
  intro t u' service queues found
  have lanes (l : Nat) : ((ok.map data).any fun o => o.lane == l) = ok.any fun o => o.lane == l := by
    rw [List.any_map]
    exact List.any_congr rfl fun o => by simp [lane]
  unfold atomicSplit
  simp only [lanes]
  generalize replays : t.modTroupe u.key (fun t =>
    { t with sp := { t.sp with replay := t.sp.replay ||| maskOf fun l => ok.any fun o => o.lane == l } }) = a
  have there : a.troupe u.key = some { u' with
      sp := { u'.sp with replay := u'.sp.replay ||| maskOf fun l => ok.any fun o => o.lane == l } } := by
    rw [← replays]
    exact (State.troupe_modTroupe _ found _).trans (if_pos rfl)
  have queuesA (c : Nat) : (a.cluster c).reqQ = (s.cluster c).reqQ := by
    rw [← replays, State.cluster, State.modTroupe_clusters, ← State.cluster, queues]
  have serviceA : SameService s a := service.trans (replays ▸ .of_modTroupe _ _)
  have frameA : RequestFrame u.key t a := replays ▸ .of_modTroupe _
  obtain ⟨frame, -, troupes, -, sent⟩ := a.issueAtomic_spec u x reduces true [] (ok.map data)
  obtain ⟨v, at_, only⟩ := troupes _ _ there
  refine ⟨frameA.trans frame, v, at_, only, fun c => ?_⟩
  rw [← queuesA, sent, serviceA.splitRequests]

/-- Settles O16: behind its gate an atomic's access goes on as a store's does, and its lanes' requests are split as in the
state before, since what the choice of a service troupe rests on is kept all the way to the queues. -/
theorem atomicsIssue : Obligations.AtomicsIssue := by
  unfold Obligations.AtomicsIssue
  intro e g x s ok i moduleOnly reduces which idle answered gathered mine
  have run : exec i s = s.atomic e g x moduleOnly reduces := by
    rcases which with ⟨rfl, rfl, rfl⟩ | ⟨rfl, rfl, rfl⟩ | ⟨rfl, rfl, rfl⟩ <;> rfl
  refine ⟨fun none => ?_, fun acts steady slot missed missing inside quota fit => ?_,
    fun acts steady slot translated inside quota fit => ?_⟩
  · have eq := run.trans (State.atomic_none idle answered gathered none)
    by_cases fresh : s.src.sp.replay = 0
    · rw [if_pos fresh] at eq ⊢
      exact State.advance_completes eq
    · rw [if_neg fresh] at eq ⊢
      exact State.done_completes (u := s.me.replayed) eq rfl
  · obtain ⟨checked, some, hits, near⟩ := missing
    have access := run.trans (State.atomic_eq idle answered acts steady slot checked hits near inside quota fit)
    exact misses_of_sends access ⟨checked, some, hits, near⟩ (atomicSplit_sends ok fun o => (atomicData_place s.src x o).1)
  · have through : Translated s (atomicNeed x moduleOnly reduces) ((s.memLanes g).map fun l => (l, atomicAddr s.src x l)) ok := translated
    obtain ⟨checked, hits, near⟩ := translated
    rw [run, State.atomic_eq idle answered acts steady slot checked hits near inside quota fit,
      State.access_translated _ _ _ _ _ _ _ _ through]
    exact atomicIssue_sends (s.touchAll_touched _ _) (.of_touchAll _ _)

end Sys2Proof.Machine
end

section
/-! SUPPORT. Integer instructions of the lanes (R151, R152): each is one write of lanes, of a value that is read here as
the specification gives it. -/

namespace Sys2Proof.Machine

open Sys2Proof.Claims

/-! ### Instructions that write lanes -/

/-- An instruction that writes the lanes of a vector register, whose lane l is `v l` with the exceptions `x l`. -/
theorem State.lanes0_completes {i : Instr} {s : State} {m : Mask} {d : Reg} {f : LaneFn} {len : Nat} {e : Bool} {v : Nat → W32}
    {x : Nat → Exc} (run : exec i s = s.lanes0 m d.val f len e) (lanes : ∀ l, l < 128 → f l = (v l, x l)) :
    Completes i e s (VectorWritten s m d.val len v x) := by
  obtain ⟨t, eq, only, frame, written, others, sticky⟩ := s.lanes0_spec m d f len e
  refine ⟨t, run.trans eq, only, frame, fun l hl => ?_, others, fun l hl => ?_⟩
  · simpa only [lanes l hl] using written l hl
  · simpa only [lanes l hl] using sticky l hl

/-- An instruction of two sources without status computes the function that it is run with, or another of the same values. -/
theorem computes2_of_int2 {op : Hdr → Guard → Reg → Reg → VSrc → Instr} {f : W32 → W32 → W32}
    (run : ∀ h g d a b s, exec (op h g d a b) s = s.int2 h g d a b f) : Computes2 op f :=
  fun h g d a b s => State.lanes0_completes (run h g d a b s) fun _ _ => rfl

theorem computes2_of_value {op : Hdr → Guard → Reg → Reg → VSrc → Instr} (f : W32 → W32 → W32) {g : W32 → W32 → W32}
    (run : ∀ h g d a b s, exec (op h g d a b) s = s.int2 h g d a b f) (value : ∀ x y, f x y = g x y) : Computes2 op g :=
  (funext fun x => funext (value x) : f = g) ▸ computes2_of_int2 run

/-! ### High products and the saturating sum (R151) -/

/-- Bits 63 to 32 of a word, from its signed value and from its unsigned one. -/
theorem extractHigh_eq_ofInt (x : W64) : x.extractLsb' 32 32 = BitVec.ofInt 32 (x.toInt / 2 ^ 32) := by
  apply BitVec.eq_of_toNat_eq
  rw [BitVec.extractLsb'_toNat, BitVec.toNat_ofInt, Nat.shiftRight_eq_div_pow]
  have := x.isLt
  rw [BitVec.toInt_eq_toNat_cond]
  split <;> omega

theorem extractHigh_eq_ofNat (x : W64) : x.extractLsb' 32 32 = w32 (x.toNat / 2 ^ 32) := by
  apply BitVec.eq_of_toNat_eq
  rw [BitVec.extractLsb'_toNat, BitVec.toNat_ofNat, Nat.shiftRight_eq_div_pow]

/-- The product of two lanes does not leave 64 bits. -/
theorem toInt_mul_signExtend (a b : W32) : (a.signExtend 64 * b.signExtend 64).toInt = a.toInt * b.toInt := by
  have bound : (a.toInt * b.toInt).natAbs ≤ 2 ^ 31 * 2 ^ 31 := by
    rw [Int.natAbs_mul]
    have := @BitVec.toInt_lt 32 a
    have := @BitVec.le_toInt 32 a
    have := @BitVec.toInt_lt 32 b
    have := @BitVec.le_toInt 32 b
    exact Nat.mul_le_mul (by omega) (by omega)
  rw [BitVec.toInt_mul, BitVec.toInt_signExtend_of_le (by decide), BitVec.toInt_signExtend_of_le (by decide)]
  exact Int.bmod_eq_of_le (by omega) (by omega)

theorem toNat_mul_setWidth (a b : W32) : (a.setWidth 64 * b.setWidth 64).toNat = a.toNat * b.toNat := by
  have small : a.toNat * b.toNat < 2 ^ (32 + 32) := Nat.pow_add 2 32 32 ▸ Nat.mul_lt_mul'' a.isLt b.isLt
  rw [BitVec.toNat_mul, BitVec.toNat_setWidth_of_le (by decide), BitVec.toNat_setWidth_of_le (by decide), Nat.mod_eq_of_lt small]

/-- A sum clamped to the range of a signed lane. -/
theorem ofInt_clamp (a b : W32) : BitVec.ofInt 32 (min (max (a.toInt + b.toInt) (-(2 ^ 31))) (2 ^ 31 - 1)) =
    if 2 ^ 31 ≤ a.toInt + b.toInt then 0x7FFFFFFF else if a.toInt + b.toInt < -2 ^ 31 then 0x80000000 else a + b := by
  split
  · next above => rw [(by omega : min (max (a.toInt + b.toInt) (-(2 ^ 31))) (2 ^ 31 - 1) = 2 ^ 31 - 1)]; rfl
  · split
    · next below => rw [(by omega : min (max (a.toInt + b.toInt) (-(2 ^ 31))) (2 ^ 31 - 1) = -(2 ^ 31))]; rfl
    · next inside =>
      rw [(by omega : min (max (a.toInt + b.toInt) (-(2 ^ 31))) (2 ^ 31 - 1) = a.toInt + b.toInt), BitVec.ofInt_add,
        BitVec.ofInt_toInt, BitVec.ofInt_toInt]

/-! ### Shifts (R152) -/

theorem shiftLeft_eq_ofNat (a : W32) (n : Nat) : (if 32 ≤ n then 0 else a <<< n) = BitVec.ofNat 32 (a.toNat * 2 ^ n) := by
  split
  · next long =>
    have gone : 2 ^ 32 ∣ a.toNat * 2 ^ n := Dvd.dvd.mul_left (pow_dvd_pow 2 long) _
    exact BitVec.eq_of_toNat_eq (by rw [BitVec.toNat_ofNat, Nat.mod_eq_zero_of_dvd gone]; rfl)
  · apply BitVec.eq_of_toNat_eq
    rw [BitVec.toNat_shiftLeft, BitVec.toNat_ofNat, Nat.shiftLeft_eq]

theorem ushiftRight_eq_ofNat (a : W32) (n : Nat) : (if 32 ≤ n then 0 else a >>> n) = BitVec.ofNat 32 (a.toNat / 2 ^ n) := by
  split
  · next long =>
    have gone : a.toNat / 2 ^ n = 0 :=
      Nat.div_eq_of_lt (a.isLt.trans_le (Nat.pow_le_pow_right (by decide) long))
    rw [gone]; rfl
  · rw [← Nat.shiftRight_eq_div_pow, ← BitVec.toNat_ushiftRight, BitVec.ofNat_toNat, BitVec.setWidth_eq]

/-- From a shift of 31 on, a signed shift gives copies of the sign. -/
theorem sshiftRight_eq_ofInt (a : W32) (n : Nat) :
    a.sshiftRight (if 32 ≤ n then 31 else n) = BitVec.ofInt 32 (a.toInt / 2 ^ n) := by
  have capped : a.sshiftRight (if 32 ≤ n then 31 else n) = a.sshiftRight n := by
    split
    · next long =>
      apply BitVec.eq_of_getLsbD_eq
      intro i hi
      rw [BitVec.getLsbD_sshiftRight, BitVec.getLsbD_sshiftRight, if_neg (by omega : ¬ n + i < 32)]
      by_cases zero : i = 0
      · subst zero
        rw [if_pos (by decide)]; rfl
      · rw [if_neg (by omega)]
    · rfl
  rw [capped, BitVec.sshiftRight_eq, Int.shiftRight_eq_div_pow]
  simp

/-! ### Counts of bits (R152) -/

theorem ones32_eq_countP (a : W32) : ones32 a = (List.range 32).countP a.getLsbD := List.countP_eq_length_filter.symm

/-- The leading zeros of a lane end at its highest 1. -/
theorem findIdx_leading (a : W32) : ((List.range 32).findIdx fun i => a.getLsbD (31 - i)) =
    if a = 0 then 32 else 31 - Nat.log2 a.toNat := by
  split
  · next zero => subst zero; decide
  · next some =>
    have some : a.toNat ≠ 0 := fun h => some (BitVec.eq_of_toNat_eq h)
    have high : Nat.log2 a.toNat < 32 := (Nat.log2_lt some).2 a.isLt
    have inside : 31 - Nat.log2 a.toNat < (List.range 32).length := by rw [List.length_range]; omega
    rw [List.findIdx_eq inside]
    simp only [List.getElem_range]
    refine ⟨?_, fun j below => ?_⟩
    · rw [(by omega : 31 - (31 - Nat.log2 a.toNat) = Nat.log2 a.toNat), ← BitVec.testBit_toNat]
      exact Nat.testBit_log2 some
    · rw [← BitVec.testBit_toNat]
      exact Nat.testBit_lt_two_pow ((Nat.log2_lt some).1 (by omega))

theorem leadingZeros_eq (a : W32) : (if a = 0 then 32 else w32 (31 - Nat.log2 a.toNat)) =
    BitVec.ofNat 32 ((List.range 32).findIdx fun i => a.getLsbD (31 - i)) := by
  rw [findIdx_leading]
  split <;> rfl

/-- Settles O1: each instruction is one write of lanes, and its value is the one above. -/
theorem integerLanes : Obligations.IntegerLanes := by
  unfold Obligations.IntegerLanes
  have ite_slt (x y p q : W32) : (if x.slt y then p else q) = if x.toInt < y.toInt then p else q := by
    simp only [BitVec.slt_iff_toInt_lt]
  have ite_ult (x y p q : W32) : (if x.ult y then p else q) = if x.toNat < y.toNat then p else q := by
    simp only [BitVec.ult_iff_toNat_lt]
  refine ⟨⟨?iadd, ?isub, ?imul, ?imulhiS, ?imulhiZ, fun h g d a b s => ?imad, ?iaddsatS⟩, ?iminS, ?imaxS, ?iminZ, ?imaxZ,
    ?iand, ?ior, ?ixor, ?inot, ?ishl, ?ishrZ, ?ishrS, ?ipopc, ?iclz⟩
  case iadd => exact computes2_of_int2 fun _ _ _ _ _ _ => rfl
  case isub => exact computes2_of_int2 fun _ _ _ _ _ _ => rfl
  case imul => exact computes2_of_int2 fun _ _ _ _ _ _ => rfl
  case imulhiS =>
    refine computes2_of_value (fun x y => BitVec.ofInt 32 (x.toInt * y.toInt / 2 ^ 32)) (fun _ _ _ _ _ _ => rfl) fun x y => ?_
    rw [extractHigh_eq_ofInt, toInt_mul_signExtend]
  case imulhiZ =>
    refine computes2_of_value (fun x y => w32 (x.toNat * y.toNat / 2 ^ 32)) (fun _ _ _ _ _ _ => rfl) fun x y => ?_
    rw [extractHigh_eq_ofNat, toNat_mul_setWidth]
  case imad => exact State.lanes0_completes rfl fun _ _ => rfl
  case iaddsatS =>
    exact computes2_of_value (fun x y => BitVec.ofInt 32 (min (max (x.toInt + y.toInt) (-(2 ^ 31))) (2 ^ 31 - 1)))
      (fun _ _ _ _ _ _ => rfl) ofInt_clamp
  case iminS =>
    exact computes2_of_value (fun x y => if x.slt y then x else y)
      (fun _ _ _ _ _ _ => rfl) fun x y => ite_slt x y x y
  case imaxS =>
    exact computes2_of_value (fun x y => if x.slt y then y else x)
      (fun _ _ _ _ _ _ => rfl) fun x y => ite_slt x y y x
  case iminZ =>
    exact computes2_of_value (fun x y => if x.ult y then x else y)
      (fun _ _ _ _ _ _ => rfl) fun x y => ite_ult x y x y
  case imaxZ =>
    exact computes2_of_value (fun x y => if x.ult y then y else x)
      (fun _ _ _ _ _ _ => rfl) fun x y => ite_ult x y y x
  case iand => exact computes2_of_int2 fun _ _ _ _ _ _ => rfl
  case ior => exact computes2_of_int2 fun _ _ _ _ _ _ => rfl
  case ixor => exact computes2_of_int2 fun _ _ _ _ _ _ => rfl
  case inot => exact computes1_of_int1 fun _ _ _ _ _ => rfl
  case ishl =>
    exact computes2_of_value (fun x y => if 32 ≤ y.toNat then 0 else x <<< y.toNat)
      (fun _ _ _ _ _ _ => rfl) fun x y => shiftLeft_eq_ofNat x y.toNat
  case ishrZ =>
    exact computes2_of_value (fun x y => if 32 ≤ y.toNat then 0 else x >>> y.toNat)
      (fun _ _ _ _ _ _ => rfl) fun x y => ushiftRight_eq_ofNat x y.toNat
  case ishrS =>
    exact computes2_of_value (fun x y => x.sshiftRight (if 32 ≤ y.toNat then 31 else y.toNat))
      (fun _ _ _ _ _ _ => rfl) fun x y => sshiftRight_eq_ofInt x y.toNat
  case ipopc => exact computes1_of_int1 fun h g d a s => by simp only [← ones32_eq_countP]; rfl
  case iclz => exact computes1_of_int1 fun h g d a s => by simp only [← leadingZeros_eq]; rfl

end Sys2Proof.Machine
end

section
/-! SUPPORT. Compares of the lanes (R146, R153): each is one write of a predicate, of a condition that is read here as the
specification gives it. -/

namespace Sys2Proof.Machine

open Sys2Proof.Claims

/-- A compare of integers writes whether its condition holds. -/
theorem compares_of_icmp {op : Hdr → Guard → Pred → Reg → VSrc → Instr} {f : W32 → W32 → Bool}
    (run : ∀ h g pd a b s, exec (op h g pd a b) s = s.icmp h g pd a b f) : Compares op f := by
  intro h g pd a b s
  obtain ⟨t, eq, only, written⟩ :=
    s.preds0_spec (s.effective g) pd (fun l => (f (vsrc s.src a l) (vval b s.src l), 0)) (vlen b) h.e
  exact ⟨t, (run h g pd a b s).trans eq, only, written⟩

/-- The exceptions of a floating-point compare, from the relation and whether an operand is a signalling NaN (R146). -/
theorem fcmp_exceptions (quiet : Bool) (r : Rel) (x y : Fp) :
    (if quiet then invOf [x, y] else if r = .un then excInv else 0) =
      if (if quiet then x == .nan true || y == .nan true else decide (r = .un)) then 1 else 0 := by
  cases quiet with
  | true => simp only [if_true, invOf, List.any_cons, List.any_nil, Bool.or_false]; rfl
  | false => simp only [Bool.false_eq_true, if_false, decide_eq_true_eq]; rfl

/-- A floating-point compare writes whether its condition holds of the relation. -/
theorem comparesFp_of_fcmp {op : Hdr → Guard → Pred → Reg → VSrc → Instr} (quiet : Bool) (f : Rel → Bool) {g : Rel → Bool}
    (run : ∀ h gd pd a b s, exec (op h gd pd a b) s = s.fcmp h gd pd a b quiet f) (condition : ∀ r, f r = g r) :
    ComparesFp op g fun r snan => if quiet then snan else decide (r = .un) := by
  obtain rfl : f = g := funext condition
  intro h gd pd a b s
  obtain ⟨t, eq, only, written⟩ := s.preds0_spec (s.effective gd) pd (fun l =>
    (f (compareFp (vsrc s.src a l) (vval b s.src l)),
      if quiet then invOf [f32v (vsrc s.src a l), f32v (vval b s.src l)]
      else if compareFp (vsrc s.src a l) (vval b s.src l) = .un then excInv else 0)) (vlen b) h.e
  simp only [fcmp_exceptions] at written
  exact ⟨t, (run h gd pd a b s).trans eq, only, written⟩

/-- Settles O4: each compare is one write of a predicate; the quiet ones leave INV to the signalling NaNs. -/
theorem vectorCompares : Obligations.VectorCompares := by
  unfold Obligations.VectorCompares
  refine ⟨⟨?eq, ?ne, ?ltS, ?leS, ?ltZ, ?leZ⟩, ?fpEq, ?fpNe, ?fpLt, ?fpLe, ?fpUn⟩
  case eq => exact compares_of_icmp fun h g pd a b s => by simp only [← beq_eq_decide]; rfl
  case ne => exact compares_of_icmp fun h g pd a b s => by simp only [← bne_eq_decide_ne]; rfl
  case ltS => exact compares_of_icmp fun _ _ _ _ _ _ => rfl
  case leS => exact compares_of_icmp fun _ _ _ _ _ _ => rfl
  case ltZ => exact compares_of_icmp fun _ _ _ _ _ _ => rfl
  case leZ => exact compares_of_icmp fun _ _ _ _ _ _ => rfl
  case fpEq => exact comparesFp_of_fcmp true (fun r => r == .eq) (fun _ _ _ _ _ _ => rfl) fun r => beq_eq_decide r _
  case fpNe => exact comparesFp_of_fcmp true (fun r => r != .eq) (fun _ _ _ _ _ _ => rfl) fun r => bne_eq_decide_ne r _
  case fpLt => exact comparesFp_of_fcmp false (fun r => r == .lt) (fun _ _ _ _ _ _ => rfl) fun r => beq_eq_decide r _
  case fpLe =>
    exact comparesFp_of_fcmp false (fun r => r == .lt || r == .eq) (fun _ _ _ _ _ _ => rfl) fun r => by cases r <;> rfl
  case fpUn => exact comparesFp_of_fcmp true (fun r => r == .un) (fun _ _ _ _ _ _ => rfl) fun r => beq_eq_decide r _

end Sys2Proof.Machine
end

section
/-! SUPPORT. Select, moves and shuffles (R154, R155), which write lanes, and reductions (R156): the tree over the lanes of
a mask has a root just when the mask has a lane. -/

namespace Sys2Proof.Machine

open Sys2Proof.Claims

/-! ### Select (R154) -/

/-- The guard of `sel`, in a lane. -/
theorem inMask_guard (neg : Bool) (p : Fin 7) (t : Troupe) {l : Nat} (hl : l < 128) :
    inMask (guardMask (if neg then .neg p else .pos p) t) l = (inMask (t.preg p.val) l != neg) := by
  cases neg with
  | false => simp [guardMask]
  | true => simp [guardMask, hl]

/-! ### The lane that a shuffle reads (R155) -/

theorem mod_lanes (n : W32) : n.toNat % 128 = (n.setWidth 7).toNat := (BitVec.toNat_setWidth 7 n).symm

theorem xor_mod_lanes (n : W32) {l : Nat} (hl : l < 128) :
    Nat.xor l (n.toNat % 128) = (BitVec.ofNat 7 l ^^^ n.setWidth 7).toNat := by
  rw [BitVec.toNat_xor, BitVec.toNat_ofNat, Nat.mod_eq_of_lt hl, ← mod_lanes]; rfl

/-- A shuffle writes lane l with the lane of its source that `source l` names (R155). -/
theorem State.shuffle_completes {i : Instr} {s : State} {h : Hdr} {g : Guard} {d a : Reg} {b : VSrc} {source : Nat → Nat}
    (f : Nat → Nat → Nat) (run : exec i s = s.shuffle h g d a b f) (lane : ∀ l, l < 128 → f (vval b s.src l).toNat l = source l) :
    Completes i h.e s (VectorWritten s (s.effective g) d.val (vlen b) (fun l => vsrc s.src a (source l)) fun _ => 0) :=
  State.lanes0_completes run fun l hl => by rw [lane l hl]

/-! ### Sums of lanes (R156) -/

/-- A sum of lanes as words of 64 bits is the sum of their signed values. -/
theorem foldl_add_signExtend (f : Nat → W32) (ls : List Nat) (x : W64) :
    ls.foldl (fun x l => x + (f l).signExtend 64) x = x + BitVec.ofInt 64 ((ls.map fun l => (f l).toInt).sum) := by
  induction ls generalizing x with
  | nil => simp
  | cons l ls ih => rw [List.foldl_cons, ih, List.map_cons, List.sum_cons, BitVec.ofInt_add, BitVec.add_assoc]; rfl

/-! ### The tree of a reduction (R156) -/

/-- One level joins a pair of nodes, and goes on behind them. -/
theorem treeLevel_cons (op : W32 → W32 → W32 × Exc) (x y : Option W32) (rest : List (Option W32)) (k : Exc) :
    ∃ n k', n.isSome = (x.isSome || y.isSome) ∧
      treeLevel op (x :: y :: rest) k = (n :: (treeLevel op rest k').1, (treeLevel op rest k').2) := by
  cases x with
  | none => exact ⟨y, k, by simp, rfl⟩
  | some x =>
    cases y with
    | none => exact ⟨some x, k, rfl, rfl⟩
    | some y => exact ⟨_, _, rfl, rfl⟩

/-- A level halves the nodes, and has one that is present just when there was one. -/
theorem treeLevel_spec (op : W32 → W32 → W32 × Exc) (n : Nat) : ∀ (l : List (Option W32)) (k : Exc), l.length = 2 * n →
    (treeLevel op l k).1.length = n ∧ (treeLevel op l k).1.any Option.isSome = l.any Option.isSome := by
  induction n with
  | zero =>
    intro l k size
    obtain rfl := List.eq_nil_of_length_eq_zero size
    exact ⟨rfl, rfl⟩
  | succ n ih =>
    rintro (_ | ⟨x, _ | ⟨y, rest⟩⟩) k size
    · simp at size
    · simp at size; omega
    · obtain ⟨z, k', present, eq⟩ := treeLevel_cons op x y rest k
      obtain ⟨length, any⟩ := ih rest k' (by simp only [List.length_cons] at size; omega)
      rw [eq]
      exact ⟨by rw [List.length_cons, length], by simp only [List.any_cons, any, present, Bool.or_assoc]⟩

/-- n levels over 2^n nodes leave the root, which is present just when a node was. -/
theorem tree_root (op : W32 → W32 → W32 × Exc) (n : Nat) (l : List (Option W32)) (k : Exc) (size : l.length = 2 ^ n) :
    ∃ root k', tree op n l k = ([root], k') ∧ root.isSome = l.any Option.isSome := by
  induction n generalizing l k with
  | zero =>
    obtain ⟨x, rfl⟩ := List.length_eq_one_iff.1 size
    exact ⟨x, k, rfl, by simp⟩
  | succ n ih =>
    obtain ⟨length, any⟩ := treeLevel_spec op (2 ^ n) l k (by rw [size, Nat.pow_succ, Nat.mul_comm])
    obtain ⟨root, k', eq, present⟩ := ih _ (treeLevel op l k).2 length
    exact ⟨root, k', eq, present.trans any⟩

/-- The leaves of a reduction: the lanes of its mask. -/
def leavesOf (m : Mask) (f : Nat → W32) : List (Option W32) :=
  (List.range 128).map fun l => if inMask m l then some (f l) else none

theorem leavesOf_present (m : Mask) (f : Nat → W32) : (leavesOf m f).any Option.isSome = true ↔ m ≠ 0 := by
  rw [leavesOf, List.any_map, List.any_eq_true]
  constructor
  · rintro ⟨l, -, present⟩ rfl
    simp [inMask] at present
  · intro nonempty
    by_contra absent
    refine nonempty (mask_ext fun l hl => ?_)
    by_contra there
    have present : inMask m l = true := by simpa [inMask] using there
    exact absent ⟨l, List.mem_range.2 hl, by simp [present]⟩

section

variable {i : Instr} {s : State} {h : Hdr} {g : Guard} {d a : Reg} {op : W32 → W32 → W32 × Exc}

theorem State.reduce_of_root {x : W32} {rest : List (Option W32)} {k : Exc}
    (root : tree op 7 (leavesOf (s.effective g) (vsrc s.src a)) 0 = (some x :: rest, k)) :
    s.reduce h g d a op = s.done { s.me.setS d.val (x.setWidth 64) with
      sticky := (s.me.setS d.val (x.setWidth 64)).sticky.gather (1#128 <<< (lanesOf (s.effective g)).headD 0) fun _ => k } 1 h.e := by
  rw [leavesOf] at root
  unfold State.reduce
  simp only [root]

theorem State.reduce_of_absent {rest : List (Option W32)} {k : Exc}
    (root : tree op 7 (leavesOf (s.effective g) (vsrc s.src a)) 0 = (none :: rest, k)) :
    s.reduce h g d a op = .next (s.advance 1 h.e) := by
  rw [leavesOf] at root
  unfold State.reduce
  simp only [root]

/-- A reduction over some lane writes the root of its tree, and gathers its exceptions in the lowest lane (R156). -/
theorem State.reduce_completes (run : exec i s = s.reduce h g d a op) (nonempty : s.effective g ≠ 0) : ∃ x k rest,
    tree op 7 (leavesOf (s.effective g) (vsrc s.src a)) 0 = (some x :: rest, k) ∧
    Completes i h.e s fun u => ScalarWritten s d.val 1 (x.setWidth 64) { u with sticky := s.me.sticky } ∧
      u.sticky = s.me.sticky.gather (1#128 <<< (lanesOf (s.effective g)).headD 0) fun _ => k := by
  obtain ⟨root, k, eq, present⟩ := tree_root op 7 (leavesOf (s.effective g) (vsrc s.src a)) 0 (by simp [leavesOf])
  obtain ⟨x, rfl⟩ := Option.isSome_iff_exists.1 (present.trans ((leavesOf_present _ _).2 nonempty))
  have frame := s.me.setS_frame d.val (x.setWidth 64)
  refine ⟨x, k, [], eq, State.done_completes (run.trans (State.reduce_of_root eq)) ⟨?_, ?_⟩⟩
  · exact scalarWritten_of_setS (by rw [frame]; rfl) rfl
  · rw [frame]; rfl

/-- A reduction over no lane only goes on (R156). -/
theorem State.reduce_of_empty (empty : s.effective g = 0) : s.reduce h g d a op = .next (s.advance 1 h.e) := by
  obtain ⟨root, k, eq, present⟩ := tree_root op 7 (leavesOf (s.effective g) (vsrc s.src a)) 0 (by simp [leavesOf])
  have absent : root = none := by
    rw [← Option.not_isSome_iff_eq_none, present, leavesOf_present]
    exact not_not.2 empty
  exact State.reduce_of_absent (absent ▸ eq)

end

theorem rediAdd_eq (h : Hdr) (g : Guard) (d a : Reg) (s : State) : exec (.rediAdd h g d a) s =
    if s.effective g = 0 then .next (s.advance 1 h.e)
    else s.scalar d ((lanesOf (s.effective g)).foldl (fun x l => x + (vsrc s.src a l).signExtend 64) 0) 1 h.e := rfl

/-- Settles O5: selects, moves and shuffles are one write of lanes, a reduction one of a scalar. -/
theorem movesShufflesReductions : Obligations.MovesShufflesReductions := by
  unfold Obligations.MovesShufflesReductions
  refine ⟨⟨fun h neg p d a b s => ?sel, fun h g d b s => ?mov, fun h g d a hi s => ?vbcast, fun h g d s => ?vlane,
    fun h g d a b s => ?shflIdx, fun h g d a b s => ?shflXor, fun h g d a b s => ?shflUp, fun h g d a b s => ?shflDn⟩,
    fun h g d a s nonempty => ?rediAdd, fun h g d a s nonempty => ?redfAdd, fun h g d a s nonempty => ?redfMax,
    fun h g d a s empty => ⟨?rediAddEmpty, ?redfAddEmpty, ?redfMaxEmpty⟩⟩
  case sel => exact State.lanes0_completes rfl fun l hl => by rw [inMask_guard neg p s.src hl]
  case mov => exact State.lanes0_completes rfl fun _ _ => rfl
  case vbcast => exact State.lanes0_completes rfl fun _ _ => by cases hi <;> rfl
  case vlane => exact State.lanes0_completes rfl fun _ _ => rfl
  case shflIdx => exact State.shuffle_completes (fun n _ => n % 128) rfl fun l _ => mod_lanes _
  case shflXor => exact State.shuffle_completes (fun n l => Nat.xor l (n % 128)) rfl fun l hl => xor_mod_lanes _ hl
  case shflUp => exact State.shuffle_completes (fun n l => if n ≤ l then l - n else l) rfl fun _ _ => rfl
  case shflDn => exact State.shuffle_completes (fun n l => if l + n ≤ 127 then l + n else l) rfl fun _ _ => rfl
  case rediAdd =>
    refine State.scalar_completes ((rediAdd_eq h g d a s).trans ((if_neg nonempty).trans ?_))
    rw [foldl_add_signExtend, zero_add]
  case redfAdd => exact State.reduce_completes rfl nonempty
  case redfMax => exact State.reduce_completes rfl nonempty
  case rediAddEmpty => exact State.advance_completes ((rediAdd_eq h g d a s).trans (if_pos empty))
  case redfAddEmpty =>
    exact State.advance_completes (State.reduce_of_empty (op := fun x y => asLane (fp32.add s.src.rm (f32v x) (f32v y))) empty)
  case redfMaxEmpty => exact State.advance_completes (State.reduce_of_empty (op := fun x y => minMax true x y) empty)

end Sys2Proof.Machine
end

section
/-! SUPPORT. Sparse memories (R159, R193): a canonical memory is the bytes it reads as, so that what many operations
leave is found byte by byte. -/

namespace Sys2Proof.Machine

theorem Bytes.byte_cons_self (i : Nat) (b : Byte) (t : Bytes) : Bytes.byte ((i, b) :: t) i = b := by
  rw [Bytes.byte, if_pos rfl]

/-- Canonical memories that read alike are equal. -/
theorem Bytes.ext_byte {m n : Bytes} (hm : m.wf = true) (hn : n.wf = true) (h : ∀ a, m.byte a = n.byte a) : m = n := by
  induction m generalizing n with
  | nil =>
    match n with
    | [] => rfl
    | (j, c) :: u =>
      have zero : c = 0 := by simpa [Bytes.byte] using (h j).symm
      exact absurd zero ((Bytes.wf_cons j c u).1 hn).1
  | cons e t ih =>
    obtain ⟨i, b⟩ := e
    match n with
    | [] =>
      have zero : b = 0 := by simpa [Bytes.byte] using h i
      exact absurd zero ((Bytes.wf_cons i b t).1 hm).1
    | (j, c) :: u =>
      obtain ⟨hb, lower, ht⟩ := (Bytes.wf_cons i b t).1 hm
      obtain ⟨hc, lower', hu⟩ := (Bytes.wf_cons j c u).1 hn
      have notBelow : ¬ i < j := fun lt => hb <| by
        have := h i
        rwa [Bytes.byte_cons_self, Bytes.byte_zero (t := (j, c) :: u)] at this
        exact List.forall_mem_cons.2 ⟨lt, fun e he => lt.trans (lower' e he)⟩
      have notAbove : ¬ j < i := fun lt => hc <| by
        have := h j
        rwa [Bytes.byte_cons_self, Bytes.byte_zero (t := (i, b) :: t), eq_comm] at this
        exact List.forall_mem_cons.2 ⟨lt, fun e he => lt.trans (lower e he)⟩
      obtain rfl : i = j := by omega
      obtain rfl : b = c := by simpa [Bytes.byte] using h i
      rw [ih ht hu fun a => ?_]
      by_cases ha : i = a
      · subst ha
        rw [Bytes.byte_zero lower, Bytes.byte_zero lower']
      · simpa [Bytes.byte, ha] using h a

/-- A byte of a part of the listing that a test of the address keeps. -/
theorem Bytes.byte_filter (m : Bytes) (p : Nat → Bool) (a : Nat) :
    Bytes.byte (m.filter fun e => p e.1) a = if p a then m.byte a else 0 := by
  induction m with
  | nil => simp [Bytes.byte]
  | cons e t ih =>
    obtain ⟨i, b⟩ := e
    rw [List.filter_cons]
    by_cases hi : i = a
    · subst hi
      split
      · simp_all [Bytes.byte]
      · simp_all
    · split
      · simp [Bytes.byte, hi, ih]
      · simpa [Bytes.byte, hi] using ih

/-- A cleared range reads 0, and every other byte as before. -/
theorem Bytes.byte_clear (m : Bytes) (a n k : Nat) :
    (m.clear a n).byte k = if a ≤ k ∧ k < a + n then 0 else m.byte k := by
  rw [Bytes.clear, Bytes.byte_filter m fun i => i < a || a + n ≤ i]
  by_cases h : a ≤ k ∧ k < a + n
  · rw [if_pos h, if_neg (by simp; omega)]
  · rw [if_neg h, if_pos (by simp; omega)]

/-- Two listings, one behind the other: the second is read where the first reads 0. -/
theorem Bytes.byte_append {x : Bytes} (y : Bytes) (h : x.wf = true) (a : Nat) :
    Bytes.byte (x ++ y) a = if x.byte a = 0 then y.byte a else x.byte a := by
  induction x with
  | nil => simp [Bytes.byte]
  | cons e t ih =>
    obtain ⟨i, b⟩ := e
    obtain ⟨hb, -, ht⟩ := (Bytes.wf_cons i b t).1 h
    by_cases hi : i = a
    · rw [List.cons_append, Bytes.byte, if_pos hi, Bytes.byte, if_pos hi, if_neg hb]
    · simpa [Bytes.byte, hi] using ih ht

/-- The listing of a range of bytes, read. -/
theorem Bytes.byte_range (bs : List Byte) (a k : Nat) :
    Bytes.byte (((bs.zipIdx a).map fun x => (x.2, x.1)).filter (fun e => e.2 ≠ 0)) k =
      if a ≤ k ∧ k < a + bs.length then bs.getD (k - a) 0 else 0 := by
  induction bs generalizing a with
  | nil => simp [Bytes.byte]
  | cons b t ih =>
    have behind : a ≠ k → (if a + 1 ≤ k ∧ k < a + 1 + t.length then t.getD (k - (a + 1)) 0 else 0) =
        if a ≤ k ∧ k < a + (b :: t).length then (b :: t).getD (k - a) 0 else 0 := fun ne => by
      by_cases inside : a + 1 ≤ k ∧ k < a + 1 + t.length
      · rw [if_pos inside, if_pos (by simp; omega), show k - a = (k - (a + 1)) + 1 by omega, List.getD_cons_succ]
      · rw [if_neg inside, if_neg (by simp; omega)]
    rw [List.zipIdx_cons, List.map_cons, List.filter_cons]
    by_cases hk : a = k
    · subst hk
      by_cases hb : b = 0
      · rw [if_neg (by simpa using hb), ih, if_neg (by omega), if_pos (by simp), Nat.sub_self, List.getD_cons_zero, hb]
      · rw [if_pos (by simpa using hb), Bytes.byte_cons_self, if_pos (by simp), Nat.sub_self, List.getD_cons_zero]
    · rw [← behind hk, ← ih]
      split
      · simp [Bytes.byte, hk]
      · rfl

/-- Writing at once writes each byte. -/
theorem Bytes.splice_eq_write {m : Bytes} (h : m.wf = true) (a : Nat) (bs : List Byte) :
    m.splice a bs = m.write a bs := by
  refine Bytes.ext_byte (Bytes.wf_splice h a bs) (Bytes.wf_write h a bs) fun k => ?_
  obtain ⟨range, within⟩ := Bytes.wf_range bs a
  have low : (Bytes.wf (m.filter fun e => e.1 < a)) = true := Bytes.wf_filter h _
  have lowRange : Bytes.wf (m.filter (fun e => e.1 < a) ++
      ((bs.zipIdx a).map fun x => (x.2, x.1)).filter (fun e => e.2 ≠ 0)) = true :=
    Bytes.wf_append low range fun x hx y hy => by
      have := within y hy
      have below := (List.mem_filter.1 hx).2
      simp only [decide_eq_true_eq] at below
      omega
  rw [Bytes.splice, Bytes.byte_append _ lowRange, Bytes.byte_append _ low, Bytes.byte_range,
    Bytes.byte_filter m fun i => i < a, Bytes.byte_filter m fun i => a + bs.length ≤ i, Bytes.byte_write h]
  by_cases below : k < a
  · by_cases zero : m.byte k = 0#8 <;>
      simp [below, zero, show ¬ a ≤ k by omega, show ¬ a + bs.length ≤ k by omega]
  · by_cases inside : k < a + bs.length
    · simpa [below, inside, show a ≤ k by omega, show ¬ a + bs.length ≤ k by omega] using Eq.symm
    · simp [below, inside, show a + bs.length ≤ k by omega]

/-- Settles O59: what an operation leaves is canonical and found byte by byte, and so is equal to what reads alike. -/
theorem memoryOperations : Obligations.MemoryOperations := by
  unfold Obligations.MemoryOperations
  refine ⟨fun m a bs h => ⟨Bytes.wf_write h a bs, Bytes.read_write h a bs, fun k out => ?_⟩,
    fun m a bs h => Bytes.splice_eq_write h a bs, fun m a n h => ⟨Bytes.wf_clear h a n, Bytes.byte_clear m a n⟩,
    fun m1 m2 h1 h2 same => Bytes.ext_byte h1 h2 same, rfl⟩
  rw [Bytes.byte_write h, if_neg (by omega)]

end Sys2Proof.Machine
end

section
/-! SUPPORT. What leaves the memory of the module as it is (R159, R193): one lemma for each operation of the model that
writes no byte of it. -/

namespace Sys2Proof.Machine

variable (s : State)

/-- Steps that leave memory alone, one for each element of a list. -/
@[simp] theorem State.foldl_mem {α : Type} {f : State → α → State} (h : ∀ s x, (f s x).mem = s.mem) (xs : List α)
    (s : State) :
    (xs.foldl f s).mem = s.mem :=
  List.foldlRecOn (motive := fun t : State => t.mem = s.mem) xs f rfl fun t ht x _ => (h t x).trans ht

@[simp] theorem State.foldl_fst_mem {α β : Type} {f : State × β → α → State × β} (h : ∀ a x, (f a x).1.mem = a.1.mem)
    (xs : List α) (a : State × β) : (xs.foldl f a).1.mem = a.1.mem :=
  List.foldlRecOn (motive := fun b : State × β => b.1.mem = a.1.mem) xs f rfl fun b hb x _ => (h b x).trans hb

/-! ### Operations of the machine -/

@[simp] theorem State.modPacket_mem (q id : Nat) (f : Packet → Packet) : (s.modPacket q id f).mem = s.mem := by
  simp [State.modPacket]

@[simp] theorem State.raisePacket_mem (mk : Nat → Nat → Instr) (q id : Nat) : (s.raisePacket mk q id).mem = s.mem := by
  unfold State.raisePacket
  split
  · rfl
  · simp

@[simp] theorem State.freshId_mem : s.freshId.2.mem = s.mem := by simp [State.freshId]
@[simp] theorem State.freeNat_mem : s.freeNat.2.mem = s.mem := by simp [State.freeNat]

@[simp] theorem State.putMixed_mem (clash : Bool) (old new : Troupe) : (s.putMixed clash old new).mem = s.mem := by
  unfold State.putMixed
  split <;> simp

@[simp] theorem State.irq_mem (n v : Nat) : (s.irq n v).mem = s.mem := by
  unfold State.irq
  split
  · rfl
  · dsimp only
    split <;> simp

@[simp] theorem State.countIn_mem (w event core n i : Nat) : (s.countIn w event core n i).mem = s.mem := by
  unfold State.countIn
  dsimp only
  split
  · split <;> simp
  · rfl

@[simp] theorem State.spadReadTs_mem (core pts : Nat) : (s.spadReadTs core pts).1.mem = s.mem := by
  simp [State.spadReadTs]

@[simp] theorem State.spadWriteTs_mem (core pts : Nat) : (s.spadWriteTs core pts).1.mem = s.mem := by
  simp [State.spadWriteTs]

@[simp] theorem State.unparkWorld_mem (w : Nat) :
    (s.unparkWorld w).mem = s.mem := State.foldl_mem (fun _ _ => by rfl) _ _

@[simp] theorem State.haltWorld_mem (w : Nat) : (s.haltWorld w).mem = s.mem := by
  unfold State.haltWorld
  split
  · simp
  · rfl

@[simp] theorem State.wake_mem (k : Nat) : (s.wake k).mem = s.mem := by simp [State.wake]

@[simp] theorem State.releasePassed_mem (b : Bar) (ks : List Nat) : (s.releasePassed b ks).mem = s.mem := by
  refine State.foldl_mem (fun s k => ?_) _ _
  split
  · split
    · split <;> simp
    · rfl
  · rfl

/-- What an operation of the barrier unit posts and arms is off the memory (R254). -/
@[simp] theorem State.barUnit_mem (fuel core a : Nat) (op : BarOp) : (State.barUnit fuel s core a op).mem = s.mem := by
  induction fuel generalizing s core a op with
  | zero => rfl
  | succ fuel ih =>
    rw [State.barUnit]
    generalize (if (s.core core).spadBad.contains ((s.core core).phys a / 16) = true then _ else _ : Bar) = b
    split
    · refine (State.foldl_mem (fun s k => ?_) _ _).trans ?_
      split
      · rfl
      · dsimp only
        refine (apply_ite State.mem _ _ _).trans ((ite_congr rfl (fun _ => ?_) fun _ => ?_).trans (ite_self s.mem))
        · split <;> simp
        · split <;> simp only [apply_ite State.mem, ih, State.modMailbox_mem, State.haltWorld_mem, State.count_mem,
            State.putTroupe_mem, ite_self]
      · simp
    · split <;> simp

@[simp] theorem State.barDo_mem (core a : Nat) (op : BarOp) : (s.barDo core a op).mem = s.mem := s.barUnit_mem _ _ _ _
@[simp] theorem State.bumpSpad_mem (core : Nat) : (s.bumpSpad core).mem = s.mem := by simp [State.bumpSpad]

@[simp] theorem State.fireArming_mem (m : Nat) : (s.fireArming m).mem = s.mem := by
  unfold State.fireArming
  dsimp only
  split
  · rfl
  · split <;> simp

@[simp] theorem State.mbxPut_mem (m : Nat) (entry : List W64) : (s.mbxPut m entry).mem = s.mem := by simp [State.mbxPut]

@[simp] theorem State.tellFault_mem (w : Nat) (r : List W64) : (s.tellFault w r).mem = s.mem := by
  unfold State.tellFault
  dsimp only
  split
  · rfl
  · simp

@[simp] theorem State.postPlain_mem (w cause access : Nat) (pc : W32) (lanes : Mask) (vaddr : W64)
    (launch : Option Nat) :
    (s.postPlain w cause access pc lanes vaddr launch).mem = s.mem := by
  unfold State.postPlain
  split
  · rfl
  · simp

@[simp] theorem State.postFor_mem (t : Troupe) (r : List W64) : (s.postFor t r).mem = s.mem := by simp [State.postFor]

@[simp] theorem State.faultAt_mem (t : Troupe) (cause access : Nat) (lanes : Mask) (vaddr : W64) :
    (s.faultAt t cause access lanes vaddr).mem = s.mem := by
  unfold State.faultAt
  dsimp only
  split <;> simp

@[simp] theorem State.divertNow_mem (k : Nat) (t : Troupe) (cause : Nat) : (s.divertNow k t cause).mem = s.mem := by
  simp [State.divertNow]

@[simp] theorem State.boundary_mem (k : Nat) : (s.boundary k).mem = s.mem := by
  unfold State.boundary
  split
  · rfl
  · dsimp only
    split
    · rfl
    · split
      · simp
      · split
        · simp
        · split
          · simp
          · rfl

@[simp] theorem State.endInWait_mem : s.endInWait.mem = s.mem := by
  unfold State.endInWait
  dsimp only
  split
  · simp
  · split
    · simp
    · split <;> simp

@[simp] theorem State.endRun_mem : s.endRun.mem = s.mem := by simp [State.endRun]

@[simp] theorem State.advance_mem (len : Nat) (e : Bool) : (s.advance len e).mem = s.mem := by
  unfold State.advance
  split <;> simp

@[simp] theorem State.jump_mem (pc : W32) : (s.jump pc).mem = s.mem := by simp [State.jump]

@[simp] theorem State.tryRetire_mem (k : Nat) : (s.tryRetire k).mem = s.mem := by
  unfold State.tryRetire
  split
  · rfl
  · split
    · simp
    · rfl

@[simp] theorem State.exitNow_mem (t : Troupe) : (s.exitNow t).mem = s.mem := by simp [State.exitNow]

/-! ### Scalar instructions -/

@[simp] theorem State.checkEns_mem (e : Nat) : (s.checkEns e).mem = s.mem := by
  unfold State.checkEns
  split
  · simp
  · rfl

@[simp] theorem State.leaveEns_mem (uid e : Nat) : (s.leaveEns uid e).mem = s.mem := by simp [State.leaveEns]

/-! ### Translation and misses -/

@[simp] theorem State.touchUtlb_mem (core w : Nat) (sw : Nat × Nat) : (s.touchUtlb core w sw).mem = s.mem := by
  unfold State.touchUtlb
  dsimp only
  split <;> simp

@[simp] theorem State.touchAll_mem (t : Troupe) (ok : List LaneOp) : (s.touchAll t ok).mem = s.mem := by
  simp [State.touchAll]

@[simp] theorem State.debugHalt_mem (t : Troupe) (cause access : Nat) (lanes : Mask) (va : W64) :
    (s.debugHalt t cause access lanes va).mem = s.mem := by simp [State.debugHalt]

@[simp] theorem State.missPage_mem (t : Troupe) (access : Nat) (scalar : Bool) (missed : List (Nat × W64))
    (acc : State × List Nat) (g : Nat) : (s.missPage t access scalar missed acc g).1.mem = acc.1.mem := by
  unfold State.missPage
  dsimp only
  split
  · simp
  · split <;> simp

@[simp] theorem State.wakeMisses_mem (c : Nat) : (s.wakeMisses c).mem = s.mem := State.foldl_mem (fun _ _ => by rfl) _ _

@[simp] theorem State.leaveMisses_mem (t : Troupe) : (s.leaveMisses t).mem = s.mem := by
  unfold State.leaveMisses
  dsimp only
  split <;> simp

/-! ### Flits -/

@[simp] theorem State.sendOn_mem (n : Nat) (flit : List Byte) : (s.sendOn n flit).mem = s.mem := by simp [State.sendOn]

@[simp] theorem State.sendKind_mem (n kind w dst : Nat) (body : List Byte) :
    (s.sendKind n kind w dst body).mem = s.mem := by simp [State.sendKind]

@[simp] theorem State.sendFlits_mem (w p id addr n : Nat) : (s.sendFlits w p id addr n).mem = s.mem := by
  unfold State.sendFlits
  extract_lets ls
  split
  · rfl
  · exact State.foldl_mem (fun s x => s.sendKind_mem _ _ _ _ _) _ _

@[simp] theorem State.sendTime_mem : s.sendTime.mem = s.mem := by
  unfold State.sendTime
  split
  · rfl
  · split
    · rfl
    · simp

/-! ### Caches -/

@[simp] theorem State.wroteLines_mem (pa n : Nat) : (s.wroteLines pa n).mem = s.mem := (OffMemory.wroteLines s pa n).1
@[simp] theorem State.evictLine_mem (ln : Nat) : (s.evictLine ln).mem = s.mem := (OffMemory.evictLine s ln).1

@[simp] theorem State.makePlace_mem (w ln code n : Nat) : (s.makePlace w ln code n).1.mem = s.mem :=
  (OffMemory.makePlace w ln code n s).1

@[simp] theorem State.install_mem (w core ln : Nat) (stream dirty : Bool) (back : List Byte) (pinned : Option Nat)
    (wts rts : Nat) : (s.install w core ln stream dirty back pinned wts rts).mem = s.mem :=
  (OffMemory.install s w core ln stream dirty back pinned wts rts).1

@[simp] theorem State.newPlace_mem (ln : Nat) (l : L2Line) (code : Nat) : (s.newPlace ln l code).1.mem = s.mem :=
  (OffMemory.newPlace s ln l code).1

@[simp] theorem State.recode_mem (ln : Nat) (l : L2Line) (code : Nat) : (s.recode ln l code).mem = s.mem :=
  (OffMemory.recode s ln l code).1

@[simp] theorem State.countFabric_mem (core : Nat) :
    (s.countFabric core).mem = s.mem := (OffMemory.countFabric s core).1

@[simp] theorem State.reachLine_mem (w core ln : Nat) (na : Bool) (wrote : Option (List Byte)) (wts rts : Nat) :
    (s.reachLine w core ln na wrote wts rts).mem = s.mem := (OffMemory.reachLine s w core ln na wrote wts rts).1

@[simp] theorem State.fillL1_mem (core ln : Nat) (l : L1Line) : (s.fillL1 core ln l).mem = s.mem := by
  simp [State.fillL1]

@[simp] theorem State.loadLine_mem (w core ln pts : Nat) (na first : Bool) :
    (s.loadLine w core ln pts na first).1.mem = s.mem := by
  unfold State.loadLine
  split
  · split
    · simp
    · rfl
  · simp

@[simp] theorem State.loadRound_mem (w core : Nat) (lns : List (Nat × Bool)) (pts : Nat) (first : Bool) :
    (s.loadRound w core lns pts first).1.mem = s.mem := by simp [State.loadRound]

@[simp] theorem State.loadLines_mem (w core : Nat) (lns : List (Nat × Bool)) (pts : Nat) (first : Bool) (n : Nat) :
    (s.loadLines w core lns pts first n).1.mem = s.mem := by
  induction n generalizing s pts first with
  | zero => exact s.loadRound_mem _ _ _ _ _
  | succ n ih =>
    rw [State.loadLines]
    dsimp only
    split
    · exact s.loadRound_mem _ _ _ _ _
    · rw [ih, State.loadRound_mem]

@[simp] theorem State.loadAt_mem (w core pts : Nat) (os : List LaneOp) (n : Nat) :
    (s.loadAt w core pts os n).1.mem = s.mem :=
  s.loadLines_mem w core (linesOf os) pts true ((linesOf os).length + 2)

@[simp] theorem State.pokeBarriers_mem (lns : List Nat) :
    (s.pokeBarriers lns).mem = s.mem := (OffMemory.pokeBarriers s lns).1

@[simp] theorem State.refreshL1_mem (core ts : Nat) (lns : List Nat) : (s.refreshL1 core ts lns).mem = s.mem :=
  State.foldl_mem (fun s ln => by split <;> rfl) _ _

@[simp] theorem State.loadBytes_mem (pa n : Nat) : (s.loadBytes pa n).1.mem = s.mem := by simp [State.loadBytes]
@[simp] theorem State.flushRange_mem (pa n : Nat) : (s.flushRange pa n).1.mem = s.mem := by simp [State.flushRange]

/-! ### Accesses and answers -/

@[simp] theorem State.sendExt_mem (x : Ext) : (s.sendExt x).mem = s.mem := by
  unfold State.sendExt
  split <;> split <;> simp

@[simp] theorem State.ask_mem (t : Troupe) (opId tag : Nat) (sync : Bool) (os : List LaneOp) (errand : Errand) :
    (s.ask t opId tag sync os errand).mem = s.mem := by simp [State.ask]

@[simp] theorem State.pushOp_mem (k : Nat) (o : Op) : (s.pushOp k o).mem = s.mem := by simp [State.pushOp]

@[simp] theorem State.splitOp_mem (k : Nat) (mk : Nat → Op) (ok : List LaneOp) : (s.splitOp k mk ok).mem = s.mem := by
  unfold State.splitOp
  split
  · rfl
  · simp

@[simp] theorem State.sendRequests_mem (t : Troupe) (mk : Request → Request) (rs : List (Nat × List LaneOp)) :
    (s.sendRequests t mk rs).mem = s.mem := State.foldl_mem (fun _ _ => by rfl) _ _

@[simp] theorem State.issueAtomic_mem (t : Troupe) (x : AArgs) (reduces part : Bool) (got : List (Nat × List Byte))
    (os : List LaneOp) : (s.issueAtomic t x reduces part got os).mem = s.mem := by
  unfold State.issueAtomic
  split
  · rfl
  · dsimp only
    rw [apply_ite State.mem]
    simp

@[simp] theorem State.dropAnswers_mem (xs : List Ext) : (s.dropAnswers xs).mem = s.mem := rfl

@[simp] theorem State.modRequester_mem (k uid : Nat) (f : Troupe → Troupe) : (s.modRequester k uid f).mem = s.mem := by
  unfold State.modRequester
  split
  · simp
  · rfl

@[simp] theorem State.noteTime_mem (k uid ts : Nat) (red : Bool) : (s.noteTime k uid ts red).mem = s.mem := by
  simp [State.noteTime]

@[simp] theorem State.dropOp_mem (k id : Nat) : (s.dropOp k id).mem = s.mem := by simp [State.dropOp]

@[simp] theorem State.retireNamed_mem (k uid : Nat) : (s.retireNamed k uid).mem = s.mem := by
  unfold State.retireNamed
  split
  · simp
  · rfl

@[simp] theorem State.putOp_mem (t : Troupe) (o : Op) : (s.putOp t o).mem = s.mem := by
  unfold State.putOp
  split <;> simp

@[simp] theorem State.performLoad_mem (t : Troupe) (o : Op) (n : Nat) : (s.performLoad t o n).mem = s.mem := by
  simp [State.performLoad]

@[simp] theorem State.sendFar_mem (t : Troupe) (o : Op) (g : Nat) : (s.sendFar t o g).mem = s.mem := by
  simp [State.sendFar]

@[simp] theorem State.addResults_mem (r : Request) (got : List (Nat × List Byte)) :
    (s.addResults r got).mem = s.mem := by
  simp [State.addResults]

@[simp] theorem State.settleAtomic_mem (r : Request) : (s.settleAtomic r).mem = s.mem := by
  unfold State.settleAtomic
  split
  · rfl
  · split
    · rfl
    · split
      · simp
      · split <;> simp

@[simp] theorem State.reduceAtHost_mem (t : Troupe) (opId : Nat) (aop : AOp) (wide : Bool) (lanes : List LaneOp) :
    (s.reduceAtHost t opId aop wide lanes).mem = s.mem := by
  unfold State.reduceAtHost
  split
  · rfl
  · simp

@[simp] theorem State.serveFar_mem (r : Request) : (s.serveFar r).mem = s.mem := by
  unfold State.serveFar
  split
  · split
    · simp
    · split <;> simp
  · simp

@[simp] theorem State.answer_mem (x : Ext) (bytes : Option (List Byte)) : (s.answer x bytes).mem = s.mem := by
  unfold State.answer
  split
  · rfl
  · split
    · simp
    · split
      · dsimp only
        split
        · split <;> simp
        · simp
      · dsimp only
        split
        · split <;> simp
        · simp

/-! ### Barriers, ensembles and exchange -/

@[simp] theorem State.barStamp_mem : s.barStamp.mem = s.mem := by simp [State.barStamp]
@[simp] theorem State.barMine_mem (a : Nat) (op : BarOp) : (s.barMine a op).mem = s.mem := by simp [State.barMine]
@[simp] theorem State.acquireBar_mem : s.acquireBar.mem = s.mem := by simp [State.acquireBar]

@[simp] theorem State.landExchange_mem (core pair off : Nat) (bs : List Byte) :
    (s.landExchange core pair off bs).mem = s.mem := by
  unfold State.landExchange
  split
  · rfl
  · simp

@[simp] theorem State.settleArrivals_mem (e : Nat) : (s.settleArrivals e).mem = s.mem := by
  unfold State.settleArrivals
  dsimp only
  split
  · rfl
  · simp

@[simp] theorem State.setCopy_mem (c : Copy) : (s.setCopy c).mem = s.mem := rfl

@[simp] theorem State.copyLanded_mem (cid id n : Nat) : (s.copyLanded cid id n).mem = s.mem := by
  unfold State.copyLanded
  split
  · rfl
  · simp

@[simp] theorem State.failCopy_mem (c : Copy) (cause access : Nat) (va : Nat) :
    (s.failCopy c cause access va).mem = s.mem := by simp [State.failCopy]

@[simp] theorem State.flipSides_mem (e : Nat) : (s.flipSides e).mem = s.mem :=
  (State.noteTs_mem _ _).trans (State.foldl_mem (fun _ _ => by rfl) _ _)

@[simp] theorem State.pinLine_mem (w core ln : Nat) (na : Bool) : (s.pinLine w core ln na).2.mem = s.mem := by
  unfold State.pinLine
  extract_lets i dways
  split
  · rfl
  · split
    · rfl
    · split
      · rfl
      · dsimp only
        split
        · rfl
        · split <;> simp

@[simp] theorem State.performRelease_mem (t : Troupe) (o : Op) : (s.performRelease t o).mem = s.mem := by
  unfold State.performRelease
  split
  · simp
  · split <;> simp
  · simp
  · rfl

/-! ### Copies -/

@[simp] theorem State.reachSources_mem (c : Copy) (os : List LaneOp) : (s.reachSources c os).1.mem = s.mem := by
  unfold State.reachSources
  split <;> split <;> simp

@[simp] theorem State.writeElem_mem (id p a : Nat) (bs : List Byte) : (s.writeElem id p a bs).mem = s.mem := by
  unfold State.writeElem
  split
  · rfl
  · split
    · rfl
    · extract_lets n
      split
      · simp
      · simp
      · refine State.foldl_mem (fun s x => ?_) _ _
        obtain ⟨k, e⟩ := x
        dsimp only
        split
        · rfl
        · exact State.setCopy_mem _ _

@[simp] theorem State.drainFail_mem (c : Copy) : (s.drainFail c).mem = s.mem := by simp [State.drainFail]

/-! ### Agents outside the troupes -/

@[simp] theorem State.askAgent_mem (q w tag : Nat) (os : List LaneOp) : (s.askAgent q w tag os).mem = s.mem := by
  simp [State.askAgent]

@[simp] theorem State.answers_mem (q w tag : Nat) (os : List LaneOp) : (s.answers q w tag os).1.mem = s.mem := by
  unfold State.answers
  split
  · rfl
  · dsimp only
    split
    · simp
    · split
      · rfl
      · split
        · rfl
        · split
          · rfl
          · simp

@[simp] theorem State.fetch_mem (q w : Nat) (parts : List (Nat × Nat)) : (s.fetch q w parts).1.mem = s.mem := by
  unfold State.fetch
  dsimp only
  generalize asked : State.answers s q w 1 _ = a
  have same : a.1.mem = s.mem := asked ▸ s.answers_mem _ _ _ _
  obtain ⟨u, _ | e | xs⟩ := a
  · exact same
  · exact same
  · refine (State.foldl_fst_mem (fun a p => ?_) _ _).trans same
    split <;> simp

@[simp] theorem State.feReads_mem (q w : Nat) (rs : List (Nat × Nat)) (x : Bool) :
    (s.feReads q w rs x).1.mem = s.mem := by
  unfold State.feReads
  split
  · rfl
  · next ps _ =>
    have same := s.fetch_mem q w ps
    split <;> simp_all

@[simp] theorem State.feRead_mem (q w va n : Nat) (x : Bool) : (s.feRead q w va n x).1.mem = s.mem := by
  simp [State.feRead]

@[simp] theorem State.dropQuestions_mem (q : Nat) : (s.dropQuestions q).mem = s.mem := rfl

/-! ### The Procession -/

@[simp] theorem State.putSlot_mem (i : Nat) (x : RingSlot) : (s.putSlot i x).mem = s.mem := rfl

@[simp] theorem State.ringLeave_mem (core : Nat) (x : RingOp) : (s.ringLeave core x).mem = s.mem := by
  simp [State.ringLeave]

@[simp] theorem State.ringWrite_mem (x : RingOp) (f : Troupe → Troupe) : (s.ringWrite x f).mem = s.mem := by
  unfold State.ringWrite
  split
  · rfl
  · simp

@[simp] theorem State.ringVacated_mem (core : Nat) (x : RingOp) : (s.ringVacated core x).mem = s.mem := by
  simp [State.ringVacated]

@[simp] theorem State.ringPerform_mem (core n : Nat) (x : RingOp) : (s.ringPerform core n x).mem = s.mem := by
  simp [State.ringPerform]

@[simp] theorem State.ringSince_mem (core step : Nat) (x : RingOp) : (s.ringSince core step x).mem = s.mem := by
  simp [State.ringSince]

@[simp] theorem State.passEntry_mem (core step n : Nat) (x : RingOp) : (passEntry core step n s x).mem = s.mem := by
  unfold passEntry
  split
  · split
    · dsimp only
      split
      · rfl
      · split <;> simp
    · dsimp only
      split
      · rfl
      · split <;> simp
  · split
    · rfl
    · split
      · simp
      · split
        · dsimp only
          split
          · rfl
          · simp
        · dsimp only
          split
          · rfl
          · simp

@[simp] theorem State.countWaits_mem (core step n : Nat) : (s.countWaits core step n).mem = s.mem := by
  simp [State.countWaits]

@[simp] theorem State.ringCancel_mem (t : Troupe) : (s.ringCancel t).mem = s.mem := by simp [State.ringCancel]

@[simp] theorem State.ringRebind_mem (slot owner : Nat) (save : Bool) (notice : Nat) :
    (s.ringRebind slot owner save notice).mem = s.mem := rfl

@[simp] theorem State.ringClear_mem (slot : Nat) : (s.ringClear slot).mem = s.mem := by simp [State.ringClear]

/-! ### The placer -/

@[simp] theorem State.postOwn_mem (w cause access : Nat) (vaddr : W64) (launch : Option Nat) :
    (s.postOwn w cause access vaddr launch).mem = s.mem := by simp [State.postOwn]

@[simp] theorem State.opportunity_mem : s.opportunity.mem = s.mem := by
  unfold State.opportunity
  split
  · rfl
  · simp

@[simp] theorem State.readmit_mem (s before : State) : (s.readmit before).mem = s.mem := rfl

@[simp] theorem State.fireNode_mem (n level node : Nat) : (s.fireNode n level node).mem = s.mem := by
  unfold State.fireNode
  dsimp only
  split
  · rfl
  · simp

@[simp] theorem State.launchGone_mem (packet : Option (Nat × Nat)) (n : Nat) : (s.launchGone packet n).mem = s.mem := by
  unfold State.launchGone
  split
  · rfl
  · simp

@[simp] theorem State.endLaunch_mem (n : Nat) : (s.endLaunch n).mem = s.mem := by
  unfold State.endLaunch
  dsimp only
  split
  · rfl
  · simp

@[simp] theorem State.fireZero_mem (n : Nat) (nodes : List (Nat × Nat)) : (s.fireZero n nodes).mem = s.mem := by
  unfold State.fireZero
  split
  · rfl
  · exact State.foldl_mem (fun s x => by split <;> simp) _ _

@[simp] theorem State.fireAll_mem (n : Nat) : (s.fireAll n).mem = s.mem := by simp [State.fireAll]

@[simp] theorem State.placeOn_mem (n core : Nat) : (s.placeOn n core).mem = s.mem := by
  unfold State.placeOn
  dsimp only
  split
  · rfl
  · split <;> simp

@[simp] theorem State.placeLaunch_mem (n fuel : Nat) : (s.placeLaunch n fuel).mem = s.mem := by
  induction fuel generalizing s with
  | zero => rfl
  | succ fuel ih =>
    rw [State.placeLaunch]
    split
    · rfl
    · split
      · rfl
      · rw [ih, State.placeOn_mem]

@[simp] theorem State.askPlaces_mem (l : Launch) (packet : Option (Nat × Nat)) :
    (s.askPlaces l packet).1.mem = s.mem := by
  unfold State.askPlaces
  dsimp only
  split
  · rfl
  · split
    · rfl
    · simp

@[simp] theorem State.readTable_mem (l : Launch) (packet : Option (Nat × Nat)) :
    (s.readTable l packet).1.mem = s.mem := by
  unfold State.readTable
  dsimp only
  split
  · rfl
  · split
    · rfl
    · have same := s.feRead_mem (placerKey packet) l.world (l.word 6).toNat l.troupes false
      split <;> simp_all

@[simp] theorem State.readyLaunch_mem (l : Launch) (packet : Option (Nat × Nat)) :
    (s.readyLaunch l packet).1.mem = s.mem := by
  have same := s.askPlaces_mem l packet
  unfold State.readyLaunch
  split <;> simp_all

@[simp] theorem State.tellPacket_mem (packet : Option (Nat × Nat)) (r : Except Nat Nat) :
    (s.tellPacket packet r).mem = s.mem := by
  unfold State.tellPacket
  split
  · rfl
  · split <;> simp

@[simp] theorem State.freeLaunch_mem : s.freeLaunch.2.mem = s.mem := by simp [State.freeLaunch]

/-! ### Deadlines -/

@[simp] theorem State.applyDivert_mem (t : Troupe) (cause : Nat) : (s.applyDivert t cause).mem = s.mem := by
  unfold State.applyDivert
  split
  · simp
  · split
    · simp
    · rfl

@[simp] theorem State.mqCancel_mem (t : Troupe) : (s.mqCancel t).mem = s.mem := by simp [State.mqCancel]
@[simp] theorem State.dropCopies_mem (uid : Nat) : (s.dropCopies uid).mem = s.mem := rfl
@[simp] theorem State.dropAsked_mem (uid : Nat) : (s.dropAsked uid).mem = s.mem := rfl
@[simp] theorem State.stopTroupe_mem (t : Troupe) : (s.stopTroupe t).mem = s.mem := by simp [State.stopTroupe]
@[simp] theorem State.stopAway_mem (a : Away) : (s.stopAway a).mem = s.mem := by simp [State.stopAway]

/-! ### Matrix units -/

@[simp] theorem State.mxRead_mem : s.mxRead.mem = s.mem := by simp [State.mxRead]
@[simp] theorem State.mxWrite_mem : s.mxWrite.mem = s.mem := by simp [State.mxWrite]

@[simp] theorem State.settleBatches_mem (k : Nat) : (s.settleBatches k).mem = s.mem := by
  unfold State.settleBatches
  dsimp only
  split
  · split
    · split <;> simp
    · simp
  · simp

@[simp] theorem State.mixEntry_mem (core : Nat) (m : MmaEntry) : (s.mixEntry core m).2.mem = s.mem := by
  simp [State.mixEntry]

/-! ### Bindings -/

@[simp] theorem State.setOwner_mem (cls n o : Nat) : (s.setOwner cls n o).mem = s.mem := by
  unfold State.setOwner
  split
  · split <;> simp
  · simp
  · simp
  · simp
  · rfl
  · simp
  · simp
  · simp
  · rfl
  · simp

@[simp] theorem State.dropUtlb_mem (c : Nat) (drop : Nat × Nat → Bool) : (s.dropUtlb c drop).mem = s.mem :=
  State.foldl_mem (fun s i => by split <;> rfl) _ _

@[simp] theorem State.invalidate_mem (c : Nat) (sel : Nat → Entry → Bool) : (s.invalidate c sel).mem = s.mem := by
  unfold State.invalidate
  dsimp only
  split
  · rfl
  · simp

@[simp] theorem State.writeEntry_mem (w : Nat) (e : Entry) (set way c : Nat) :
    (s.writeEntry w e set way c).mem = s.mem := by
  unfold State.writeEntry
  dsimp only
  split <;> simp

@[simp] theorem State.writeAt_mem (w : Nat) (e : Entry) (loc : W64) : (s.writeAt w e loc).mem = s.mem := by
  unfold State.writeAt
  split
  · rfl
  · simp

@[simp] theorem State.overwrite_mem (w pa n : Nat) : (s.overwrite w pa n).mem = s.mem := rfl

/-! ### Suspended troupes -/

@[simp] theorem State.askLeave_mem (t : Troupe) : (s.askLeave t).mem = s.mem := by
  unfold State.askLeave
  split
  · rfl
  · simp

@[simp] theorem State.bringBack_mem (a : Away) (core tslot : Nat) (blocks : List Nat) :
    (s.bringBack a core tslot blocks).mem = s.mem := by
  unfold State.bringBack
  dsimp only
  split <;> split <;> simp

/-! ### Seizure -/

@[simp] theorem State.drainFrame_mem (w pa : Nat) : (s.drainFrame w pa).mem = s.mem := rfl

@[simp] theorem State.drainCopies_mem (w : Nat) (t : Take) : (s.drainCopies w t).mem = s.mem :=
  State.foldl_mem (fun _ _ => by rfl) _ _

@[simp] theorem State.dropRemote_mem (w : Nat) (mbx : Bool) (n : Nat) : (s.dropRemote w mbx n).mem = s.mem := rfl
@[simp] theorem State.closeFrame_mem (w pa : Nat) : (s.closeFrame w pa).mem = s.mem := by simp [State.closeFrame]

@[simp] theorem State.closePlots_mem (w : Nat) (ns : List Nat) : (s.closePlots w ns).mem = s.mem := by
  refine State.foldl_mem (fun s n => ?_) _ _
  refine (State.foldl_mem (fun _ _ => by rfl) _ _).trans ((State.foldl_mem (fun s t => ?_) _ _).trans ?_)
  · exact State.faultAt_mem _ _ _ _ _ _
  · exact State.setOwner_mem _ _ _ _

@[simp] theorem State.closeTake_mem (w : Nat) (t : Take) : (s.closeTake w t).mem = s.mem := by
  unfold State.closeTake
  split <;> simp

@[simp] theorem State.clearRes_mem (cls n : Nat) : (s.clearRes cls n).mem = s.mem := by
  unfold State.clearRes
  split
  · simp
  · simp
  · simp
  · simp
  · simp
  · simp
  · rfl
  · rfl

@[simp] theorem State.setNotice_mem (w : Nat) (n : Notice) : (s.setNotice w n).mem = s.mem := by simp [State.setNotice]

@[simp] theorem State.closeNotice_mem (w : Nat) (n : Notice) : (s.closeNotice w n).mem = s.mem := by
  unfold State.closeNotice
  dsimp only
  split
  · rfl
  · simp

@[simp] theorem State.noteYield_mem (w cls num k : Nat) : (s.noteYield w cls num k).mem = s.mem := by
  unfold State.noteYield
  split
  · rfl
  · dsimp only
    split
    · split <;> simp
    · split <;> split <;> simp

@[simp] theorem State.seizeCands_mem (w : Nat) (n : Notice) (xs : List W64) (k : Nat) :
    (s.seizeCands w n xs k).1.mem = s.mem := by
  induction xs generalizing s n k with
  | nil => rfl
  | cons x rest ih =>
    cases k with
    | zero => rfl
    | succ k =>
      rw [State.seizeCands]
      split
      · rw [ih, State.closeTake_mem]
      · exact ih _ _ _

@[simp] theorem State.seizeHighest_mem (w : Nat) (n : Notice) (k : Nat) : (s.seizeHighest w n k).1.mem = s.mem := by
  induction k generalizing s n with
  | zero => rfl
  | succ k ih =>
    rw [State.seizeHighest]
    split
    · rfl
    · rw [ih, State.closeTake_mem]

@[simp] theorem State.unhold_mem (w core : Nat) : (s.unhold w core).mem = s.mem := by simp [State.unhold]

/-! ### The allocator -/

@[simp] theorem State.modLimits_mem (w : Nat) (f : Limits → Limits) : (s.modLimits w f).mem = s.mem := by
  simp [State.modLimits]

@[simp] theorem State.tdispError_mem (w : Nat) : (s.tdispError w).mem = s.mem := by
  unfold State.tdispError
  dsimp only
  split
  · simp
  · rfl

/-! ### Switching -/

@[simp] theorem State.restartCounts_mem (w core : Nat) : (s.restartCounts w core).mem = s.mem := by
  simp [State.restartCounts]

@[simp] theorem State.switchIn_mem (i core : Nat) : (s.switchIn i core).mem = s.mem := by
  unfold State.switchIn
  refine (State.foldl_mem (fun s a => ?_) _ _).trans ?_
  · exact (State.modTroupe_mem _ _ _).trans (State.bringBack_mem _ _ _ _ _)
  · refine (State.modWorld_mem _ _ _).trans ((State.modCore_mem _ _ _).trans ?_)
    exact (State.foldl_mem (fun _ _ => by rfl) _ _).trans
      ((State.foldl_mem (fun _ _ => by rfl) _ _).trans (State.foldl_mem (fun _ _ => by rfl) _ _))

@[simp] theorem State.swapSlots_mem (o i : Nat) (cores : List Nat) : (s.swapSlots o i cores).mem = s.mem :=
  State.foldl_mem (fun _ _ => by rfl) _ _

@[simp] theorem State.cancelSwitch_mem (o : Nat) (cores : List Nat) : (s.cancelSwitch o cores).mem = s.mem := by
  simp [State.cancelSwitch]

@[simp] theorem State.dropRuntime_mem (w : Nat) : (s.dropRuntime w).mem = s.mem := by
  unfold State.dropRuntime
  split
  · rfl
  · simp

@[simp] theorem State.releaseWorld_mem (w : Nat) : (s.releaseWorld w).mem = s.mem := by
  unfold State.releaseWorld
  dsimp only
  simp only [State.opportunity_mem, State.raiseEvent_mem, State.tdispError_mem]
  exact State.foldl_mem (fun s t => by split <;> simp) _ _

/-! ### Observers -/

@[simp] theorem State.setCounter_mem (w i : Nat) (c : Counter) : (s.setCounter w i c).mem = s.mem := by
  simp [State.setCounter]

@[simp] theorem State.respond_mem (w : Nat) (r : List Byte) : (s.respond w r).mem = s.mem := by simp [State.respond]

@[simp] theorem State.takeHalt_mem (t : Troupe) : (s.takeHalt t).mem = s.mem := by
  unfold State.takeHalt
  split
  · simp
  · rfl

@[simp] theorem State.reqHalt_mem (w : Nat) (loc : W64) : (s.reqHalt w loc).1.mem = s.mem := by
  unfold State.reqHalt
  split
  · rfl
  · split
    · rfl
    · simp

@[simp] theorem State.reqCont_mem (w : Nat) (loc : W64) : (s.reqCont w loc).1.mem = s.mem := by
  unfold State.reqCont
  split
  · rfl
  · split
    · dsimp only
      split <;> simp
    · dsimp only
      split <;> simp
    · dsimp only
      split <;> simp

@[simp] theorem State.reqStep_mem (w : Nat) (loc : W64) (lanes : Mask) : (s.reqStep w loc lanes).1.mem = s.mem := by
  unfold State.reqStep
  split
  · rfl
  · simp

@[simp] theorem State.reqWrite_mem (w : Nat) (loc item : W64) (data : List Byte) :
    (s.reqWrite w loc item data).1.mem = s.mem := by
  unfold State.reqWrite
  split
  · rfl
  · split
    · rfl
    · simp

@[simp] theorem State.reqBarrd_mem (w : Nat) (core addr : W64) : (s.reqBarrd w core addr).1.mem = s.mem := by
  unfold State.reqBarrd
  dsimp only
  split
  · rfl
  · split
    · rfl
    · simp

@[simp] theorem State.reqSetbp_mem (w : Nat) (n value : W64) : (s.reqSetbp w n value).1.mem = s.mem := by
  unfold State.reqSetbp
  split
  · rfl
  · simp

@[simp] theorem State.reqSetwp_mem (w : Nat) (n w0 w1 : W64) : (s.reqSetwp w n w0 w1).1.mem = s.mem := by
  unfold State.reqSetwp
  dsimp only
  split
  · rfl
  · simp

@[simp] theorem State.request_mem (w : Nat) (r : DebugReq) : (s.request w r).1.mem = s.mem := by
  unfold State.request
  split
  · simp
  · simp
  · simp
  · rfl
  · simp
  · simp
  · simp
  · simp
  · rfl

@[simp] theorem State.debugTurn_mem (w : Nat) : (s.debugTurn w).mem = s.mem := by
  unfold State.debugTurn
  split
  · rfl
  · next id r rest _ =>
    have same := s.request_mem w r
    split
    · rfl
    · split <;> simp_all

/-! ### Queues, prologues and packets -/

@[simp] theorem State.eachPacket_mem (q slot : Nat) {f : State → Packet → State} (h : ∀ s p, (f s p).mem = s.mem) :
    (s.eachPacket q slot f).mem = s.mem := by
  unfold State.eachPacket
  split
  · rfl
  · exact State.foldl_mem h _ _

@[simp] theorem State.dropPacket_mem (q id : Nat) : (s.dropPacket q id).mem = s.mem := by simp [State.dropPacket]

@[simp] theorem State.queueAborts_mem (q w cause : Nat) (slot : W32) : (s.queueAborts q w cause slot).mem = s.mem := by
  unfold State.queueAborts
  split
  · rfl
  · simp

@[simp] theorem State.packetRecord_mem (w cause : Nat) (va : W64) : (s.packetRecord w cause va).mem = s.mem := by
  simp [State.packetRecord]

@[simp] theorem State.abortOver_mem (q : Nat) (p : Packet) (a : Abort) : (s.abortOver q p a).mem = s.mem := by
  unfold State.abortOver
  split <;> simp

@[simp] theorem State.acted_mem (q : Nat) (p : Packet) : (s.acted q p).mem = s.mem := by simp [State.acted]

@[simp] theorem State.answerCopies_mem (x : Ext) (refused : Bool) : (s.answerCopies x refused).mem = s.mem := by
  unfold State.answerCopies
  split
  · rfl
  · split
    · simp
    · dsimp only
      split <;> simp

@[simp] theorem State.refusedErrand_mem (x : Ext) : (s.refusedErrand x).mem = s.mem := by
  unfold State.refusedErrand
  split
  · split
    · split
      · split
        · rfl
        · simp
      · rfl
    · simp
    · simp
    · simp
    · split
      · rfl
      · simp
    · split
      · dsimp only
        split <;> simp
      · simp
    · rfl
  · split
    · split
      · split
        · rfl
        · simp
      · rfl
    · simp
    · simp
    · simp
    · split
      · rfl
      · simp
    · split
      · dsimp only
        split <;> simp
      · simp
    · rfl

@[simp] theorem State.refusedOp_mem (x : Ext) : (s.refusedOp x).mem = s.mem := by
  unfold State.refusedOp
  split <;> simp

@[simp] theorem State.reduceOn_mem (x : Ext) (r : Reply) : (s.reduceOn x r).mem = s.mem := by
  unfold State.reduceOn
  split
  · simp
  · simp
  · simp
  · rfl

@[simp] theorem State.swapOn_mem (x : Ext) (bs : List Byte) : (s.swapOn x bs).mem = s.mem := by
  unfold State.swapOn
  split
  · simp
  · dsimp only
    split
    · rfl
    · simp
  · rfl

@[simp] theorem State.setHart_mem (q : Nat) (p : Packet) (h : Hart) : (s.setHart q p h).mem = s.mem := by
  simp [State.setHart]

@[simp] theorem State.retireHart_mem (q : Nat) (p : Packet) (h : Hart) : (s.retireHart q p h).mem = s.mem := by
  unfold State.retireHart
  split <;> simp

@[simp] theorem State.startHart_mem (q : Nat) (p : Packet) : (s.startHart q p).mem = s.mem := by simp [State.startHart]
@[simp] theorem State.qLaunch_mem (q : Nat) (p : Packet) : (s.qLaunch q p).mem = s.mem := by simp [State.qLaunch]

@[simp] theorem State.qRequest_mem (q : Nat) (p : Packet) : (s.qRequest q p).1.mem = s.mem := by
  unfold State.qRequest
  dsimp only
  split
  case h_4 => split <;> rfl
  case h_5 =>
    have same := s.feRead_mem (packetKey q p.id) p.world (p.word 3).toNat (writeSize (p.word 2).toNat) false
    split <;> simp_all
  all_goals simp

/-! ### Registers, the link and the peers -/

@[simp] theorem State.onTlp_mem (x : Tlp) {go : State → State} (h : ∀ s, (go s).mem = s.mem) :
    (s.onTlp x go).mem = s.mem := by
  unfold State.onTlp
  split
  · rfl
  · split
    · exact h s
    · rfl

@[simp] theorem State.doorbell_mem (q : Nat) : (s.doorbell q).mem = s.mem := by
  unfold State.doorbell
  dsimp only
  split
  · simp
  · rfl

@[simp] theorem State.rereadRing_mem (q off : Nat) : (s.rereadRing q off).mem = s.mem := by
  unfold State.rereadRing
  split
  · rfl
  · simp

@[simp] theorem State.writeQueue_mem (f q off : Nat) (v : W64) : (s.writeQueue f q off v).mem = s.mem := by
  unfold State.writeQueue
  split
  · simp
  · rfl

@[simp] theorem State.writeFe_mem (f e : Nat) (lo : W64) : (s.writeFe f e lo).mem = s.mem := by
  unfold State.writeFe
  split
  · rfl
  · dsimp only
    split <;> simp

@[simp] theorem State.writeQmap_mem (q : Nat) (v : W64) : (s.writeQmap q v).mem = s.mem := by
  unfold State.writeQmap
  split
  · dsimp only
    split
    · rfl
    · split
      · simp
      · split <;> simp
  · dsimp only
    split
    · rfl
    · split
      · simp
      · split <;> simp

@[simp] theorem State.markMoving_mem (w : Nat) : (s.markMoving w).mem = s.mem := rfl
@[simp] theorem State.emit_mem (x : Out) : (s.emit x).mem = s.mem := rfl
@[simp] theorem State.failBar2_mem (cause : Nat) : (s.failBar2 cause).mem = s.mem := by simp [State.failBar2]

@[simp] theorem State.bar2Turn_mem : s.bar2Turn.mem = s.mem := by
  unfold State.bar2Turn
  dsimp only
  split
  · rfl
  · next f off n rest _ =>
    split
    · simp
    · next va _ =>
      have same := s.feRead_mem 65 f va n false
      split <;> simp_all

@[simp] theorem State.reply_mem (w peer tag addr : Nat) (bs : List Byte) (status : Nat) :
    (s.reply w peer tag addr bs status).mem = s.mem := by simp [State.reply]

@[simp] theorem State.failLane_mem (n : Nat) : (s.failLane n).mem = s.mem := by
  unfold State.failLane
  dsimp only
  split <;> simp

@[simp] theorem State.resendFlit_mem (n : Nat) : (s.resendFlit n).mem = s.mem := by
  unfold State.resendFlit
  dsimp only
  split
  · rfl
  · split
    · rfl
    · split <;> simp

@[simp] theorem State.loseSource_mem : s.loseSource.mem = s.mem := by
  unfold State.loseSource
  split
  · simp
  · rfl

@[simp] theorem State.stepAlmanac_mem : s.stepAlmanac.mem = s.mem := by
  unfold State.stepAlmanac
  split
  · rfl
  · simp

/-! ### Trust and errors -/

@[simp] theorem State.modTrust_mem (f : Nat) (g : Trust → Trust) : (s.modTrust f g).mem = s.mem := by
  simp [State.modTrust]

@[simp] theorem State.sendSpdm_mem (x : Responder) (bs : List Byte) : (s.sendSpdm x bs).mem = s.mem := by
  unfold State.sendSpdm
  split <;> simp

@[simp] theorem State.responder_mem (x : Responder) {go : State → State × List Byte} (h : ∀ s, (go s).1.mem = s.mem) :
    (s.responder x go).mem = s.mem := by
  unfold State.responder
  dsimp only
  split
  · rfl
  · split
    · simp
    · split <;> simp [h]

@[simp] theorem State.snapshot_mem (who : Responder) (index : Nat) (nonce : List Byte) :
    (s.snapshot who index nonce).mem = s.mem := by simp [State.snapshot]

@[simp] theorem State.snapshotTurn_mem : s.snapshotTurn.mem = s.mem := by
  unfold State.snapshotTurn
  split
  · rfl
  · simp

@[simp] theorem State.l2Error_mem (ln : Nat) : (s.l2Error ln).mem = s.mem := by
  unfold State.l2Error
  dsimp only
  split
  · rfl
  · split
    · simp
    · split
      · rfl
      · simp

@[simp] theorem State.dropEntry_mem (m i : Nat) : (s.dropEntry m i).mem = s.mem := by
  unfold State.dropEntry
  split
  · simp
  · rfl

@[simp] theorem State.poisonTroupe_mem (core tslot : Nat) (f : Ctl → Ctl) :
    (s.poisonTroupe core tslot f).mem = s.mem := by
  simp [State.poisonTroupe]

/-! ### Fetch and issue -/

@[simp] theorem State.askFar_mem (t : Troupe) : (s.askFar t).1.mem = s.mem := by
  unfold State.askFar
  dsimp only
  split
  · rfl
  · split
    · simp
    · split
      · rfl
      · split
        · simp
        · rfl

@[simp] theorem State.fetchFar_mem (t : Troupe) : (s.fetchFar t).1.mem = s.mem := by
  have same := s.askFar_mem t
  unfold State.fetchFar
  split
  · simp_all
  · dsimp only
    split
    · simp_all
    · split <;> simp_all

@[simp] theorem State.openPacket_mem (t : Troupe) (far : FarCode) (p : Nat) : (s.openPacket t far p).mem = s.mem := by
  unfold State.openPacket
  dsimp only
  split
  · exact State.modLaunch_mem _ _ _
  · exact State.modLaunch_mem _ _ _

@[simp] theorem State.openPackets_mem (t : Troupe) (far : FarCode) : (s.openPackets t far).mem = s.mem := by
  simp [State.openPackets]

@[simp] theorem State.touchCode_mem (t : Troupe) (ms : List Member) : (s.touchCode t ms).mem = s.mem := by
  simp [State.touchCode]

@[simp] theorem State.countRun_mem (t : Troupe) (cycles words : Nat) (beats : Nat × Nat) :
    (s.countRun t cycles words beats).mem = s.mem := by simp [State.countRun]

@[simp] theorem State.spend_mem (t : Troupe) (n : Nat) : (s.spend t n).mem = s.mem := by simp [State.spend]
@[simp] theorem State.idleCycle_mem (t : Troupe) : (s.idleCycle t).mem = s.mem := by simp [State.idleCycle]

@[simp] theorem State.idle_mem (t : Troupe) : (s.idle t).mem = s.mem := by
  unfold State.idle
  rw [State.markIssued_mem]
  split <;> simp

@[simp] theorem State.cutRun_mem (t : Troupe) : (s.cutRun t).mem = s.mem := by
  unfold State.cutRun
  split
  · simp
  · rfl

@[simp] theorem State.dropQueries_mem (uid : Nat) : (s.dropQueries uid).mem = s.mem := rfl

@[simp] theorem State.finish_mem (t : Troupe) (ms : List Member) (part : Option Mask) :
    (s.finish t ms part).mem = s.mem := by
  unfold State.finish
  dsimp only
  split
  · rw [State.markIssued_mem]; rfl
  · split
    · rfl
    · split
      · simp
      · rw [apply_ite State.mem, apply_ite State.mem]
        simp [State.dropHold_mem, State.markIssued_mem, State.charge_mem]

@[simp] theorem State.countIssue_mem (t : Troupe) (ms : List Member) (beats : Nat × Nat) :
    (s.countIssue t ms beats).mem = s.mem := by
  unfold State.countIssue
  split
  · rfl
  · simp

@[simp] theorem State.poise_mem (t : Troupe) : (s.poise t).mem = s.mem := by simp [State.poise]

@[simp] theorem State.dropAbandoned_mem (t : Troupe) : (s.dropAbandoned t).mem = s.mem := by
  unfold State.dropAbandoned
  split <;> rfl

@[simp] theorem State.noFetch_mem (t : Troupe) : (s.noFetch t).mem = s.mem := by simp [State.noFetch]

/-! ### Time -/

@[simp] theorem State.passTime_mem : s.passTime.mem = s.mem := rfl

@[simp] theorem State.endSlot_mem (core islot : Nat) : (s.endSlot core islot).mem = s.mem := by
  unfold State.endSlot
  dsimp only
  split
  · split
    · simp
    · split
      · simp
      · split <;> simp
  · split
    · rfl
    · split
      · rfl
      · split
        · rfl
        · simp

@[simp] theorem State.endSlots_mem : s.endSlots.mem = s.mem := by simp [State.endSlots]

@[simp] theorem State.raiseIf_mem (c : Bool) (i : Instr) : (s.raiseIf c i).mem = s.mem := by
  unfold State.raiseIf
  split
  · simp
  · rfl

@[simp] theorem State.dueLaunches_mem : s.dueLaunches.mem = s.mem := by simp [State.dueLaunches]
@[simp] theorem State.dueTroupes_mem : s.dueTroupes.mem = s.mem := by simp [State.dueTroupes]

@[simp] theorem State.dueRing_mem : s.dueRing.mem = s.mem := by
  unfold State.dueRing
  refine (State.foldl_mem (fun s c => ?_) _ _).trans (State.foldl_mem (fun s m => s.raiseIf_mem _ _) _ _)
  split
  · rfl
  · exact State.foldl_mem (fun _ _ => by rfl) _ _

@[simp] theorem State.dueNotices_mem : s.dueNotices.mem = s.mem := by simp [State.dueNotices]

@[simp] theorem State.evictTurn2_mem (ln : Nat) : (s.evictTurn2 ln).mem = s.mem := by
  unfold State.evictTurn2
  split
  · split
    · rfl
    · simp
  · rfl

@[simp] theorem State.asking_mem (core islot : Nat) : (s.asking core islot).mem = s.mem := by simp [State.asking]
@[simp] theorem State.takeDue_mem (rest : List Instr) : (s.takeDue rest).mem = s.mem := by simp [State.takeDue]
@[simp] theorem State.takeTurn_mem (rest : List Turn) : (s.takeTurn rest).mem = s.mem := by simp [State.takeTurn]

end Sys2Proof.Machine
end

section
/-! SUPPORT. The operations that write memory keep its one form (R159, R193; log 4). -/

namespace Sys2Proof.Machine

/-- What leaves memory as it is keeps it canonical. -/
theorem wf_of_mem {s t : State} (same : t.mem = s.mem) (hs : s.mem.wf = true) : t.mem.wf = true := same ▸ hs

/-- Steps that keep memory canonical, one for each element of a list. -/
theorem State.foldl_wf {α : Type} {f : State → α → State} {s : State} (hs : s.mem.wf = true) (xs : List α)
    (step : ∀ t x, t.mem.wf = true → (f t x).mem.wf = true) : (xs.foldl f s).mem.wf = true :=
  List.foldlRecOn (motive := fun t : State => t.mem.wf = true) xs f hs fun t ht x _ => step t x ht

theorem State.foldl_fst_wf {α β : Type} {f : State × β → α → State × β} {a : State × β} (ha : a.1.mem.wf = true)
    (xs : List α)
    (step : ∀ b x, b.1.mem.wf = true → (f b x).1.mem.wf = true) : (xs.foldl f a).1.mem.wf = true :=
  List.foldlRecOn (motive := fun b : State × β => b.1.mem.wf = true) xs f ha fun b hb x _ => step b x hb

set_option linter.unusedSectionVars false
variable {s : State} (hs : s.mem.wf = true)
include hs

/-! ### Caches -/

@[simp] theorem State.memWrite_wf (pa : Nat) (bs : List Byte) :
    (s.memWrite pa bs).mem.wf = true := Bytes.wf_write hs pa bs

@[simp] theorem State.storeAt_wf (w core pts : Nat) (ws : List (LaneOp × List Byte)) :
    (s.storeAt w core pts ws).1.mem.wf = true := by
  unfold State.storeAt
  dsimp only
  rw [State.pokeBarriers_mem, State.foldl_mem fun _ _ => State.reachLine_mem _ _ _ _ _ _ _ _]
  exact State.foldl_wf hs ws fun t x ht => State.memWrite_wf ht _ _

@[simp] theorem State.storeFrom_wf (pts pa : Nat) (bs : List Byte) : (s.storeFrom pts pa bs).1.mem.wf = true := by
  have go (n : Nat) (w : Nat) {s : State} (hs : s.mem.wf = true) (ts pa : Nat) (bs : List Byte) :
      (State.storeFrom.go w s ts pa bs n).1.mem.wf = true := by
    induction n generalizing s ts pa bs with
    | zero => exact hs
    | succ n ih =>
      rw [State.storeFrom.go]
      dsimp only
      split
      · exact hs
      · exact ih (State.storeAt_wf hs _ _ _ _) _ _ _
  exact go _ _ hs _ _ _

@[simp] theorem State.storeBytes_wf (pa : Nat) (bs : List Byte) : (s.storeBytes pa bs).mem.wf = true := by
  simp [State.storeBytes, hs]

@[simp] theorem State.linkStore_wf (link pa : Nat) (bs : List Byte) : (s.linkStore link pa bs).mem.wf = true := by
  simp [State.linkStore, hs]

/-! ### Accesses and answers -/

@[simp] theorem State.performStore_wf (t : Troupe) (o : Op) : (s.performStore t o).mem.wf = true := by
  unfold State.performStore
  dsimp only
  split <;> simp [hs]

@[simp] theorem State.serveLine_wf (ts : Nat) (r : Request) : (s.serveLine ts r).mem.wf = true := by
  unfold State.serveLine
  dsimp only
  rw [State.addResults_mem, State.count_mem, State.pokeBarriers_mem, State.reachLine_mem]
  exact State.foldl_fst_wf (a := (s, [])) hs r.lanes fun a o ha => State.memWrite_wf ha _ _

@[simp] theorem State.serveModule_wf (rs : List Request) : (s.serveModule rs).mem.wf = true := by
  unfold State.serveModule
  split
  · exact hs
  · rw [State.noteTime_mem]
    exact State.foldl_wf hs _ fun t r ht => State.serveLine_wf ht _ r

/-! ### Barriers, ensembles and exchange -/

@[simp] theorem State.performTurn_wf (t : Troupe) (x : Op × Option Nat) : (s.performTurn t x).mem.wf = true := by
  unfold State.performTurn
  split
  · simp [hs]
  · split <;> simp [hs]

/-! ### Copies -/

@[simp] theorem State.writePayload_wf (id p : Nat) (ws : List (LaneOp × List Byte)) :
    (s.writePayload id p ws).mem.wf = true := by
  unfold State.writePayload
  dsimp only
  rw [State.foldl_mem fun s x => by split <;> simp]
  refine State.foldl_wf hs _ fun t ln ht => ?_
  split
  · exact ht
  · simp [ht]

@[simp] theorem State.completionWord_wf (c : Copy) : (s.completionWord c).mem.wf = true := by
  unfold State.completionWord
  split
  · exact hs
  · split
    · split
      · dsimp only
        split <;> simp [hs]
      · simp [hs]
    · split <;> simp [hs]

/-! ### Agents outside the troupes -/

@[simp] theorem State.putBytes_wf (w op va pa : Nat) (bs : List Byte) (errand : Errand) :
    (s.putBytes w op va pa bs errand).mem.wf = true := by
  unfold State.putBytes
  split <;> simp [hs]

theorem State.feWrite_wf {w op va : Nat} {bs : List Byte} {errand : Errand} {t : State}
    (h : s.feWrite w op va bs errand = .ok t) : t.mem.wf = true := by
  unfold State.feWrite at h
  split at h
  · cases h
  · cases h
    exact State.foldl_fst_wf (a := (s, bs)) hs _ fun a p ha => State.putBytes_wf ha _ _ _ _ _ _

theorem State.signal_wf {w name va : Nat} {op : AOp} {x : W64} {errand : Errand} {t : State}
    (h : s.signal w name va op x errand = .ok t) : t.mem.wf = true := by
  unfold State.signal at h
  split at h
  · cases h
  · split at h
    · cases h
    · split at h <;> cases h <;> simp [hs]

/-! ### The placer -/

@[simp] theorem State.agentWrite_wf (w va pa : Nat) (bs : List Byte) (errand : Errand) :
    (s.agentWrite w va pa bs errand).mem.wf = true := by
  unfold State.agentWrite
  split <;> simp [hs]

@[simp] theorem State.writeResult_wf (n : Nat) (parts : List (Nat × List Byte)) :
    (s.writeResult n parts).mem.wf = true := by
  unfold State.writeResult
  dsimp only
  split
  · exact hs
  · split
    · simp [hs]
    · exact State.foldl_wf hs parts fun t x ht => State.agentWrite_wf ht _ _ _ _ _

@[simp] theorem State.addSignal_wf (w va : Nat) (x : W64) (launch : Option Nat) :
    (s.addSignal w va x launch).mem.wf = true := by
  unfold State.addSignal
  split
  · simp [hs]
  · split <;> simp [hs]

@[simp] theorem State.completeLaunch_wf (n : Nat) : (s.completeLaunch n).mem.wf = true := by
  unfold State.completeLaunch
  dsimp only
  split
  · exact hs
  · simp [hs]

@[simp] theorem State.retireCount_wf (n core : Nat) : (s.retireCount n core).mem.wf = true := by
  simp [State.retireCount, hs]

@[simp] theorem State.removeUnplaced_wf (n : Nat) : (s.removeUnplaced n).mem.wf = true := by
  unfold State.removeUnplaced
  dsimp only
  split
  · exact hs
  · simp [hs]

@[simp] theorem State.rejectLaunch_wf (l : Launch) (cause : Nat) (packet : Option (Nat × Nat)) :
    (s.rejectLaunch l cause packet).mem.wf = true := by
  have write {s : State} (hs : s.mem.wf = true) (va n : Nat) (x : W64) :
      (if va = 0 ∨ va % n ≠ 0 ∨ (s.placeCause l.world va n).isSome then s
        else match s.feTranslate l.world va n true true false with
          | .error _ => s
          | .ok pa => s.agentWrite l.world va pa (wordBytes x) .plain : State).mem.wf = true := by
    split
    · exact hs
    · split
      · exact hs
      · exact State.agentWrite_wf hs _ _ _ _ _
  unfold State.rejectLaunch
  dsimp only
  rw [State.tellPacket_mem]
  exact write (write (by simp [hs]) _ _ _) _ _ _

@[simp] theorem State.reachV_wf (n : Nat) : (s.reachV n).mem.wf = true := by
  unfold State.reachV
  dsimp only
  split <;> simp [hs]

@[simp] theorem State.acceptLaunch_wf (l : Launch) (table : List (Except Nat Nat)) (packet : Option (Nat × Nat)) :
    (s.acceptLaunch l table packet).mem.wf = true := by
  have free := s.freeLaunch_mem
  unfold State.acceptLaunch
  split
  · simp_all
  · next n t found =>
    have kept : t.mem.wf = true := by simp_all
    dsimp only
    generalize accepted : State.tellPacket _ packet (.ok n) = u
    have hu : u.mem.wf = true := by
      rw [← accepted, State.tellPacket_mem]
      refine State.writeResult_wf ?_ _ _
      split <;> simpa using kept
    split
    · exact State.reachV_wf hu n
    · simpa using hu

/-! ### Deadlines -/

@[simp] theorem State.retireAways_wf : s.retireAways.mem.wf = true := by
  refine State.foldl_wf hs _ fun t a ht => State.retireCount_wf ?_ _ _
  exact (State.foldl_mem (fun s e => s.leaveEns_mem _ _) _ t).symm ▸ ht

@[simp] theorem State.stopLaunch_wf (n : Nat) (sel : Nat → Bool) : (s.stopLaunch n sel).mem.wf = true := by
  simp [State.stopLaunch, hs]

/-! ### Bindings -/

@[simp] theorem State.saveImage_wf (w : Nat) (bs : List Byte) (bad : List Nat) :
    (s.saveImage w bs bad).2.mem.wf = true := by
  unfold State.saveImage
  dsimp only
  split
  · exact hs
  · simp [hs]

@[simp] theorem State.loss_wf (w cls : Nat) (num : W64) (notice : Nat) (off : Option Nat) :
    (s.loss w cls num notice off).mem.wf = true := by
  unfold State.loss
  split
  · dsimp only
    split <;> simp [hs]
  · dsimp only
    split <;> simp [hs]

/-! ### Suspended troupes -/

@[simp] theorem State.putImage_wf (t : Troupe) (base : Nat) : (s.putImage t base).mem.wf = true := by
  simp [State.putImage, hs]

@[simp] theorem State.takeAway_wf (t : Troupe) (base : Nat) (image : Option Nat) (tslot : Option Nat) :
    (s.takeAway t base image tslot).mem.wf = true := by simp [State.takeAway, hs]

/-! ### Seizure -/

@[simp] theorem State.writeBack_wf (w : Nat) (t : Take) : (s.writeBack w t).mem.wf = true := by
  have pins {s : State} (hs : s.mem.wf = true) (lns : List Nat) :
      (if t.seize then lns.foldl (fun s ln => s.loss w 10 (w64 (ln * 128)) t.notice none) s else s).mem.wf = true := by
    split
    · exact State.foldl_wf hs lns fun u ln hu => State.loss_wf hu _ _ _ _ _
    · exact hs
  unfold State.writeBack
  dsimp only
  split
  · exact pins (by simpa using hs) _
  · refine pins ?_ _
    rw [State.foldl_mem fun s e => s.evictLine_mem _]
    exact hs
  · exact hs

@[simp] theorem State.scrub_wf (pa n : Nat) : (s.scrub pa n).mem.wf = true := Bytes.wf_clear hs pa n

@[simp] theorem State.freeTake_wf (w : Nat) (t : Take) : (s.freeTake w t).mem.wf = true := by
  unfold State.freeTake
  split
  · simp [hs]
  · dsimp only
    split <;> simp [hs]
  · simp [hs]
  · simp [hs]

@[simp] theorem State.finishTake_wf (w : Nat) (t : Take) : (s.finishTake w t).mem.wf = true := by
  unfold State.finishTake
  dsimp only
  have back : ((s.modWorld w fun x => { x with takes := x.takes.filter (· != t) }).writeBack w t).mem.wf = true := by
    refine State.writeBack_wf ?_ w t
    exact hs
  split
  · exact hs
  · refine State.freeTake_wf ?_ w t
    split
    · exact State.loss_wf (State.saveImage_wf back _ _ _) _ _ _ _ _
    · exact back

@[simp] theorem State.grab_wf (w : Nat) (n : Notice) (nums : List Nat) : (s.grab w n nums).1.mem.wf = true := by
  refine State.foldl_fst_wf (a := (s, n)) hs nums fun a m ha => State.loss_wf ?_ _ _ _ _ _
  simpa using ha

@[simp] theorem State.grabFree_wf (w : Nat) (n : Notice) : (s.grabFree w n).1.mem.wf = true := by
  simp [State.grabFree, hs]

@[simp] theorem State.evict_wf (t : Troupe) (notice : Nat) : (s.evict t notice).mem.wf = true := by
  simp [State.evict, hs]

@[simp] theorem State.preempt_wf (w : Nat) (n : Notice) : (s.preempt w n).1.mem.wf = true := by
  unfold State.preempt
  dsimp only
  generalize evicted : n.evict.foldl _ (s, []) = a
  have kept : a.1.mem.wf = true := by
    rw [← evicted]
    refine State.foldl_fst_wf (a := (s, [])) hs n.evict fun a u ha => ?_
    split
    · exact ha
    · split <;> simp [ha]
  split
  · rw [State.opportunity_mem]
    exact State.grabFree_wf (wf_of_mem (State.unhold_mem _ _ _) kept) _ _
  · exact kept

@[simp] theorem State.chooseVictims_wf (w : Nat) (n : Notice) : (s.chooseVictims w n).1.mem.wf = true := by
  unfold State.chooseVictims
  dsimp only
  split
  · split <;> simp [hs]
  · simp [hs]

/-! ### The allocator -/

@[simp] theorem State.makeAreas_wf (w : Nat) (bases sizes : List Nat) : (s.makeAreas w bases sizes).mem.wf = true := by
  refine State.foldl_wf hs _ fun t x ht => ?_
  split
  · exact ht
  · exact State.scrub_wf (by simpa using ht) _ _

@[simp] theorem State.bindOne_wf (w cls : Nat) (x : W64) : (s.bindOne w cls x).mem.wf = true := by
  unfold State.bindOne
  split
  · simp [hs]
  · simp [hs]
  · simp [hs]
  · exact hs
  · split <;> simp [hs]
  · simp [hs]

@[simp] theorem State.dropPins_wf (w slice lost : Nat) : (s.dropPins w slice lost).mem.wf = true := by
  refine State.foldl_wf hs _ fun t e ht => State.loss_wf ?_ _ _ _ _ _
  exact wf_of_mem (State.modSlice_mem _ _ _) ht

@[simp] theorem State.abortRecords_wf (w : Nat) : (s.abortRecords w).mem.wf = true := by
  refine State.foldl_wf hs _ fun t x ht => ?_
  dsimp only
  split
  · exact ht
  · split
    · exact ht
    · exact State.agentWrite_wf (State.agentWrite_wf ht _ _ _ _ _) _ _ _ _ _

@[simp] theorem State.forgetWorld_wf (w : Nat) : (s.forgetWorld w).mem.wf = true := by
  unfold State.forgetWorld
  simp only [State.opportunity_mem, State.tdispError_mem]
  rw [State.foldl_mem fun s i => s.ringRebind_mem _ _ _ _]
  dsimp only
  refine State.foldl_wf ?_ _ fun t x ht => State.scrub_wf ht _ _
  dsimp only
  rw [State.foldl_mem fun s c => s.dropUtlb_mem _ _]
  exact wf_of_mem (State.unparkWorld_mem _ _) (State.abortRecords_wf hs w)

/-! ### Switching -/

@[simp] theorem State.putBad_wf (pa : Nat) (bs : List Byte) (bad : List Nat) : (s.putBad pa bs bad).mem.wf = true := by
  simp [State.putBad, hs]

@[simp] theorem State.switchOut_wf (o i core : Nat) : (s.switchOut o i core).mem.wf = true := by
  have away {s : State} (hs : s.mem.wf = true) (ts : List Troupe) (b : Nat) :
      (ts.foldl (fun s t => s.takeAway t (b + 0x1000 + t.tslot * 0x9000) none (some t.tslot)) s).mem.wf = true :=
    State.foldl_wf hs ts fun t x ht => State.takeAway_wf ht _ _ _ _
  unfold State.switchOut
  refine wf_of_mem (State.modCore_mem _ _ _) (wf_of_mem (State.modWorld_mem _ _ _)
    (wf_of_mem (State.restartCounts_mem _ _ _) ?_))
  refine State.storeBytes_wf ?_ _ _
  refine State.foldl_wf (State.foldl_wf (State.foldl_wf ?_ _ ?_) _ ?_) _ ?_
  · exact State.storeBytes_wf (away hs _ _) _ _
  all_goals exact fun t x ht => State.putBad_wf ht _ _ _

/-! ### Queues, prologues and packets -/

@[simp] theorem State.failSignal_wf (q : Nat) (p : Packet) (va : Nat) (errand : Errand) :
    (s.failSignal q p va errand).1.mem.wf = true := by
  unfold State.failSignal
  split
  · next done => exact State.signal_wf hs done
  · exact hs

@[simp] theorem State.failCsig_wf (q : Nat) (p : Packet) (a : Abort) : (s.failCsig q p a).mem.wf = true := by
  unfold State.failCsig
  dsimp only
  split <;> simp [hs]

@[simp] theorem State.failList_wf (q : Nat) (p : Packet) : (s.failList q p).1.mem.wf = true := by
  have read := s.feRead_mem (packetKey q p.id) p.world p.alist 64 false
  unfold State.failList
  split
  · exact hs
  · split
    · simp_all
    · simp_all
    · refine State.foldl_wf (by simp_all) _ fun t a ht => ?_
      have failed := State.failSignal_wf ht q p a.toNat (.listed q)
      split
      · exact ht
      · split <;> simp_all

@[simp] theorem State.abortTurn_wf (q : Nat) (p : Packet) (a : Abort) : (s.abortTurn q p a).mem.wf = true := by
  have failed := State.failList_wf (State.failCsig_wf hs q p a) q p
  unfold State.abortTurn
  split
  · exact hs
  · split
    · simp [hs]
    · split
      · simp_all
      · split <;> simp_all

@[simp] theorem State.abortPacket_wf (q : Nat) (p : Packet) (cause : Nat) (record : Option W64) (fails : Bool) :
    (s.abortPacket q p cause record fails).mem.wf = true := by simp [State.abortPacket, hs]

@[simp] theorem State.badPacket_wf (q : Nat) (p : Packet) : (s.badPacket q p).mem.wf = true := by
  simp [State.badPacket, hs]

@[simp] theorem State.badAddress_wf (q : Nat) (p : Packet) (x : Nat × Nat) : (s.badAddress q p x).mem.wf = true := by
  simp [State.badAddress, hs]

@[simp] theorem State.completePacket_wf (q : Nat) (p : Packet) : (s.completePacket q p).mem.wf = true := by
  unfold State.completePacket
  dsimp only
  generalize dropped : (if p.type = 9 ∧ bit (p.word 0) 48 = true then _ else _ : State) = t
  have ht : t.mem.wf = true := by subst dropped; split <;> simp [hs]
  split
  · exact ht
  · split
    · next done => exact State.signal_wf ht done
    · simp [ht]

@[simp] theorem State.tryComplete_wf (q : Nat) (p : Packet) : (s.tryComplete q p).mem.wf = true := by
  unfold State.tryComplete
  split
  · simp [hs]
  · simp [hs]
  · simp [hs]
  · split
    · simp [hs]
    · exact hs

@[simp] theorem State.evaluate_wf (q : Nat) (p : Packet) : (s.evaluate q p).mem.wf = true := by
  unfold State.evaluate
  dsimp only
  generalize asked : State.feReads _ _ _ _ _ = r
  have read : r.1.mem.wf = true := by simp [← asked, hs]
  split
  · exact read
  · exact State.badAddress_wf read _ _ _
  · split
    · exact State.abortPacket_wf read _ _ _ _ _
    · split <;> simpa using read

@[simp] theorem State.hartTrap_wf (q : Nat) (p : Packet) (cause : Nat) : (s.hartTrap q p cause).mem.wf = true := by
  simp [State.hartTrap, hs]

@[simp] theorem State.hartFetchHigh_wf (q : Nat) (p : Packet) (h : Hart) (low : Nat) :
    (s.hartFetchHigh q p h low).mem.wf = true := by
  have read := s.feRead_mem (packetKey q p.id) p.world (h.pc.toNat + 2) 2 true
  unfold State.hartFetchHigh
  split <;> simp_all

@[simp] theorem State.hartFetch_wf (q : Nat) (p : Packet) (h : Hart) : (s.hartFetch q p h).mem.wf = true := by
  have read := s.feRead_mem (packetKey q p.id) p.world h.pc.toNat 2 true
  unfold State.hartFetch
  split
  · simp_all
  · simp_all
  · dsimp only
    split <;> simp_all

@[simp] theorem State.hartLoad_wf (q : Nat) (p : Packet) (h : Hart) (len f3 rd a : Nat) :
    (s.hartLoad q p h len f3 rd a).mem.wf = true := by
  have read := s.feRead_mem (packetKey q p.id) p.world a (rvBytes f3) false
  unfold State.hartLoad
  dsimp only
  split
  · simp [hs]
  · split
    · exact hs
    · split <;> simp_all

@[simp] theorem State.hartStore_wf (q : Nat) (p : Packet) (h : Hart) (len n a : Nat) (x : W64) :
    (s.hartStore q p h len n a x).mem.wf = true := by
  unfold State.hartStore
  split
  · simp [hs]
  · split
    · exact hs
    · split
      · simp [hs]
      · next done => simpa using State.feWrite_wf hs done

@[simp] theorem State.hartAmo_wf (q : Nat) (p : Packet) (h : Hart) (len : Nat) (op : AOp) (wide : Bool) (rd a : Nat)
    (x : W64) : (s.hartAmo q p h len op wide rd a x).mem.wf = true := by
  unfold State.hartAmo
  dsimp only
  generalize (if wide then 8 else 4) = n
  split
  · simp [hs]
  · split
    · exact hs
    · split
      · simp [hs]
      · split
        · simp [hs]
        · generalize answered : State.answers _ _ _ _ _ = r
          have kept : r.1.mem.wf = true := by simp [← answered, hs]
          split
          · split
            · simp [hs]
            · split <;> simp_all
          · rw [if_neg Bool.false_ne_true]
            split <;> simp_all

@[simp] theorem State.hartLaunch_wf (q : Nat) (p : Packet) (again : Bool) : (s.hartLaunch q p again).mem.wf = true := by
  have read := s.feRead_mem (packetKey q p.id) p.world (p.word 2).toNat 128 false
  unfold State.hartLaunch
  dsimp only
  split
  · exact hs
  · split
    · simp [hs]
    · split <;> simp_all

@[simp] theorem State.hartStep_wf (q : Nat) (p : Packet) (h : Hart) : (s.hartStep q p h).mem.wf = true := by
  unfold State.hartStep
  split
  · simp [hs]
  · simp [hs]
  · split
    · simp [hs]
    · simp [hs]
    · simp [hs]
    · simp [hs]
    · split
      · exact hs
      · simp [hs]
    · simp [hs]
    · split <;> simp [hs]

@[simp] theorem State.qPred_wf (q : Nat) (p : Packet) : (s.qPred q p).mem.wf = true := by
  have reads := s.feReads_mem (packetKey q p.id) p.world
  have read := s.feRead_mem (packetKey q p.id) p.world (p.word 1).toNat 8 false
  unfold State.qPred
  dsimp only
  split
  · simp [hs]
  · split
    · exact hs
    · split
      · generalize asked : State.feReads _ _ _ _ _ = r
        have kept : r.1.mem.wf = true := by rw [← asked, reads, hs]
        split
        · exact kept
        · exact State.badAddress_wf kept _ _ _
        · split
          · simpa using kept
          · exact State.badPacket_wf kept _ _
      · split <;> simp_all

@[simp] theorem State.qCopy_wf (q : Nat) (p : Packet) : (s.qCopy q p).mem.wf = true := by
  have reads := s.feReads_mem (packetKey q p.id) p.world [((p.word 1).toNat, 96), ((p.word 2).toNat, 96)] false
  unfold State.qCopy
  dsimp only
  split
  · simp_all
  · simp_all
  · split
    · simp_all
    · split <;> simp_all

@[simp] theorem State.qSignal_wf (q : Nat) (p : Packet) : (s.qSignal q p).mem.wf = true := by
  unfold State.qSignal
  dsimp only
  split
  · simp [hs]
  · next done => simpa using State.signal_wf hs done

@[simp] theorem State.qPost_wf (q : Nat) (p : Packet) : (s.qPost q p).mem.wf = true := by
  unfold State.qPost
  dsimp only
  split <;> simp [hs]

@[simp] theorem State.qMark_wf (q : Nat) (p : Packet) : (s.qMark q p).mem.wf = true := by
  unfold State.qMark
  split
  · exact hs
  · dsimp only
    split
    · simp [hs]
    · next done => simpa using State.feWrite_wf hs done

@[simp] theorem State.putResponse_wf (q : Nat) (p : Packet) (bs : List Byte) :
    (s.putResponse q p bs).mem.wf = true := by
  unfold State.putResponse
  dsimp only
  split
  · simp [hs]
  · rw [State.acted_mem]
    refine State.foldl_wf hs _ fun t x ht => ?_
    split
    · next done => exact State.feWrite_wf ht done
    · exact ht

@[simp] theorem State.qDebug_wf (q : Nat) (p : Packet) : (s.qDebug q p).mem.wf = true := by
  have asked := s.qRequest_mem q p
  unfold State.qDebug
  split
  · exact hs
  · split <;> simp_all

@[simp] theorem State.turnPacket_wf (q : Nat) (p : Packet) : (s.turnPacket q p).mem.wf = true := by
  unfold State.turnPacket
  split <;> simp [hs]

@[simp] theorem State.begin_wf (q w : Nat) (words : List W64) : (s.begin q w words).mem.wf = true := by
  unfold State.begin
  dsimp only
  split
  · exact State.turnPacket_wf (by simpa using hs) _ _
  · exact State.badPacket_wf (by simpa using hs) _ _

@[simp] theorem State.startPair_wf (q w : Nat) : (s.startPair q w).mem.wf = true := by
  unfold State.startPair
  dsimp only
  generalize asked : State.feReads _ _ _ _ _ = r
  have read : r.1.mem.wf = true := by simp [← asked, hs]
  split <;> simp_all

@[simp] theorem State.startPacket_wf (q : Nat) (want : Option Nat) : (s.startPacket q want).mem.wf = true := by
  have read := s.feRead_mem q (s.queueWorld q) ((s.queue q).slotVa (s.queue q).rptr) 64 false
  unfold State.startPacket
  dsimp only
  split
  · simp [hs]
  · split
    · exact hs
    · split
      · split <;> simp [hs]
      · split
        · simp_all
        · split <;> simp_all
        · split
          · exact hs
          · split <;> simp_all

@[simp] theorem State.goOn_wf (q : Nat) (p : Packet) : (s.goOn q p).mem.wf = true := by
  unfold State.goOn
  split
  · simp [hs]
  · split
    · simp [hs]
    · split <;> simp [hs]

@[simp] theorem State.hartTurn_wf (q k : Nat) : (s.hartTurn q k).mem.wf = true := by
  unfold State.hartTurn
  split
  · exact hs
  · split
    · dsimp only
      split <;> simp [hs]
    · dsimp only
      split <;> simp [hs]

/-! ### Registers, the link and the peers -/

@[simp] theorem State.hostPut_wf (f va pa : Nat) (bs : List Byte) : (s.hostPut f va pa bs).mem.wf = true := by
  unfold State.hostPut
  split <;> simp [hs]

@[simp] theorem State.bar2Access_wf (f off n : Nat) (data : Option (List Byte)) :
    (s.bar2Access f off n data).mem.wf = true := by
  unfold State.bar2Access
  split
  · dsimp only
    split <;> simp [hs]
  · split
    · simp [hs]
    · split
      · simp [hs]
      · exact State.foldl_fst_wf (a := (s, _)) hs _ fun a p ha => State.hostPut_wf ha _ _ _ _

@[simp] theorem State.remoteDo_wf (peer rworld : Nat) (kind : RemoteKind) :
    (s.remoteDo peer rworld kind).1.mem.wf = true := by
  unfold State.remoteDo
  split
  · split
    · exact hs
    · simp [hs]
  · split
    · exact hs
    · simp [hs]
  · split
    · dsimp only
      split
      · exact hs
      · simp [hs]
    · dsimp only
      split
      · exact hs
      · simp [hs]
  · exact hs
  · split
    · exact hs
    · simp [hs]

/-! ### Trust and errors -/

@[simp] theorem State.lostContents_wf (w : Nat) (number vaddr : W64) :
    (s.lostContents w number vaddr).mem.wf = true := by
  simp [State.lostContents, hs]

@[simp] theorem State.loseLines_wf (lns : List (Nat × L2Line)) : (s.loseLines lns).mem.wf = true := by
  refine State.foldl_wf hs lns fun t e ht => ?_
  dsimp only
  rw [State.modSlice_mem]
  split
  · exact Bytes.wf_splice ht _ _
  · exact ht

@[simp] theorem State.loseSet_wf (i set : Nat) : (s.loseSet i set).mem.wf = true :=
  State.foldl_wf (State.loseLines_wf hs _) _ fun _ _ ht => State.lostContents_wf ht _ _ _

@[simp] theorem State.rebuildTurn_wf : s.rebuildTurn.mem.wf = true := by
  unfold State.rebuildTurn
  split
  · exact hs
  · simp [hs]

/-! ### Time -/

@[simp] theorem State.tick_wf : s.tick.mem.wf = true := by
  unfold State.tick
  dsimp only
  split <;> simp [hs]

end Sys2Proof.Machine
end

section
/-! SUPPORT. Instructions and events keep memory in its one form (R159, R193; log 4): what the shared operations do
with a continuation, and then each instruction and event. -/

namespace Sys2Proof.Machine

/-- What is next has canonical memory; a step that ends otherwise has no next state. (Irreducible: to see through it is
to run the step.) -/
@[irreducible] def Canonical : Res → Prop
  | .next t => t.mem.wf = true
  | _ => True

@[simp] theorem canonical_next (t : State) : Canonical (.next t) ↔ t.mem.wf = true := by rw [Canonical]
@[simp] theorem canonical_fault (f : Fault) : Canonical (.fault f) := by simp only [Canonical]
@[simp] theorem canonical_refused (r : Refusal) : Canonical (.refused r) := by simp only [Canonical]

theorem canonical_of_wf {t : State} (hs : t.mem.wf = true) : Canonical (.next t) := (canonical_next t).2 hs

theorem canonical_of_ite {c : Prop} [Decidable c] {x y : Res} (hx : c → Canonical x) (hy : ¬ c → Canonical y) :
    Canonical (if c then x else y) := by
  split
  next h => exact hx h
  next h => exact hy h

/-- A choice between states of one memory has that memory. -/
theorem State.ite_mem {c : Prop} [Decidable c] {s t u : State} (hs : s.mem = u.mem) (ht : t.mem = u.mem) :
    (if c then s else t).mem = u.mem := by
  split
  · exact hs
  · exact ht

theorem State.wf_of_ite {c : Prop} [Decidable c] {s t : State} (hs : s.mem.wf = true) (ht : t.mem.wf = true) :
    (if c then s else t).mem.wf = true := by
  split
  · exact hs
  · exact ht

@[simp] theorem canonical_ite (c : Prop) [Decidable c] (x y : Res) :
    Canonical (if c then x else y) ↔ (c → Canonical x) ∧ (¬ c → Canonical y) := by
  split <;> simp [*]

set_option linter.unusedSectionVars false
variable {s : State} (hs : s.mem.wf = true)
include hs

/-! ### Operations of the machine -/

@[simp] theorem State.fault_canonical (cause access : Nat) (lanes : Mask) (vaddr : W64) :
    Canonical (s.fault cause access lanes vaddr) := by simp [State.fault, hs]

@[simp] theorem State.faultAll_canonical (cause access : Nat) (vaddr : W64) :
    Canonical (s.faultAll cause access vaddr) := by simp [State.faultAll, hs]

@[simp] theorem State.stall_canonical : Canonical (s.stall) := by simp [State.stall, hs]
@[simp] theorem State.contend_canonical (u : Nat) : Canonical (s.contend u) := by simp [State.contend, hs]

@[simp] theorem State.enter_canonical (u : Nat) {go : State → Res} (h : ∀ s, s.mem.wf = true → Canonical (go s)) :
    Canonical (s.enter u go) := by
  unfold State.enter
  dsimp only
  split
  · exact h _ (by simp [hs])
  · simp [hs]

@[simp] theorem State.done_canonical (t : Troupe) (len : Nat) (e : Bool) : Canonical (s.done t len e) := by
  simp [State.done, hs]

/-! ### Scalar instructions -/

@[simp] theorem State.report_canonical {go : State → Res} (h : ∀ s, s.mem.wf = true → Canonical (go s)) :
    Canonical (s.report go) := by
  unfold State.report
  dsimp only
  split
  · exact h _ hs
  · split
    · split <;> simp [hs]
    · exact h _ (by simp [hs])

@[simp] theorem State.scalar_canonical (d : Reg) (x : W64) (len : Nat) (e : Bool) : Canonical (s.scalar d x len e) := by
  simp [State.scalar, hs]

@[simp] theorem State.compare_canonical (f : Fin 8) (x : Bool) (len : Nat) (e : Bool) :
    Canonical (s.compare f x len e) := by simp [State.compare, hs]

@[simp] theorem execSrds_canonical (h : Hdr) (d : Reg) (n : Fin 18) : Canonical (execSrds h d n s) := by
  simp [execSrds, hs]

@[simp] theorem State.branch_canonical (taken : Bool) (target : W32) (e : Bool) :
    Canonical (s.branch taken target e) := by
  unfold State.branch
  split <;> simp [hs]

@[simp] theorem execCall_canonical (e : Bool) (d : Reg) (off : W32) : Canonical (execCall e d off s) := by
  simp [execCall, hs]

@[simp] theorem execLoop_canonical (e : Bool) (a : Reg) (off : W32) : Canonical (execLoop e a off s) := by
  simp [execLoop, hs]

@[simp] theorem execNop_canonical (h : Hdr) : Canonical (execNop h s) := by simp [execNop, hs]

@[simp] theorem State.onEns_canonical (a : Reg) {go : Nat → Res} (h : ∀ n, Canonical (go n)) :
    Canonical (s.onEns a go) := by
  unfold State.onEns
  dsimp only
  split
  · exact h _
  · simp [hs]

@[simp] theorem execEnsJoin_canonical (e : Bool) (d a : Reg) : Canonical (execEnsJoin e d a s) := by
  simp [execEnsJoin, hs]

@[simp] theorem execEnsLeave_canonical (e : Bool) (d a : Reg) : Canonical (execEnsLeave e d a s) := by
  simp [execEnsLeave, hs]

@[simp] theorem execEnsNew_canonical (e : Bool) (d : Reg) : Canonical (execEnsNew e d s) := by
  unfold execEnsNew
  dsimp only
  split <;> simp [hs]

@[simp] theorem execEnsFree_canonical (e : Bool) (d a : Reg) : Canonical (execEnsFree e d a s) := by
  simp [execEnsFree, hs]

@[simp] theorem execTret_canonical (_e : Bool) : Canonical (execTret _e s) := by simp [execTret, hs]
@[simp] theorem execYield_canonical (_e : Bool) : Canonical (execYield _e s) := by simp [execYield, hs]
@[simp] theorem execExit_canonical (_e : Bool) : Canonical (execExit _e s) := by simp [execExit, hs]
@[simp] theorem execLexit_canonical (e : Bool) : Canonical (execLexit e s) := by simp [execLexit, hs]

/-! ### Translation and misses -/

@[simp] theorem State.miss_canonical (t : Troupe) (access : Nat) (scalar : Bool) (missed : List (Nat × W64))
    {perform : State → State} (h : ∀ s, s.mem.wf = true → (perform s).mem.wf = true) :
    Canonical (s.miss t access scalar missed perform) := by
  unfold State.miss
  dsimp only
  split
  · simp [hs]
  · generalize paged : List.foldl _ _ (missPages missed) = a
    have ha : a.1.mem.wf = true := by simp [← paged, hs]
    split
    · simp [ha]
    · have kept := h (a.1.modTroupe t.key fun t =>
        { t with ctl := { t.ctl with wait := .parked a.2, replayPc := some t.pc, stalled := false, stepReq := none } })
        (by simp [ha])
      rw [canonical_next]
      split <;> simp [kept]

/-! ### Accesses and answers -/

@[simp] theorem State.admitPeers_canonical (t : Troupe) (n : Need) (outs : List (Nat × W64 × LaneOut))
    {go : Checked → State → Res} (h : ∀ c s, s.mem.wf = true → Canonical (go c s)) :
    Canonical (s.admitPeers t n outs go) := by
  unfold State.admitPeers
  dsimp only
  split
  · exact h _ _ hs
  · split
    · simp [hs]
    · split
      · simp [hs]
      · exact h _ _ hs

@[simp] theorem State.access_canonical (n : Need) (scalar : Bool) (lanes : List (Nat × W64)) (fill : LaneOp → LaneOp)
    {gate : List LaneOp → (State → Res) → State → Res} {issue : List LaneOp → State → Res}
    {split : List LaneOp → State → State}
    (hgate : ∀ ok go s, s.mem.wf = true → (∀ s, s.mem.wf = true → Canonical (go s)) → Canonical (gate ok go s))
    (hissue : ∀ ok s, s.mem.wf = true → Canonical (issue ok s))
    (hsplit : ∀ ok s, s.mem.wf = true → (split ok s).mem.wf = true) :
    Canonical (s.access n scalar lanes fill gate issue split) := by
  unfold State.access
  refine State.admitPeers_canonical hs _ _ _ fun c s hs => ?_
  cases c with
  | bad cause ls va => simp [hs]
  | go ok missed =>
    dsimp only
    split
    · simp [hs]
    · split
      · simp [hs]
      · split
        · exact hgate _ _ _ hs fun s hs => hissue _ _ (by simp [hs])
        · split
          · exact State.miss_canonical (by simp [hs]) _ _ _ _ fun _ => id
          · exact hgate _ _ _ hs fun s hs => State.miss_canonical (by simp [hs]) _ _ _ _ (hsplit _)

omit hs in
theorem openGate_canonical (ok : List LaneOp) (go : State → Res) (s : State) (hs : s.mem.wf = true)
    (h : ∀ s, s.mem.wf = true → Canonical (go s)) : Canonical (openGate ok go s) := h s hs

@[simp] theorem State.issueOp_canonical (kind : OpKind) (lanes : List LaneOp) (la len : Nat) (e : Bool) :
    Canonical (s.issueOp kind lanes la len e) := by simp [State.issueOp, hs]

@[simp] theorem State.loadVector_canonical (n : Nat) (sext : Bool) (e : Bool) (g : Guard) (d : Nat) (m : MAddr)
    (la : Fin 16) :
    Canonical (s.loadVector n sext e g d m la) := by
  unfold State.loadVector
  dsimp only
  split
  · simp [hs]
  · exact State.access_canonical hs _ _ _ _ openGate_canonical (fun ok s hs => by simp [hs]) fun _ _ => id

@[simp] theorem State.storeVector_canonical (n : Nat) (e : Bool) (g : Guard) (d : Nat) (m : MAddr) (la : Fin 16) :
    Canonical (s.storeVector n e g d m la) := by
  unfold State.storeVector
  dsimp only
  split
  · simp [hs]
  · exact State.access_canonical hs _ _ _ _ openGate_canonical (fun ok s hs => by simp [hs]) fun _ s hs => by simp [hs]

@[simp] theorem execSld_canonical (e : Bool) (d : Reg) (m : SAddr) (la : Fin 16) : Canonical (execSld e d m la s) := by
  unfold execSld
  exact State.access_canonical hs _ _ _ _ openGate_canonical (fun ok s hs => by simp [hs]) fun _ _ => id

@[simp] theorem execSst_canonical (e : Bool) (d : Reg) (m : SAddr) (la : Fin 16) : Canonical (execSst e d m la s) := by
  unfold execSst
  exact State.access_canonical hs _ _ _ _ openGate_canonical (fun ok s hs => by simp [hs]) fun _ _ => id

@[simp] theorem State.onSpad_canonical (access n : Nat) (scalar : Bool) (lanes : List (Nat × W64))
    {go : List LaneOp → Res}
    (h : ∀ ok, Canonical (go ok)) : Canonical (s.onSpad access n scalar lanes go) := by
  unfold State.onSpad
  dsimp only
  split
  · simp [hs]
  · split
    · simp [hs]
    · exact h _

@[simp] theorem State.spadLoad_canonical (n : Nat) (e : Bool) (g : Guard) (d : Nat) (m : MAddr) :
    Canonical (s.spadLoad n e g d m) := by simp [State.spadLoad, hs]

@[simp] theorem State.spadStore_canonical (n : Nat) (e : Bool) (g : Guard) (d : Nat) (m : MAddr) :
    Canonical (s.spadStore n e g d m) := by simp [State.spadStore, hs]

@[simp] theorem execSlds_canonical (e : Bool) (d : Reg) (m : SAddr) (_la : Fin 16) :
    Canonical (execSlds e d m _la s) := by
  simp [execSlds, hs]

@[simp] theorem execSsts_canonical (e : Bool) (d : Reg) (m : SAddr) (_la : Fin 16) :
    Canonical (execSsts e d m _la s) := by
  simp [execSsts, hs]

@[simp] theorem State.queueGate_canonical (t : Troupe) (scalar : Bool) (ok : List LaneOp) {go : State → Res}
    (h : ∀ s, s.mem.wf = true → Canonical (go s)) : Canonical (s.queueGate t scalar ok go) := by
  unfold State.queueGate
  dsimp only
  split
  · simp [hs]
  · split
    · simp [hs]
    · exact h _ hs

@[simp] theorem State.awaitHost_canonical : Canonical (s.awaitHost) := by simp [State.awaitHost, hs]

@[simp] theorem State.takeHostOps_canonical (x : AArgs) : Canonical (s.takeHostOps x) := by
  unfold State.takeHostOps
  split
  · dsimp only
    split <;> simp [hs]
  · dsimp only
    split <;> simp [hs]

@[simp] theorem State.atomicOver_canonical (x : AArgs) (e : Bool) : Canonical (s.atomicOver x e) := by
  unfold State.atomicOver
  dsimp only
  split
  · split <;> simp [hs]
  · simp [hs]

@[simp] theorem State.atomic_canonical (e : Bool) (g : Guard) (x : AArgs) (moduleOnly reduces : Bool) :
    Canonical (s.atomic e g x moduleOnly reduces) := by
  unfold State.atomic
  dsimp only
  refine canonical_of_ite (fun _ => by simp [hs]) fun _ => canonical_of_ite (fun _ => by simp [hs]) fun _ =>
    canonical_of_ite (fun _ => by simp [hs]) fun _ => canonical_of_ite (fun _ => by simp [hs]) fun _ =>
    canonical_of_ite (fun _ => by simp [hs]) fun _ => ?_
  refine State.access_canonical hs _ _ _ _ (fun ok go s hs hgo => ?_) (fun ok s hs => by simp [hs])
    fun ok s hs => by simp [hs]
  exact State.queueGate_canonical hs _ _ _ fun s hs => canonical_of_ite (fun _ => hgo s hs) fun _ => by simp [hs]

@[simp] theorem execServiceRequest_canonical (cluster i : Nat) : Canonical (execServiceRequest cluster i s) := by
  unfold execServiceRequest
  split
  · simp [hs]
  · refine canonical_of_ite (fun _ => by simp [hs]) fun _ => ?_
    refine canonical_of_ite (fun _ => by simp [hs]) fun _ => ?_
    split <;> simp [hs]

@[simp] theorem execAtomicReturn_canonical (core tslot : Nat) : Canonical (execAtomicReturn core tslot s) := by
  unfold execAtomicReturn
  split
  · simp [hs]
  · split <;> simp [hs]

@[simp] theorem execMissRetry_canonical (core tslot : Nat) : Canonical (execMissRetry core tslot s) := by
  unfold execMissRetry
  split <;> simp [hs]

@[simp] theorem execFence_canonical (e : Bool) (sc : Scope) : Canonical (execFence e sc s) := by simp [execFence, hs]

/-! ### Barriers, ensembles and exchange -/

@[simp] theorem State.onBar_canonical (a : Reg) (inRange : Bool) {go : Nat → Res} (h : ∀ n, Canonical (go n)) :
    Canonical (s.onBar a inRange go) := by
  unfold State.onBar
  dsimp only
  split
  · simp [hs]
  · split
    · simp [hs]
    · split
      · simp [hs]
      · exact h _

@[simp] theorem execBarInit_canonical (e : Bool) (a : Reg) (b : SSrc) : Canonical (execBarInit e a b s) := by
  simp [execBarInit, hs]

@[simp] theorem State.release_canonical (kind : OpKind) (lanes : List LaneOp) (len : Nat) (e : Bool) :
    Canonical (s.release kind lanes len e) := by simp [State.release, hs]

@[simp] theorem execBarArrive_canonical (e : Bool) (d a : Reg) (b : SSrc) : Canonical (execBarArrive e d a b s) := by
  unfold execBarArrive
  split
  · dsimp only
    split <;> simp [hs]
  · dsimp only
    split <;> simp [hs]

@[simp] theorem execBarExpect_canonical (e : Bool) (a : Reg) (b : SSrc) : Canonical (execBarExpect e a b s) := by
  simp [execBarExpect, hs]

@[simp] theorem execBarWait_canonical (_e : Bool) (a : Reg) (b : SSrc) : Canonical (execBarWait _e a b s) := by
  unfold execBarWait
  simp_all

@[simp] theorem execBarTest_canonical (e : Bool) (d a : Reg) (b : SSrc) : Canonical (execBarTest e d a b s) := by
  simp [execBarTest, hs]

@[simp] theorem State.exchange_canonical (n : Nat) (e : Bool) (g : Guard) (d : Nat) (m : MAddr) :
    Canonical (s.exchange n e g d m) := by
  unfold State.exchange
  refine canonical_of_ite (fun _ => by simp [hs]) fun _ => ?_
  split
  · simp [hs]
  · dsimp only
    split <;> simp [hs]

@[simp] theorem execExchangeWriteLands_canonical (i : Nat) : Canonical (execExchangeWriteLands i s) := by
  unfold execExchangeWriteLands
  split
  · simp [hs]
  · refine canonical_of_ite (fun _ => by simp [hs]) fun _ => ?_
    refine canonical_of_ite (fun _ => ?_) fun _ => ?_
    · split
      · simp [hs]
      · dsimp only
        split
        · simp [hs]
        · split <;> simp [hs]
    · refine canonical_of_ite (fun _ => by simp [hs]) fun _ => ?_
      split <;> simp [hs]

@[simp] theorem execEbarArrive_canonical (e : Bool) (d a : Reg) (b : SSrc) : Canonical (execEbarArrive e d a b s) := by
  unfold execEbarArrive
  refine canonical_of_ite (fun _ => by simp [hs]) fun _ => ?_
  split <;> simp [hs]

@[simp] theorem execEnsemblePhaseComplete_canonical (e : Nat) : Canonical (execEnsemblePhaseComplete e s) := by
  refine canonical_of_ite (fun _ => canonical_of_wf hs) fun _ =>
    canonical_of_wf (State.foldl_wf ?_ _ fun s k hs => by simp [hs])
  refine State.foldl_wf ?_ _ fun s h hs => by simp [hs]
  rw [State.modEns_mem]
  exact State.foldl_wf (by simp [hs]) _ fun s x hs => State.wf_of_ite (by simp [hs]) hs

@[simp] theorem execPref_canonical (e : Bool) (l1 : Bool) (m : SAddr) (_la : Fin 16) :
    Canonical (execPref e l1 m _la s) := by
  unfold execPref
  dsimp only
  split
  · exact canonical_of_ite (fun _ => by simp [hs]) fun _ => by simp [apply_ite State.mem, hs]
  · simp [hs]

@[simp] theorem State.lineAccess_canonical (m : SAddr) {go : Nat → Bool → State → Res}
    (h : ∀ pa na s, s.mem.wf = true → Canonical (go pa na s)) : Canonical (s.lineAccess m go) := by
  unfold State.lineAccess
  refine State.admitPeers_canonical hs _ _ _ fun c s hs => ?_
  split
  · simp [hs]
  · split
    · simp [hs]
    · exact h _ _ _ hs
  · exact State.miss_canonical hs _ _ _ _ fun _ => id

@[simp] theorem execPin_canonical (e : Bool) (d : Reg) (m : SAddr) (_la : Fin 16) :
    Canonical (execPin e d m _la s) := by
  unfold execPin
  simp_all

@[simp] theorem execUnpin_canonical (e : Bool) (m : SAddr) (_la : Fin 16) : Canonical (execUnpin e m _la s) := by
  simp [execUnpin, hs]

@[simp] theorem execMbxPost_canonical (e : Bool) (d a : Reg) (b : Oct) : Canonical (execMbxPost e d a b s) := by
  rcases box : mbxAddr (s.src.sreg a.val) with _ | ⟨m, _ | p⟩
  · simp [execMbxPost, box, hs]
  · simp [execMbxPost, box, hs]
  · simp [execMbxPost, box, hs]

@[simp] theorem execSliceAccessPerformed_canonical (core tslot : Nat) :
    Canonical (execSliceAccessPerformed core tslot s) := by
  unfold execSliceAccessPerformed
  split
  · simp [hs]
  · split <;> simp [hs]

@[simp] theorem execMbxTake_canonical (e : Bool) (d : Oct) (a b : Reg) : Canonical (execMbxTake e d a b s) := by
  unfold execMbxTake
  dsimp only
  generalize (if b.val = 63 then none else s.barCause s.src (s.src.sreg b.val)) = cause
  split
  · refine canonical_of_ite (fun _ => by simp [hs]) fun _ => ?_
    split
    · simp [hs]
    · refine canonical_of_ite (fun _ => by simp [hs]) fun _ => ?_
      split <;> simp [apply_ite State.mem, hs]
  · simp [hs]

@[simp] theorem execMwait_canonical (_e : Bool) (a : Reg) : Canonical (execMwait _e a s) := by simp [execMwait, hs]

/-! ### Copies -/

@[simp] theorem State.copy_canonical (e : Bool) (x : CArgs) (gather : Bool) : Canonical (s.copy e x gather) := by
  unfold State.copy
  dsimp only
  split
  · simp [hs]
  · refine canonical_of_ite (fun _ => by simp [hs]) fun _ => canonical_of_ite (fun _ => by simp [hs]) fun _ => ?_
    refine State.enter_canonical hs _ fun s hs => ?_
    cases gather <;> simp [hs]

@[simp] theorem execCpy_canonical (e : Bool) (x : CArgs) : Canonical (execCpy e x s) := by simp [execCpy, hs]
@[simp] theorem execCpyg_canonical (e : Bool) (x : CArgs) : Canonical (execCpyg e x s) := by simp [execCpyg, hs]

@[simp] theorem execCopyChunk_canonical (id chunk : Nat) : Canonical (execCopyChunk id chunk s) := by
  unfold execCopyChunk
  split
  · exact canonical_of_wf hs
  next c _ =>
    refine canonical_of_ite (fun _ => canonical_of_wf hs) fun _ => canonical_of_ite (fun _ => by simp [hs]) fun _ => ?_
    have took :
        (if c.usesEngine then s.modCluster c.cluster fun k => { k with engTurn := c.unit } else s).mem.wf = true :=
      State.wf_of_ite (by simp [hs]) hs
    revert took
    generalize (if c.usesEngine then s.modCluster c.cluster fun k => { k with engTurn := c.unit } else s) = u
    intro hu
    refine canonical_of_ite (fun _ => by simp [hu]) fun _ => ?_
    dsimp only
    split
    · simp [hu]
    · split
      · simp [hu]
      · rw [canonical_next, State.count_mem]
        dsimp only
        rw [State.modCore_mem]
        refine State.wf_of_ite (State.writePayload_wf ?seen _ _ _) (State.foldl_wf ?seen _ fun s m hs => ?_)
        · exact State.wf_of_ite (by simp [hu]) (by simp [hu])
        · split <;> simp [hs]

@[simp] theorem execCopyCompletion_canonical (id : Nat) : Canonical (execCopyCompletion id s) := by
  unfold execCopyCompletion
  split
  · simp [hs]
  next c _ =>
    refine canonical_of_ite (fun _ => by simp [hs]) fun _ => ?_
    dsimp only
    cases c.bar with
    | none => cases c.queue <;> simp [apply_ite State.mem, apply_ite Bytes.wf, hs]
    | some b => cases c.queue <;> simp [apply_ite State.mem, apply_ite Bytes.wf, hs]

@[simp] theorem execCopyDrainTimeout_canonical (id : Nat) : Canonical (execCopyDrainTimeout id s) := by
  unfold execCopyDrainTimeout
  split
  · simp [hs]
  · split <;> simp [hs]

/-! ### The Procession -/

@[simp] theorem State.ringEnter_canonical (e : Bool) (la : Fin 16) (x : RingOp) : Canonical (s.ringEnter e la x) := by
  unfold State.ringEnter
  simp_all

@[simp] theorem State.onSlot_canonical (slot : Reg) {go : Nat → Res} (h : ∀ n, Canonical (go n)) :
    Canonical (s.onSlot slot go) := by
  unfold State.onSlot
  dsimp only
  split
  · simp [hs]
  · split
    · simp [hs]
    · split
      · simp [hs]
      · exact h _

@[simp] theorem execPboard_canonical (e : Bool) (d : Quad) (slot : Reg) (la : Fin 16) :
    Canonical (execPboard e d slot la s) := by simp [execPboard, hs]

@[simp] theorem execPalight_canonical (e : Bool) (d : Quad) (slot : Reg) (la : Fin 16) :
    Canonical (execPalight e d slot la s) := by simp [execPalight, hs]

@[simp] theorem execPread_canonical (e : Bool) (d : Quad) (slot : Reg) (la : Fin 16) :
    Canonical (execPread e d slot la s) := by simp [execPread, hs]

@[simp] theorem execPwrite_canonical (e : Bool) (d : Quad) (slot : Reg) (la : Fin 16) :
    Canonical (execPwrite e d slot la s) := by simp [execPwrite, hs]

@[simp] theorem execPrmw_canonical (e : Bool) (d : Quad) (slot opnd : Reg) (la : Fin 16) (op : QOp) (wsel : Fin 4) :
    Canonical (execPrmw e d slot opnd la op wsel s) := by simp [execPrmw, hs]

@[simp] theorem execProcessionPassage_canonical (core : Nat) (half : Bool) :
    Canonical (execProcessionPassage core half s) := by simp [execProcessionPassage, hs]

@[simp] theorem execPboardExhausted_canonical (core i : Nat) : Canonical (execPboardExhausted core i s) := by
  unfold execPboardExhausted
  split <;> simp [hs]

@[simp] theorem execProcessionSlotPoison_canonical (slot : Nat) : Canonical (execProcessionSlotPoison slot s) := by
  simp [execProcessionSlotPoison, hs]

/-! ### The placer -/

@[simp] theorem execSlackRecompute_canonical : Canonical (execSlackRecompute s) := by simp [execSlackRecompute, hs]

@[simp] theorem execRunArbitration_canonical (core islot : Nat) : Canonical (execRunArbitration core islot s) := by
  unfold execRunArbitration
  refine canonical_of_ite (fun _ => by simp [hs]) fun _ => ?_
  dsimp only
  split
  · simp [hs]
  · split <;> simp [hs]

@[simp] theorem execTokenRefill_canonical : Canonical (execTokenRefill s) := by
  unfold execTokenRefill
  dsimp only
  split
  · simp [hs]
  · rw [canonical_next]
    refine State.foldl_wf ?_ _ fun s core hs => State.foldl_wf hs _ fun s i hs => ?_
    · exact hs
    split <;> simp [hs]

@[simp] theorem execNodeEventPost_canonical (launch i : Nat) : Canonical (execNodeEventPost launch i s) := by
  refine canonical_of_ite (fun _ => canonical_of_wf hs) fun _ => ?_
  dsimp only
  simp [apply_ite State.mem, apply_ite Bytes.wf, hs]

@[simp] theorem execTroupeRetirement_canonical (core tslot : Nat) : Canonical (execTroupeRetirement core tslot s) := by
  unfold execTroupeRetirement
  split <;> simp [hs]

@[simp] theorem execPlacementOpportunity_canonical : Canonical (execPlacementOpportunity s) := by
  simp [execPlacementOpportunity, hs]

@[simp] theorem execLaunchAcceptance_canonical (i : Nat) : Canonical (execLaunchAcceptance i s) := by
  unfold execLaunchAcceptance
  split
  · simp [hs]
  next p _ =>
    split
    · simp [hs]
    · have same := s.readyLaunch_mem (describe p.world p.desc) p.packet
      dsimp only
      split
      next u ready => simp_all
      next u table ready =>
        have hu : u.mem.wf = true := by simp_all
        split <;> simp [hu]

/-! ### Deadlines -/

@[simp] theorem State.deadlineFault_canonical : Canonical (s.deadlineFault) := by simp [State.deadlineFault, hs]

@[simp] theorem execWraparm_canonical (e : Bool) (a : Pair) (b : SSrc) : Canonical (execWraparm e a b s) := by
  simp [execWraparm, hs]

@[simp] theorem execWrapdone_canonical (_e : Bool) (b : SSrc) : Canonical (execWrapdone _e b s) := by
  simp [execWrapdone, hs]

@[simp] theorem execValid_canonical (e : Bool) (a : Reg) (b : SSrc) : Canonical (execValid e a b s) := by
  unfold execValid
  refine canonical_of_ite (fun _ => by simp [hs]) fun _ => canonical_of_ite (fun _ => by simp [hs]) fun _ =>
    canonical_of_ite (fun _ => by simp [hs]) fun _ => canonical_of_ite (fun _ => by simp [hs]) fun _ => ?_
  refine State.access_canonical hs _ _ _ _ (fun ok go s hs hgo => ?_) (fun ok s hs => by simp [hs]) fun _ _ => id
  refine canonical_of_ite (fun _ => hgo s hs) fun _ => canonical_of_ite (fun _ => by simp [hs]) fun _ => ?_
  exact State.queueGate_canonical hs _ _ _ fun s hs => canonical_of_ite (fun _ => by simp [hs]) fun _ => hgo s hs

@[simp] theorem execTrap_canonical (_e : Bool) (b : SSrc) : Canonical (execTrap _e b s) := by simp [execTrap, hs]

@[simp] theorem execLaunchDivert_canonical (launch : Nat) : Canonical (execLaunchDivert launch s) := by
  unfold execLaunchDivert
  dsimp only
  split <;> simp [hs]

@[simp] theorem execActDivert_canonical (core tslot : Nat) : Canonical (execActDivert core tslot s) := by
  unfold execActDivert
  split <;> simp [hs]

@[simp] theorem execDeadlineStop_canonical (launch : Nat) : Canonical (execDeadlineStop launch s) := by
  have reached : (if (s.launch launch).reachedV then s else s.reachV launch).mem.wf = true :=
    State.wf_of_ite hs (State.reachV_wf hs launch)
  refine canonical_of_ite (fun _ => canonical_of_wf hs) fun _ => canonical_of_ite
    (fun _ => canonical_of_wf (State.stopLaunch_wf reached _ _)) fun _ => canonical_of_wf ?_
  exact State.wf_of_ite (by simp [reached]) (by simp [reached])

@[simp] theorem execWatchdog_canonical : Canonical (execWatchdog s) :=
  canonical_of_ite (fun _ => canonical_of_wf hs) fun _ =>
    canonical_of_wf (State.foldl_wf hs _ fun s l hs => by simp [hs])

@[simp] theorem execTimerTrap_canonical (core tslot : Nat) : Canonical (execTimerTrap core tslot s) := by
  unfold execTimerTrap
  split <;> simp [hs]

/-! ### Matrix units -/

@[simp] theorem State.mxFault_canonical (cause : Nat) (va : W64) : Canonical (s.mxFault cause va) := by
  simp [State.mxFault, hs]

@[simp] theorem State.onVisible_canonical (a : Reg) {go : Nat → Res} (h : ∀ n, Canonical (go n)) :
    Canonical (s.onVisible a go) := by
  unfold State.onVisible
  dsimp only
  split
  · simp [hs]
  · split
    · simp [hs]
    · exact h _

@[simp] theorem execOclaim_canonical (e : Bool) (d : Reg) : Canonical (execOclaim e d s) := by
  unfold execOclaim
  dsimp only
  split <;> simp [hs]

@[simp] theorem execOrelease_canonical (e : Bool) (d a : Reg) : Canonical (execOrelease e d a s) := by
  simp [execOrelease, hs]

@[simp] theorem execAclaim_canonical (e : Bool) (d : Reg) : Canonical (execAclaim e d s) := by
  unfold execAclaim
  dsimp only
  split <;> simp [hs]

@[simp] theorem execArelease_canonical (e : Bool) (d a : Reg) : Canonical (execArelease e d a s) := by
  simp [execArelease, hs]

@[simp] theorem execOwrite_canonical (e : Bool) (g : Guard) (slot : Reg) (x : OSel) :
    Canonical (execOwrite e g slot x s) := by simp [execOwrite, hs]

@[simp] theorem execOread_canonical (e : Bool) (g : Guard) (slot : Reg) (x : OSel) :
    Canonical (execOread e g slot x s) := by simp [execOread, hs]

@[simp] theorem execMma_canonical (e : Bool) (g : Guard) (x : MXArgs) : Canonical (execMma e g x s) := by
  unfold execMma
  dsimp only
  split
  · simp [hs]
  · split
    · simp [hs]
    · split
      · simp [hs]
      · split
        · simp [hs]
        · split
          · simp [hs]
          · split
            · simp [hs]
            · split
              · simp [hs]
              · refine State.enter_canonical hs _ fun s hs => ?_
                split <;> simp [hs]

@[simp] theorem execAswap_canonical (_e : Bool) (a : Reg) : Canonical (execAswap _e a s) := by simp [execAswap, hs]

@[simp] theorem State.accPoison_canonical (a : Nat) (x : Nat × Nat) : Canonical (s.accPoison a x) := by
  simp [State.accPoison, hs]

@[simp] theorem execArd_canonical (e : Bool) (g : Guard) (d : Fin 4) (a : Reg) (grp : Fin 8) :
    Canonical (execArd e g d a grp s) := by
  unfold execArd
  refine canonical_of_ite (fun _ => by simp [hs]) fun _ => ?_
  refine State.onVisible_canonical hs _ fun _ => ?_
  dsimp only
  split <;> simp [hs]

@[simp] theorem execAwr_canonical (e : Bool) (g : Guard) (acc : Reg) (v : Fin 4) (grp : Fin 8) :
    Canonical (execAwr e g acc v grp s) := by simp [execAwr, hs]

@[simp] theorem execAzero_canonical (e : Bool) (a : Reg) : Canonical (execAzero e a s) := by simp [execAzero, hs]

@[simp] theorem execAsts_canonical (e : Bool) (a : Reg) (b : SSrc) : Canonical (execAsts e a b s) := by
  unfold execAsts
  refine canonical_of_ite (fun _ => by simp [hs]) fun _ => ?_
  split
  · simp [hs]
  · refine State.onVisible_canonical hs _ fun _ => ?_
    split <;> simp [hs]

@[simp] theorem execVisibleBankComplete_canonical (core acc : Nat) :
    Canonical (execVisibleBankComplete core acc s) := by
  simp [execVisibleBankComplete, hs]

@[simp] theorem execMmaExecute_canonical (core : Nat) : Canonical (execMmaExecute core s) := by
  unfold execMmaExecute
  split <;> simp [hs]

@[simp] theorem execMmaComplete_canonical (core : Nat) : Canonical (execMmaComplete core s) := by
  unfold execMmaComplete
  split
  · simp [hs]
  · dsimp only
    rw [canonical_next]
    split <;> simp [hs]

@[simp] theorem execAswapExecute_canonical (core : Nat) : Canonical (execAswapExecute core s) := by
  unfold execAswapExecute
  split <;> simp [hs]

/-! ### Bindings -/

@[simp] theorem State.bindFault_canonical (cause : Nat) (va : W64) : Canonical (s.bindFault cause va) := by
  simp [State.bindFault, hs]

@[simp] theorem State.runtimeOnly_canonical (va : W64) {go : Res} (h : Canonical go) :
    Canonical (s.runtimeOnly va go) := by
  unfold State.runtimeOnly
  split
  · exact h
  · simp [hs]

@[simp] theorem execTlbw_canonical (e : Bool) (a : Pair) (b : SSrc) : Canonical (execTlbw e a b s) := by
  unfold execTlbw
  refine State.runtimeOnly_canonical hs _ ?_
  split <;> simp [hs]

@[simp] theorem execTlbr_canonical (e : Bool) (d : Pair) (a : Reg) : Canonical (execTlbr e d a s) := by
  unfold execTlbr
  dsimp only
  split <;> simp [hs]

@[simp] theorem State.tlbi_canonical (e : Bool) (cs : List Nat) (sel : Nat → Entry → Bool) :
    Canonical (s.tlbi e cs sel) := by simp [State.tlbi, hs]

@[simp] theorem execTlbi_canonical (e : Bool) (a : Reg) (mode : TlbiMode) : Canonical (execTlbi e a mode s) := by
  unfold execTlbi
  refine State.runtimeOnly_canonical hs _ ?_
  split
  · split <;> simp [hs]
  · simp [hs]
  · simp [hs]

@[simp] theorem execFrameq_canonical (e : Bool) (d a : Reg) : Canonical (execFrameq e d a s) := by
  unfold execFrameq
  dsimp only
  split
  · split
    · simp [hs]
    · split <;> simp [hs]
  · split <;> simp [hs]

@[simp] theorem execLossclr_canonical (e : Bool) (a : Reg) : Canonical (execLossclr e a s) := by simp [execLossclr, hs]

/-! ### Suspended troupes -/

@[simp] theorem execSuspend_canonical (e : Bool) (d a : Reg) : Canonical (execSuspend e d a s) := by
  unfold execSuspend
  refine State.runtimeOnly_canonical hs _ ?_
  split
  · simp [hs]
  · refine canonical_of_ite (fun _ => by simp [hs]) fun _ => ?_
    split <;> simp [hs]

@[simp] theorem execRevive_canonical (e : Bool) (d a : Reg) (b : SSrc) : Canonical (execRevive e d a b s) := by
  refine State.runtimeOnly_canonical hs _ ?_
  split
  · simp [hs]
  · refine canonical_of_ite (fun _ => by simp [hs]) fun _ => canonical_of_ite (fun _ => by simp [hs]) fun _ =>
      canonical_of_ite (fun _ => by simp [hs]) fun _ => ?_
    split <;> simp [hs]

@[simp] theorem execResume_canonical (e : Bool) (d a : Reg) (mode : ResumeMode) :
    Canonical (execResume e d a mode s) := by
  unfold execResume
  refine State.runtimeOnly_canonical hs _ ?_
  split
  · simp [hs]
  · refine canonical_of_ite (fun _ => by simp [hs]) fun _ => ?_
    split <;> simp [hs]

/-! ### Seizure -/

@[simp] theorem execProcessionOwnerChange_canonical (slot : Nat) : Canonical (execProcessionOwnerChange slot s) := by
  unfold execProcessionOwnerChange
  split
  · simp [hs]
  · refine canonical_of_ite (fun _ => by simp [hs]) fun _ => ?_
    split <;> simp [hs]

@[simp] theorem execNoticePost_canonical (w : Nat) : Canonical (execNoticePost w s) := by
  refine canonical_of_wf (State.foldl_wf hs _ fun s n hs => ?_)
  dsimp only
  split
  · split <;> simp [hs]
  · split
    · exact hs
    · split <;> simp [hs]

@[simp] theorem execNoticeExpiry_canonical (w id : Nat) : Canonical (execNoticeExpiry w id s) := by
  unfold execNoticeExpiry
  split
  · simp [hs]
  next n _ =>
    refine canonical_of_ite (fun _ => canonical_of_wf hs) fun _ => ?_
    dsimp only
    rw [canonical_next]
    refine wf_of_mem (State.ite_mem (State.closeNotice_mem _ _ _) rfl) (State.foldl_wf ?_ _ fun s t hs => ?_)
    · rw [State.setNotice_mem]
      split <;> split <;> simp [hs]
    · split <;> simp [hs]

@[simp] theorem State.yielded_canonical (e : Bool) (d : Reg) (cls n k : Nat) : Canonical (s.yielded e d cls n k) := by
  simp [State.yielded, hs]

@[simp] theorem execYieldres_canonical (e : Bool) (d a : Reg) (cls : Fin 11) :
    Canonical (execYieldres e d a cls s) := by
  unfold execYieldres
  refine State.runtimeOnly_canonical hs _ ?_
  split <;> simp [hs]

/-! ### The allocator -/

@[simp] theorem State.allocDone_canonical (status : Nat) : Canonical (s.allocDone status) := by
  simp [State.allocDone, hs]

@[simp] theorem State.allocWait_canonical : Canonical (s.allocWait) := by simp [State.allocWait, hs]

@[simp] theorem State.alloc_canonical (code w : Nat) (ops : List W64) {fresh again : State → Res}
    (hfresh : ∀ s, s.mem.wf = true → Canonical (fresh s)) (hagain : ∀ s, s.mem.wf = true → Canonical (again s)) :
    Canonical (s.alloc code w ops fresh again) := by
  unfold State.alloc
  dsimp only
  split
  · exact canonical_of_wf hs
  · split
    · exact hfresh _ hs
    · split
      · exact canonical_of_wf hs
      · split
        · exact hagain _ hs
        · exact hfresh _ hs

@[simp] theorem State.onWorld_canonical (w : Nat) (ok : Bool) {go : Res} (h : Canonical go) :
    Canonical (s.onWorld w ok go) := by
  unfold State.onWorld
  split
  · simp [hs]
  · split
    · simp [hs]
    · exact h

@[simp] theorem execCreate_canonical (w : Nat) (ops : List W64) : Canonical (execCreate w ops s) := by
  unfold execCreate
  refine State.alloc_canonical hs _ _ _ (fun s hs => ?_) fun s hs => by simp [hs]
  refine canonical_of_ite (fun _ => by simp [hs]) fun _ => canonical_of_ite (fun _ => by simp [hs]) fun _ => ?_
  split
  · simp [hs]
  · refine canonical_of_ite (fun _ => by simp [hs]) fun _ => ?_
    simp [hs]

@[simp] theorem execBind_canonical (w : Nat) (ops : List W64) : Canonical (execBind w ops s) := by
  unfold execBind
  refine State.alloc_canonical hs _ _ _ (fun s hs => State.onWorld_canonical hs _ _ ?_) fun s hs => ?_
  · split
    · simp [hs]
    · have bound := State.foldl_wf hs (bindItems ops) fun s x hs => State.bindOne_wf hs w (opw ops 1).toNat x
      exact canonical_of_ite (fun _ => by simp [hs]) fun _ =>
        canonical_of_ite (fun _ => by simp [bound]) fun _ => by simp [bound]
  · split <;> simp [hs]

@[simp] theorem execRevoke_canonical (w : Nat) (ops : List W64) : Canonical (execRevoke w ops s) := by
  unfold execRevoke
  refine State.alloc_canonical hs _ _ _ (fun s hs => ?_) fun s hs => ?_ <;> simp [hs]

@[simp] theorem State.limit_canonical (kind w : Nat) (ops : List W64) (ok : Bool) {f : State → Res}
    (h : ∀ s, s.mem.wf = true → Canonical (f s)) : Canonical (s.limit kind w ops ok f) :=
  State.alloc_canonical hs _ _ _ (fun _ hs => State.onWorld_canonical hs _ _ (h _ hs))
    fun _ hs => State.allocDone_canonical hs _

@[simp] theorem execLimitsTokenBudget_canonical (w : Nat) (ops : List W64) :
    Canonical (execLimitsTokenBudget w ops s) := by
  unfold execLimitsTokenBudget
  simp_all

@[simp] theorem execLimitsDways_canonical (w : Nat) (ops : List W64) : Canonical (execLimitsDways w ops s) := by
  unfold execLimitsDways
  refine State.limit_canonical hs _ _ _ _ fun s hs => State.allocDone_canonical ?_ _
  exact State.foldl_wf hs _ fun s i hs => State.dropPins_wf (by simp [hs]) _ _ _

@[simp] theorem execLimitsPinQuota_canonical (w : Nat) (ops : List W64) : Canonical (execLimitsPinQuota w ops s) := by
  unfold execLimitsPinQuota
  simp_all

@[simp] theorem execLimitsMissQuota_canonical (w : Nat) (ops : List W64) : Canonical (execLimitsMissQuota w ops s) := by
  unfold execLimitsMissQuota
  simp_all

@[simp] theorem execLimitsRequestQuota_canonical (w : Nat) (ops : List W64) :
    Canonical (execLimitsRequestQuota w ops s) := by
  unfold execLimitsRequestQuota
  simp_all

@[simp] theorem execLimitsWatchdog_canonical (w : Nat) (ops : List W64) : Canonical (execLimitsWatchdog w ops s) := by
  unfold execLimitsWatchdog
  simp_all

@[simp] theorem execLimitsTimingFence_canonical (w : Nat) (ops : List W64) :
    Canonical (execLimitsTimingFence w ops s) := by
  unfold execLimitsTimingFence
  refine State.alloc_canonical hs _ _ _ (fun s hs => ?_) fun s hs => ?_ <;> simp [hs]

@[simp] theorem execLimitsReservedCycles_canonical (w : Nat) (ops : List W64) :
    Canonical (execLimitsReservedCycles w ops s) := by
  unfold execLimitsReservedCycles
  simp_all

@[simp] theorem execRemote_canonical (w : Nat) (ops : List W64) : Canonical (execRemote w ops s) := by
  unfold execRemote
  refine State.alloc_canonical hs _ _ _ (fun s hs => ?_) fun s hs => ?_ <;> simp [hs]

@[simp] theorem execDestroy_canonical (w : Nat) : Canonical (execDestroy w s) := by
  unfold execDestroy
  refine State.alloc_canonical hs _ _ _ (fun s hs => ?_) fun s hs => ?_ <;> simp [hs]

/-! ### Switching -/

/-- The cores of a switch, one after another. (The induction is written out: the kernel does not see through
`State.foldl_wf` here without evaluating `State.switchIn`.) -/
theorem State.switchCores_wf (o w : Nat) (cores : List Nat) :
    (cores.foldl (fun s k => (s.switchOut o w k).switchIn w k) s).mem.wf = true := by
  induction cores generalizing s with
  | nil => exact hs
  | cons k cores ih =>
    rw [List.foldl_cons]
    refine ih ?_
    rw [State.switchIn_mem]
    exact State.switchOut_wf hs _ _ _

@[simp] theorem execSwitch_canonical (w : Nat) (ops : List W64) : Canonical (execSwitch w ops s) := by
  unfold execSwitch
  dsimp only
  refine State.alloc_canonical hs _ _ _ (fun s hs => State.onWorld_canonical hs _ _ ?_) fun s hs => ?_
  · refine canonical_of_ite (fun _ => by simp [hs]) fun _ => canonical_of_ite (fun _ => by simp [hs]) fun _ =>
      canonical_of_ite (fun _ => by simp [hs]) fun _ => canonical_of_ite (fun _ => by simp [hs]) fun _ =>
      canonical_of_ite (fun _ => canonical_of_wf hs) fun _ => State.allocWait_canonical ?_
    simp [hs]
  · refine canonical_of_ite (fun _ => by simp [hs]) fun _ => canonical_of_ite (fun _ => canonical_of_wf hs) fun _ => ?_
    exact State.allocDone_canonical (wf_of_mem (State.opportunity_mem _) (State.switchCores_wf hs _ _ _)) _

@[simp] theorem State.startRuntime_canonical (w : Nat) (bs : List Byte) (n : Nat) (restart : Bool) :
    Canonical (s.startRuntime w bs n restart) := by
  unfold State.startRuntime
  dsimp only
  split
  · simp [hs]
  · split
    · simp [hs]
    · have same := s.readyLaunch_mem (describe w (toWords 16 bs)) none
      split
      next u ready => simp_all
      next u table ready =>
        have hu : u.mem.wf = true := by simp_all
        split
        · simp [hu]
        · split
          · simp [hu]
          · refine State.allocDone_canonical ?_ _
            cases restart <;> simp [hu]

@[simp] theorem State.pfLaunch_canonical (w : Nat) (ops : List W64) (restart : Bool) :
    Canonical (s.pfLaunch w ops restart) := by
  unfold State.pfLaunch
  dsimp only
  split
  · simp [hs]
  · refine canonical_of_ite (fun _ => by simp [hs]) fun _ => ?_
    have read := wf_of_mem (s.fetch_mem 64 w ([((opw ops 1).toNat, 128)] ++
      if (opw ops 3).toNat = 0 then [] else [((opw ops 2).toNat, 24 * (opw ops 3).toNat)])) hs
    split
    next fetched =>
      rw [fetched] at read
      exact canonical_of_wf read
    next fetched =>
      rw [fetched] at read
      exact State.allocDone_canonical read _
    next fetched =>
      rw [fetched] at read
      exact State.startRuntime_canonical read _ _ _ _

@[simp] theorem execLaunch_canonical (w : Nat) (ops : List W64) : Canonical (execLaunch w ops s) := by
  unfold execLaunch
  refine State.alloc_canonical hs _ _ _ (fun s hs => ?_) fun s hs => ?_ <;> simp [hs]

@[simp] theorem execRestart_canonical (w : Nat) (ops : List W64) : Canonical (execRestart w ops s) := by
  unfold execRestart
  refine State.alloc_canonical hs _ _ _ (fun s hs => ?_) fun s hs => ?_ <;> simp [hs]

/-! ### Observers -/

@[simp] theorem execCntcfg_canonical (e : Bool) (a : Reg) (b : SSrc) : Canonical (execCntcfg e a b s) := by
  unfold execCntcfg
  refine canonical_of_ite (fun _ => by simp [hs]) fun _ => ?_
  split <;> simp [hs]

@[simp] theorem execCntrd_canonical (e : Bool) (d a : Reg) : Canonical (execCntrd e d a s) := by
  unfold execCntrd
  dsimp only
  split <;> simp [hs]

@[simp] theorem execCounterOverflow_canonical (w i : Nat) : Canonical (execCounterOverflow w i s) := by
  unfold execCounterOverflow
  refine canonical_of_ite (fun _ => by simp [hs]) fun _ => ?_
  dsimp only
  split <;> simp [hs]

@[simp] theorem execBrk_canonical (_e : Bool) : Canonical (execBrk _e s) := by simp [execBrk, hs]

@[simp] theorem State.debug_canonical (w : Nat) (r : DebugReq) : Canonical (s.debug w r) := by
  unfold State.debug
  dsimp only
  split
  · have same := s.request_mem w r
    split <;> simp_all
  · simp [hs]

/-! ### Queues, prologues and packets -/

theorem State.eachPacket_wf (q slot : Nat) {f : State → Packet → State} (h : ∀ s p, s.mem.wf = true →
    (f s p).mem.wf = true) :
    (s.eachPacket q slot f).mem.wf = true := by
  unfold State.eachPacket
  split
  · exact hs
  · exact State.foldl_wf hs _ h

@[simp] theorem execPacketCompletion_canonical (q slot : Nat) : Canonical (execPacketCompletion q slot s) :=
  canonical_of_wf (State.eachPacket_wf hs _ _ fun s p hs => by simp [hs])

@[simp] theorem execQbarrierEvaluation_canonical (q slot : Nat) : Canonical (execQbarrierEvaluation q slot s) := by
  refine canonical_of_wf (State.foldl_wf hs _ fun s p hs => ?_)
  split
  · exact hs
  · split <;> simp [hs]

@[simp] theorem execQbarrierRearm_canonical (q : Nat) (r : QRecord) : Canonical (execQbarrierRearm q r s) := by
  unfold execQbarrierRearm
  split <;> simp [hs]

@[simp] theorem execPcieCompletion_canonical (id : Nat) (r : Reply) : Canonical (execPcieCompletion id r s) := by
  unfold execPcieCompletion
  split
  · simp [hs]
  · refine canonical_of_ite (fun _ => ?_) fun _ => ?_
    · split <;> split <;> simp [hs]
    · split <;> split <;> split <;> simp [hs]

@[simp] theorem execPrologueRepeat_canonical (q slot : Nat) : Canonical (execPrologueRepeat q slot s) := by
  refine canonical_of_wf (wf_of_mem (State.eachPacket_mem _ _ _ fun s p => ?_) hs)
  split <;> simp

@[simp] theorem execPrologueOverrun_canonical (q slot : Nat) : Canonical (execPrologueOverrun q slot s) := by
  refine canonical_of_wf (State.eachPacket_wf hs _ _ fun s p hs => ?_)
  split
  · split <;> simp [hs]
  · exact hs

@[simp] theorem execQnop_canonical (q : Nat) : Canonical (execQnop q s) := by simp [execQnop, hs]
@[simp] theorem execQlaunch_canonical (q : Nat) : Canonical (execQlaunch q s) := by simp [execQlaunch, hs]
@[simp] theorem execQprolog_canonical (q : Nat) : Canonical (execQprolog q s) := by simp [execQprolog, hs]
@[simp] theorem execQpred_canonical (q : Nat) : Canonical (execQpred q s) := by simp [execQpred, hs]
@[simp] theorem execQbarrier_canonical (q : Nat) : Canonical (execQbarrier q s) := by simp [execQbarrier, hs]
@[simp] theorem execQsignal_canonical (q : Nat) : Canonical (execQsignal q s) := by simp [execQsignal, hs]
@[simp] theorem execQcopy_canonical (q : Nat) : Canonical (execQcopy q s) := by simp [execQcopy, hs]
@[simp] theorem execQpost_canonical (q : Nat) : Canonical (execQpost q s) := by simp [execQpost, hs]
@[simp] theorem execQmark_canonical (q : Nat) : Canonical (execQmark q s) := by simp [execQmark, hs]
@[simp] theorem execQdebug_canonical (q : Nat) : Canonical (execQdebug q s) := by simp [execQdebug, hs]

/-! ### Registers, the link and the peers -/

theorem State.onTlp_wf (x : Tlp) {go : State → State} (h : ∀ s, s.mem.wf = true → (go s).mem.wf = true) :
    (s.onTlp x go).mem.wf = true := by
  unfold State.onTlp
  split
  · exact hs
  · split
    · exact h s hs
    · simp [hs]

@[simp] theorem execQWptrDoorbell_canonical (tlp : Tlp) (q : Nat) (value : W64) :
    Canonical (execQWptrDoorbell tlp q value s) := by simp [execQWptrDoorbell, hs]

@[simp] theorem execQueueStop_canonical (tlp : Tlp) (q : Nat) : Canonical (execQueueStop tlp q s) := by
  simp [execQueueStop, hs]

@[simp] theorem execQueueRun_canonical (tlp : Tlp) (q : Nat) (value : W64) :
    Canonical (execQueueRun tlp q value s) := by
  simp [execQueueRun, hs]

@[simp] theorem execFeEntryWrite_canonical (tlp : Tlp) (entry : FeSlot) (lo : W64) :
    Canonical (execFeEntryWrite tlp entry lo s) := by
  unfold execFeEntryWrite
  split <;> simp [hs]

@[simp] theorem State.submit_canonical (value : W64) : Canonical (s.submit value) := by
  unfold State.submit
  refine canonical_of_ite (fun _ => by simp [hs]) fun _ => ?_
  dsimp only
  split <;> simp [hs]

@[simp] theorem execAllocDoorbell_canonical (fn : Nat) (value : W64) : Canonical (execAllocDoorbell fn value s) := by
  simp [execAllocDoorbell, hs]

@[simp] theorem State.writeReg_canonical (f off : Nat) (v : W64) : Canonical (s.writeReg f off v) := by
  simp [State.writeReg, hs]

@[simp] theorem execRegisterWrite_canonical (tlp : Tlp) (off : Nat) (value : W64) :
    Canonical (execRegisterWrite tlp off value s) := by simp [execRegisterWrite, hs]

@[simp] theorem execLiveMigrationQuiesce_canonical (w : Nat) : Canonical (execLiveMigrationQuiesce w s) := by
  refine canonical_of_ite (fun _ => canonical_of_wf hs) fun _ => ?_
  refine (fun asked => canonical_of_ite (fun _ => canonical_of_wf asked) fun _ => ?left) ?asked
  case asked =>
    refine State.wf_of_ite (State.foldl_wf ?marked _ fun s t hs => by simp [hs]) ?marked
    rw [State.modWorld_mem, State.foldl_mem fun _ _ => State.modQueue_mem _ _ _]
    exact hs
  case left =>
    rw [canonical_next, State.markMoving_mem, State.modWorld_mem, State.foldl_mem fun _ _ => State.modQueue_mem _ _ _]
    exact State.foldl_wf asked _ fun s k hs => State.switchOut_wf hs _ _ _

@[simp] theorem execHostBar2Access_canonical (tlp : Tlp) (off n : Nat) (data : Option (List Byte)) :
    Canonical (execHostBar2Access tlp off n data s) :=
  canonical_of_wf (State.onTlp_wf hs _ fun s hs => by simp [hs])

@[simp] theorem execHostMemoryWrite_canonical (pa n : Nat) (data : Option (List Byte)) :
    Canonical (execHostMemoryWrite pa n data s) := by
  unfold execHostMemoryWrite
  refine canonical_of_ite (fun _ => by simp [hs]) fun _ => ?_
  refine canonical_of_ite (fun _ => by simp [hs]) fun _ => ?_
  split <;> simp [hs]

@[simp] theorem execRemoteAccess_canonical (peer rworld tag : Nat) (kind : RemoteKind) :
    Canonical (execRemoteAccess peer rworld tag kind s) := by
  unfold execRemoteAccess
  split <;> simp [hs]

@[simp] theorem execFlitReceive_canonical (lane : Nat) (flit : List Byte) :
    Canonical (execFlitReceive lane flit s) := by
  simp [execFlitReceive, hs]

@[simp] theorem execFlitResend_canonical (lane : Nat) : Canonical (execFlitResend lane s) := by
  simp [execFlitResend, hs]

@[simp] theorem execTimeSyncInterval_canonical (good : Bool) (ppm : Int) :
    Canonical (execTimeSyncInterval good ppm s) := by
  unfold execTimeSyncInterval
  dsimp only
  split
  · simp [hs]
  · split
    · rw [canonical_next]; split <;> simp [hs]
    · rw [canonical_next]; split <;> simp [hs]

@[simp] theorem execTimeSourceLoss_canonical : Canonical (execTimeSourceLoss s) := by simp [execTimeSourceLoss, hs]

@[simp] theorem execHeatSample_canonical (cluster : Nat) (celsius : Int) :
    Canonical (execHeatSample cluster celsius s) := by
  unfold execHeatSample
  refine canonical_of_ite (fun _ => by simp [hs]) fun _ => ?_
  dsimp only
  split <;> simp [hs]

@[simp] theorem execPowerCheck_canonical (watts : Nat) (draws : List Nat) :
    Canonical (execPowerCheck watts draws s) := by
  unfold execPowerCheck
  dsimp only
  split <;> simp [hs]

@[simp] theorem execJunctionTrip_canonical (celsius : Int) : Canonical (execJunctionTrip celsius s) := by
  unfold execJunctionTrip
  split <;> simp [hs]

/-! ### Trust and errors -/

@[simp] theorem execHotReset_canonical : Canonical (execHotReset s) := canonical_of_wf rfl
@[simp] theorem execLinkDown_canonical : Canonical (execLinkDown s) := by simp [execLinkDown, hs]

@[simp] theorem execNegotiateAlgorithms_canonical (fn : Nat) (mldsa sha3 mlkem aes : Bool) :
    Canonical (execNegotiateAlgorithms fn mldsa sha3 mlkem aes s) := by simp [execNegotiateAlgorithms, hs]

@[simp] theorem execGetCertificate_canonical (who : Responder) (slot : Nat) :
    Canonical (execGetCertificate who slot s) := by simp [execGetCertificate, hs]

@[simp] theorem execChallenge_canonical (who : Responder) (nonce : List Byte) :
    Canonical (execChallenge who nonce s) := by
  simp [execChallenge, hs]

@[simp] theorem execGetMeasurements_canonical (who : Responder) (index : Nat) (nonce : List Byte) :
    Canonical (execGetMeasurements who index nonce s) := by simp [execGetMeasurements, hs]

@[simp] theorem execKeyExchange_canonical (fn : Nat) (encapKey : List Byte) :
    Canonical (execKeyExchange fn encapKey s) := by
  refine canonical_of_wf (wf_of_mem (State.responder_mem _ _ fun s => ?_) hs)
  split <;> simp

@[simp] theorem execFinish_canonical (fn : Nat) (mac : List Byte) : Canonical (execFinish fn mac s) := by
  refine canonical_of_wf (wf_of_mem (State.responder_mem _ _ fun s => ?_) hs)
  split
  · rfl
  · split
    · rfl
    · split <;> simp

@[simp] theorem execIdeKm_canonical (who : Responder) (keys : List Byte) : Canonical (execIdeKm who keys s) := by
  unfold execIdeKm
  split <;> simp [hs]

@[simp] theorem execLockInterface_canonical (fn : Nat) : Canonical (execLockInterface fn s) := by
  simp [execLockInterface, hs]

@[simp] theorem execStartInterface_canonical (fn : Nat) : Canonical (execStartInterface fn s) := by
  simp [execStartInterface, hs]

@[simp] theorem execUncorrectableError_canonical (site : ErrorSite) : Canonical (execUncorrectableError site s) := by
  unfold execUncorrectableError
  split
  · simp [hs]
  · simp [hs]
  · split <;> simp [hs]
  · simp [hs]
  · simp [hs]
  · simp [hs]
  · simp [hs]
  · simp [hs]
  · simp [hs]
  · simp [hs]
  · simp [hs]

@[simp] theorem execMemoryLinePoison_canonical (line : Nat) : Canonical (execMemoryLinePoison line s) := by
  unfold execMemoryLinePoison
  split <;> simp [hs]

@[simp] theorem execIntegrityNodeError_canonical (level j : Nat) : Canonical (execIntegrityNodeError level j s) := by
  unfold execIntegrityNodeError
  dsimp only
  split
  · simp [hs]
  · refine canonical_of_wf (State.foldl_wf (by simp [hs]) _ fun s w hs => ?_)
    split <;> simp [hs]

/-! ### Vector instructions -/

@[simp] theorem State.lanes0_canonical (m : Mask) (d : Nat) (f : LaneFn) (len : Nat) (e : Bool) :
    Canonical (s.lanes0 m d f len e) := by simp [State.lanes0, hs]

@[simp] theorem State.preds0_canonical (m : Mask) (pd : Nat) (f : Nat → Bool × Exc) (len : Nat) (e : Bool) :
    Canonical (s.preds0 m pd f len e) := by simp [State.preds0, hs]

@[simp] theorem State.float2_canonical (h : Hdr) (g : Guard) (d a : Reg) (b : VSrc) (f : Rm → Fp → Fp → Nat × Exc) :
    Canonical (s.float2 h g d a b f) := by simp [State.float2, hs]

@[simp] theorem State.float1_canonical (h : Hdr) (g : Guard) (d a : Reg) (f : Rm → Fp → Nat × Exc) :
    Canonical (s.float1 h g d a f) := by simp [State.float1, hs]

@[simp] theorem State.int2_canonical (h : Hdr) (g : Guard) (d a : Reg) (b : VSrc) (f : W32 → W32 → W32) :
    Canonical (s.int2 h g d a b f) := by simp [State.int2, hs]

@[simp] theorem State.int1_canonical (h : Hdr) (g : Guard) (d a : Reg) (f : W32 → W32) :
    Canonical (s.int1 h g d a f) := by
  simp [State.int1, hs]

@[simp] theorem State.icmp_canonical (h : Hdr) (g : Guard) (pd : Pred) (a : Reg) (b : VSrc) (f : W32 → W32 → Bool) :
    Canonical (s.icmp h g pd a b f) := by simp [State.icmp, hs]

@[simp] theorem State.fcmp_canonical (h : Hdr) (g : Guard) (pd : Pred) (a : Reg) (b : VSrc) (quiet : Bool)
    (f : Rel → Bool) :
    Canonical (s.fcmp h g pd a b quiet f) := by simp [State.fcmp, hs]

@[simp] theorem State.packed_canonical (h : Hdr) (g : Guard) (d a : Reg) (b : VSrc)
    (f : Rm → Fp → Fp → Fp → Nat × Exc) :
    Canonical (s.packed h g d a b f) := by simp [State.packed, hs]

@[simp] theorem execFadd_canonical (h : Hdr) (g : Guard) (d a : Reg) (b : VSrc) : Canonical (execFadd h g d a b s) := by
  simp [execFadd, hs]

@[simp] theorem execFsub_canonical (h : Hdr) (g : Guard) (d a : Reg) (b : VSrc) : Canonical (execFsub h g d a b s) := by
  simp [execFsub, hs]

@[simp] theorem execFmul_canonical (h : Hdr) (g : Guard) (d a : Reg) (b : VSrc) : Canonical (execFmul h g d a b s) := by
  simp [execFmul, hs]

@[simp] theorem execFneg_canonical (h : Hdr) (g : Guard) (d a : Reg) : Canonical (execFneg h g d a s) := by
  simp [execFneg, hs]

@[simp] theorem execFabs_canonical (h : Hdr) (g : Guard) (d a : Reg) : Canonical (execFabs h g d a s) := by
  simp [execFabs, hs]

@[simp] theorem execFcmpEq_canonical (h : Hdr) (g : Guard) (pd : Pred) (a : Reg) (b : VSrc) :
    Canonical (execFcmpEq h g pd a b s) := by simp [execFcmpEq, hs]

@[simp] theorem execFcmpNe_canonical (h : Hdr) (g : Guard) (pd : Pred) (a : Reg) (b : VSrc) :
    Canonical (execFcmpNe h g pd a b s) := by simp [execFcmpNe, hs]

@[simp] theorem execFcmpLt_canonical (h : Hdr) (g : Guard) (pd : Pred) (a : Reg) (b : VSrc) :
    Canonical (execFcmpLt h g pd a b s) := by simp [execFcmpLt, hs]

@[simp] theorem execFcmpLe_canonical (h : Hdr) (g : Guard) (pd : Pred) (a : Reg) (b : VSrc) :
    Canonical (execFcmpLe h g pd a b s) := by simp [execFcmpLe, hs]

@[simp] theorem execFcmpUn_canonical (h : Hdr) (g : Guard) (pd : Pred) (a : Reg) (b : VSrc) :
    Canonical (execFcmpUn h g pd a b s) := by simp [execFcmpUn, hs]

@[simp] theorem execBadd_canonical (h : Hdr) (g : Guard) (d a : Reg) (b : VSrc) : Canonical (execBadd h g d a b s) := by
  simp [execBadd, hs]

@[simp] theorem execBmul_canonical (h : Hdr) (g : Guard) (d a : Reg) (b : VSrc) : Canonical (execBmul h g d a b s) := by
  simp [execBmul, hs]

@[simp] theorem execBfma_canonical (h : Hdr) (g : Guard) (d a : Reg) (b : VSrc) : Canonical (execBfma h g d a b s) := by
  simp [execBfma, hs]

@[simp] theorem execIadd_canonical (h : Hdr) (g : Guard) (d a : Reg) (b : VSrc) : Canonical (execIadd h g d a b s) := by
  simp [execIadd, hs]

@[simp] theorem execIsub_canonical (h : Hdr) (g : Guard) (d a : Reg) (b : VSrc) : Canonical (execIsub h g d a b s) := by
  simp [execIsub, hs]

@[simp] theorem execImul_canonical (h : Hdr) (g : Guard) (d a : Reg) (b : VSrc) : Canonical (execImul h g d a b s) := by
  simp [execImul, hs]

@[simp] theorem execImulhiS_canonical (h : Hdr) (g : Guard) (d a : Reg) (b : VSrc) :
    Canonical (execImulhiS h g d a b s) := by simp [execImulhiS, hs]

@[simp] theorem execImulhiZ_canonical (h : Hdr) (g : Guard) (d a : Reg) (b : VSrc) :
    Canonical (execImulhiZ h g d a b s) := by simp [execImulhiZ, hs]

@[simp] theorem execIminS_canonical (h : Hdr) (g : Guard) (d a : Reg) (b : VSrc) :
    Canonical (execIminS h g d a b s) := by
  simp [execIminS, hs]

@[simp] theorem execImaxS_canonical (h : Hdr) (g : Guard) (d a : Reg) (b : VSrc) :
    Canonical (execImaxS h g d a b s) := by
  simp [execImaxS, hs]

@[simp] theorem execIminZ_canonical (h : Hdr) (g : Guard) (d a : Reg) (b : VSrc) :
    Canonical (execIminZ h g d a b s) := by
  simp [execIminZ, hs]

@[simp] theorem execImaxZ_canonical (h : Hdr) (g : Guard) (d a : Reg) (b : VSrc) :
    Canonical (execImaxZ h g d a b s) := by
  simp [execImaxZ, hs]

@[simp] theorem execIand_canonical (h : Hdr) (g : Guard) (d a : Reg) (b : VSrc) : Canonical (execIand h g d a b s) := by
  simp [execIand, hs]

@[simp] theorem execIor_canonical (h : Hdr) (g : Guard) (d a : Reg) (b : VSrc) : Canonical (execIor h g d a b s) := by
  simp [execIor, hs]

@[simp] theorem execIxor_canonical (h : Hdr) (g : Guard) (d a : Reg) (b : VSrc) : Canonical (execIxor h g d a b s) := by
  simp [execIxor, hs]

@[simp] theorem execInot_canonical (h : Hdr) (g : Guard) (d a : Reg) : Canonical (execInot h g d a s) := by
  simp [execInot, hs]

@[simp] theorem execIshl_canonical (h : Hdr) (g : Guard) (d a : Reg) (b : VSrc) : Canonical (execIshl h g d a b s) := by
  simp [execIshl, hs]

@[simp] theorem execIshrZ_canonical (h : Hdr) (g : Guard) (d a : Reg) (b : VSrc) :
    Canonical (execIshrZ h g d a b s) := by
  simp [execIshrZ, hs]

@[simp] theorem execIshrS_canonical (h : Hdr) (g : Guard) (d a : Reg) (b : VSrc) :
    Canonical (execIshrS h g d a b s) := by
  simp [execIshrS, hs]

@[simp] theorem execIpopc_canonical (h : Hdr) (g : Guard) (d a : Reg) : Canonical (execIpopc h g d a s) := by
  simp [execIpopc, hs]

@[simp] theorem execIclz_canonical (h : Hdr) (g : Guard) (d a : Reg) : Canonical (execIclz h g d a s) := by
  simp [execIclz, hs]

@[simp] theorem execIaddsatS_canonical (h : Hdr) (g : Guard) (d a : Reg) (b : VSrc) :
    Canonical (execIaddsatS h g d a b s) := by simp [execIaddsatS, hs]

@[simp] theorem State.shuffle_canonical (h : Hdr) (g : Guard) (d a : Reg) (b : VSrc) (f : Nat → Nat → Nat) :
    Canonical (s.shuffle h g d a b f) := by simp [State.shuffle, hs]

@[simp] theorem execShflIdx_canonical (h : Hdr) (g : Guard) (d a : Reg) (b : VSrc) :
    Canonical (execShflIdx h g d a b s) := by simp [execShflIdx, hs]

@[simp] theorem execShflXor_canonical (h : Hdr) (g : Guard) (d a : Reg) (b : VSrc) :
    Canonical (execShflXor h g d a b s) := by simp [execShflXor, hs]

@[simp] theorem execShflUp_canonical (h : Hdr) (g : Guard) (d a : Reg) (b : VSrc) :
    Canonical (execShflUp h g d a b s) := by simp [execShflUp, hs]

@[simp] theorem execShflDn_canonical (h : Hdr) (g : Guard) (d a : Reg) (b : VSrc) :
    Canonical (execShflDn h g d a b s) := by simp [execShflDn, hs]

@[simp] theorem State.reduce_canonical (h : Hdr) (g : Guard) (d a : Reg) (op : W32 → W32 → W32 × Exc) :
    Canonical (s.reduce h g d a op) := by
  unfold State.reduce
  dsimp only
  split <;> simp [hs]

@[simp] theorem execRedfAdd_canonical (h : Hdr) (g : Guard) (d a : Reg) : Canonical (execRedfAdd h g d a s) := by
  simp [execRedfAdd, hs]

@[simp] theorem execRedfMax_canonical (h : Hdr) (g : Guard) (d a : Reg) : Canonical (execRedfMax h g d a s) := by
  simp [execRedfMax, hs]

@[simp] theorem execRediAdd_canonical (h : Hdr) (g : Guard) (d a : Reg) : Canonical (execRediAdd h g d a s) := by
  simp [execRediAdd, hs]

@[simp] theorem State.predOp_canonical (h : Hdr) (g : Guard) (pd : Pred) (x : Mask) :
    Canonical (s.predOp h g pd x) := by
  simp [State.predOp, hs]

@[simp] theorem execBallot_canonical (h : Hdr) (g : Guard) (d : Pair) (pa : Pred) :
    Canonical (execBallot h g d pa s) := by
  simp [execBallot, hs]

/-! ### Every instruction and event -/

/-- Instructions and events keep memory canonical: each by the operation it is made of, or by its own lemma above. -/
theorem exec_canonical (i : Instr) : Canonical (exec i s) := by
  cases i with
  | ffma | fmin | fmax | cvt | imad | sel | mov | vbcast | vlane => exact State.lanes0_canonical hs ..
  | frcp | frsq | fex2 | flg2 | ftanh => exact State.float1_canonical hs ..
  | icmpEq | icmpNe | icmpLtS | icmpLeS | icmpLtZ | icmpLeZ => exact State.icmp_canonical hs ..
  | pand | por | pxor | pnot => exact State.predOp_canonical hs ..
  | sadd | ssub | smul | sand | sor | sxor | sshl | sshrZ | sshrS | smov | smov64 | sbfi | sbfx | excnt | clock
  | cycles => exact State.scalar_canonical hs ..
  | scmpEq | scmpNe | scmpLtS | scmpLtZ | scmpLeS | scmpLeZ => exact State.compare_canonical hs ..
  | swrs | exsave | exload | exand | exandn | exif | exelse | timerset | timerclr | mfence | lossrd | faultrd
  | fstat => exact State.done_canonical hs ..
  | br | bexz | bexnz | bf | bnf | bri => exact State.branch_canonical hs ..
  | ldg8z | ldg8s | ldg16z | ldg16s | ldg32 | ldg64 | ldg128 => exact State.loadVector_canonical hs ..
  | stg8 | stg16 | stg32 | stg64 | stg128 => exact State.storeVector_canonical hs ..
  | lds32 | lds64 | lds128 => exact State.spadLoad_canonical hs ..
  | sts32 | sts64 | sts128 => exact State.spadStore_canonical hs ..
  | xst32 | xst128 => exact State.exchange_canonical hs ..
  | amog | amos | redg => exact State.atomic_canonical hs ..
  | halt | cont | step | read | write | barrd | setbp | setwp | list => exact State.debug_canonical hs ..
  | fadd h g d a b => exact execFadd_canonical hs h g d a b
  | fsub h g d a b => exact execFsub_canonical hs h g d a b
  | fmul h g d a b => exact execFmul_canonical hs h g d a b
  | fneg h g d a => exact execFneg_canonical hs h g d a
  | fabs h g d a => exact execFabs_canonical hs h g d a
  | fcmpEq h g pd a b => exact execFcmpEq_canonical hs h g pd a b
  | fcmpNe h g pd a b => exact execFcmpNe_canonical hs h g pd a b
  | fcmpLt h g pd a b => exact execFcmpLt_canonical hs h g pd a b
  | fcmpLe h g pd a b => exact execFcmpLe_canonical hs h g pd a b
  | fcmpUn h g pd a b => exact execFcmpUn_canonical hs h g pd a b
  | badd h g d a b => exact execBadd_canonical hs h g d a b
  | bmul h g d a b => exact execBmul_canonical hs h g d a b
  | bfma h g d a b => exact execBfma_canonical hs h g d a b
  | iadd h g d a b => exact execIadd_canonical hs h g d a b
  | isub h g d a b => exact execIsub_canonical hs h g d a b
  | imul h g d a b => exact execImul_canonical hs h g d a b
  | imulhiS h g d a b => exact execImulhiS_canonical hs h g d a b
  | imulhiZ h g d a b => exact execImulhiZ_canonical hs h g d a b
  | iminS h g d a b => exact execIminS_canonical hs h g d a b
  | imaxS h g d a b => exact execImaxS_canonical hs h g d a b
  | iminZ h g d a b => exact execIminZ_canonical hs h g d a b
  | imaxZ h g d a b => exact execImaxZ_canonical hs h g d a b
  | iand h g d a b => exact execIand_canonical hs h g d a b
  | ior h g d a b => exact execIor_canonical hs h g d a b
  | ixor h g d a b => exact execIxor_canonical hs h g d a b
  | inot h g d a => exact execInot_canonical hs h g d a
  | ishl h g d a b => exact execIshl_canonical hs h g d a b
  | ishrZ h g d a b => exact execIshrZ_canonical hs h g d a b
  | ishrS h g d a b => exact execIshrS_canonical hs h g d a b
  | ipopc h g d a => exact execIpopc_canonical hs h g d a
  | iclz h g d a => exact execIclz_canonical hs h g d a
  | iaddsatS h g d a b => exact execIaddsatS_canonical hs h g d a b
  | shflIdx h g d a b => exact execShflIdx_canonical hs h g d a b
  | shflXor h g d a b => exact execShflXor_canonical hs h g d a b
  | shflUp h g d a b => exact execShflUp_canonical hs h g d a b
  | shflDn h g d a b => exact execShflDn_canonical hs h g d a b
  | redfAdd h g d a => exact execRedfAdd_canonical hs h g d a
  | rediAdd h g d a => exact execRediAdd_canonical hs h g d a
  | redfMax h g d a => exact execRedfMax_canonical hs h g d a
  | ballot h g d pa => exact execBallot_canonical hs h g d pa
  | srds h d n => exact execSrds_canonical hs h d n
  | call e d off => exact execCall_canonical hs e d off
  | loop e a off => exact execLoop_canonical hs e a off
  | nop h => exact execNop_canonical hs h
  | ensJoin e d a => exact execEnsJoin_canonical hs e d a
  | ensLeave e d a => exact execEnsLeave_canonical hs e d a
  | ensNew e d => exact execEnsNew_canonical hs e d
  | ensFree e d a => exact execEnsFree_canonical hs e d a
  | tret e => exact execTret_canonical hs e
  | yield e => exact execYield_canonical hs e
  | exit e => exact execExit_canonical hs e
  | lexit e => exact execLexit_canonical hs e
  | sld e d m la => exact execSld_canonical hs e d m la
  | sst e d m la => exact execSst_canonical hs e d m la
  | slds e d m la => exact execSlds_canonical hs e d m la
  | ssts e d m la => exact execSsts_canonical hs e d m la
  | pboard e d slot la => exact execPboard_canonical hs e d slot la
  | palight e d slot la => exact execPalight_canonical hs e d slot la
  | pread e d slot la => exact execPread_canonical hs e d slot la
  | pwrite e d slot la => exact execPwrite_canonical hs e d slot la
  | prmw e d slot opnd la op wsel => exact execPrmw_canonical hs e d slot opnd la op wsel
  | barInit e a b => exact execBarInit_canonical hs e a b
  | barArrive e d a b => exact execBarArrive_canonical hs e d a b
  | barExpect e a b => exact execBarExpect_canonical hs e a b
  | barWait e a b => exact execBarWait_canonical hs e a b
  | barTest e d a b => exact execBarTest_canonical hs e d a b
  | ebarArrive e d a b => exact execEbarArrive_canonical hs e d a b
  | cpy e x => exact execCpy_canonical hs e x
  | cpyg e x => exact execCpyg_canonical hs e x
  | pref e l1 m la => exact execPref_canonical hs e l1 m la
  | pin e d m la => exact execPin_canonical hs e d m la
  | unpin e m la => exact execUnpin_canonical hs e m la
  | fence e scope => exact execFence_canonical hs e scope
  | mbxPost e d a b => exact execMbxPost_canonical hs e d a b
  | mbxTake e d a b => exact execMbxTake_canonical hs e d a b
  | mwait e a => exact execMwait_canonical hs e a
  | oclaim e d => exact execOclaim_canonical hs e d
  | orelease e d a => exact execOrelease_canonical hs e d a
  | owrite e g slot x => exact execOwrite_canonical hs e g slot x
  | oread e g slot x => exact execOread_canonical hs e g slot x
  | aclaim e d => exact execAclaim_canonical hs e d
  | arelease e d a => exact execArelease_canonical hs e d a
  | mma e g x => exact execMma_canonical hs e g x
  | aswap e a => exact execAswap_canonical hs e a
  | ard e g d a grp => exact execArd_canonical hs e g d a grp
  | awr e g acc v grp => exact execAwr_canonical hs e g acc v grp
  | azero e a => exact execAzero_canonical hs e a
  | asts e a b => exact execAsts_canonical hs e a b
  | tlbw e a b => exact execTlbw_canonical hs e a b
  | tlbr e d a => exact execTlbr_canonical hs e d a
  | tlbi e a mode => exact execTlbi_canonical hs e a mode
  | frameq e d a => exact execFrameq_canonical hs e d a
  | yieldres e d a cls => exact execYieldres_canonical hs e d a cls
  | lossclr e a => exact execLossclr_canonical hs e a
  | resume e d a mode => exact execResume_canonical hs e d a mode
  | suspend e d a => exact execSuspend_canonical hs e d a
  | revive e d a b => exact execRevive_canonical hs e d a b
  | wraparm e a b => exact execWraparm_canonical hs e a b
  | wrapdone e b => exact execWrapdone_canonical hs e b
  | valid e a b => exact execValid_canonical hs e a b
  | trap e b => exact execTrap_canonical hs e b
  | brk e => exact execBrk_canonical hs e
  | cntcfg e a b => exact execCntcfg_canonical hs e a b
  | cntrd e d a => exact execCntrd_canonical hs e d a
  | runArbitration core islot => exact execRunArbitration_canonical hs core islot
  | tokenRefill => exact execTokenRefill_canonical hs
  | slackRecompute => exact execSlackRecompute_canonical hs
  | placementOpportunity => exact execPlacementOpportunity_canonical hs
  | launchAcceptance n => exact execLaunchAcceptance_canonical hs n
  | troupeRetirement core tslot => exact execTroupeRetirement_canonical hs core tslot
  | nodeEventPost launch n => exact execNodeEventPost_canonical hs launch n
  | launchDivert launch => exact execLaunchDivert_canonical hs launch
  | deadlineStop launch => exact execDeadlineStop_canonical hs launch
  | actDivert core tslot => exact execActDivert_canonical hs core tslot
  | timerTrap core tslot => exact execTimerTrap_canonical hs core tslot
  | watchdog => exact execWatchdog_canonical hs
  | missRetry core tslot => exact execMissRetry_canonical hs core tslot
  | serviceRequest cluster n => exact execServiceRequest_canonical hs cluster n
  | atomicReturn core tslot => exact execAtomicReturn_canonical hs core tslot
  | processionPassage core half => exact execProcessionPassage_canonical hs core half
  | pboardExhausted core n => exact execPboardExhausted_canonical hs core n
  | processionOwnerChange slot => exact execProcessionOwnerChange_canonical hs slot
  | copyChunk id chunk => exact execCopyChunk_canonical hs id chunk
  | copyCompletion id => exact execCopyCompletion_canonical hs id
  | ensemblePhaseComplete ens => exact execEnsemblePhaseComplete_canonical hs ens
  | mmaExecute core => exact execMmaExecute_canonical hs core
  | mmaComplete core => exact execMmaComplete_canonical hs core
  | aswapExecute core => exact execAswapExecute_canonical hs core
  | visibleBankComplete core acc => exact execVisibleBankComplete_canonical hs core acc
  | noticePost w => exact execNoticePost_canonical hs w
  | noticeExpiry w id => exact execNoticeExpiry_canonical hs w id
  | copyDrainTimeout id => exact execCopyDrainTimeout_canonical hs id
  | counterOverflow w n => exact execCounterOverflow_canonical hs w n
  | sliceAccessPerformed core tslot => exact execSliceAccessPerformed_canonical hs core tslot
  | exchangeWriteLands n => exact execExchangeWriteLands_canonical hs n
  | prologueRepeat q slot => exact execPrologueRepeat_canonical hs q slot
  | prologueOverrun q slot => exact execPrologueOverrun_canonical hs q slot
  | qbarrierEvaluation q slot => exact execQbarrierEvaluation_canonical hs q slot
  | packetCompletion q slot => exact execPacketCompletion_canonical hs q slot
  | qbarrierRearm q r => exact execQbarrierRearm_canonical hs q r
  | create w ops => exact execCreate_canonical hs w ops
  | destroy w => exact execDestroy_canonical hs w
  | bind w ops => exact execBind_canonical hs w ops
  | revoke w ops => exact execRevoke_canonical hs w ops
  | limitsTokenBudget w ops => exact execLimitsTokenBudget_canonical hs w ops
  | limitsDways w ops => exact execLimitsDways_canonical hs w ops
  | limitsPinQuota w ops => exact execLimitsPinQuota_canonical hs w ops
  | limitsMissQuota w ops => exact execLimitsMissQuota_canonical hs w ops
  | limitsRequestQuota w ops => exact execLimitsRequestQuota_canonical hs w ops
  | limitsWatchdog w ops => exact execLimitsWatchdog_canonical hs w ops
  | limitsTimingFence w ops => exact execLimitsTimingFence_canonical hs w ops
  | limitsReservedCycles w ops => exact execLimitsReservedCycles_canonical hs w ops
  | switch w ops => exact execSwitch_canonical hs w ops
  | remote w ops => exact execRemote_canonical hs w ops
  | restart w ops => exact execRestart_canonical hs w ops
  | launch w ops => exact execLaunch_canonical hs w ops
  | qWptrDoorbell tlp q value => exact execQWptrDoorbell_canonical hs tlp q value
  | queueStop tlp q => exact execQueueStop_canonical hs tlp q
  | queueRun tlp q value => exact execQueueRun_canonical hs tlp q value
  | feEntryWrite tlp entry lo => exact execFeEntryWrite_canonical hs tlp entry lo
  | allocDoorbell fn value => exact execAllocDoorbell_canonical hs fn value
  | registerWrite tlp off value => exact execRegisterWrite_canonical hs tlp off value
  | qnop q => exact execQnop_canonical hs q
  | qlaunch q => exact execQlaunch_canonical hs q
  | qprolog q => exact execQprolog_canonical hs q
  | qpred q => exact execQpred_canonical hs q
  | qbarrier q => exact execQbarrier_canonical hs q
  | qsignal q => exact execQsignal_canonical hs q
  | qcopy q => exact execQcopy_canonical hs q
  | qpost q => exact execQpost_canonical hs q
  | qmark q => exact execQmark_canonical hs q
  | qdebug q => exact execQdebug_canonical hs q
  | hostBar2Access tlp off n data => exact execHostBar2Access_canonical hs tlp off n data
  | hostMemoryWrite pa n data => exact execHostMemoryWrite_canonical hs pa n data
  | remoteAccess peer rworld tag kind => exact execRemoteAccess_canonical hs peer rworld tag kind
  | flitReceive lane flit => exact execFlitReceive_canonical hs lane flit
  | flitResend lane => exact execFlitResend_canonical hs lane
  | timeSyncInterval good ppm => exact execTimeSyncInterval_canonical hs good ppm
  | timeSourceLoss => exact execTimeSourceLoss_canonical hs
  | heatSample cluster celsius => exact execHeatSample_canonical hs cluster celsius
  | powerCheck watts draws => exact execPowerCheck_canonical hs watts draws
  | junctionTrip celsius => exact execJunctionTrip_canonical hs celsius
  | hotReset => exact execHotReset_canonical hs
  | linkDown => exact execLinkDown_canonical hs
  | getMeasurements who index nonce => exact execGetMeasurements_canonical hs who index nonce
  | challenge who nonce => exact execChallenge_canonical hs who nonce
  | keyExchange fn encapKey => exact execKeyExchange_canonical hs fn encapKey
  | finish fn mac => exact execFinish_canonical hs fn mac
  | ideKm who keys => exact execIdeKm_canonical hs who keys
  | lockInterface fn => exact execLockInterface_canonical hs fn
  | startInterface fn => exact execStartInterface_canonical hs fn
  | uncorrectableError site => exact execUncorrectableError_canonical hs site
  | memoryLinePoison line => exact execMemoryLinePoison_canonical hs line
  | integrityNodeError level j => exact execIntegrityNodeError_canonical hs level j
  | processionSlotPoison slot => exact execProcessionSlotPoison_canonical hs slot
  | pcieCompletion id r => exact execPcieCompletion_canonical hs id r
  | liveMigrationQuiesce w => exact execLiveMigrationQuiesce_canonical hs w
  | negotiateAlgorithms fn mldsa sha3 mlkem aes => exact execNegotiateAlgorithms_canonical hs fn mldsa sha3 mlkem aes
  | getCertificate who slot => exact execGetCertificate_canonical hs who slot

end Sys2Proof.Machine
end

section
/-! SUPPORT and O60. Every step keeps memory in its one form: the turns of the issue slots, of the other units and of
the agenda, each by what it performs (R159, R193; log 4). -/

namespace Sys2Proof.Machine

/-! ### The turn of an issue slot -/

theorem wf_of_canonical {r : Res} {t : State} (same : r = .next t) (hr : Canonical r) : t.mem.wf = true :=
  (canonical_next t).1 (same ▸ hr)

section
set_option linter.unusedSectionVars false
variable {s : State} (hs : s.mem.wf = true)
include hs

theorem State.runChain_canonical (keep : Option (Mask × Bool)) (ms : List Member) : Canonical (s.runChain keep ms) := by
  induction ms generalizing s with
  | nil => exact canonical_of_wf hs
  | cons m ms ih =>
    unfold State.runChain
    refine canonical_of_ite (fun _ => ih hs) fun _ => ?_
    split
    next t ran => exact ih (wf_of_canonical ran (exec_canonical (by simp [hs]) _))
    next => exact exec_canonical (by simp [hs]) _

theorem State.issueChain_canonical (t : Troupe) (ms : List Member) : Canonical (s.issueChain t ms) := by
  have go {s : State} (hs : s.mem.wf = true) (keep : Option (Mask × Bool)) (part : Option Mask) :
      Canonical (match s.runChain keep ms with
        | .next r =>
          if setsCounter ms && !r.unissued t then
            (match (s.countRun t (chainCycles ms) (chainLen ms) (s.stepBeats keep ms)).runChain keep ms with
             | .next r => .next (r.finish t ms part)
             | r => r)
          else .next ((r.countIssue t ms (s.stepBeats keep ms)).finish t ms part)
        | r => r) := by
    have counted := State.runChain_canonical
      (wf_of_mem (s.countRun_mem t (chainCycles ms) (chainLen ms) (s.stepBeats keep ms)) hs) keep ms
    split
    next r ran =>
      have hr := wf_of_canonical ran (State.runChain_canonical hs keep ms)
      refine canonical_of_ite (fun _ => ?_) fun _ => by simp [hr]
      split
      next u again => exact canonical_of_wf (by simpa using wf_of_canonical again counted)
      next => exact counted
    next => exact State.runChain_canonical hs keep ms
  unfold State.issueChain
  dsimp only
  split
  · exact go hs _ _
  · exact canonical_of_ite (fun _ => go hs _ _) fun _ => go hs _ _

theorem State.tryChain_canonical (t : Troupe) (words : Nat) (ms : List Member) : Canonical (s.tryChain t words ms) := by
  unfold State.tryChain
  refine canonical_of_ite (fun _ => by simp [hs]) fun _ => canonical_of_ite (fun _ => by simp [hs]) fun _ => ?_
  split
  · split
    next t ran => exact canonical_of_wf (by simpa using wf_of_canonical ran (State.fault_canonical hs _ _ _ _))
    next => exact State.fault_canonical hs _ _ _ _
  · refine canonical_of_ite (fun _ => State.issueChain_canonical hs _ _) fun _ => ?_
    exact canonical_of_ite (fun _ => by simp [hs]) fun _ => State.issueChain_canonical (by simp [hs]) _ _

theorem State.issueTroupe_canonical (t : Troupe) (words : Nat) : Canonical (s.issueTroupe t words) := by
  unfold State.issueTroupe
  dsimp only
  split
  · refine canonical_of_ite (fun _ => ?_) fun _ => by simp [hs]
    simp [hs, State.markIssued_mem]
  · have read := wf_of_mem (((s.dropAbandoned t).poise t.poised).fetchFar_mem t.poised) (by simp [hs])
    split
    next u fetched =>
      rw [fetched] at read
      exact State.stall_canonical read
    next u far fetched =>
      rw [fetched] at read
      have opened := wf_of_mem (u.openPackets_mem t.poised far) read
      split
      · exact State.stall_canonical opened
      next va _ =>
        split
        next v ran =>
          exact canonical_of_wf (by simpa using wf_of_canonical ran (State.miss_canonical opened _ _ _ _ fun _ => id))
        next => exact State.miss_canonical opened _ _ _ _ fun _ => id
      next c a va _ =>
        split
        next v ran => exact canonical_of_wf (by simpa using wf_of_canonical ran (State.faultAll_canonical opened _ _ _))
        next => exact State.faultAll_canonical opened _ _ _
      next ms _ => exact State.tryChain_canonical (wf_of_mem (State.touchCode_mem _ _ _) opened) _ _ _

theorem State.issue_canonical (core islot : Nat) : Canonical (s.issue core islot) := by
  unfold State.issue
  refine canonical_of_ite (fun _ => canonical_of_wf hs) fun _ => ?_
  split
  · exact exec_canonical hs _
  · split
    · simp [hs]
    · exact canonical_of_ite (fun _ => State.issueTroupe_canonical hs _ _) fun _ => by simp [hs]

end

/-! ### The other units, and the default order -/

/-- A turn that keeps memory canonical, from every state. -/
def Keeps (f : State → Res) : Prop := ∀ s, s.mem.wf = true → Canonical (f s)

/-- The units of a list have turns that keep memory canonical. -/
def UnitsKeep (us : List UnitTurn) : Prop := ∀ u ∈ us, Keeps u.2

theorem keeps_exec (i : Instr) : Keeps (exec i) := fun _ hs => exec_canonical hs i

theorem keeps_state {f : State → State} (h : ∀ s, s.mem.wf = true → (f s).mem.wf = true) : Keeps fun s => .next (f s) :=
  fun s hs => canonical_of_wf (h s hs)

theorem unitsKeep_nil : UnitsKeep [] := fun _ hu => nomatch hu

theorem unitsKeep_cons {k : Nat} {f : State → Res} {us : List UnitTurn} (hf : Keeps f) (hus : UnitsKeep us) :
    UnitsKeep ((k, f) :: us) := by
  rintro u (_ | ⟨_, hu⟩)
  · exact hf
  · exact hus u hu

theorem unitsKeep_append {us vs : List UnitTurn} (hus : UnitsKeep us) (hvs : UnitsKeep vs) : UnitsKeep (us ++ vs) := by
  intro u hu
  rcases List.mem_append.1 hu with hu | hu
  · exact hus u hu
  · exact hvs u hu

theorem unitsKeep_if {b : Bool} {k : Nat} {f : State → Res} (hf : Keeps f) : UnitsKeep (unitIf b k f) := by
  unfold unitIf
  split
  · exact unitsKeep_cons hf unitsKeep_nil
  · exact unitsKeep_nil

theorem unitsKeep_map {α : Type} {k : α → Nat} {f : α → State → Res} (hf : ∀ x, Keeps (f x)) (xs : List α) :
    UnitsKeep (xs.map fun x => (k x, f x)) := by
  intro u hu
  obtain ⟨x, _, rfl⟩ := List.mem_map.1 hu
  exact hf x

theorem unitsKeep_flatMap {α : Type} {g : α → List UnitTurn} (hg : ∀ x, UnitsKeep (g x)) (xs : List α) :
    UnitsKeep (xs.flatMap g) := by
  intro u hu
  obtain ⟨x, _, hu⟩ := List.mem_flatMap.1 hu
  exact hg x u hu

theorem unitsKeep_filterMap {α : Type} {g : α → Option UnitTurn} (hg : ∀ x u, g x = some u → Keeps u.2) (xs : List α) :
    UnitsKeep (xs.filterMap g) := by
  intro u hu
  obtain ⟨x, _, hx⟩ := List.mem_filterMap.1 hu
  exact hg x u hx

theorem State.slotUnits_keep (s : State) : UnitsKeep s.slotUnits := by
  refine unitsKeep_filterMap (fun k u hu => ?_) _
  dsimp only at hu
  split at hu
  · obtain rfl := Option.some.inj hu
    exact fun s hs => State.issue_canonical hs _ _
  · cases hu

theorem State.troupeUnits_keep (s : State) : UnitsKeep s.troupeUnits := by
  refine unitsKeep_flatMap (fun x => ?_) _
  refine unitsKeep_append (unitsKeep_append
    (unitsKeep_append (unitsKeep_if (keeps_exec _)) (unitsKeep_if (keeps_exec _)))
    (unitsKeep_if (keeps_state fun s hs => ?_))) (unitsKeep_if (keeps_exec _))
  split <;> simp [hs]

theorem State.serviceUnits_keep (s : State) : UnitsKeep s.serviceUnits := by
  refine unitsKeep_filterMap (fun c u hu => ?_) _
  obtain ⟨i, _, rfl⟩ := Option.map_eq_some_iff.1 hu
  exact keeps_exec (.serviceRequest c.1 i)

theorem keeps_chunkTurn (c : Copy) : Keeps (chunkTurn c) := by
  intro s hs
  unfold chunkTurn
  split
  · exact exec_canonical hs _
  · exact canonical_of_wf hs

theorem State.copyUnits_keep (s : State) : UnitsKeep s.copyUnits := by
  refine unitsKeep_append (unitsKeep_append (unitsKeep_flatMap (fun k => ?_) _) ?_) ?_
  · split
    · exact unitsKeep_map (fun _ => keeps_chunkTurn _) _
    · exact unitsKeep_nil
  · exact unitsKeep_map (fun _ => keeps_chunkTurn _) _
  · exact unitsKeep_map (fun _ => keeps_exec _) _

theorem State.exchangeUnits_keep (s : State) : UnitsKeep s.exchangeUnits :=
  unitsKeep_append (unitsKeep_append (unitsKeep_map (fun _ => keeps_exec _) _)
    (unitsKeep_map (fun _ => keeps_state fun s hs => by simp [hs]) _)) (unitsKeep_map (fun _ => keeps_exec _) _)

theorem State.matrixUnits_keep (s : State) : UnitsKeep s.matrixUnits :=
  unitsKeep_flatMap (fun _ => unitsKeep_append (unitsKeep_append (unitsKeep_append (unitsKeep_if (keeps_exec _))
    (unitsKeep_if (keeps_exec _))) (unitsKeep_if (keeps_exec _))) (unitsKeep_map (fun _ => keeps_exec _) _)) _

theorem State.placerUnits_keep (s : State) : UnitsKeep s.placerUnits := by
  unfold State.placerUnits
  dsimp only
  split
  · exact unitsKeep_cons (keeps_exec _) unitsKeep_nil
  · exact unitsKeep_nil

theorem State.hartUnits_keep (s : State) : UnitsKeep s.hartUnits :=
  unitsKeep_flatMap (fun _ => unitsKeep_if (keeps_state fun _ hs => State.hartTurn_wf hs _ _)) _

theorem State.allocUnits_keep (s : State) : UnitsKeep s.allocUnits := by
  unfold State.allocUnits
  split
  · exact unitsKeep_nil
  · split
    · exact unitsKeep_cons (keeps_exec _) unitsKeep_nil
    · exact unitsKeep_nil

theorem worldUnits_keep (w : Nat × World) : UnitsKeep (worldUnits w) :=
  unitsKeep_append (unitsKeep_append (unitsKeep_if fun _ hs => execLiveMigrationQuiesce_canonical hs _)
    (unitsKeep_if (keeps_state fun s hs => by simp [hs]))) (unitsKeep_map (fun _ => keeps_exec _) _)

theorem State.linkUnits_keep (s : State) : UnitsKeep s.linkUnits := by
  refine unitsKeep_append (unitsKeep_append (unitsKeep_append (unitsKeep_if (keeps_state fun s hs => by simp [hs]))
    (unitsKeep_if (keeps_state fun s hs => by simp [hs]))) ?_) (unitsKeep_if (keeps_state fun s hs => by simp [hs]))
  split
  · exact unitsKeep_cons (keeps_state fun s hs => by simp [hs]) unitsKeep_nil
  · exact unitsKeep_nil

theorem State.units_keep (s : State) : UnitsKeep s.units := by
  unfold State.units
  have waits := unitsKeep_append s.slotUnits_keep s.troupeUnits_keep
  have moves := unitsKeep_append (unitsKeep_append (unitsKeep_append waits s.serviceUnits_keep) s.copyUnits_keep)
    s.exchangeUnits_keep
  have agents := unitsKeep_append (unitsKeep_append (unitsKeep_append moves s.matrixUnits_keep) s.placerUnits_keep)
    s.hartUnits_keep
  exact unitsKeep_append (unitsKeep_append (unitsKeep_append agents s.allocUnits_keep)
    (unitsKeep_flatMap worldUnits_keep _)) s.linkUnits_keep

theorem State.defaultTurn_canonical {s : State} (hs : s.mem.wf = true) : Canonical s.defaultTurn := by
  unfold State.defaultTurn
  split
  next u found => exact s.units_keep u (List.mem_of_find?_eq_some found) _ (by simp [hs])
  next => exact canonical_of_wf (State.tick_wf hs)

/-! ### The agenda, and the step -/

theorem State.turn_canonical {s : State} (hs : s.mem.wf = true) (x : Turn) : Canonical (s.turn x) := by
  cases x with
  | issue c i =>
    refine State.issue_canonical ?_ _ _
    exact wf_of_mem (State.modCore_mem _ _ _) (State.wf_of_ite hs (by simp [hs]))
  | event i => exact canonical_of_ite (fun _ => canonical_of_wf hs) fun _ => exec_canonical hs i
  | tick => exact canonical_of_wf (State.tick_wf hs)
  | hart q => exact canonical_of_wf (State.hartTurn_wf hs _ _)
  | evictL1 c ln => exact canonical_of_wf (by simp [hs])
  | evictL2 ln => exact canonical_of_wf (by simp [hs])

theorem State.nextTurn_canonical {s : State} (hs : s.mem.wf = true) : Canonical s.nextTurn := by
  unfold State.nextTurn
  split
  · exact exec_canonical (by simp [State.takeDue, hs]) _
  · split
    · exact State.turn_canonical (by simp [State.takeTurn, hs]) _
    · exact State.defaultTurn_canonical hs

theorem State.dark_canonical {s : State} (hs : s.mem.wf = true) : Canonical s.dark := by
  unfold State.dark
  split
  · exact execHotReset_canonical (by simp [State.takeTurn, hs])
  · exact canonical_fault _

/-- A step keeps memory canonical. -/
theorem step_canonical {s : State} (hs : s.mem.wf = true) : Canonical (step s) :=
  canonical_of_ite (fun _ => State.nextTurn_canonical hs) fun _ => State.dark_canonical hs

/-- Settles O60, by the unit whose turn the step is, and for an instruction or an event by the operation that performs
it: what writes memory does so through `Bytes.write`, `Bytes.clear` and `Bytes.splice`, which keep its one form. -/
theorem memoryStaysCanonical : Obligations.MemoryStaysCanonical := by
  unfold Obligations.MemoryStaysCanonical
  intro s t hs run
  exact wf_of_canonical run (step_canonical hs)

end Sys2Proof.Machine
end

section
/-! A translation buffer whose list names one way twice. Only the first of the two entries is read there, but an
invalidation looks through the whole list, and a way that any entry of it names loses V (R335). -/

namespace Sys2Proof.Machine

/-- Way 0 of set 0 of cluster 0 is listed twice: the entry that is read belongs to world 2, the one behind it to world 1,
whose runtime launch issues. -/
def State.doubleEntry : State := { State.reset with
  troupes := [(0, { Troupe.blank with uid := 1, world := 1, live := 1, exec := 1 })]
  clusters := [(0, { tlb := [(0, (1, 2 * 64)), (0, (1, 1 * 64))] })]
  worlds := [(1, { runtime := some 0 })] }

/-- What the step leaves in way 0 of set 0 of cluster 0. -/
def entryAfter (r : Res) : Option Entry :=
  match r with
  | .next t => some ((t.cluster 0).tlb.get 0 (0, 0))
  | _ => none

theorem State.doubleEntry_reads_other_world :
    entryWorld ((State.doubleEntry.cluster 0).tlb.get 0 (0, 0)) ≠ State.doubleEntry.src.world := by decide +kernel

/-- The entry of world 2 loses V by a `tlbi` of world 1. -/
theorem State.doubleEntry_invalidated : entryAfter (exec (.tlbi false 0 .all) .doubleEntry) = some (0, 2 * 64) := by
  decide +kernel

/-- Refutes O26: of a `tlbi` no entry of another world is to change, but where the list of a translation buffer names a way
twice (the statement asks for no order of it) the entry of world 2 that is read there goes with the one of world 1 behind
it. -/
theorem not_addressesAndTranslation : ¬ Obligations.AddressesAndTranslation := by
  unfold Obligations.AddressesAndTranslation
  rintro ⟨-, -, -, invalidates, -⟩
  have fresh : State.doubleEntry.src.ctl.tlbi = none := by decide +kernel
  obtain ⟨t, run, -, -, -, -, entries⟩ := invalidates false 0 .all .doubleEntry (by decide +kernel) (by decide +kernel)
    (by decide +kernel) (by decide +kernel) (by decide +kernel) (fun _ waits => nomatch fresh.symm.trans waits) nofun
  have gone : (t.cluster 0).tlb.get 0 (0, 0) = (0, 2 * 64) := by
    have := State.doubleEntry_invalidated
    rw [run] at this
    exact Option.some.inj this
  rcases entries 0 0 (by decide) with ⟨kept, -⟩ | ⟨-, -, own, -⟩
  · rw [gone] at kept
    exact absurd kept (by decide +kernel)
  · exact State.doubleEntry_reads_other_world own

end Sys2Proof.Machine
end

section
/-! SUPPORT. What the slices, the counters and the waiting packets make of an access (R165 to R176, R204, R205, R408): it
leaves troupes, queues of requests, mailboxes, the outside and memory itself as they were. -/

namespace Sys2Proof.Machine

/-- What a read returns comes from memory and, in the frame owner table, from the extents (R323). -/
theorem State.memRead_congr {s t : State} (mem : t.mem = s.mem) (extents : t.extents = s.extents) (pa n : Nat) :
    t.memRead pa n = s.memRead pa n := by
  have byte (a : Nat) : t.memByte a = s.memByte a := by
    simp only [State.memByte, State.ownerByte, State.extentOf, mem, extents]
  induction n generalizing pa with
  | zero => rfl
  | succ n ih => rw [State.memRead, State.memRead, byte, ih]

/-- The bookkeeping is the same but for names that were given out and events that fall due. -/
def Book.named (a b : Book) : Book := { b with nextId := a.nextId, fresh := a.fresh, due := a.due }

/-- Counting lets at most events fall due. -/
theorem State.count_book (s : State) (w event core n : Nat) : s.book.named (s.count w event core n).book = s.book := by
  have one (t : State) (i : Nat) (h : s.book.named t.book = s.book) : s.book.named (t.countIn w event core n i).book = s.book := by
    unfold State.countIn
    dsimp only
    split
    · split <;> exact h
    · exact h
  unfold State.count
  split
  · rfl
  · exact List.foldlRecOn (motive := fun t : State => s.book.named t.book = s.book) _ _ rfl fun t h i _ => one t i h

/-- Beside lines, poison, counters and logical times, and what waiting packets note, nothing differs. -/
def LinesOnly (s t : State) : Prop :=
  { t with lineCtr := s.lineCtr, nodeCtr := s.nodeCtr, poison := s.poison, slices := s.slices, worlds := s.worlds,
           queues := s.queues, book := s.book.named t.book, maxTs := s.maxTs } = s

namespace LinesOnly

theorem refl (s : State) : LinesOnly s s := rfl

theorem trans {a b c : State} (first : LinesOnly a b) (second : LinesOnly b c) : LinesOnly a c := by
  have := congrArg (fun x : State => { x with
    lineCtr := a.lineCtr, nodeCtr := a.nodeCtr, poison := a.poison, slices := a.slices, worlds := a.worlds,
    queues := a.queues, book := a.book.named x.book, maxTs := a.maxTs }) second
  exact this.trans first

theorem either {p : Prop} {_ : Decidable p} {s a b : State} (yes : LinesOnly s a) (no : LinesOnly s b) :
    LinesOnly s (if p then a else b) := by
  split
  · exact yes
  · exact no

/-- Steps that leave the rest alone, one for each element of a list. -/
theorem foldl {α : Type} {f : State → α → State} (step : ∀ s x, LinesOnly s (f s x)) (xs : List α) (s : State) :
    LinesOnly s (xs.foldl f s) :=
  List.foldlRecOn (motive := fun t : State => LinesOnly s t) xs f (refl s) fun t h x _ => h.trans (step t x)

theorem count (s : State) (w event core n : Nat) : LinesOnly s (s.count w event core n) := by
  have books := congrArg (fun b : Book => { s with book := b }) (s.count_book w event core n)
  unfold LinesOnly
  rw [State.count_frame]
  exact books

theorem modSlice (s : State) (i : Nat) (f : Slice → Slice) : LinesOnly s (s.modSlice i f) := rfl

theorem freshId (s : State) : LinesOnly s s.freshId.2 := rfl

theorem wroteLines (s : State) (pa n : Nat) : LinesOnly s (s.wroteLines pa n) := by
  unfold State.wroteLines
  split <;> rfl

theorem evictLine (s : State) (ln : Nat) : LinesOnly s (s.evictLine ln) := by
  unfold State.evictLine
  dsimp only
  split
  · exact refl s
  · next l _ =>
    have back (a : State) : LinesOnly a (if l.dirty then a.wroteLines (ln * 128) 128 else a) :=
      either (wroteLines _ _ _) (refl a)
    have left := (modSlice s (sliceOf (ln * 128)) fun sl => { sl with lines := sl.lines.del ln, floor := max sl.floor l.rts }).trans
      (back _)
    exact either (left.trans rfl) left

theorem evictLines (ps : List Nat) (s : State) : LinesOnly s (ps.foldl (fun s ln => s.evictLine ln) s) := foldl evictLine ps s

theorem makePlace (w ln code n : Nat) (s : State) : LinesOnly s (s.makePlace w ln code n).1 := by
  induction n generalizing s with
  | zero => exact refl s
  | succ n ih =>
    unfold State.makePlace
    dsimp only
    split
    · exact refl s
    · split
      · exact refl s
      · exact (evictLines _ s).trans (ih _)

theorem newPlace (s : State) (ln : Nat) (l : L2Line) (code : Nat) : LinesOnly s (s.newPlace ln l code).1 := by
  unfold State.newPlace
  dsimp only
  split
  · exact refl s
  · split
    · split
      · exact refl s
      · split
        · exact foldl (α := Nat × L2Line) (fun s p => evictLine s p.1) _ s
        · exact makePlace _ _ _ _ s
    · exact makePlace _ _ _ _ s

theorem install (s : State) (w core ln : Nat) (stream dirty : Bool) (back : List Byte) (pinned : Option Nat) (wts rts : Nat) :
    LinesOnly s (s.install w core ln stream dirty back pinned wts rts) := by
  unfold State.install
  dsimp only
  generalize placed : (if stream = true ∨ (s.world w).limits.dways.get (sliceOf (ln * 128)) 0 = 0 then _ else _ :
    State × Option (Option Nat)) = a
  have place : LinesOnly s a.1 := by
    subst placed
    split
    · exact refl s
    · exact makePlace _ _ _ _ s
  split
  · exact (place.trans (either (wroteLines _ _ _) (refl _))).trans (modSlice _ _ _)
  · exact ((place.trans (freshId _)).trans (either (count _ _ _ _ _) (refl _))).trans (modSlice _ _ _)

theorem recode (s : State) (ln : Nat) (l : L2Line) (code : Nat) : LinesOnly s (s.recode ln l code) := by
  unfold State.recode
  dsimp only
  generalize placed : State.newPlace _ ln l code = a
  have place : LinesOnly s a.1 := placed ▸ (modSlice s _ _).trans (newPlace _ ln l code)
  split
  · exact place.trans (modSlice _ _ _)
  · exact either (place.trans (modSlice _ _ _)) ((place.trans (modSlice _ _ _)).trans (evictLine _ _))

theorem countFabric (s : State) (core : Nat) : LinesOnly s (s.countFabric core) := by
  have one (s : State) (event c : Nat) : LinesOnly s (s.freeNat.2.count 0 event c s.freeNat.1) :=
    trans (b := s.freeNat.2) rfl (count _ _ _ _ _)
  unfold State.countFabric
  exact either (trans (either (one s _ _) (refl s)) (either (one _ _ _) (refl _))) (refl s)

/-- Where an access stands before the slice looks at its line: counted, and with the latest time noted. -/
theorem reached (s : State) (w core rts : Nat) : LinesOnly s (((s.count w 8 core 1).countFabric core).noteTs rts) :=
  ((count s w 8 core 1).trans (countFabric _ core)).trans rfl

theorem reachLine (s : State) (w core ln : Nat) (na : Bool) (wrote : Option (List Byte)) (wts rts : Nat) :
    LinesOnly s (s.reachLine w core ln na wrote wts rts) := by
  unfold State.reachLine
  dsimp only
  generalize counted : (State.countFabric _ core).noteTs rts = a
  have reach : LinesOnly s a := counted ▸ reached s w core rts
  split
  · exact (reach.trans (count _ _ _ _ _)).trans (install _ _ _ _ _ _ _ _ _ _)
  · have named := reach.trans (freshId a)
    split
    · exact named.trans (modSlice _ _ _)
    · exact either (named.trans (modSlice _ _ _)) (named.trans (recode _ _ _ _))

theorem pokeBarriers (s : State) (lns : List Nat) : LinesOnly s (s.pokeBarriers lns) := by
  unfold State.pokeBarriers
  refine foldl (fun t q => foldl (fun u p => ?_) _ t) _ s
  exact either (refl u) (either rfl rfl)

theorem loadBytes (s : State) (pa n : Nat) : LinesOnly s (s.loadBytes pa n).1 :=
  foldl (fun s _ => reachLine s _ _ _ _ _ _ _) _ s

/-! ### What is the same -/

section

variable {s t : State}

theorem mem (h : LinesOnly s t) : t.mem = s.mem := by
  have := congrArg State.mem h
  exact this

theorem linkTs (h : LinesOnly s t) : t.linkTs = s.linkTs := by
  have := congrArg State.linkTs h
  exact this

theorem troupes (h : LinesOnly s t) : t.troupes = s.troupes := by
  have := congrArg State.troupes h
  exact this

theorem clusters (h : LinesOnly s t) : t.clusters = s.clusters := by
  have := congrArg State.clusters h
  exact this

theorem extents (h : LinesOnly s t) : t.extents = s.extents := by
  have := congrArg State.extents h
  exact this

theorem cores (h : LinesOnly s t) : t.cores = s.cores := by
  have := congrArg State.cores h
  exact this

theorem cur (h : LinesOnly s t) : t.book.cur = s.book.cur := by
  have := congrArg (fun x : State => x.book.cur) h
  exact this

theorem me (h : LinesOnly s t) : t.me = s.me := by
  rw [State.me, State.me, h.troupes, h.cur]

theorem out (h : LinesOnly s t) : t.out = s.out := by
  have := congrArg State.out h
  exact this

end

/-- A store is its bytes in memory, and what the slices and the packets make of them. -/
theorem storeAt (s : State) (w core pts : Nat) (ws : List (LaneOp × List Byte)) :
    LinesOnly (ws.foldl (fun s x => s.memWrite x.1.pa x.2) s) (s.storeAt w core pts ws).1 := by
  unfold State.storeAt
  exact (foldl (α := Nat × Bool × List Byte) (fun s x => reachLine s _ _ _ _ _ _ _) _ _).trans (pokeBarriers _ _)

end LinesOnly

/-- Nothing but memory differs, and what an access makes of lines and times. -/
def StoresOnly (s t : State) : Prop := LinesOnly { s with mem := t.mem, linkTs := t.linkTs } t

namespace StoresOnly

theorem of_linesOnly {s t : State} (h : LinesOnly s t) : StoresOnly s t := by
  unfold StoresOnly
  rw [h.mem, h.linkTs]
  exact h

theorem trans {a b c : State} (first : StoresOnly a b) (second : StoresOnly b c) : StoresOnly a c := by
  have := congrArg (fun x : State => { x with mem := c.mem, linkTs := c.linkTs }) first
  exact LinesOnly.trans (b := { b with mem := c.mem, linkTs := c.linkTs }) this second

theorem storeAt (s : State) (w core pts : Nat) (ws : List (LaneOp × List Byte)) : StoresOnly s (s.storeAt w core pts ws).1 := by
  have written (s : State) : StoresOnly s (ws.foldl (fun s x => s.memWrite x.1.pa x.2) s) := by
    induction ws generalizing s with
    | nil => exact LinesOnly.refl s
    | cons x ws ih => exact trans (b := s.memWrite x.1.pa x.2) rfl (ih _)
  exact (written s).trans (of_linesOnly (LinesOnly.storeAt s w core pts ws))

theorem storeFrom (s : State) (pts pa : Nat) (bs : List Byte) : StoresOnly s (s.storeFrom pts pa bs).1 := by
  have go (w n : Nat) : ∀ (s : State) (ts pa : Nat) (bs : List Byte), StoresOnly s (State.storeFrom.go w s ts pa bs n).1 := by
    induction n with
    | zero => exact fun s _ _ _ => LinesOnly.refl s
    | succ n ih =>
      intro s ts pa bs
      rw [State.storeFrom.go]
      dsimp only
      split
      · exact LinesOnly.refl s
      · exact (storeAt s _ _ _ _).trans (ih _ _ _ _)
  exact go _ _ s pts pa bs

theorem linkStore (s : State) (link pa : Nat) (bs : List Byte) : StoresOnly s (s.linkStore link pa bs) := by
  unfold State.linkStore
  exact trans (storeFrom s _ pa bs) rfl

section

variable {s t : State}

theorem troupes (h : StoresOnly s t) : t.troupes = s.troupes := LinesOnly.troupes (s := { s with mem := t.mem, linkTs := t.linkTs }) h

theorem clusters (h : StoresOnly s t) : t.clusters = s.clusters := LinesOnly.clusters (s := { s with mem := t.mem, linkTs := t.linkTs }) h

theorem out (h : StoresOnly s t) : t.out = s.out := LinesOnly.out (s := { s with mem := t.mem, linkTs := t.linkTs }) h

end

end StoresOnly

end Sys2Proof.Machine
end

section
/-! SUPPORT. The bytes that a store leaves in memory (R193, R204, R223), however it is cut at lines. -/

namespace Sys2Proof.Machine

open Sys2Proof.Claims

/-- The parts of a run of bytes, written one after the other, are the run. -/
theorem Bytes.write_append (m : Bytes) (a : Nat) (xs ys : List Byte) :
    (m.write a xs).write (a + xs.length) ys = m.write a (xs ++ ys) := by
  induction xs generalizing m a with
  | nil => rfl
  | cons x xs ih => rw [List.cons_append, Bytes.write, Bytes.write, ← ih, List.length_cons, Nat.add_right_comm, Nat.add_assoc]

/-- Memory holds the bytes written, and is otherwise as it was. -/
theorem memoryPut_of_write {s t : State} {pa : Nat} {bs : List Byte} (wf : s.mem.wf = true) (mem : t.mem = s.mem.write pa bs) :
    MemoryPut s t pa bs := by
  unfold MemoryPut
  rw [mem]
  refine ⟨Bytes.read_write wf pa bs, fun a out => ?_⟩
  rw [Bytes.byte_write wf, if_neg (by omega)]

/-- The stores of several lanes in memory, the last over those before it. -/
def Bytes.writeAll (m : Bytes) (ws : List (LaneOp × List Byte)) : Bytes := ws.foldl (fun m x => m.write x.1.pa x.2) m

theorem State.storeAt_mem (s : State) (w core pts : Nat) (ws : List (LaneOp × List Byte)) :
    (s.storeAt w core pts ws).1.mem = s.mem.writeAll ws := by
  rw [(LinesOnly.storeAt s w core pts ws).mem]
  exact (List.foldl_hom State.mem (g₁ := fun s (x : LaneOp × List Byte) => s.memWrite x.1.pa x.2)
    (g₂ := fun m (x : LaneOp × List Byte) => m.write x.1.pa x.2) fun _ _ => rfl).symm

theorem State.storeFrom_mem (s : State) (pts pa : Nat) (bs : List Byte) : (s.storeFrom pts pa bs).1.mem = s.mem.write pa bs := by
  have go (w n : Nat) : ∀ (s : State) (ts pa : Nat) (bs : List Byte),
      (0 < bs.length → bs.length + pa % 128 ≤ 128 * n) →
      (State.storeFrom.go w s ts pa bs n).1.mem = s.mem.write pa bs := by
    induction n with
    | zero =>
      intro s ts pa bs long
      obtain rfl : bs = [] := List.length_eq_zero_iff.1 (by omega)
      rfl
    | succ n ih =>
      intro s ts pa bs long
      rw [State.storeFrom.go]
      dsimp only
      generalize cut : min bs.length (128 - pa % 128) = k
      split
      · next none =>
        obtain rfl : bs = [] := List.length_eq_zero_iff.1 (by omega)
        rfl
      · next some =>
        have rest : 0 < (bs.drop k).length → (bs.drop k).length + (pa + k) % 128 ≤ 128 * n := by rw [List.length_drop]; omega
        have whole := Bytes.write_append s.mem pa (bs.take k) (bs.drop k)
        rw [List.length_take_of_le (by omega), List.take_append_drop] at whole
        rw [ih _ _ _ _ rest, State.storeAt_mem]
        exact whole
  exact go _ _ s pts pa bs (by omega)

/-- What a link delivers is written to memory (R223). -/
theorem State.linkStore_mem (s : State) (link pa : Nat) (bs : List Byte) :
    (s.linkStore link pa bs).mem = s.mem.write pa bs := s.storeFrom_mem _ pa bs

end Sys2Proof.Machine
end

section
/-! Accesses of the host and of peers (R172, R176, R223, R351, R433), with the flits that bring a peer its answer (R436). -/

namespace Sys2Proof.Machine

open Sys2Proof.Claims

/-! ### Flits -/

/-- Flits have been sent, and counted; beside the lanes that keep them, nothing else differs. -/
def FlitsOnly (s t : State) : Prop :=
  (∃ fs, t.out = s.out ++ fs ∧ ∀ x ∈ fs, ∃ lane f, x = .flit lane f) ∧
  { t with lanes := s.lanes, out := s.out, worlds := s.worlds, book := s.book } = s ∧
  (∀ w, { t.world w with counters := (s.world w).counters } = s.world w) ∧ t.book.cur = s.book.cur

namespace FlitsOnly

theorem refl (s : State) : FlitsOnly s s := ⟨⟨[], by simp, by simp⟩, rfl, fun _ => rfl, rfl⟩

theorem trans {a b c : State} (first : FlitsOnly a b) (second : FlitsOnly b c) : FlitsOnly a c := by
  obtain ⟨⟨fs, outb, flits⟩, sameb, worldsb, curb⟩ := first
  obtain ⟨⟨gs, outc, more⟩, samec, worldsc, curc⟩ := second
  refine ⟨⟨fs ++ gs, by rw [outc, outb, List.append_assoc], fun x hx => (List.mem_append.1 hx).elim (flits x) (more x)⟩, ?_,
    fun w => counters_trans (worldsb w) (worldsc w), curc.trans curb⟩
  have := congrArg (fun x : State => { x with lanes := a.lanes, out := a.out, worlds := a.worlds, book := a.book }) samec
  exact this.trans sameb

theorem sendOn (s : State) (n : Nat) (flit : List Byte) : FlitsOnly s (s.sendOn n flit) := by
  have worlds := State.count_world s 0 0x22 0 1
  have cur := (State.count_cur s 0 0x22 0 1).1
  have same : { s.count 0 0x22 0 1 with worlds := s.worlds, book := s.book } = s := by rw [State.count_frame]
  unfold State.sendOn
  generalize s.count 0 0x22 0 1 = c at worlds cur same ⊢
  have out : c.out = s.out := by
    have := congrArg State.out same
    exact this
  refine ⟨⟨[.flit n flit], congrArg (· ++ [Out.flit n flit]) out, by simp⟩, ?_, worlds, cur⟩
  have := congrArg (fun x : State => { x with lanes := s.lanes, out := s.out }) same
  exact this

theorem sendFlits (s : State) (w p id addr n : Nat) : FlitsOnly s (s.sendFlits w p id addr n) := by
  unfold State.sendFlits
  dsimp only
  split
  · exact refl s
  · refine trans (b := s.freeNat.2.freeNat.2) ⟨⟨[], by simp [State.freeNat], by simp⟩, rfl, fun _ => rfl, rfl⟩ ?_
    exact List.foldlRecOn (motive := fun t => FlitsOnly s.freeNat.2.freeNat.2 t) _ _ (refl _) fun t h x _ => h.trans (sendOn _ _ _)

section

variable {s t : State}

theorem mem (h : FlitsOnly s t) : t.mem = s.mem := by
  obtain ⟨-, same, -⟩ := h
  have := congrArg State.mem same
  exact this

theorem troupes (h : FlitsOnly s t) : t.troupes = s.troupes := by
  obtain ⟨-, same, -⟩ := h
  have := congrArg State.troupes same
  exact this

theorem ext (h : FlitsOnly s t) : t.ext = s.ext := by
  obtain ⟨-, same, -⟩ := h
  have := congrArg State.ext same
  exact this

theorem cur (h : FlitsOnly s t) : t.book.cur = s.book.cur := h.2.2.2

theorem mbx (h : FlitsOnly s t) : t.mbx = s.mbx := by
  obtain ⟨-, same, -⟩ := h
  have := congrArg State.mbx same
  exact this

end

end FlitsOnly

/-! ### The host (R223, R433) -/

/-- Bytes that the host's link delivers (R223). -/
theorem State.linkStore_put {s : State} (wf : s.mem.wf = true) (link pa : Nat) (bs : List Byte) :
    MemoryPut s (s.linkStore link pa bs) pa bs ∧ (s.linkStore link pa bs).troupes = s.troupes ∧
      (s.linkStore link pa bs).out = s.out := by
  have only := StoresOnly.linkStore s link pa bs
  exact ⟨memoryPut_of_write wf (State.linkStore_mem s link pa bs), only.troupes, only.out⟩

/-- A read through the front-end table that comes to one part of module memory has its bytes at once (R394). -/
theorem State.feRead_here {s : State} {q w va n pa : Nat} (parts : s.feParts w va n true false false = .ok [(pa, n)])
    (here : inModule pa = true) : s.feRead q w va n false = ((s.loadBytes pa n).1, some (.ok (s.memRead pa n))) := by
  have ranges : s.feRanges w [(va, n)] (!false) false false = .ok [(pa, n)] := by
    simp [State.feRanges, parts]
  have none : s.answers q w 1 [] = (s, some (.ok [])) := rfl
  have got : s.fetch q w [(pa, n)] = ((s.loadBytes pa n).1, .got (s.memRead pa n)) := by
    unfold State.fetch
    simp only [List.filterMap_cons, here, if_true, List.filterMap_nil, none, List.foldl_cons, List.foldl_nil, List.nil_append]
    rfl
  rw [State.feRead, State.feReads]
  simp only [ranges, got]

/-- The only read through BAR2 that waits, where it comes to one part of module memory, is answered (R433). -/
theorem State.bar2Turn_here {x : State} {f off n pa : Nat} (queue : x.bar2 = [(f, off, n)]) (inside : off + n ≤ 2 ^ 36)
    (parts : x.feParts f ((x.fn f).apbase.toNat + off) n true false false = .ok [(pa, n)]) (here : inModule pa = true) :
    x.bar2Turn = ({ (x.loadBytes pa n).1 with bar2 := [] } : State).emit (.completion true false (x.memRead pa n)) := by
  have at_ : x.bar2Va f off n = some ((x.fn f).apbase.toNat + off) := if_pos inside
  simp only [State.bar2Turn, queue, at_, State.feRead_here parts here]

/-- Accesses of the host to module memory by physical address. -/
theorem hostMemory_spec {pa n : Nat} {s : State} (wide : n ≠ 0) (range : moduleRange pa n = true) :
    (s.poisoned pa n = false → ∀ bs : List Byte, bs.length = n → s.mem.wf = true →
      ∃ t, exec (.hostMemoryWrite pa n (some bs)) s = .next t ∧ MemoryPut s t pa bs ∧ t.troupes = s.troupes ∧ t.out = s.out) ∧
    (s.poisoned pa n = false → ∃ t, exec (.hostMemoryWrite pa n none) s = .next t ∧ t.mem = s.mem ∧
      t.troupes = s.troupes ∧ t.out = s.out ++ [.completion true false (s.memRead pa n)]) ∧
    (s.poisoned pa n = true → ∀ data, Claims.Sends (.hostMemoryWrite pa n data) s [.completion true true []]) := by
  have goes (data : Option (List Byte)) : exec (.hostMemoryWrite pa n data) s =
      if s.poisoned pa n then .next (s.failBar2 0x14)
      else match data with
        | some bs => .next (s.linkStore 0 pa (bs.take n))
        | none => .next ((s.loadBytes pa n).1.emit (.completion true false (s.memRead pa n))) := by
    show execHostMemoryWrite pa n data s = _
    unfold execHostMemoryWrite
    rw [if_neg (by simp [wide, range])]
    rfl
  refine ⟨fun whole bs long wf => ?_, fun whole => ?_, fun poison data => ?_⟩
  · refine ⟨_, by rw [goes, whole, ← long]; rfl, ?_⟩
    rw [List.take_length]
    exact State.linkStore_put wf 0 pa bs
  · have lines := LinesOnly.loadBytes s pa n
    exact ⟨_, (goes none).trans (if_neg (by rw [whole]; exact Bool.false_ne_true)), lines.mem, lines.troupes,
      congrArg (· ++ [Out.completion true false (s.memRead pa n)]) lines.out⟩
  · show exec _ s = _
    rw [goes, poison]
    rfl

/-- Accesses of a host function through BAR2 that come to one part of module memory. -/
theorem hostBar2_spec {f off n pa : Nat} {ide : Bool} {s : State} (reached : Reached s f ide) (inside : off + n ≤ 2 ^ 36)
    (here : inModule pa = true) (idle : s.bar2 = []) :
    let va := (s.fn f).apbase.toNat + off
    (s.feParts f va n true false false = .ok [(pa, n)] → ∃ t, exec (.hostBar2Access ⟨f, ide⟩ off n none) s = .next t ∧
      t.mem = s.mem ∧ t.troupes = s.troupes ∧ t.bar2 = [] ∧ t.out = s.out ++ [.completion true false (s.memRead pa n)]) ∧
    ∀ bs : List Byte, bs.length = n → s.mem.wf = true → s.feParts f va n false true false = .ok [(pa, n)] →
      ∃ t, exec (.hostBar2Access ⟨f, ide⟩ off n (some bs)) s = .next t ∧ MemoryPut s t pa bs ∧ t.troupes = s.troupes ∧
        t.out = s.out := by
  intro va
  have goes (data : Option (List Byte)) : exec (.hostBar2Access ⟨f, ide⟩ off n data) s = .next (s.bar2Access f off n data) :=
    congrArg Host.Outcome.next (State.onTlp_of_reached reached _)
  have at_ : s.bar2Va f off n = some va := if_pos inside
  refine ⟨fun parts => ?_, fun bs long wf parts => ?_⟩
  · have waits : s.bar2Access f off n none = State.bar2Turn { s with bar2 := [(f, off, n)] } := by
      simp [State.bar2Access, idle]
    have turn := State.bar2Turn_here (x := { s with bar2 := [(f, off, n)] }) rfl inside parts here
    have bytes := State.memRead_congr (s := s) (t := { s with bar2 := [(f, off, n)] }) rfl rfl pa n
    have lines := LinesOnly.loadBytes { s with bar2 := [(f, off, n)] } pa n
    rw [goes, waits, turn, bytes]
    exact ⟨_, rfl, lines.mem, lines.troupes, rfl, congrArg (· ++ [Out.completion true false (s.memRead pa n)]) lines.out⟩
  · have stored : s.bar2Access f off n (some bs) = s.linkStore 0 pa bs := by
      have whole : bs.take n = bs := by rw [← long, List.take_length]
      simp only [State.bar2Access, at_, whole, long, parts, List.foldl_cons, List.foldl_nil, State.hostPut, here, if_true]
    exact ⟨_, by rw [goes, stored], State.linkStore_put wf 0 pa bs⟩

theorem hostBar2_outside {f off n : Nat} {ide : Bool} {s : State} (reached : Reached s f ide) (outside : 2 ^ 36 < off + n)
    (bs : List Byte) : Claims.Sends (.hostBar2Access ⟨f, ide⟩ off n (some bs)) s [.completion false false []] := by
  have goes : exec (.hostBar2Access ⟨f, ide⟩ off n (some bs)) s = .next (s.bar2Access f off n (some bs)) :=
    congrArg Host.Outcome.next (State.onTlp_of_reached reached _)
  refine goes.trans ?_
  simp only [State.bar2Access, State.bar2Va, if_neg (not_le.2 outside)]
  rfl

/-! ### The peers (R172, R351) -/

/-- Beside what the world's flits change, and the mailboxes, nothing differs. -/
def AnswersOnly (s t : State) : Prop :=
  { t with mbx := s.mbx, lanes := s.lanes, out := s.out, worlds := s.worlds, book := s.book } = s ∧
  ∀ w, { t.world w with counters := (s.world w).counters } = s.world w

/-- A peer is answered with bytes and a status, in flits; of the state after it, P holds. -/
def AnswersPeer (i : Instr) (s : State) (peer tag : Nat) (bs : List Byte) (status : Nat) (P : State → Prop) : Prop :=
  ∃ t fs, exec i s = .next t ∧ t.troupes = s.troupes ∧ t.out = s.out ++ .peerReply peer tag bs status :: fs ∧
    (∀ x ∈ fs, ∃ lane f, x = .flit lane f) ∧ P t

section

variable {s d : State} {peer rworld tag : Nat} {kind : RemoteKind} {bs : List Byte} {status : Nat} {P : State → Prop}

/-- The answer goes out after what the access did, and changes nothing else. -/
theorem answersPeer_of_reply {w addr : Nat} (run : exec (.remoteAccess peer rworld tag kind) s = .next (d.reply w peer tag addr bs status))
    (troupes : d.troupes = s.troupes) (out : d.out = s.out) (holds : ∀ t, FlitsOnly (d.emit (.peerReply peer tag bs status)) t → P t) :
    AnswersPeer (.remoteAccess peer rworld tag kind) s peer tag bs status P := by
  have flits := FlitsOnly.sendFlits (d.emit (.peerReply peer tag bs status)) w peer tag addr bs.length
  obtain ⟨fs, sent, shape⟩ := flits.1
  refine ⟨_, fs, run, flits.troupes.trans troupes, sent.trans ?_, shape, holds _ flits⟩
  show (d.out ++ [_]) ++ fs = _
  rw [out, List.append_assoc, List.singleton_append]

/-- An answer to an access that did nothing, but for mailboxes. -/
theorem answersOnly_of_flits {x : Out} {t : State} (idle : { d with mbx := s.mbx, book := s.book } = s)
    (h : FlitsOnly (d.emit x) t) : AnswersOnly s t ∧ t.mbx = d.mbx := by
  obtain ⟨-, same, worlds, -⟩ := h
  have counters (w : Nat) : d.world w = s.world w := by
    have := congrArg (State.world · w) idle
    exact this
  refine ⟨⟨?_, fun w => counters w ▸ worlds w⟩, ?_⟩
  · have := congrArg (fun x : State => { x with
      mbx := s.mbx, lanes := s.lanes, out := s.out, worlds := s.worlds, book := s.book }) same
    refine this.trans ?_
    have := congrArg (fun x : State => { x with lanes := s.lanes, out := s.out, worlds := s.worlds }) idle
    exact this
  · have := congrArg State.mbx same
    exact this

/-- No entry admits the access: status 1 (R351). -/
theorem remote_refused (none : s.remoteEntries peer rworld kind = []) :
    AnswersPeer (.remoteAccess peer rworld tag kind) s peer tag [] 1 fun t => AnswersOnly s t ∧ t.mbx = s.mbx := by
  have run : exec (.remoteAccess peer rworld tag kind) s =
      .next (s.freeNat.2.reply (s.freeNat.1 % 64) peer tag (remoteAddr kind) [] 1) := by
    show execRemoteAccess peer rworld tag kind s = _
    rw [execRemoteAccess]
    simp only [none]
  exact answersPeer_of_reply run rfl rfl fun t h => answersOnly_of_flits (d := s.freeNat.2) rfl h

/-- Every entry that matches is MOVING: status 2 (R172). -/
theorem remote_heldOff (some : s.remoteEntries peer rworld kind ≠ [])
    (moving : ∀ e ∈ s.remoteEntries peer rworld kind, e.getLsbD 1 = true) :
    AnswersPeer (.remoteAccess peer rworld tag kind) s peer tag [] 2 fun t => AnswersOnly s t ∧ t.mbx = s.mbx := by
  obtain ⟨e, es, entries⟩ := List.exists_cons_of_ne_nil some
  have all : ((e :: es).all fun e => bit e 1) = true := List.all_eq_true.2 (by rw [← entries]; exact moving)
  have run : exec (.remoteAccess peer rworld tag kind) s = .next (s.reply (fld e 20 15) peer tag (remoteAddr kind) [] 2) := by
    show execRemoteAccess peer rworld tag kind s = _
    rw [execRemoteAccess]
    simp only [entries, all, if_true]
  exact answersPeer_of_reply run rfl rfl fun t h => answersOnly_of_flits rfl h

/-- An admitted access is performed, and answered. -/
theorem remote_admitted (admitted : Admitted s peer rworld kind) (does : s.remoteDo peer rworld kind = (d, bs, status))
    (troupes : d.troupes = s.troupes) (out : d.out = s.out) (holds : ∀ t, FlitsOnly (d.emit (.peerReply peer tag bs status)) t → P t) :
    AnswersPeer (.remoteAccess peer rworld tag kind) s peer tag bs status P := by
  obtain ⟨x, mem, still⟩ := admitted
  cases entries : s.remoteEntries peer rworld kind with
  | nil => rw [entries] at mem; cases mem
  | cons e es =>
    have go : ((e :: es).all fun e => bit e 1) = false := List.all_eq_false.2 ⟨x, entries ▸ mem, by rw [bit, still]; exact Bool.false_ne_true⟩
    have run : exec (.remoteAccess peer rworld tag kind) s =
        .next (d.reply (fld e 20 15) peer tag (remoteAddr kind) bs status) := by
      show execRemoteAccess peer rworld tag kind s = _
      rw [execRemoteAccess]
      simp only [entries, go, does, Bool.false_eq_true, if_false]
    exact answersPeer_of_reply run troupes out holds

/-- An admitted access that meets poison, or only asks, changes nothing. -/
theorem remote_unchanged (admitted : Admitted s peer rworld kind) (does : s.remoteDo peer rworld kind = (s, bs, status)) :
    AnswersPeer (.remoteAccess peer rworld tag kind) s peer tag bs status fun t => AnswersOnly s t ∧ t.mbx = s.mbx :=
  remote_admitted admitted does rfl rfl fun _ h => answersOnly_of_flits rfl h

/-- An admitted access that writes bytes (R223). -/
theorem remote_stores {pa : Nat} {old : List Byte} (wf : s.mem.wf = true) (admitted : Admitted s peer rworld kind)
    (does : s.remoteDo peer rworld kind = (s.linkStore (peer + 1) pa bs, old, 0)) :
    AnswersPeer (.remoteAccess peer rworld tag kind) s peer tag old 0 fun t => MemoryPut s t pa bs := by
  obtain ⟨-, troupes, out⟩ := State.linkStore_put wf (peer + 1) pa bs
  exact remote_admitted admitted does troupes out fun t h => memoryPut_of_write wf (h.mem.trans (State.linkStore_mem s _ pa bs))

end

/-- A peer's post to a mailbox with room puts its entry there, with the payload as it came (R281, R351). -/
theorem State.remoteDo_post {s : State} (peer rworld m : Nat) {payload : List W64} (core tslot launch : Nat)
    (seven : payload.length = 7) (room : (s.mailbox m).entries.length < 64) (quiet : (s.mailbox m).arming = none) :
    ∃ x d, s.remoteDo peer rworld (.post m payload core tslot launch) = (d, leBytes 8 0, 0) ∧
      d = { s with mbx := d.mbx } ∧ (d.mailbox m).entries = (s.mailbox m).entries ++ [x :: payload] ∧
      ∀ k, k ≠ m → d.mailbox k = s.mailbox k := by
  have whole : (List.range 7).map (fun i => payload.getD i 0) = payload := by
    refine List.ext_getElem (by simp [seven]) fun i hi hp => ?_
    rw [List.getElem_map, List.getElem_range, List.getD_eq_getElem _ _ hp]
  obtain ⟨x, entry⟩ : ∃ x, ∀ p, postEntry { Troupe.blank with world := rworld, core := core, tslot := tslot, launch := launch } p =
      x :: p := ⟨_, fun _ => rfl⟩
  have does : s.remoteDo peer rworld (.post m payload core tslot launch) =
      (s.mbxPut m (x :: payload), leBytes 8 0, 0) := by
    simp only [State.remoteDo, if_neg (not_le.2 room), whole, entry]
  rw [State.mbxPut_unarmed _ quiet] at does
  refine ⟨x, _, does, rfl, ?_, fun k other => ?_⟩
  · rw [State.mailbox_modMailbox, if_pos rfl, Mailbox.gain, if_pos room]
  · rw [State.mailbox_modMailbox, if_neg (Ne.symm other)]

/-- Settles O47, by the flits of each answer (`FlitsOnly`) and the bytes that each link's store puts into memory. -/
theorem hostAndPeerAccesses : Obligations.HostAndPeerAccesses := by
  unfold Obligations.HostAndPeerAccesses
  refine ⟨fun pa n s wide range => hostMemory_spec wide range, fun pa n data s outside => ?_,
    fun f off n ide s pa reached inside here idle => hostBar2_spec reached inside here idle,
    fun f off n ide s reached outside bs => hostBar2_outside reached outside bs, fun peer rworld tag s => ?_⟩
  · show execHostMemoryWrite pa n data s = _
    unfold execHostMemoryWrite
    rw [if_pos (by simp [outside])]
    rfl
  intro answers only idle
  refine ⟨fun kind none => remote_refused none, fun kind some moving => remote_heldOff some moving,
    fun pa n w admitted => remote_unchanged admitted rfl, fun pa n admitted => ⟨fun whole => ?_, fun poison => ?_⟩,
    fun pa bs admitted => ⟨fun whole wf => ?_, fun poison => ?_⟩, fun pa op x c admitted => ⟨fun whole wf => ?_, fun poison => ?_⟩,
    fun m payload core tslot launch admitted seven => ⟨fun full => ?_, fun room quiet => ?_⟩⟩
  · have lines := LinesOnly.loadBytes s pa n
    exact remote_admitted admitted (by rw [State.remoteDo, whole]; rfl) lines.troupes lines.out fun t h => h.mem.trans lines.mem
  · exact remote_unchanged admitted (by rw [State.remoteDo, poison]; rfl)
  · exact remote_stores wf admitted (by rw [State.remoteDo, whole]; rfl)
  · exact remote_unchanged admitted (by rw [State.remoteDo, poison]; rfl)
  · exact remote_stores wf admitted (by rw [State.remoteDo]; simp only [if_true, whole]; rfl)
  · exact remote_unchanged admitted (by rw [State.remoteDo]; simp only [if_true, poison])
  · exact remote_unchanged admitted (if_pos full)
  · obtain ⟨x, d, does, same, entries, others⟩ := State.remoteDo_post peer rworld m core tslot launch seven room quiet
    have troupes : d.troupes = s.troupes := by rw [same]
    have out : d.out = s.out := by rw [same]
    refine ⟨x, remote_admitted admitted does troupes out fun t h => ?_⟩
    obtain ⟨kept, boxes⟩ := answersOnly_of_flits (s := s) (by rw [same]) h
    have box (k : Nat) : t.mailbox k = d.mailbox k := congrArg (fun b : Table Mailbox => b.get k {}) boxes
    exact ⟨kept, by rw [box, entries], fun k other => by rw [box, others k other]⟩

end Sys2Proof.Machine
end

section
/-! SUPPORT. Operations of a troupe that are complete: what they bring to its registers, and how they leave it. -/

namespace Sys2Proof.Machine

/-- A troupe that is put back with one operation fewer: nothing else differs but what falls due. -/
theorem State.putTroupe_dropOp (s : State) {u : Troupe} {k : Nat} (id : Nat) (place : u.key = k) :
    let t := (s.putTroupe u).dropOp k id
    { t with troupes := s.troupes, book := s.book } = s ∧
      t.troupe k = some { u with ops := u.ops.filter fun x => x.id != id } ∧ ∀ j, j ≠ k → t.troupe j = s.troupe j := by
  intro t
  have stands : (s.putTroupe u).troupe k = some u := by rw [State.troupe_putTroupe, if_pos place]
  have found : (s.putTroupe u).troupes.find k = some u := stands
  obtain ⟨retires, -⟩ := ((s.putTroupe u).modTroupe k fun t => { t with ops := t.ops.filter fun o => o.id != id }).tryRetire_frame k
  have troupes (j : Nat) : t.troupe j = if k = j then some { u with ops := u.ops.filter fun x => x.id != id }
      else (s.putTroupe u).troupe j := by
    have same := congrArg (fun x : State => x.troupe j) retires
    exact same.trans (State.troupe_modTroupe _ stands j)
  refine ⟨?_, by rw [troupes, if_pos rfl], fun j other => ?_⟩
  · have same := congrArg (fun x : State => { x with troupes := s.troupes, book := s.book }) retires
    refine same.trans ?_
    unfold State.modTroupe
    rw [found]
    rfl
  · rw [troupes, if_neg (Ne.symm other), State.troupe_putTroupe, if_neg (by rw [place]; exact Ne.symm other)]

/-- The word that a load puts into one register, from the bytes that are left (R193). -/
def loadedWord (sext : Bool) (bs : List Byte) : W32 :=
  if sext then
    if bs.length = 1 then (BitVec.ofNat 8 (leNat bs)).signExtend 32 else (BitVec.ofNat 16 (leNat bs)).signExtend 32
  else w32 (leNat bs)

theorem Troupe.putLane_succ (t : Troupe) (d l : Nat) (sext : Bool) (bs : List Byte) (n : Nat) :
    t.putLane d l sext bs (n + 1) =
      (t.setV d ((t.vreg d).setLane l (loadedWord sext (bs.take 4)))).putLane (d + 1) l sext (bs.drop 4) n := rfl

/-- Word j of a lane's bytes goes, extended, to the lane of register d + j; every other lane stays. -/
theorem Troupe.vreg_putLane_loadedWord (t : Troupe) {d l : Nat} (sext : Bool) (bs : List Byte) {n : Nat} (room : d + n ≤ 64)
    (lane : l < 128) (r l' : Nat) : ((t.putLane d l sext bs n).vreg r).lane l' =
      if l = l' ∧ d ≤ r ∧ r < d + n then loadedWord sext ((bs.drop (4 * (r - d))).take 4) else (t.vreg r).lane l' := by
  induction n generalizing t d bs with
  | zero => rw [if_neg (by omega)]; rfl
  | succ n ih =>
    rw [Troupe.putLane_succ, ih _ _ (by omega), List.drop_drop]
    by_cases later : l = l' ∧ d + 1 ≤ r ∧ r < d + 1 + n
    · rw [if_pos later, if_pos (by omega), show 4 + 4 * (r - (d + 1)) = 4 * (r - d) by omega]
    · rw [if_neg later, Troupe.vreg_setV]
      by_cases here : d = r
      · subst here
        rw [if_pos ⟨rfl, by omega⟩, Lanes.lane_setLane, Nat.sub_self]
        by_cases own : l = l'
        · rw [if_pos ⟨own, lane⟩, if_pos (by omega)]
          rfl
        · rw [if_neg (by tauto), if_neg (by tauto)]
      · rw [if_neg (by tauto), if_neg (by omega)]

section

variable {n d : Nat} (room : d + (n + 3) / 4 ≤ 64)

include room

/-- Lanes and registers that a load does not have stay. -/
theorem Troupe.vreg_load_other (t : Troupe) (sext : Bool) {got : List (Nat × List Byte)} (lanes : ∀ x ∈ got, x.1 < 128) {r l : Nat}
    (other : r < d ∨ d + (n + 3) / 4 ≤ r ∨ ∀ x ∈ got, x.1 ≠ l) :
    ((t.putLoad n sext d got).vreg r).lane l = (t.vreg r).lane l := by
  unfold Troupe.putLoad
  induction got generalizing t with
  | nil => rfl
  | cons x got ih =>
    obtain ⟨first, lanes⟩ := List.forall_mem_cons.1 lanes
    have rest : r < d ∨ d + (n + 3) / 4 ≤ r ∨ ∀ y ∈ got, y.1 ≠ l :=
      other.imp_right fun h => h.imp_right fun absent y hy => absent y (List.mem_cons_of_mem _ hy)
    rw [List.foldl_cons, ih _ lanes rest, Troupe.vreg_putLane_loadedWord t sext x.2 room first, if_neg]
    rintro ⟨same, low, high⟩
    rcases other with below | above | absent
    · omega
    · omega
    · exact absent x List.mem_cons_self same

/-- A lane of a load of distinct lanes gets its words. -/
theorem Troupe.vreg_load_lane (t : Troupe) (sext : Bool) {got : List (Nat × List Byte)} (lanes : ∀ x ∈ got, x.1 < 128)
    (distinct : got.Pairwise fun a b => a.1 ≠ b.1) {x : Nat × List Byte} (mem : x ∈ got) {j : Nat} (small : j < (n + 3) / 4) :
    ((t.putLoad n sext d got).vreg (d + j)).lane x.1 = loadedWord sext ((x.2.drop (4 * j)).take 4) := by
  induction got generalizing t with
  | nil => cases mem
  | cons y got ih =>
    obtain ⟨first, distinct⟩ := List.pairwise_cons.1 distinct
    obtain ⟨lane, others⟩ := List.forall_mem_cons.1 lanes
    rcases List.mem_cons.1 mem with rfl | later
    · have rest := Troupe.vreg_load_other (d := d) room (t.putLane d x.1 sext x.2 ((n + 3) / 4)) sext others (r := d + j)
        (.inr (.inr fun y hy => (first y hy).symm))
      refine rest.trans ?_
      rw [Troupe.vreg_putLane_loadedWord t sext x.2 room lane, if_pos (by omega), Nat.add_sub_cancel_left]
    · exact ih _ others distinct later

end

end Sys2Proof.Machine
end

section
/-! Service of atomic requests, and their return slots (R189 to R192, R197, R198, R200). -/

namespace Sys2Proof.Machine

/-! ### Return slots (R191, R200) -/

section

variable {core tslot : Nat} {s : State} {u : Troupe} {o : Op}

/-- The operation whose values wait in a troupe's return slot. -/
def Troupe.returning (t : Troupe) : Option Op :=
  t.ops.find? fun o => o.performed && o.external.isEmpty && (match o.kind with | .atomic _ _ (some _) => true | _ => false)

variable (found : s.troupe (keyOf core tslot) = some u) (waits : u.returning = some o)

include found waits

theorem atomicReturn_eq : exec (.atomicReturn core tslot) s =
    if o.part then
      .next ((s.putTroupe (if u.ctl.replayPc = some u.pc then
        { u with ctl := { u.ctl with gathered := u.ctl.gathered ++ o.results } } else u)).dropOp u.key o.id)
    else .next ((s.putMixed o.clash u (u.putResults o)).dropOp u.key o.id) := by
  show execAtomicReturn core tslot s = _
  rw [execAtomicReturn, found]
  show (match u.returning with | none => _ | some o => _) = _
  rw [waits]

/-- The values of a whole instruction go to its registers. -/
theorem atomicReturn_whole {aop : AOp} {wide : Bool} {d : Nat} (kind : o.kind = .atomic aop wide (some d)) (whole : o.part = false)
    (kept : o.clash = false) (lanes : ∀ x ∈ o.results, x.1 < 128 ∧ x.2.length = if wide then 8 else 4)
    (distinct : o.results.Pairwise fun a b => a.1 ≠ b.1) (room : d + (if wide then 2 else 1) ≤ 64) :
    ∃ t v, exec (.atomicReturn core tslot) s = .next t ∧ { t with troupes := s.troupes, book := s.book } = s ∧
      t.troupe u.key = some v ∧ (∀ k, k ≠ u.key → t.troupe k = s.troupe k) ∧
      v = { u with v := v.v, ops := u.ops.filter fun x => x.id != o.id } ∧
      (∀ x ∈ o.results, (v.vreg d).lane x.1 = BitVec.ofNat 32 (leNat (x.2.take 4)) ∧
        (wide = true → (v.vreg (d + 1)).lane x.1 = BitVec.ofNat 32 (leNat (x.2.drop 4)))) ∧
      ∀ r i, (r < d ∨ d + (if wide then 2 else 1) ≤ r ∨ ∀ x ∈ o.results, x.1 ≠ i) → (v.vreg r).lane i = (u.vreg r).lane i := by
  have got : u.putResults o = u.putLoad (if wide then 8 else 4) false d o.results := by rw [Troupe.putResults, kind]
  have words : ((if wide then 8 else 4) + 3) / 4 = if wide then 2 else 1 := by cases wide <;> rfl
  rw [← words] at room ⊢
  generalize wrote : u.putLoad (if wide then 8 else 4) false d o.results = w at got
  have frame : w = { u with v := w.v } := wrote ▸ Troupe.putLoad_frame u _ _ _ _
  obtain ⟨same, mine, others⟩ := s.putTroupe_dropOp o.id (show w.key = u.key by rw [frame]; rfl)
  refine ⟨_, _, ?_, same, mine, others, ?_, fun x hx => ⟨?_, fun yes => ?_⟩, fun r i other => ?_⟩
  · rw [atomicReturn_eq found waits, whole, kept, got]
    rfl
  · rw [frame]
  · have first := Troupe.vreg_load_lane room u false (fun y hy => (lanes y hy).1) distinct hx (j := 0) (by cases wide <;> decide)
    rw [wrote] at first
    exact first
  · subst yes
    have second := Troupe.vreg_load_lane room u false (fun y hy => (lanes y hy).1) distinct hx (j := 1) (by decide)
    rw [wrote, List.take_of_length_le (by rw [List.length_drop, (lanes x hx).2]; rfl)] at second
    exact second
  · have stays := Troupe.vreg_load_other room u false (fun y hy => (lanes y hy).1) other
    rw [wrote] at stays
    exact stays

/-- Those of a part of one wait for the other lanes. -/
theorem atomicReturn_part (part : o.part = true) :
    ∃ t, exec (.atomicReturn core tslot) s = .next t ∧ { t with troupes := s.troupes, book := s.book } = s ∧
      (∀ k, k ≠ u.key → t.troupe k = s.troupe k) ∧
      t.troupe u.key = some { u with
        ops := u.ops.filter fun x => x.id != o.id
        ctl := { u.ctl with gathered :=
          if u.ctl.replayPc = some u.pc then u.ctl.gathered ++ o.results else u.ctl.gathered } } := by
  have run := atomicReturn_eq found waits
  rw [part, if_pos rfl] at run
  by_cases again : u.ctl.replayPc = some u.pc
  · obtain ⟨same, mine, others⟩ := s.putTroupe_dropOp (k := u.key) o.id
      (show Troupe.key { u with ctl := { u.ctl with gathered := u.ctl.gathered ++ o.results } } = u.key from rfl)
    rw [if_pos again] at run ⊢
    exact ⟨_, run, same, others, mine⟩
  · obtain ⟨same, mine, others⟩ := s.putTroupe_dropOp (k := u.key) o.id (show u.key = u.key from rfl)
    rw [if_neg again] at run ⊢
    exact ⟨_, run, same, others, mine⟩

end

/-! ### The functions (R197) -/

theorem atomicFn_eq {n : Nat} (old x c : BitVec n) :
    atomicFn .add old x c = old + x ∧ atomicFn .swap old x c = x ∧
    atomicFn .cas old x c = (if old = c then x else old) ∧
    atomicFn .minS old x c = (if x.toInt < old.toInt then x else old) ∧
    atomicFn .maxS old x c = (if old.toInt < x.toInt then x else old) ∧
    atomicFn .minZ old x c = (if x.toNat < old.toNat then x else old) ∧
    atomicFn .maxZ old x c = (if old.toNat < x.toNat then x else old) ∧
    atomicFn .and old x c = old &&& x ∧ atomicFn .or old x c = old ||| x ∧ atomicFn .xor old x c = old ^^^ x ∧
    atomicFn .inc old x c = (if x.toNat ≤ old.toNat then 0 else old + 1) ∧
    atomicFn .dec old x c = (if old = 0 ∨ x.toNat < old.toNat then x else old - 1) := by
  refine ⟨rfl, rfl, rfl, ?_, ?_, ?_, ?_, rfl, rfl, rfl, ?_, ?_⟩
  · simp only [atomicFn, BitVec.slt_iff_toInt_lt]
  · simp only [atomicFn, BitVec.slt_iff_toInt_lt]
  · simp only [atomicFn, BitVec.ult_iff_toNat_lt]
  · simp only [atomicFn, BitVec.ult_iff_toNat_lt]
  · simp only [atomicFn, BitVec.ule_iff_toNat_le]
  · simp only [atomicFn, BitVec.ult_iff_toNat_lt]

/-! ### A request leaves its queue (R190) -/

/-- Where one element of a list alone has a property, the others are the list without it. -/
theorem filter_not_middle {α : Type} {xs ys : List α} {p : α → Bool} {x : α} (only : (xs ++ x :: ys).filter p = [x]) :
    (xs ++ x :: ys).filter (fun y => !p y) = xs ++ ys := by
  have has : p x = true :=
    (List.mem_filter.1 (only ▸ List.mem_singleton_self x : x ∈ (xs ++ x :: ys).filter p)).2
  have count := congrArg List.length only
  rw [List.filter_append, List.filter_cons_of_pos has, List.length_append, List.length_cons, List.length_singleton] at count
  have before : xs.filter p = [] := List.length_eq_zero_iff.1 (by omega)
  have behind : ys.filter p = [] := List.length_eq_zero_iff.1 (by omega)
  have none {zs : List α} (empty : zs.filter p = []) : zs.filter (fun y => !p y) = zs :=
    List.filter_eq_self.2 fun z hz => by simpa using List.filter_eq_nil_iff.1 empty z hz
  rw [List.filter_append, List.filter_cons_of_neg (by simp [has]), none before, none behind]

/-- The request at a place of a queue that is performed alone leaves it, and every other stays. -/
theorem State.reqQ_without {s : State} {cluster i : Nat} {r : Request} (at_ : (s.cluster cluster).reqQ[i]? = some r)
    {p : Request → Bool} (mine : p r = true) (alone : (s.clusters.flatMap fun c => c.2.reqQ.filter p) = [r]) :
    (s.cluster cluster).reqQ.filter (fun q => !p q) = (s.cluster cluster).reqQ.take i ++ (s.cluster cluster).reqQ.drop (i + 1) := by
  have mem : r ∈ (s.cluster cluster).reqQ.filter p := List.mem_filter.2 ⟨List.mem_of_getElem? at_, mine⟩
  have only : (s.cluster cluster).reqQ.filter p = [r] := by
    cases found : s.clusters.find cluster with
    | none =>
      have blank : s.cluster cluster = {} := by rw [State.cluster, Table.get, found]; rfl
      rw [blank] at mem
      cases mem
    | some c =>
      have here : s.cluster cluster = c := by rw [State.cluster, Table.get, found]; rfl
      rw [here] at mem ⊢
      have part : (c.reqQ.filter p).Sublist [r] :=
        alone ▸ List.sublist_flatten_of_mem (List.mem_map.2 ⟨_, Table.mem_of_find found, rfl⟩)
      exact (List.sublist_singleton.1 part).resolve_left (List.ne_nil_of_mem mem)
  generalize (s.cluster cluster).reqQ = q at at_ only ⊢
  obtain ⟨inside, rfl⟩ := List.getElem?_eq_some_iff.1 at_
  have cut : q.take i ++ q[i] :: q.drop (i + 1) = q := by rw [← List.drop_eq_getElem_cons inside, List.take_append_drop]
  have rest := filter_not_middle (xs := q.take i) (ys := q.drop (i + 1)) (by rw [cut]; exact only)
  rwa [cut] at rest

/-- A service troupe takes a request from its queue, and performs it (R190, R192). -/
theorem serviceRequest_alone {cluster i : Nat} {s : State} {r : Request} (at_ : (s.cluster cluster).reqQ[i]? = some r)
    (ready : s.requestReady r = true) (here : (r.lanes.all fun o => inModule o.pa) = true) (alone : s.together r = [r]) :
    ∃ x : State, exec (.serviceRequest cluster i) s = .next ((x.serveModule [r]).settleAtomic r) ∧ { x with clusters := s.clusters } = s ∧
      (x.cluster cluster).reqQ = (s.cluster cluster).reqQ.take i ++ (s.cluster cluster).reqQ.drop (i + 1) := by
  have run : exec (.serviceRequest cluster i) s = execServiceRequest cluster i s := rfl
  unfold execServiceRequest at run
  simp only [at_, ready, Bool.not_true, Bool.false_eq_true, if_false, here, true_and, if_true] at run
  cases reduces : r.reduces with
  | true =>
    rw [reduces] at run
    refine ⟨_, run, rfl, ?_⟩
    rw [State.modCluster, State.cluster, Table.get_put, if_pos rfl]
  | false =>
    rw [reduces, alone] at run
    refine ⟨_, run, rfl, ?_⟩
    rw [State.together, if_neg (by rw [reduces]; exact Bool.false_ne_true)] at alone
    rw [← State.reqQ_without at_ (p := fun q => q.opId == r.opId && q.lanes.all fun o => inModule o.pa) (by simp [here]) alone,
      State.cluster, Table.get, Table.find_mapVals]
    cases found : s.clusters.find cluster with
    | none => rw [State.cluster, Table.get, found]; rfl
    | some c => rw [State.cluster, Table.get, found]; rfl

/-! ### What the service performs (R192, R197) -/

theorem State.modRequester_of_troupe {s : State} {k uid : Nat} {u : Troupe} (f : Troupe → Troupe) (found : s.troupe k = some u)
    (named : u.uid = uid) : s.modRequester k uid f = s.putTroupe (f u) := by
  rw [State.modRequester, State.requester_of_troupe found named]

theorem State.modRequester_clusters (s : State) (k uid : Nat) (f : Troupe → Troupe) :
    (s.modRequester k uid f).clusters = s.clusters := by
  unfold State.modRequester
  split <;> rfl

/-- Bytes of one location under the operation of a request (R197). -/
def Request.performedOn (r : Request) (s : State) (l : LaneOp) : List Byte :=
  atomicBytes r.aop r.wide (s.memRead l.pa (if r.wide then 8 else 4)) l.x l.c

theorem Request.performedOn_length (r : Request) (s : State) (l : LaneOp) :
    (r.performedOn s l).length = if r.wide then 8 else 4 := by
  unfold Request.performedOn atomicBytes
  cases r.wide with
  | true => rfl
  | false => exact length_leBytes _ _

section

variable {s : State} {r : Request} {l : LaneOp} (lanes : r.lanes = [l])

include lanes

/-- A request on one location: its bytes are written, what was there returns, and every other part is what the slice and
the counters make of it. -/
theorem State.serveLine_one (ts : Nat) : ∃ a, LinesOnly (s.memWrite l.pa (r.performedOn s l)) a ∧
    s.serveLine ts r = a.addResults r [(l.lane, s.memRead l.pa (if r.wide then 8 else 4))] := by
  unfold State.serveLine
  rw [lanes]
  exact ⟨_, ((LinesOnly.reachLine _ _ _ _ _ _ _ _).trans (LinesOnly.pokeBarriers _ _)).trans (LinesOnly.count _ _ _ _ _), rfl⟩

theorem State.serveModule_one : ∃ a ts, LinesOnly (s.memWrite l.pa (r.performedOn s l)) a ∧
    s.serveModule [r] = (a.addResults r [(l.lane, s.memRead l.pa (if r.wide then 8 else 4))]).noteTime r.tkey r.uid ts
      (r.reduces || r.commit) := by
  obtain ⟨a, lines, served⟩ := State.serveLine_one (s := s) lanes
    (max (s.issuerPts r) ((s.lineTs (lineNo ((r.lanes.head?.map (·.pa)).getD 0))).2 + 1))
  exact ⟨a, _, lines, congrArg (fun x : State => x.noteTime r.tkey r.uid _ (r.reduces || r.commit)) served⟩

end

/-- What is settled of an operation touches troupes alone. -/
theorem State.settleAtomic_clusters (s : State) (r : Request) : (s.settleAtomic r).clusters = s.clusters := by
  have retires (t : State) (k : Nat) : (t.tryRetire k).clusters = t.clusters := by rw [(t.tryRetire_frame k).1]
  unfold State.settleAtomic
  split
  · rfl
  · split
    · rfl
    · split
      · exact retires _ _
      · split
        · rfl
        · rw [State.dropOp, retires]
          unfold State.modTroupe
          split <;> rfl

/-- The results of an operation that returns values stay with it, whether it is complete now or waits for others. -/
theorem State.settleAtomic_results {s : State} {r : Request} {u : Troupe} {o : Op} (found : s.troupe r.tkey = some u)
    (place : u.key = r.tkey) (named : u.uid = r.uid) (returns : r.returns = true)
    (waits : u.ops.find? (fun x => x.id == r.opId) = some o) :
    ∃ v p, (s.settleAtomic r).troupe r.tkey = some v ∧ v = { u with ops := v.ops } ∧
      v.ops.find? (fun x => x.id == r.opId) = some p ∧ p.results = o.results := by
  unfold State.settleAtomic
  split
  · exact ⟨u, o, found, rfl, waits, rfl⟩
  · have name : o.id = r.opId := by simpa using List.find?_some waits
    simp only [State.requester_of_troupe found named, waits, returns, true_or, if_true]
    refine ⟨u.setOp { o with performed := true }, { o with performed := true }, ?_, rfl, ?_, rfl⟩
    · exact (State.troupe_putTroupe _ _ _).trans (if_pos place)
    · rw [Troupe.setOp, List.find?_map]
      have same : ((fun x : Op => x.id == r.opId) ∘ fun x => if x.id == o.id then { o with performed := true } else x) =
          fun x => x.id == r.opId := by
        funext x
        by_cases h : x.id = r.opId <;> simp [h, name]
      rw [same, waits]
      simp

/-- The operation that awaits the values of a request gets what was there before (R200). -/
theorem State.serveModule_results {s : State} {r : Request} {l : LaneOp} (lanes : r.lanes = [l]) {u : Troupe} {o : Op}
    (found : s.troupe r.tkey = some u) (place : u.key = r.tkey) (named : u.uid = r.uid) (reduces : r.reduces = false)
    (commits : r.commit = false) (waits : u.ops.find? (fun x => x.id == r.opId) = some o) :
    ∃ v p, (s.serveModule [r]).troupe r.tkey = some v ∧ v = { u with pts := v.pts, ops := v.ops } ∧
      v.ops.find? (fun x => x.id == r.opId) = some p ∧
      p.results = o.results ++ [(l.lane, s.memRead l.pa (if r.wide then 8 else 4))] := by
  obtain ⟨a, ts, lines, served⟩ := State.serveModule_one (s := s) lanes
  have stands : a.troupe r.tkey = some u := by
    rw [State.troupe, lines.troupes]
    exact found
  generalize s.memRead l.pa (if r.wide then 8 else 4) = old at served ⊢
  have gets : (u.ops.map fun x => if x.id == r.opId then { x with results := x.results ++ [(l.lane, old)] } else x).find?
      (fun x => x.id == r.opId) = some { o with results := o.results ++ [(l.lane, old)] } := by
    have name : o.id = r.opId := by simpa using List.find?_some waits
    rw [List.find?_map]
    have same : ((fun x : Op => x.id == r.opId) ∘ fun x =>
        if x.id == r.opId then { x with results := x.results ++ [(l.lane, old)] } else x) = fun x => x.id == r.opId := by
      funext x
      by_cases h : x.id = r.opId <;> simp [h]
    rw [same, waits]
    simp [name]
  have added : (a.addResults r [(l.lane, old)]).troupe r.tkey = some { u with ops := u.ops.map fun x =>
      if x.id == r.opId then { x with results := x.results ++ [(l.lane, old)] } else x } := by
    rw [State.addResults, State.modRequester_of_troupe _ stands named]
    exact (State.troupe_putTroupe _ _ _).trans (if_pos place)
  generalize a.addResults r [(l.lane, old)] = b at served added
  have noted := congrArg (State.troupe · r.tkey) (State.modRequester_of_troupe (fun t => { t with pts := max t.pts ts }) added named)
  rw [served, reduces, commits]
  exact ⟨_, _, noted.trans ((State.troupe_putTroupe _ _ _).trans (if_pos place)), rfl, gets, rfl⟩

/-- Settles O35: a request alone at its place is one write of memory, made of what was read there; results follow its
operation to the return slot. -/
theorem atomicsPerformed : Obligations.AtomicsPerformed := by
  unfold Obligations.AtomicsPerformed
  refine ⟨fun cluster i s r l at_ ready lanes here alone wf => ?_, fun core tslot s u o aop wide d found _ waits kind whole
    kept lanes distinct room => atomicReturn_whole found waits kind whole kept lanes distinct room,
    fun core tslot s u o found _ waits part => atomicReturn_part found waits part, fun old x c => atomicFn_eq old x c⟩
  obtain ⟨x, run, same, queue⟩ := serviceRequest_alone at_ ready (by simp [lanes, here]) alone
  obtain ⟨a, ts, lines, served⟩ := State.serveModule_one (s := x) lanes
  have memX : x.mem = s.mem := by
    have := congrArg State.mem same
    exact this
  have read (n : Nat) : x.memRead l.pa n = s.memRead l.pa n := by
    refine State.memRead_congr memX ?_ _ _
    have := congrArg State.extents same
    exact this
  have troupes (k : Nat) : x.troupe k = s.troupe k := by
    have := congrArg (State.troupe · k) same
    exact this
  have mem : ((x.serveModule [r]).settleAtomic r).mem = s.mem.write l.pa (r.performedOn x l) := by
    rw [State.settleAtomic_mem, served, State.noteTime_mem, State.addResults_mem, lines.mem, ← memX]
    rfl
  have bytes := Bytes.read_write wf l.pa (r.performedOn x l)
  rw [Request.performedOn_length] at bytes
  refine ⟨_, run, by rw [mem]; exact Bytes.wf_write wf _ _, ?_, fun narrow => ?_, fun wide => ?_, fun b out => ?_,
    fun u o found place named reduces commits returns waits => ?_⟩
  · have clusters : ((x.serveModule [r]).settleAtomic r).clusters = x.clusters := by
      rw [State.settleAtomic_clusters, served]
      exact ((State.modRequester_clusters _ _ _ _).trans (State.modRequester_clusters _ _ _ _)).trans lines.clusters
    rw [State.cluster, clusters]
    exact queue
  · rw [narrow] at bytes
    rw [mem]
    refine bytes.trans ?_
    rw [Request.performedOn, atomicBytes, narrow, read]
    rfl
  · rw [wide] at bytes
    rw [mem]
    refine bytes.trans ?_
    rw [Request.performedOn, atomicBytes, wide, read]
    rfl
  · rw [mem, Bytes.byte_write wf, Request.performedOn_length, if_neg (by omega)]
  · obtain ⟨v, p, standsV, frameV, waitsV, results⟩ := State.serveModule_results lanes ((troupes _).trans found) place named
      reduces commits waits
    obtain ⟨w, q, standsW, frameW, waitsW, kept⟩ := State.settleAtomic_results standsV
      (by rw [frameV]; exact place) (by rw [frameV]; exact named) returns waitsV
    refine ⟨w, q, standsW, ?_, waitsW, by rw [kept, results, read]⟩
    rw [frameW, frameV]

end Sys2Proof.Machine
end

section
/-! SUPPORT. Loads at the slices (R194, R204): whichever lines L1 holds and however often leases are renewed, a lane gets
the bytes of memory. -/

namespace Sys2Proof.Machine

/-- Memory, the extents and the troupes are as they were. -/
def ReadsOnly (s t : State) : Prop := t.mem = s.mem ∧ t.extents = s.extents ∧ t.troupes = s.troupes

namespace ReadsOnly

theorem refl (s : State) : ReadsOnly s s := ⟨rfl, rfl, rfl⟩

theorem trans {a b c : State} (first : ReadsOnly a b) (second : ReadsOnly b c) : ReadsOnly a c := by
  obtain ⟨mem, extents, troupes⟩ := first
  obtain ⟨mem', extents', troupes'⟩ := second
  exact ⟨mem'.trans mem, extents'.trans extents, troupes'.trans troupes⟩

theorem of_linesOnly {s t : State} (h : LinesOnly s t) : ReadsOnly s t := ⟨h.mem, h.extents, h.troupes⟩

theorem memRead {s t : State} (h : ReadsOnly s t) (pa n : Nat) : t.memRead pa n = s.memRead pa n :=
  State.memRead_congr h.1 h.2.1 pa n

theorem lineBytes {s t : State} (h : ReadsOnly s t) (ln : Nat) : t.lineBytes ln = s.lineBytes ln := h.memRead _ _

theorem troupe {s t : State} (h : ReadsOnly s t) (k : Nat) : t.troupe k = s.troupe k :=
  congrArg (fun x : Table Troupe => x.find k) h.2.2

end ReadsOnly

/-- A core holds no line in L1 but with the bytes of memory. -/
def State.freshL1 (s : State) (core ln : Nat) : Prop := ∀ l, (s.core core).l1.find ln = some l → l.bytes = s.lineBytes ln

/-- What was fresh in L1 is fresh, and nothing else that a load depends on has changed. -/
def KeepsFresh (core : Nat) (s t : State) : Prop := ReadsOnly s t ∧ ∀ ln, s.freshL1 core ln → t.freshL1 core ln

namespace KeepsFresh

theorem refl (core : Nat) (s : State) : KeepsFresh core s s := ⟨ReadsOnly.refl s, fun _ h => h⟩

theorem trans {core : Nat} {a b c : State} (first : KeepsFresh core a b) (second : KeepsFresh core b c) : KeepsFresh core a c :=
  ⟨first.1.trans second.1, fun ln h => second.2 ln (first.2 ln h)⟩

theorem of_linesOnly {core : Nat} {s t : State} (h : LinesOnly s t) : KeepsFresh core s t := by
  have reads := ReadsOnly.of_linesOnly h
  refine ⟨reads, fun ln fresh l found => (fresh l ?_).trans (reads.lineBytes ln).symm⟩
  rwa [State.core, h.cores] at found

/-- A line that is brought in has the bytes of memory; others stay, or make room for it. -/
theorem fillL1 (s : State) (core ln : Nat) (l : L1Line) (bytes : l.bytes = s.lineBytes ln) :
    KeepsFresh core s (s.fillL1 core ln l) := by
  have reads : ReadsOnly s (s.fillL1 core ln l) := ⟨rfl, rfl, rfl⟩
  refine ⟨reads, fun k fresh x found => ?_⟩
  rw [reads.lineBytes]
  unfold State.fillL1 at found
  rw [State.core_modCore, if_pos rfl] at found
  dsimp only at found
  rw [Table.find_put] at found
  split at found
  · next same => cases found; exact same ▸ bytes
  · next other =>
    refine fresh x ?_
    split at found
    · rwa [Table.find_del, if_neg other] at found
    · split at found
      · rw [Table.find_del] at found
        split at found
        · cases found
        · rwa [Table.find_del, if_neg other] at found
      · rwa [Table.find_del, if_neg other] at found

end KeepsFresh

/-! ### Loads of lines (R204) -/

theorem State.loadLine_spec (s : State) (w core ln pts : Nat) (na first : Bool) (fresh : s.freshL1 core ln) :
    KeepsFresh core s (s.loadLine w core ln pts na first).1 ∧ (s.loadLine w core ln pts na first).2.2 = s.lineBytes ln := by
  unfold State.loadLine
  split
  · next l hit =>
    unfold State.l1Hit at hit
    split at hit
    · next x found =>
      split at hit
      · cases hit
        dsimp only
        refine ⟨KeepsFresh.of_linesOnly ?_, fresh _ found⟩
        exact LinesOnly.either (LinesOnly.count _ _ _ _ _) (LinesOnly.refl s)
      · cases hit
    · cases hit
  · have reach (wts rts : Nat) := LinesOnly.reachLine s w core ln na none wts rts
    dsimp only
    exact ⟨(KeepsFresh.of_linesOnly (reach _ _)).trans (KeepsFresh.fillL1 _ _ _ _ rfl),
      (ReadsOnly.of_linesOnly (reach _ _)).lineBytes ln⟩

theorem State.loadRound_spec (s : State) (w core pts : Nat) (lns : List (Nat × Bool)) (first : Bool)
    (fresh : ∀ x ∈ lns, s.freshL1 core x.1) :
    KeepsFresh core s (s.loadRound w core lns pts first).1 ∧
      (s.loadRound w core lns pts first).2.2 = lns.map fun x => (x.1, s.lineBytes x.1) := by
  unfold State.loadRound
  induction lns using List.reverseRecOn with
  | nil => exact ⟨KeepsFresh.refl core s, rfl⟩
  | append_singleton lns x ih =>
    obtain ⟨keeps, got⟩ := ih fun y hy => fresh y (List.mem_append_left _ hy)
    rw [List.foldl_append, List.foldl_cons, List.foldl_nil]
    obtain ⟨more, bytes⟩ := State.loadLine_spec _ w core x.1 pts x.2 first (keeps.2 _ (fresh x (by simp)))
    refine ⟨keeps.trans more, ?_⟩
    rw [List.map_append, List.map_singleton, ← keeps.1.lineBytes, ← bytes, ← got]

theorem State.loadLines_spec (s : State) (w core pts : Nat) (lns : List (Nat × Bool)) (first : Bool) (n : Nat)
    (fresh : ∀ x ∈ lns, s.freshL1 core x.1) :
    KeepsFresh core s (s.loadLines w core lns pts first n).1 ∧
      (s.loadLines w core lns pts first n).2.2 = lns.map fun x => (x.1, s.lineBytes x.1) := by
  induction n generalizing s pts first with
  | zero => exact State.loadRound_spec s w core pts lns first fresh
  | succ n ih =>
    obtain ⟨keeps, got⟩ := State.loadRound_spec s w core pts lns first fresh
    rw [State.loadLines]
    dsimp only
    split
    · exact ⟨keeps, got⟩
    · obtain ⟨more, again⟩ := ih (s.loadRound w core lns pts first).1 _ false fun x hx => keeps.2 _ (fresh x hx)
      exact ⟨keeps.trans more, again.trans (List.map_congr_left fun x _ => by rw [keeps.1.lineBytes])⟩

/-! ### Bytes of lanes -/

theorem State.part_memRead (s : State) (a : Nat) {i k n : Nat} (fits : i + k ≤ n) :
    ((s.memRead a n).drop i).take k = s.memRead (a + i) k := by
  have taken (a : Nat) {k n : Nat} (h : k ≤ n) : (s.memRead a n).take k = s.memRead a k := by
    induction k generalizing a n with
    | zero => rfl
    | succ k ih =>
      obtain ⟨n, rfl⟩ := Nat.exists_eq_add_of_le' (show 1 ≤ n by omega)
      rw [State.memRead, State.memRead, List.take_succ_cons, ih _ (by omega)]
  induction i generalizing a n with
  | zero => exact taken a (by omega)
  | succ i ih =>
    obtain ⟨n, rfl⟩ := Nat.exists_eq_add_of_le' (show 1 ≤ n by omega)
    rw [State.memRead, List.drop_succ_cons, ih _ (by omega), Nat.add_right_comm, Nat.add_assoc]

theorem State.length_memRead (s : State) (a n : Nat) : (s.memRead a n).length = n := by
  induction n generalizing a with
  | zero => rfl
  | succ n ih => rw [State.memRead, List.length_cons, ih]

/-- A lane within a line has its bytes from the lines that its access loads. -/
theorem State.laneOf_lines (s : State) {os : List LaneOp} {o : LaneOp} (mem : o ∈ os) {n : Nat} (fits : o.pa % 128 + n ≤ 128) :
    laneOf ((linesOf os).map fun x => (x.1, s.lineBytes x.1)) o.pa n = s.memRead o.pa n := by
  have found : ((linesOf os).map fun x => (x.1, s.lineBytes x.1)).find? (fun g => g.1 == lineNo o.pa) =
      some (lineNo o.pa, s.lineBytes (lineNo o.pa)) := by
    have listed : ∃ x ∈ linesOf os, x.1 = lineNo o.pa :=
      ⟨_, List.mem_map.2 ⟨_, (mem_sortAsc _ _).2 (List.mem_map.2 ⟨o, mem, rfl⟩), rfl⟩, rfl⟩
    cases found : ((linesOf os).map fun x => (x.1, s.lineBytes x.1)).find? (fun g => g.1 == lineNo o.pa) with
    | none =>
      obtain ⟨x, hx, name⟩ := listed
      have := List.find?_eq_none.1 found _ (List.mem_map.2 ⟨x, hx, rfl⟩)
      simp [name] at this
    | some g =>
      obtain ⟨x, -, rfl⟩ := List.mem_map.1 (List.mem_of_find?_eq_some found)
      have name : x.1 = lineNo o.pa := by simpa using List.find?_some found
      rw [name]
  rw [laneOf, found]
  have whole := s.part_memRead (lineNo o.pa * 128) fits
  rwa [lineNo, show o.pa / 128 * 128 + o.pa % 128 = o.pa by omega] at whole

theorem State.loadAt_spec (s : State) (w core pts : Nat) (os : List LaneOp) (n : Nat)
    (fresh : ∀ o ∈ os, s.freshL1 core (lineNo o.pa)) (fits : ∀ o ∈ os, o.pa % 128 + n ≤ 128) :
    ReadsOnly s (s.loadAt w core pts os n).1 ∧
      (s.loadAt w core pts os n).2.2 = os.map fun o => (o, s.memRead o.pa n) := by
  have lines : ∀ x ∈ linesOf os, s.freshL1 core x.1 := fun x hx => by
    obtain ⟨ln, mem, rfl⟩ := List.mem_map.1 hx
    obtain ⟨o, ho, rfl⟩ := List.mem_map.1 ((mem_sortAsc _ _).1 mem)
    exact fresh o ho
  obtain ⟨keeps, got⟩ := State.loadLines_spec s w core pts (linesOf os) true ((linesOf os).length + 2) lines
  unfold State.loadAt
  dsimp only
  refine ⟨keeps.1, List.map_congr_left fun o ho => ?_⟩
  rw [got, s.laneOf_lines ho (fits o ho)]

end Sys2Proof.Machine
end

section
/-! Accesses are performed at slices; misses, and the answers of the host (R183, R188, R193, R194, R198 to R200, R204, R222,
R229, R365). -/

namespace Sys2Proof.Machine

open Sys2Proof.Claims

/-! ### Operations that are performed -/

section

variable {o : Op} (inside : ∀ l ∈ o.lanes, inModule l.pa = true)

include inside

theorem Op.inModule_lanes : o.lanes.filter (fun l => inModule l.pa) = o.lanes := List.filter_eq_self.2 inside

/-- Of an access to module memory nothing is sent anywhere. -/
theorem Op.unsent_inside : o.unsent = [] := by
  have near : o.lanes.filterMap (fun l => farOf l.pa) = [] := by
    rw [List.filterMap_eq_nil_iff]
    intro l hl
    have here := inside l hl
    unfold inModule at here
    unfold farOf
    split at here
    · next region => rw [region]
    · next region => rw [region]
    · next region => rw [region]
    · cases here
  unfold Op.unsent
  rw [near]
  cases o.kind <;> rfl

end

/-- An operation that is performed, and has nothing of the outside to wait for, is complete. -/
theorem State.putOp_complete {s : State} {t : Troupe} {o : Op} (done : o.performed = true) (sent : o.unsent = [])
    (awaited : o.external = []) (kept : o.clash = false) :
    s.putOp t o = (s.putTroupe (t.putResults o)).dropOp t.key o.id := by
  have complete : ¬ o.ordinary = true ∧ o.unsent.isEmpty = true ∧ o.external.isEmpty = true := by
    simp [Op.ordinary, done, sent, awaited]
  rw [State.putOp, kept]
  exact if_pos (by simpa using complete)

section

variable {core tslot : Nat} {s : State} {u : Troupe} {o : Op}

/-- The slice's next turn for a troupe is its only one. -/
theorem sliceAccess_eq {x : Op × Option Nat} (found : s.troupe (keyOf core tslot) = some u) (turn : s.turns u = [x]) :
    exec (.sliceAccessPerformed core tslot) s = .next (s.performTurn u x) := by
  show execSliceAccessPerformed core tslot s = _
  rw [execSliceAccessPerformed, found]
  simp only [turn]

/-- Where there are several, it is one of them (log 10). -/
theorem sliceAccess_some (found : s.troupe (keyOf core tslot) = some u) (turns : s.turns u ≠ []) :
    ∃ x ∈ s.turns u, ∃ b, exec (.sliceAccessPerformed core tslot) s = .next (({ s with book := b } : State).performTurn u x) := by
  have run : exec (.sliceAccessPerformed core tslot) s = execSliceAccessPerformed core tslot s := rfl
  rw [execSliceAccessPerformed, found] at run
  dsimp only at run
  cases listed : s.turns u with
  | nil => exact absurd listed turns
  | cons x rest =>
    cases rest with
    | nil =>
      rw [listed] at run
      exact ⟨x, by simp, s.book, run⟩
    | cons y rest =>
      rw [listed] at run
      have inside : s.freeNat.1 % (2 + rest.length) < (x :: y :: rest).length := by
        rw [List.length_cons, List.length_cons]
        exact (Nat.mod_lt _ (by omega)).trans_le (by omega)
      refine ⟨(x :: y :: rest)[s.freeNat.1 % (2 + rest.length)], List.getElem_mem _, s.freeNat.2.book, run.trans ?_⟩
      dsimp only
      rw [List.getD_eq_getElem _ _ inside]
      rfl

end

section

variable {s : State} {u : Troupe} {o : Op} {n : Nat}

/-- The results of a load. -/
def State.loaded (s : State) (o : Op) (n : Nat) : List (Nat × List Byte) := o.lanes.map fun l => (l.lane, s.memRead l.pa n)

/-- A load of module memory is complete once it is performed, with the bytes at each lane's address (R194). -/
theorem State.performLoad_spec (found : s.troupe u.key = some u) (inside : ∀ l ∈ o.lanes, inModule l.pa = true)
    (awaited : o.external = []) (kept : o.clash = false) (fresh : o.results = [])
    (lanes : ∀ l ∈ o.lanes, l.pa % 128 + n ≤ 128 ∧ (s.core u.core).l1.find (l.pa / 128) = none) :
    ∃ x p, ReadsOnly s x ∧ s.performLoad u o n =
      (x.putTroupe (({ u with pts := p } : Troupe).putResults { o with performed := true, results := s.loaded o n })).dropOp
        u.key o.id := by
  obtain ⟨reads, got⟩ := s.loadAt_spec u.world u.core u.pts o.lanes n
    (fun l hl x held => by rw [lineNo, (lanes l hl).2] at held; cases held) fun l hl => (lanes l hl).1
  have run : s.performLoad u o n = (s.loadAt u.world u.core u.pts o.lanes n).1.putOp
      { ((s.loadAt u.world u.core u.pts o.lanes n).1.troupe u.key).getD u with
        pts := (s.loadAt u.world u.core u.pts o.lanes n).2.1 }
      { o with performed := true, results := s.loaded o n } := by
    rw [State.performLoad, Op.inModule_lanes inside]
    dsimp only
    rw [got, fresh, List.map_map]
    rfl
  generalize s.loadAt u.world u.core u.pts o.lanes n = a at reads run
  rw [reads.troupe, found, Option.getD_some] at run
  exact ⟨a.1, a.2.1, reads, run.trans (State.putOp_complete rfl (Op.unsent_inside inside) awaited kept)⟩

end

/-- What the issuing core's L1 takes of a store touches L1 alone. -/
theorem State.refreshL1_reads (s : State) (core ts : Nat) (lns : List Nat) : ReadsOnly s (s.refreshL1 core ts lns) := by
  unfold State.refreshL1
  refine List.foldlRecOn (motive := fun t : State => ReadsOnly s t) lns _ (ReadsOnly.refl s) fun t h ln _ => ?_
  split
  · exact h
  · exact h.trans ⟨rfl, rfl, rfl⟩

/-- What a store of several lanes leaves outside its bytes. -/
theorem Bytes.byte_writeAll {m : Bytes} (wf : m.wf = true) (ws : List (LaneOp × List Byte)) {a : Nat}
    (out : ∀ x ∈ ws, ¬ (x.1.pa ≤ a ∧ a < x.1.pa + x.2.length)) : (m.writeAll ws).byte a = m.byte a := by
  unfold Bytes.writeAll
  induction ws generalizing m with
  | nil => rfl
  | cons x ws ih =>
    obtain ⟨here, later⟩ := List.forall_mem_cons.1 out
    rw [List.foldl_cons, ih (Bytes.wf_write wf _ _) later, Bytes.byte_write wf, if_neg here]

theorem Bytes.wf_writeAll {m : Bytes} (wf : m.wf = true) (ws : List (LaneOp × List Byte)) : (m.writeAll ws).wf = true := by
  unfold Bytes.writeAll
  induction ws generalizing m with
  | nil => exact wf
  | cons x ws ih => exact ih (Bytes.wf_write wf _ _)

/-- A store of module memory is complete once it is performed, its lanes in their order (R194). -/
theorem State.performStore_spec (s : State) {u : Troupe} {o : Op} {n : Nat} (found : s.troupe u.key = some u)
    (inside : ∀ l ∈ o.lanes, inModule l.pa = true) (awaited : o.external = []) (kept : o.clash = false) (kind : o.kind = .store n) :
    ∃ (x : State) (p : Nat), x.mem = s.mem.writeAll (o.lanes.map fun l => (l, l.data)) ∧ x.troupes = s.troupes ∧
      s.performStore u o = (x.putTroupe { u with pts := p }).dropOp u.key o.id := by
  obtain ⟨y, run⟩ : ∃ y, s.performStore u o = y := ⟨_, rfl⟩
  have unfolded := run
  rw [State.performStore, Op.inModule_lanes inside] at unfolded
  generalize o.lanes.map (fun l => (l, l.data)) = ws at unfolded ⊢
  have stored : (if ws.isEmpty then (s, u.pts) else s.storeAt u.world u.core u.pts ws).1.mem = s.mem.writeAll ws ∧
      (if ws.isEmpty then (s, u.pts) else s.storeAt u.world u.core u.pts ws).1.troupes = s.troupes := by
    split
    · next none =>
      rw [List.isEmpty_iff.1 none]
      exact ⟨rfl, rfl⟩
    · exact ⟨State.storeAt_mem _ _ _ _ _, (StoresOnly.storeAt _ _ _ _ _).troupes⟩
  dsimp only at unfolded
  generalize (if ws.isEmpty then (s, u.pts) else s.storeAt u.world u.core u.pts ws) = a at unfolded stored
  obtain ⟨mem, troupes⟩ := stored
  have reads := a.1.refreshL1_reads u.core a.2 ((linesOf (ws.map (·.1))).map (·.1))
  generalize a.1.refreshL1 u.core a.2 ((linesOf (ws.map (·.1))).map (·.1)) = x at unfolded reads
  have stands : x.troupe u.key = some u := by
    rw [reads.troupe, State.troupe, troupes]
    exact found
  rw [stands, Option.getD_some,
    State.putOp_complete (o := { o with performed := true }) rfl (Op.unsent_inside inside) awaited kept] at unfolded
  refine ⟨x, a.2, reads.1.trans mem, reads.2.2.trans troupes, run.trans (unfolded.symm.trans ?_)⟩
  rw [Troupe.putResults, kind]
  rfl

/-- The word of a register from the bytes at a lane's address (R193). -/
theorem loadedWord_memRead (s : State) (pa : Nat) {n j : Nat} (width : n = 1 ∨ n = 2 ∨ n = 4 ∨ n = 8 ∨ n = 16) {sext : Bool}
    (short : sext = true → n < 4) (part : j < (n + 3) / 4) :
    loadedWord sext (((s.memRead pa n).drop (4 * j)).take 4) =
      if sext = true ∧ n = 1 then (BitVec.ofNat 8 (leNat (s.memRead pa 1))).signExtend 32
      else if sext = true ∧ n = 2 then (BitVec.ofNat 16 (leNat (s.memRead pa 2))).signExtend 32
      else if n < 4 then BitVec.ofNat 32 (leNat (s.memRead pa n))
      else BitVec.ofNat 32 (leNat (s.memRead (pa + 4 * j) 4)) := by
  by_cases small : n < 4
  · obtain rfl : j = 0 := by omega
    rw [Nat.mul_zero, List.drop_zero, List.take_of_length_le (by rw [State.length_memRead]; omega), loadedWord,
      State.length_memRead, if_pos small]
    cases sext with
    | false => simp only [Bool.false_eq_true, false_and, if_false]
    | true =>
      obtain rfl | rfl : n = 1 ∨ n = 2 := by omega
      · rfl
      · rfl
  · have plain : sext = false := by
      by_contra signed
      exact small (short (by simpa using signed))
    subst plain
    rw [s.part_memRead pa (by omega), loadedWord, if_neg small]
    simp only [Bool.false_eq_true, false_and, if_false]

section

variable {core tslot : Nat} {s : State} {u : Troupe} {o : Op} (found : s.troupe (keyOf core tslot) = some u)
  (place : u.key = keyOf core tslot) (turn : s.turns u = [(o, none)]) (awaited : o.external = [])
  (inside : ∀ l ∈ o.lanes, inModule l.pa = true ∧ l.lane < 128) (kept : o.clash = false)

include found place turn awaited inside kept

/-- A vector load (R193, R194). -/
theorem sliceAccess_load {n d : Nat} {sext : Bool} (fresh : o.results = [])
    (distinct : o.lanes.Pairwise fun a b => a.lane ≠ b.lane) (kind : o.kind = .load n sext d)
    (width : n = 1 ∨ n = 2 ∨ n = 4 ∨ n = 8 ∨ n = 16) (short : sext = true → n < 4) (room : d + (n + 3) / 4 ≤ 64)
    (lanes : ∀ l ∈ o.lanes, l.pa % n = 0 ∧ (s.core u.core).l1.find (l.pa / 128) = none) :
    ∃ t v, exec (.sliceAccessPerformed core tslot) s = .next t ∧ t.mem = s.mem ∧ t.troupe u.key = some v ∧
      (∀ k, k ≠ u.key → t.troupe k = s.troupe k) ∧
      v = { u with v := v.v, pts := v.pts, ops := u.ops.filter fun x => x.id != o.id } ∧
      (∀ l ∈ o.lanes, ∀ j, j < (n + 3) / 4 → (v.vreg (d + j)).lane l.lane =
        if sext = true ∧ n = 1 then (BitVec.ofNat 8 (leNat (s.memRead l.pa 1))).signExtend 32
        else if sext = true ∧ n = 2 then (BitVec.ofNat 16 (leNat (s.memRead l.pa 2))).signExtend 32
        else if n < 4 then BitVec.ofNat 32 (leNat (s.memRead l.pa n))
        else BitVec.ofNat 32 (leNat (s.memRead (l.pa + 4 * j) 4))) ∧
      ∀ r i, (r < d ∨ d + (n + 3) / 4 ≤ r ∨ ∀ l ∈ o.lanes, l.lane ≠ i) → (v.vreg r).lane i = (u.vreg r).lane i := by
  have fits (l : LaneOp) (hl : l ∈ o.lanes) : l.pa % 128 + n ≤ 128 := by
    have aligned := (lanes l hl).1
    rcases width with rfl | rfl | rfl | rfl | rfl <;> omega
  obtain ⟨x, p, reads, run⟩ := State.performLoad_spec (n := n) (place ▸ found) (fun l hl => (inside l hl).1) awaited kept fresh
    fun l hl => ⟨fits l hl, (lanes l hl).2⟩
  have got : ({ u with pts := p } : Troupe).putResults { o with performed := true, results := s.loaded o n } =
      ({ u with pts := p } : Troupe).putLoad n sext d (s.loaded o n) := by
    simp only [Troupe.putResults, kind]
  generalize wrote : ({ u with pts := p } : Troupe).putLoad n sext d (s.loaded o n) = w at got
  rw [got] at run
  have frame : w = { u with pts := p, v := w.v } := wrote ▸ Troupe.putLoad_frame { u with pts := p } _ _ _ _
  obtain ⟨same, mine, others⟩ := x.putTroupe_dropOp o.id (show w.key = u.key by rw [frame]; rfl)
  have small : ∀ y ∈ s.loaded o n, y.1 < 128 := fun y hy => by
    obtain ⟨l, hl, rfl⟩ := List.mem_map.1 hy
    exact (inside l hl).2
  have apart : (s.loaded o n).Pairwise fun a b => a.1 ≠ b.1 := List.pairwise_map.2 distinct
  have mem : ((x.putTroupe w).dropOp u.key o.id).mem = x.mem := by
    have := congrArg State.mem same
    exact this
  refine ⟨_, _, (sliceAccess_eq found turn).trans (congrArg Host.Outcome.next ?_), mem.trans reads.1, mine,
    fun k hk => (others k hk).trans (reads.troupe k), ?_, fun l hl j hj => ?_, fun r i other => ?_⟩
  · rw [← run]
    simp only [State.performTurn, kind]
  · rw [frame]
  · have word := Troupe.vreg_load_lane room { u with pts := p } sext small apart (List.mem_map.2 ⟨l, hl, rfl⟩) hj
    rw [wrote, loadedWord_memRead s l.pa width short hj] at word
    exact word
  · have stays := Troupe.vreg_load_other room { u with pts := p } sext small (r := r) (l := i)
      (other.imp_right fun h => h.imp_right fun absent y hy => by
        obtain ⟨l, hl, rfl⟩ := List.mem_map.1 hy
        exact absent l hl)
    rw [wrote] at stays
    exact stays

/-- A scalar load (R194). -/
theorem sliceAccess_sload {d : Nat} {l : LaneOp} (fresh : o.results = []) (kind : o.kind = .sload d) (one : o.lanes = [l])
    (aligned : l.pa % 8 = 0) (absent : (s.core u.core).l1.find (l.pa / 128) = none) (reg : d < 64) :
    ∃ t v, exec (.sliceAccessPerformed core tslot) s = .next t ∧ t.mem = s.mem ∧ t.troupe u.key = some v ∧
      v = { u with s := v.s, pts := v.pts, ops := u.ops.filter fun x => x.id != o.id } ∧
      v.sreg d = BitVec.ofNat 64 (leNat (s.memRead l.pa 8)) ∧ ∀ r, r ≠ d → v.sreg r = u.sreg r := by
  obtain ⟨x, p, reads, run⟩ := State.performLoad_spec (n := 8) (place ▸ found) (fun l hl => (inside l hl).1) awaited kept fresh
    fun m hm => by
      obtain rfl : m = l := by simpa [one] using hm
      exact ⟨by omega, absent⟩
  have got : ({ u with pts := p } : Troupe).putResults { o with performed := true, results := s.loaded o 8 } =
      ({ u with pts := p } : Troupe).setS d (w64 (leNat (s.memRead l.pa 8))) := by
    simp only [Troupe.putResults, kind, State.loaded, one, List.map_singleton, List.head?_cons, Option.map_some, Option.getD_some]
  generalize wrote : ({ u with pts := p } : Troupe).setS d (w64 (leNat (s.memRead l.pa 8))) = w at got
  rw [got] at run
  have frame : w = { u with pts := p, s := w.s } := wrote ▸ Troupe.setS_frame { u with pts := p } _ _
  obtain ⟨same, mine, -⟩ := x.putTroupe_dropOp o.id (show w.key = u.key by rw [frame]; rfl)
  have mem : ((x.putTroupe w).dropOp u.key o.id).mem = x.mem := by
    have := congrArg State.mem same
    exact this
  have regs (r : Nat) : w.sreg r = if d = r ∧ d < 64 then w64 (leNat (s.memRead l.pa 8)) else u.sreg r :=
    wrote ▸ Troupe.sreg_setS { u with pts := p } d r _
  refine ⟨_, _, (sliceAccess_eq found turn).trans (congrArg Host.Outcome.next ?_), mem.trans reads.1, mine, ?_,
    (regs d).trans (if_pos ⟨rfl, reg⟩), fun r hr => (regs r).trans (if_neg fun h => hr h.1.symm)⟩
  · rw [← run]
    simp only [State.performTurn, kind]
  · rw [frame]

/-- A store of module memory (R193, R204). -/
theorem sliceAccess_store {n : Nat} (kind : o.kind = .store n) (data : ∀ l ∈ o.lanes, l.data.length = n)
    (wf : s.mem.wf = true) :
    ∃ t v, exec (.sliceAccessPerformed core tslot) s = .next t ∧ t.mem.wf = true ∧ t.troupe u.key = some v ∧
      (∀ k, k ≠ u.key → t.troupe k = s.troupe k) ∧
      v = { u with pts := v.pts, ops := u.ops.filter fun x => x.id != o.id } ∧
      (∀ a, (∀ l ∈ o.lanes, ¬ (l.pa ≤ a ∧ a < l.pa + n)) → t.mem.byte a = s.mem.byte a) ∧
      ∀ xs l ys, o.lanes = xs ++ l :: ys → (∀ m ∈ ys, m.pa + n ≤ l.pa ∨ l.pa + n ≤ m.pa) → t.mem.read l.pa n = l.data := by
  obtain ⟨x, p, mem, troupes, run⟩ := s.performStore_spec (place ▸ found) (fun l hl => (inside l hl).1) awaited kept kind
  obtain ⟨same, mine, others⟩ := x.putTroupe_dropOp o.id (show Troupe.key { u with pts := p } = u.key from rfl)
  have mem : ((x.putTroupe { u with pts := p }).dropOp u.key o.id).mem = s.mem.writeAll (o.lanes.map fun l => (l, l.data)) := by
    have := congrArg State.mem same
    exact Eq.trans this mem
  refine ⟨_, _, (sliceAccess_eq found turn).trans (congrArg Host.Outcome.next ?_), ?_, mine, fun k hk => (others k hk).trans ?_,
    rfl, fun a out => ?_, fun xs l ys cut apart => ?_⟩
  · rw [← run]
    simp only [State.performTurn, kind]
  · rw [mem]
    exact Bytes.wf_writeAll wf _
  · rw [State.troupe, troupes]
    rfl
  · rw [mem, Bytes.byte_writeAll wf]
    rintro y hy
    obtain ⟨l, hl, rfl⟩ := List.mem_map.1 hy
    rw [data l hl]
    exact out l hl
  · have first : (s.mem.writeAll (xs.map fun l => (l, l.data))).wf = true := Bytes.wf_writeAll wf _
    have long : l.data.length = n := data l (by simp [cut])
    have behind : s.mem.writeAll (o.lanes.map fun l => (l, l.data)) =
        ((s.mem.writeAll (xs.map fun l => (l, l.data))).write l.pa l.data).writeAll (ys.map fun l => (l, l.data)) := by
      rw [cut, Bytes.writeAll, List.map_append, List.foldl_append]
      rfl
    rw [mem, behind, ← long, Bytes.read_congr fun a low high => Bytes.byte_writeAll (Bytes.wf_write first _ _) _ ?_,
      Bytes.read_write first]
    intro y hy
    obtain ⟨m, hm, rfl⟩ := List.mem_map.1 hy
    rw [data m (by simp [cut, hm])]
    have := apart m hm
    dsimp only
    omega

end

/-! ### Misses (R183, R188) -/

theorem State.troupe_putTroupe_other {s : State} {v : Troupe} {k : Nat} (other : v.key ≠ k) :
    (s.putTroupe v).troupe k = s.troupe k := (State.troupe_putTroupe _ _ _).trans (if_neg other)

/-- A troupe whose pages are mapped, or that waited for room, issues its instruction again. -/
theorem missRetry_spec {core tslot : Nat} {s : State} {u : Troupe} (found : s.troupe (keyOf core tslot) = some u)
    (free : u.ctl.wait = .missRoom ∨ ∃ ps, u.ctl.wait = .parked ps ∧
      ∀ e ∈ (s.cluster (clusterOf core)).miss, u.key ∉ e.parked)
    (straight : u.ctl.divert = false) (unarmed : u.act.armed = false) (timer : u.sp.timer = 0) :
    ∃ t, exec (.missRetry core tslot) s = .next t ∧ { t with troupes := s.troupes } = s ∧
      (∀ k, k ≠ u.key → t.troupe k = s.troupe k) ∧
      t.troupe u.key = some { u with ctl := { u.ctl with wait := .no, readyAt := s.cycle, stalled := false } } := by
  have run : exec (.missRetry core tslot) s =
      .next ((s.putTroupe { u with ctl := { u.ctl with wait := .no } }).boundary u.key) := by
    show execMissRetry core tslot s = _
    rw [execMissRetry, found]
    dsimp only
    rcases free with room | ⟨ps, parked, released⟩
    · rw [room]
      exact if_pos rfl
    · rw [parked]
      exact if_pos (by simpa using released)
  have again : (s.putTroupe { u with ctl := { u.ctl with wait := .no } }).boundary u.key =
      (s.putTroupe { u with ctl := { u.ctl with wait := .no } }).putTroupe
        { u with ctl := { u.ctl with wait := .no, readyAt := s.cycle, stalled := false } } := by
    have stands : (s.putTroupe { u with ctl := { u.ctl with wait := .no } }).troupes.find u.key =
        some { u with ctl := { u.ctl with wait := .no } } := (State.troupe_putTroupe _ _ _).trans (if_pos rfl)
    unfold State.boundary
    rw [stands]
    simp only [straight, unarmed, timer, Bool.false_eq_true, false_and, ne_eq, not_true, if_false, ite_self]
    rfl
  refine ⟨_, run.trans (congrArg Host.Outcome.next again), rfl, fun k hk => ?_, ?_⟩
  · refine (State.troupe_putTroupe_other ?_).trans (State.troupe_putTroupe_other ?_) <;> exact Ne.symm hk
  · exact (State.troupe_putTroupe _ _ _).trans (if_pos rfl)

/-! ### Answers of the host (R198, R199, R222, R365) -/

/-- The request for one lane at the host. -/
def hostRequest (s : State) (t : Troupe) (opId tag : Nat) (sync : Bool) (o : LaneOp) (errand : Errand) : Ext :=
  { id := s.book.nextId, tkey := t.key, uid := t.uid, opId := opId, world := t.world, peer := none, tag := tag, lanes := [o]
    sync := sync, errand := errand }

theorem State.ask_host (s : State) (t : Troupe) (opId tag : Nat) (sync : Bool) {o : LaneOp} (errand : Errand)
    (host : regionOf o.pa = .host) : s.ask t opId tag sync [o] errand =
      { s with
        book := s.freshId.2.book
        ext := s.ext ++ [hostRequest s t opId tag sync o errand]
        out := s.out ++ [.request s.book.nextId none tag o.pa (o.data ++ wordBytes o.x ++ wordBytes o.c)] } := by
  unfold State.ask
  simp only [List.foldl_cons, List.foldl_nil, host]
  rfl

theorem leNat_lt (bs : List Byte) : leNat bs < 256 ^ bs.length := by
  induction bs with
  | nil => decide
  | cons b bs ih =>
    have := b.isLt
    rw [leNat, List.length_cons, Nat.pow_succ]
    omega

theorem leBytes_leNat (bs : List Byte) : leBytes bs.length (leNat bs) = bs := by
  induction bs with
  | nil => rfl
  | cons b bs ih =>
    have small := b.isLt
    have low : BitVec.ofNat 8 (b.toNat + 256 * leNat bs) = b := BitVec.eq_of_toNat_eq (by rw [BitVec.toNat_ofNat]; omega)
    rw [List.length_cons, leBytes, leNat, low, show (b.toNat + 256 * leNat bs) / 256 = leNat bs by omega, ih]

/-- Eight bytes are the bytes of their word. -/
theorem wordBytes_leNat {bs : List Byte} (eight : bs.length = 8) : wordBytes (w64 (leNat bs)) = bs := by
  have small := leNat_lt bs
  have same := leBytes_leNat bs
  rw [eight] at small same
  rw [wordBytes, w64, BitVec.toNat_ofNat, Nat.mod_eq_of_lt (by omega)]
  exact same

theorem exactly_of_length {n : Nat} {bs : List Byte} (long : bs.length = n) : exactly n bs = bs := by
  rw [exactly, ← long, List.take_length, Nat.sub_self, List.replicate_zero, List.append_nil]

section

variable {id : Nat} {s : State} {x : Ext} (asked : s.ext.find? (fun y => y.id == id) = some x)

/-- The answer is counted where it tells that a lane has been performed (R376). -/
def State.tally (s : State) (x : Ext) (r : Reply) : State := if x.laneDone r then s.count x.world 0x0F (x.tkey / 32) 1 else s

theorem State.tally_counters (s : State) (x : Ext) (r : Reply) : CountersOnly s (s.tally x r) := by
  unfold State.tally
  split
  · exact CountersOnly.of_count _ _ _ _ _
  · exact CountersOnly.refl s

theorem State.tally_ext (s : State) (x : Ext) (r : Reply) : (s.tally x r).ext = s.ext := by
  have := congrArg State.ext (s.tally_counters x r).1
  exact this

include asked

theorem Ext.id_of_find : x.id = id := by simpa using List.find?_some asked

/-- An answer that an instruction waits for is kept. -/
theorem pcieCompletion_kept {r : Reply} (waits : x.sync = true) (noRead : ∀ m, x.errand ≠ .swapRead m)
    (noSwap : ∀ m old, x.errand ≠ .swap m old) :
    ∃ t, exec (.pcieCompletion id r) s = .next t ∧
      { t with ext := s.ext, worlds := s.worlds, book := s.book } = s ∧
      (∀ w, { t.world w with counters := (s.world w).counters } = s.world w) ∧
      t.ext.find? (fun y => y.id == id) = some { x with reply := some r } := by
  have run : exec (.pcieCompletion id r) s = .next { s.tally x r with
      ext := (s.tally x r).ext.map fun (y : Ext) => if y.id == id then { y with reply := some r } else y } := by
    show execPcieCompletion id r s = _
    unfold execPcieCompletion
    simp only [asked, waits, if_true]
    split
    · next m _ read => exact absurd read (noRead m)
    · next m old _ swap => exact absurd swap (noSwap m old)
    · rfl
  obtain ⟨same, worlds⟩ := s.tally_counters x r
  refine ⟨_, run, ?_, worlds, ?_⟩
  · have := congrArg (fun t : State => { t with ext := s.ext }) same
    exact this
  · rw [State.tally_ext, List.find?_map]
    have named : ((fun y : Ext => y.id == id) ∘ fun y => if y.id == id then { y with reply := some r } else y) =
        fun y => y.id == id := by
      funext y
      by_cases h : y.id = id <;> simp [h]
    rw [named, asked, Option.map_some, if_pos (by simp [Ext.id_of_find asked])]

/-- What the OR of `valid` has read, or found in place of what it read, is swapped for its OR with the mask (R365). -/
theorem pcieCompletion_swap {bs : List Byte} {o : LaneOp} {mask : W64} (waits : x.sync = true) (one : x.lanes = [o])
    (host : regionOf o.pa = .host) (eight : bs.length = 8)
    (stale : x.errand = .swapRead mask ∨ ∃ old, x.errand = .swap mask old ∧ w64 (leNat bs) ≠ old) :
    ∃ t, exec (.pcieCompletion id (.data bs)) s = .next t ∧ t.troupes = s.troupes ∧ t.mem = s.mem ∧
      t.out = s.out ++ [.request s.book.nextId none (17 + 2 * AOp.cas.ctorIdx) o.pa
        (o.data ++ wordBytes (w64 (leNat bs) ||| mask) ++ bs)] ∧
      ∃ y, t.ext = s.ext.filter (fun y => y.id != id) ++ [y] ∧ y.id = s.book.nextId ∧ y.sync = true ∧
        y.errand = .swap mask (w64 (leNat bs)) := by
  have silent : s.tally x (.data bs) = s := by
    unfold State.tally Ext.laneDone
    rcases stale with read | ⟨old, swap, other⟩
    · simp [read]
    · simp [swap, exactly_of_length eight, other]
  have again : s.swapOn x bs = ({ s with ext := s.ext.filter fun y => y.id != id } : State).ask
      ((s.requester x.tkey x.uid).getD { Troupe.blank with uid := x.uid, world := x.world }) x.opId (17 + 2 * AOp.cas.ctorIdx)
      true [{ o with x := w64 (leNat bs) ||| mask, c := w64 (leNat bs) }] (.swap mask (w64 (leNat bs))) := by
    unfold State.swapOn
    rw [exactly_of_length eight, Ext.id_of_find asked, one]
    rcases stale with read | ⟨old, swap, other⟩
    · rw [read]; rfl
    · rw [swap]; exact if_neg other
  have run : exec (.pcieCompletion id (.data bs)) s = .next (s.swapOn x bs) := by
    show execPcieCompletion id (.data bs) s = _
    unfold execPcieCompletion
    have counted : (if x.laneDone (.data bs) then s.count x.world 0x0F (x.tkey / 32) 1 else s) = s := silent
    simp only [asked, waits, if_true, counted]
    rcases stale with read | ⟨old, swap, other⟩
    · rw [read]
    · rw [swap]
  rw [run, again, State.ask_host (o := { o with x := w64 (leNat bs) ||| mask, c := w64 (leNat bs) }) _ _ _ _ _ _ host]
  refine ⟨_, rfl, rfl, rfl, ?_, _, rfl, rfl, rfl, rfl⟩
  rw [wordBytes_leNat eight]

end

theorem State.tryRetire_nextId (s : State) (k : Nat) : (s.tryRetire k).book.nextId = s.book.nextId := by
  unfold State.tryRetire
  split
  · rfl
  · split <;> rfl

theorem State.retireNamed_frame (s : State) (k uid : Nat) :
    s.retireNamed k uid = { s with book := (s.retireNamed k uid).book } := by
  unfold State.retireNamed
  split
  · exact (s.tryRetire_frame _).1
  · rfl

theorem State.answerCopies_frame (s : State) (x : Ext) :
    s.answerCopies x false = { s with copies := (s.answerCopies x false).copies } := by
  unfold State.answerCopies
  split <;> rfl

/-- An answer to an operation that its troupe does not have any more reaches nobody. -/
theorem State.answer_dropped {s : State} {x : Ext} (left : ∀ u, s.requester x.tkey x.uid = some u → ∀ p ∈ u.ops, p.id ≠ x.opId)
    (bytes : Option (List Byte)) : ∃ a, s.answer x bytes = a ∧ a = { s with book := a.book } ∧ a.book.nextId = s.book.nextId := by
  refine ⟨_, rfl, ?_⟩
  unfold State.answer
  split
  · exact ⟨rfl, rfl⟩
  · next t asked =>
    have none : t.ops.find? (fun o => o.id == x.opId) = .none :=
      List.find?_eq_none.2 fun p hp same => left t asked p hp (by simpa using same)
    rw [none]
    exact ⟨(s.tryRetire_frame _).1, s.tryRetire_nextId _⟩

section

variable {id : Nat} {s : State} {x : Ext} (asked : s.ext.find? (fun y => y.id == id) = some x)

include asked

/-- An acknowledgement ends what was sent. -/
theorem pcieCompletion_ack (posted : x.sync = false) (noReduction : x.reduces = false) (noRecord : ∀ n k, x.errand ≠ .record n k) :
    ∃ t, exec (.pcieCompletion id .ack) s = .next t ∧ t.ext = s.ext.filter (fun y => y.id != id) ∧
      t.troupes = s.troupes ∧ t.mem = s.mem := by
  obtain ⟨same, -⟩ := s.tally_counters x .ack
  generalize counted : s.tally x .ack = a at same
  have run : exec (.pcieCompletion id .ack) s =
      .next ((({ a with ext := a.ext.filter fun y => y.id != id } : State).answerCopies x false).retireNamed x.tkey x.uid) := by
    have tallied : (if x.laneDone .ack then s.count x.world 0x0F (x.tkey / 32) 1 else s) = a := counted
    show execPcieCompletion id .ack s = _
    unfold execPcieCompletion
    simp only [asked, posted, Bool.false_eq_true, if_false, tallied]
    have quiet (t : State) : t.reduceOn x .ack = t := by
      unfold Ext.reduces at noReduction
      unfold State.reduceOn
      dsimp only
      split <;> simp_all
    rw [quiet]
  generalize ended : ({ a with ext := a.ext.filter fun y => y.id != id } : State).answerCopies x false = b at run
  have gone := State.answerCopies_frame { a with ext := a.ext.filter fun y => y.id != id } x
  have retired := b.retireNamed_frame x.tkey x.uid
  rw [ended] at gone
  have ext : a.ext = s.ext := by
    have := congrArg State.ext same
    exact this
  have troupes : a.troupes = s.troupes := by
    have := congrArg State.troupes same
    exact this
  have mem : a.mem = s.mem := by
    have := congrArg State.mem same
    exact this
  refine ⟨_, run, ?_, ?_, ?_⟩
  · rw [retired, gone, ← ext]
  · rw [retired, gone, ← troupes]
  · rw [retired, gone, ← mem]

/-- What the host answers to the read of a reduction leads to the write of its result (R198, R199). -/
theorem pcieCompletion_reduce {bs : List Byte} {aop : AOp} {wide : Bool} {o : LaneOp} {rest : List LaneOp} (posted : x.sync = false)
    (reads : x.errand = .reduceRead aop wide (o :: rest)) (host : regionOf o.pa = .host)
    (left : ∀ u, s.requester x.tkey x.uid = some u → ∀ p ∈ u.ops, p.id ≠ x.opId) (long : bs.length = if wide then 8 else 4) :
    ∃ t, exec (.pcieCompletion id (.data bs)) s = .next t ∧ t.troupes = s.troupes ∧ t.mem = s.mem ∧
      t.out = s.out ++ [.request s.book.nextId none 2 o.pa (atomicBytes aop wide bs o.x 0 ++ List.replicate 16 0)] ∧
      ∃ y, t.ext = s.ext.filter (fun y => y.id != id) ++ [y] ∧ y.id = s.book.nextId ∧
        y.errand = .reduceWrite aop wide rest := by
  have uncounted : (if x.laneDone (.data bs) then s.count x.world 0x0F (x.tkey / 32) 1 else s) = s := by
    simp [Ext.laneDone, reads]
  obtain ⟨a, answered, frame, named⟩ := State.answer_dropped (s := { s with ext := s.ext.filter fun y => y.id != id }) (x := x)
    left (some bs)
  have goes : a.reduceOn x (.data bs) = a.ask ((a.requester x.tkey x.uid).getD { Troupe.blank with uid := x.uid, world := x.world })
      x.opId 2 false [{ lane := o.lane, va := o.va, pa := o.pa, data := atomicBytes aop wide bs o.x 0 }]
      (.reduceWrite aop wide rest) := by
    unfold State.reduceOn
    rw [reads]
    dsimp only
    rw [exactly_of_length long]
  have run : exec (.pcieCompletion id (.data bs)) s = .next ((a.reduceOn x (.data bs)).retireNamed x.tkey x.uid) := by
    show execPcieCompletion id (.data bs) s = _
    unfold execPcieCompletion
    simp only [asked, posted, Bool.false_eq_true, if_false, uncounted, answered]
    rw [reads]
  rw [goes, State.ask_host (o := { lane := o.lane, va := o.va, pa := o.pa, data := atomicBytes aop wide bs o.x 0 }) _ _ _ _ _ _ host,
    named] at run
  generalize made : hostRequest a _ _ _ _ _ _ = y at run
  have name : y.id = s.book.nextId := by rw [← made]; exact named
  have errand : y.errand = .reduceWrite aop wide rest := by rw [← made]; rfl
  rw [State.retireNamed_frame, frame] at run
  have zeros (bs : List Byte) : bs ++ wordBytes 0 ++ wordBytes 0 = bs ++ List.replicate 16 0 := List.append_assoc _ _ _
  exact ⟨_, run, rfl, rfl, congrArg (fun bs => s.out ++ [Out.request s.book.nextId none 2 o.pa bs]) (zeros _), y, rfl, name, errand⟩

end

/-- Settles O34: what a slice performs is read off the bytes of memory, whatever L1 and the leases made of the access; each
answer is traced to the request that it ends or leads to. -/
theorem accessesAndAnswers : Obligations.AccessesAndAnswers := by
  unfold Obligations.AccessesAndAnswers
  refine ⟨fun core tslot s u o found place turn awaited inside kept fresh distinct => ⟨?_, ?_, ?_⟩,
    fun core tslot s u found turns => sliceAccess_some found turns,
    fun core tslot s u found _ free straight unarmed timer => missRetry_spec found free straight unarmed timer,
    fun id r s x asked waits noRead noSwap => pcieCompletion_kept asked waits noRead noSwap,
    fun id bs s x o mask asked waits one host eight stale => pcieCompletion_swap asked waits one host eight stale,
    fun id s x asked posted noReduction noRecord => pcieCompletion_ack asked posted noReduction noRecord,
    fun id s x bs aop wide o rest asked posted reads host left long => pcieCompletion_reduce asked posted reads host left long⟩
  · exact fun n sext d kind width short room lanes => sliceAccess_load found place turn awaited inside kept fresh distinct kind
      width short room lanes
  · exact fun d l kind one aligned absent reg => sliceAccess_sload found place turn awaited inside kept fresh kind one aligned
      absent reg
  · exact fun n kind data wf => sliceAccess_store found place turn awaited inside kept kind data wf

end Sys2Proof.Machine
end

section
/-! SUPPORT. Prefetch and pins (R173, R174, R278, R279). -/

namespace Sys2Proof.Machine

open Sys2Proof.Claims

/-! ### Prefetch (R278) -/

/-- Memory, troupes and the bytes of scratchpads are as they were. -/
def PrefetchOnly (s t : State) : Prop :=
  t.mem = s.mem ∧ t.troupes = s.troupes ∧ t.book.cur = s.book.cur ∧ ∀ c, (t.core c).spad = (s.core c).spad

namespace PrefetchOnly

theorem refl (s : State) : PrefetchOnly s s := ⟨rfl, rfl, rfl, fun _ => rfl⟩

theorem trans {a b c : State} (first : PrefetchOnly a b) (second : PrefetchOnly b c) : PrefetchOnly a c := by
  obtain ⟨mem, troupes, cur, spad⟩ := first
  obtain ⟨mem', troupes', cur', spad'⟩ := second
  exact ⟨mem'.trans mem, troupes'.trans troupes, cur'.trans cur, fun c => (spad' c).trans (spad c)⟩

theorem of_linesOnly {s t : State} (h : LinesOnly s t) : PrefetchOnly s t :=
  ⟨h.mem, h.troupes, h.cur, fun c => by rw [State.core, h.cores]; rfl⟩

theorem fillL1 (s : State) (core ln : Nat) (l : L1Line) : PrefetchOnly s (s.fillL1 core ln l) := by
  refine ⟨rfl, rfl, rfl, fun c => ?_⟩
  unfold State.fillL1
  rw [State.core_modCore]
  split
  · next same => rw [same]
  · rfl

theorem either {p : Prop} {_ : Decidable p} {s a b : State} (yes : PrefetchOnly s a) (no : PrefetchOnly s b) :
    PrefetchOnly s (if p then a else b) := by
  split
  · exact yes
  · exact no

end PrefetchOnly

/-- What a prefetch does with its line leaves memory, troupes and scratchpads alone. -/
theorem execPref_eq (e l1 : Bool) (m : SAddr) (la : Fin 16) (s : State) :
    ∃ x, exec (.pref e l1 m la) s = .next (x.advance 2 e) ∧ PrefetchOnly s x := by
  show ∃ x, execPref e l1 m la s = .next (x.advance 2 e) ∧ PrefetchOnly s x
  unfold execPref
  dsimp only
  split
  · next pa na _ =>
    split
    · exact ⟨s, rfl, PrefetchOnly.refl s⟩
    · refine ⟨_, rfl, ?_⟩
      have reached (p : Prop) [Decidable p] (wts rts : Nat) :
          PrefetchOnly s (if p then s else s.reachLine s.src.world s.src.core (lineNo pa) na none wts rts) :=
        PrefetchOnly.either (PrefetchOnly.refl s) (PrefetchOnly.of_linesOnly (LinesOnly.reachLine _ _ _ _ _ _ _ _))
      exact PrefetchOnly.either ((reached _ _ _).trans (PrefetchOnly.fillL1 _ _ _ _)) (reached _ _ _)
  · exact ⟨s, rfl, PrefetchOnly.refl s⟩

theorem pref_spec (e l1 : Bool) (m : SAddr) (la : Fin 16) (s : State) : ∃ t, exec (.pref e l1 m la) s = .next (ended e t) ∧
    t.mem = s.mem ∧ t.troupes = (s.setMe (behind s.me 2)).troupes ∧ ∀ c a, (t.core c).spad.byte a = (s.core c).spad.byte a := by
  obtain ⟨x, run, mem, troupes, cur, spad⟩ := execPref_eq e l1 m la s
  refine ⟨x.setMe (behind x.me 2), run, mem, ?_, fun c a => congrArg (Bytes.byte · a) (spad c)⟩
  show x.troupes.put x.book.cur (behind x.me 2) = s.troupes.put s.book.cur (behind s.me 2)
  rw [State.me, troupes, cur]
  rfl

theorem State.slice_modSlice (s : State) (i k : Nat) (f : Slice → Slice) :
    (s.modSlice i f).slice k = if i = k then f (s.slice i) else s.slice k := Table.get_put _ _ _ _ _

/-! ### Pins (R173, R174, R279) -/

/-- The status of a `pin` is written, and the troupe goes on; `y` is the module as the pin left it. -/
theorem pinStatus_of_eq {i : Instr} {e : Bool} {d : Reg} {n : W64} {s y : State} {P : State → Prop}
    (run : exec i s = y.scalar d n 2 e) (me : y.me = s.me.replayed) (mem : y.mem = s.mem) (cur : y.book.cur = s.book.cur)
    (troupes : ∀ k, k ≠ s.book.cur → y.troupe k = s.troupe k) (holds : ∀ t : State, { t with troupes := y.troupes } = y → P t) :
    ∃ t, exec i s = .next (ended e t) ∧ P t ∧ t.mem = s.mem ∧
      (∀ k, k ≠ s.book.cur → t.troupe k = s.troupe k) ∧ t.me.sreg d.val = n ∧
      (∀ r, r ≠ d.val → t.me.sreg r = s.me.sreg r) ∧
      t.me = { behind s.me 2 with
        s := t.me.s, sp := { s.me.sp with replay := 0 }
        ctl := { (behind s.me 2).ctl with replayPc := none } } := by
  obtain ⟨t, ends, ⟨only, others⟩, frame, written, regs⟩ := y.scalar_spec d n 2 e
  rw [me] at frame regs
  refine ⟨t, run.trans ends, holds t only, ?_, fun k hk => ?_, written, regs, frame⟩
  · have := congrArg State.mem only
    exact Eq.trans this mem
  · rw [others k (by rw [cur]; exact hk), troupes k hk]

/-! #### The line that is pinned -/

/-- Counters, bookkeeping and the latest time may differ, and nothing else. -/
def Tallied (s t : State) : Prop :=
  { t with worlds := s.worlds, book := s.book, maxTs := s.maxTs } = s ∧
  (∀ k, { t.world k with counters := (s.world k).counters } = s.world k) ∧ t.book.cur = s.book.cur

theorem CountersOnly.countFabric (s : State) (core : Nat) : CountersOnly s (s.countFabric core) := by
  have one (s : State) (event c : Nat) : CountersOnly s (s.freeNat.2.count 0 event c s.freeNat.1) :=
    CountersOnly.trans (b := s.freeNat.2) ⟨rfl, fun _ => rfl⟩ (CountersOnly.of_count _ _ _ _ _)
  have either {p : Prop} {_ : Decidable p} {s a b : State} (yes : CountersOnly s a) (no : CountersOnly s b) :
      CountersOnly s (if p then a else b) := by
    split
    · exact yes
    · exact no
  unfold State.countFabric
  exact either (CountersOnly.trans (either (one s _ _) (CountersOnly.refl s)) (either (one _ _ _) (CountersOnly.refl _)))
    (CountersOnly.refl s)

/-- An access of a line that its slice holds leaves it there with the times of the access, as the most recently used. -/
theorem State.reachLine_held {s : State} {ln : Nat} {l : L2Line} (held : (s.slice (sliceOf (ln * 128))).lines.find ln = some l)
    (w core : Nat) (na : Bool) (wts rts : Nat) : ∃ a u, Tallied s a ∧ a.slices = s.slices ∧
      s.reachLine w core ln na none wts rts =
        a.modSlice (sliceOf (ln * 128)) fun sl => { sl with lines := sl.lines.put ln { l with wts := wts, rts := rts, used := u } } := by
  obtain ⟨same, worlds⟩ := (CountersOnly.of_count s w 8 core 1).trans (CountersOnly.countFabric _ core)
  have cur := (LinesOnly.reached s w core rts).cur
  have slices : ((s.count w 8 core 1).countFabric core).slices = s.slices := by
    have := congrArg State.slices same
    exact this
  have found : ((((s.count w 8 core 1).countFabric core).noteTs rts).slice (sliceOf (ln * 128))).lines.find ln = some l := by
    refine Eq.trans ?_ held
    exact congrArg (fun x : Table Slice => (x.get (sliceOf (ln * 128)) {}).lines.find ln) slices
  refine ⟨(((s.count w 8 core 1).countFabric core).noteTs rts).freshId.2,
    (((s.count w 8 core 1).countFabric core).noteTs rts).freshId.1, ⟨?_, worlds, cur⟩, slices, ?_⟩
  · have := congrArg (fun x : State => { x with maxTs := s.maxTs }) same
    exact this
  · unfold State.reachLine
    dsimp only
    rw [found]

theorem mem_inWay {lines : Table L2Line} {y : Nat} {e : Nat × L2Line} :
    e ∈ inWay lines y ↔ e ∈ lines ∧ ∃ h, e.2.way = some h ∧ h / 2 = y := by
  rw [inWay, List.mem_filter]
  cases way : e.2.way with
  | none => simp
  | some h => simp

/-- Whether a way is left does not depend on lines that are not pinned. -/
theorem freeWayLeft_put {lines : Table L2Line} {ln : Nat} {l x : L2Line} (found : lines.find ln = some l) (old : l.pinned = none)
    (new : x.pinned = none) (set dways : Nat) (but : Option Nat) :
    freeWayLeft ((lines.put ln x).filter fun e => setOf e.1 == set) dways but =
      freeWayLeft (lines.filter fun e => setOf e.1 == set) dways but := by
  have pinned (t : Table L2Line) (y : Nat) : ((inWay (t.filter fun e => setOf e.1 == set) y).all fun e => e.2.pinned.isNone) = true ↔
      ∀ e ∈ t, (setOf e.1 == set) = true → (∃ h, e.2.way = some h ∧ h / 2 = y) → e.2.pinned.isNone = true := by
    simp only [List.all_eq_true, mem_inWay, List.mem_filter, and_imp]
  unfold freeWayLeft
  refine congrArg (List.any _) (funext fun y =>
    congrArg (fun z => dways / 2 ^ y % 2 == 1 && but != some y && z) (Bool.eq_iff_iff.2 ?_))
  rw [pinned, pinned]
  constructor
  · intro h e mem
    rcases Table.mem_put_of_mem (k := ln) x l mem with stays | rfl
    · exact h e stays
    · rw [Table.get, found]
      exact fun _ _ => by simp [old]
  · intro h e mem
    rcases Table.mem_put mem with rfl | stays
    · exact fun _ _ => by simp [new]
    · exact h e stays

section

variable {s : State} {ln w : Nat} {l : L2Line} (held : (s.slice (sliceOf (ln * 128))).lines.find ln = some l) (core : Nat) (na : Bool)

include held

theorem State.pinLine_pinned (pinned : l.pinned.isSome = true) : s.pinLine w core ln na = (1, s) := by
  obtain ⟨v, owner⟩ := Option.isSome_iff_exists.1 pinned
  unfold State.pinLine
  simp only [held, Option.bind_some, owner]

variable (free : l.pinned = none)

include free

theorem State.pinLine_quota (full : (s.world w).limits.pinQuota.get (sliceOf (ln * 128)) 0 ≤ (s.slice (sliceOf (ln * 128))).pinsOf w) :
    s.pinLine w core ln na = (2, s) := by
  unfold State.pinLine
  simp only [held, Option.bind_some, free, full, if_true]

variable (room : (s.slice (sliceOf (ln * 128))).pinsOf w < (s.world w).limits.pinQuota.get (sliceOf (ln * 128)) 0)

include room

theorem State.pinLine_noWay (none : (s.world w).limits.dways.get (sliceOf (ln * 128)) 0 = 0) : s.pinLine w core ln na = (4, s) := by
  unfold State.pinLine
  simp only [held, Option.bind_some, free, if_neg (not_le.2 room), none, if_true]

/-- With room in the quota and a data way there, it depends on the ways of the set whether the line is pinned (R173). -/
theorem State.pinLine_ways (ways : (s.world w).limits.dways.get (sliceOf (ln * 128)) 0 ≠ 0) :
    ∃ y : State, s.pinLine w core ln na =
      (if freeWayLeft ((s.slice (sliceOf (ln * 128))).inSet (setOf ln)) ((s.world w).limits.dways.get (sliceOf (ln * 128)) 0)
          (l.way.map (· / 2)) = false then (3, s) else (0, y)) ∧
      { y with slices := s.slices, worlds := s.worlds, book := s.book, maxTs := s.maxTs } = s ∧
      (∀ k, { y.world k with counters := (s.world k).counters } = s.world k) ∧ y.book.cur = s.book.cur ∧
      (∃ u, (y.slice (sliceOf (ln * 128))).lines.find ln = some { l with pinned := some w, used := u }) ∧
      ∀ k, k ≠ ln → (y.slice (sliceOf (ln * 128))).lines.find k = (s.slice (sliceOf (ln * 128))).lines.find k := by
  obtain ⟨a, u, ⟨same, worlds, cur⟩, slices, reach⟩ := State.reachLine_held held w core na l.wts l.rts
  have times : s.lineTs ln = (l.wts, l.rts) := by simp only [State.lineTs, held]
  have lines : (a.slice (sliceOf (ln * 128))).lines = (s.slice (sliceOf (ln * 128))).lines :=
    congrArg (fun x : Table Slice => (x.get (sliceOf (ln * 128)) {}).lines) slices
  have left := freeWayLeft_put (x := { l with used := u }) held free free (setOf ln)
    ((s.world w).limits.dways.get (sliceOf (ln * 128)) 0) (l.way.map (· / 2))
  refine ⟨(a.modSlice (sliceOf (ln * 128)) fun sl => { sl with lines := sl.lines.put ln { l with used := u } }).modSlice
    (sliceOf (ln * 128)) fun sl => { sl with lines := sl.lines.put ln { l with used := u, pinned := some w } },
    ?_, ?_, worlds, cur, ⟨u, ?_⟩, fun k other => ?_⟩
  · rw [free] at left
    unfold State.pinLine
    simp only [held, Option.bind_some, free, if_neg (not_le.2 room), if_neg ways, times, reach, State.slice_modSlice, if_true,
      Table.find_put, Bool.not_eq_true', lines, Slice.inSet, left]
  · have := congrArg (fun x : State => { x with slices := s.slices }) same
    exact this
  · rw [State.slice_modSlice, if_pos rfl, Table.find_put, if_pos rfl]
  · rw [State.slice_modSlice, if_pos rfl, Table.find_put, if_neg (Ne.symm other), State.slice_modSlice, if_pos rfl, Table.find_put,
      if_neg (Ne.symm other), lines]

end

section

variable {m : SAddr} {s : State} {o : LaneOp} (idle : s.src.busyOps = false) (near : o.atPeer = false)
  (checked : s.checkLanes s.src { bytes := 1, r := true, access := 1 } [(0, scalarAddr s.src m)] = .go [o] [])

include idle near checked

/-- An address that passes the checks of a load is acted on at once (R278). -/
theorem State.lineAccess_go (go : Nat → Bool → State → Res) : s.lineAccess m go = go o.pa o.na s := by
  have outs : gatherLanes (s.laneOuts s.src { bytes := 1, r := true, access := 1 } [(0, scalarAddr s.src m)]) = .go [o] [] := checked
  have far := farLanes_nil outs fun p hp => by rw [List.mem_singleton.1 hp]; exact near
  unfold State.lineAccess State.admitPeers
  simp only [far, outs, idle, List.isEmpty_nil, if_true, Bool.false_eq_true, if_false]

/-- A `pin` writes its status; nothing but the line, where it is pinned, differs (R279). -/
theorem pin_spec (e : Bool) (d : Reg) (la : Fin 16) :
    let i := sliceOf (lineNo o.pa * 128)
    let w := s.world s.me.world
    let status (n : W64) (P : State → Prop) : Prop :=
      ∃ t, exec (.pin e d m la) s = .next (ended e t) ∧ P t ∧ t.mem = s.mem ∧
        (∀ k, k ≠ s.book.cur → t.troupe k = s.troupe k) ∧ t.me.sreg d.val = n ∧
        (∀ r, r ≠ d.val → t.me.sreg r = s.me.sreg r) ∧
        t.me = { behind s.me 2 with
          s := t.me.s, sp := { s.me.sp with replay := 0 }
          ctl := { (behind s.me 2).ctl with replayPc := none } }
    (inModule o.pa = false → status 5 fun t => { t with troupes := s.troupes } = s) ∧
    (inModule o.pa = true → ∀ l, (s.slice i).lines.find (lineNo o.pa) = some l →
      (l.pinned.isSome = true → status 1 fun t => { t with troupes := s.troupes } = s) ∧
      (l.pinned = none → w.limits.pinQuota.get i 0 ≤ (s.slice i).pinsOf s.me.world →
        status 2 fun t => { t with troupes := s.troupes } = s) ∧
      (l.pinned = none → (s.slice i).pinsOf s.me.world < w.limits.pinQuota.get i 0 → w.limits.dways.get i 0 = 0 →
        status 4 fun t => { t with troupes := s.troupes } = s) ∧
      (l.pinned = none → (s.slice i).pinsOf s.me.world < w.limits.pinQuota.get i 0 → w.limits.dways.get i 0 ≠ 0 →
        let left := freeWayLeft ((s.slice i).inSet (setOf (lineNo o.pa))) (w.limits.dways.get i 0) (l.way.map (· / 2))
        (left = false → status 3 fun t => { t with troupes := s.troupes } = s) ∧
        (left = true → status 0 fun t =>
          { t with
            troupes := s.troupes, slices := s.slices, worlds := s.worlds, book := s.book, maxTs := s.maxTs } = s ∧
          (∀ k, { t.world k with counters := (s.world k).counters } = s.world k) ∧
          (∃ u, (t.slice i).lines.find (lineNo o.pa) = some { l with pinned := some s.me.world, used := u }) ∧
          ∀ k, k ≠ lineNo o.pa → (t.slice i).lines.find k = (s.slice i).lines.find k))) := by
  intro i w status
  have goes : exec (.pin e d m la) s = if inModule o.pa = false then (s.setMe s.me.replayed).scalar d 5 2 e
      else (((s.setMe s.me.replayed).pinLine s.me.world s.me.core (lineNo o.pa) o.na).2).scalar d
        (w64 ((s.setMe s.me.replayed).pinLine s.me.world s.me.core (lineNo o.pa) o.na).1) 2 e := by
    show execPin e d m la s = _
    rw [execPin, State.lineAccess_go idle near checked]
    dsimp only
    rw [State.me_setMe]
    simp only [Bool.not_eq_true']
    rfl
  have unchanged {n : W64} (run : exec (.pin e d m la) s = (s.setMe s.me.replayed).scalar d n 2 e) :
      status n fun t => { t with troupes := s.troupes } = s := by
    refine pinStatus_of_eq run (s.me_setMe _) rfl rfl (fun k hk => s.troupe_setMe _ k hk) fun t same => ?_
    have := congrArg (fun x : State => { x with troupes := s.troupes }) same
    exact this
  refine ⟨fun outside => unchanged (goes.trans (if_pos outside)), fun here l held => ?_⟩
  rw [if_neg (by simp [here])] at goes
  have held : ((s.setMe s.me.replayed).slice (sliceOf (lineNo o.pa * 128))).lines.find (lineNo o.pa) = some l := held
  have told {n : Nat} (pins : (s.setMe s.me.replayed).pinLine s.me.world s.me.core (lineNo o.pa) o.na = (n, s.setMe s.me.replayed)) :
      status (w64 n) fun t => { t with troupes := s.troupes } = s := unchanged (by rw [goes, pins])
  refine ⟨fun pinned => told (State.pinLine_pinned held _ _ pinned), fun free full => told (State.pinLine_quota held _ _ free full),
    fun free room none => told (State.pinLine_noWay held _ _ free room none), fun free room ways => ?_⟩
  obtain ⟨y, pins, same, worlds, cur, line, others⟩ := State.pinLine_ways held s.me.core o.na free room ways
  intro left
  refine ⟨fun none => told (pins.trans (if_pos none)), fun some => ?_⟩
  have pins := pins.trans (if_neg fun none => Bool.false_ne_true (none.symm.trans some))
  have troupes : y.troupes = (s.setMe s.me.replayed).troupes := by
    have := congrArg State.troupes same
    exact this
  have mem : y.mem = s.mem := by
    have := congrArg State.mem same
    exact this
  refine pinStatus_of_eq (y := y) (by rw [goes, pins]; rfl) ?_ mem cur (fun k hk => ?_) fun t only => ⟨?_, ?_, ?_, ?_⟩
  · rw [State.me, troupes, cur]
    exact s.me_setMe s.me.replayed
  · exact (congrArg (fun x : Table Troupe => x.find k) troupes).trans (s.troupe_setMe _ k hk)
  · have first := congrArg (fun x : State => { x with
      troupes := s.troupes, slices := s.slices, worlds := s.worlds, book := s.book, maxTs := s.maxTs }) only
    have second := congrArg (fun x : State => { x with troupes := s.troupes }) same
    exact first.trans second
  · intro k
    have := congrArg (fun x : State => x.world k) only
    rw [show t.world k = y.world k from this]
    exact worlds k
  · have := congrArg (fun x : State => x.slice (sliceOf (lineNo o.pa * 128))) only
    rw [show t.slice (sliceOf (lineNo o.pa * 128)) = y.slice (sliceOf (lineNo o.pa * 128)) from this]
    exact line
  · have := congrArg (fun x : State => x.slice (sliceOf (lineNo o.pa * 128))) only
    rw [show t.slice (sliceOf (lineNo o.pa * 128)) = y.slice (sliceOf (lineNo o.pa * 128)) from this]
    exact others

/-- A line as an `unpin` of world w leaves it. -/
def unpinned (w ln k : Nat) (l : L2Line) : L2Line := if k == ln && l.pinned == some w then { l with pinned := none } else l

/-- `unpin` undoes the world's own pin of the line, and no other (R174). -/
theorem unpin_spec (e : Bool) (la : Fin 16) :
    ∃ t, exec (.unpin e m la) s = .next (ended e t) ∧ { t with troupes := s.troupes, slices := s.slices } = s ∧
      (∀ k, k ≠ s.book.cur → t.troupe k = s.troupe k) ∧
      t.me = { behind s.me 2 with
        sp := { s.me.sp with replay := 0 }
        ctl := { (behind s.me 2).ctl with replayPc := none } } ∧
      ∀ i k, (t.slice i).lines.find k = ((s.slice i).lines.find k).map fun l =>
        if i = sliceOf o.pa ∧ k = lineNo o.pa ∧ l.pinned = some s.me.world then { l with pinned := none } else l := by
  have run : exec (.unpin e m la) s = .next (((s.setMe s.me.replayed).modSlice (sliceOf o.pa) fun sl =>
      { sl with lines := sl.lines.mapVals (unpinned s.me.world (lineNo o.pa)) }).advance 2 e) := by
    show execUnpin e m la s = _
    rw [execUnpin, State.lineAccess_go idle near checked]
    dsimp only
    rw [State.me_setMe]
    rfl
  obtain ⟨t, ends, ⟨only, others⟩, me⟩ := State.advance_spec ((s.setMe s.me.replayed).modSlice (sliceOf o.pa) fun sl =>
      { sl with lines := sl.lines.mapVals (unpinned s.me.world (lineNo o.pa)) }) 2 e
  have issuer : ((s.setMe s.me.replayed).modSlice (sliceOf o.pa) fun sl =>
      { sl with lines := sl.lines.mapVals (unpinned s.me.world (lineNo o.pa)) }).me = s.me.replayed := s.me_setMe _
  refine ⟨t, run.trans (congrArg _ ends), ?_, fun k hk => ?_, by rw [me, issuer]; rfl, fun i k => ?_⟩
  · have := congrArg (fun x : State => { x with troupes := s.troupes, slices := s.slices }) only
    exact this
  · rw [others k hk]
    exact s.troupe_setMe _ k hk
  · have slices : t.slice i = ((s.setMe s.me.replayed).modSlice (sliceOf o.pa) fun sl =>
        { sl with lines := sl.lines.mapVals (unpinned s.me.world (lineNo o.pa)) }).slice i := by
      have := congrArg (State.slice · i) only
      exact this
    have change (l : L2Line) : unpinned s.me.world (lineNo o.pa) k l =
        if k = lineNo o.pa ∧ l.pinned = some s.me.world then { l with pinned := none } else l := by
      simp [unpinned]
    rw [slices, State.slice_modSlice]
    split
    · next here =>
      subst here
      rw [Table.find_mapVals]
      refine congrArg (fun f => Option.map f _) (funext fun l => ?_)
      simp [change]
    · next elsewhere =>
      simp only [Ne.symm elsewhere, false_and, if_false, Option.map_id']
      rfl

end

end Sys2Proof.Machine
end

section
/-! Prefetch and pins, fences, mailboxes and waits for batches (R173, R174, R208, R227, R278 to R285). -/

namespace Sys2Proof.Machine

open Sys2Proof.Claims

/-! ### fence (R227) -/

theorem fence_completes {sc : Scope} {s : State} (e : Bool) (free : s.covered s.src sc = false) :
    Completes (.fence e sc) e s fun u => u = { behind s.me 1 with pts := max s.me.pts s.me.ctl.redTs } := by
  refine State.done_completes (u := s.me.fenced) (len := 1) ?_ rfl
  show execFence e sc s = _
  rw [execFence, free]
  rfl

/-! ### mbx.post (R281 to R283) -/

/-- What a troupe posts (R281). -/
def State.posting (s : State) (b : Oct) : List W64 := postEntry s.src ((List.range 7).map fun i => s.src.sreg (8 * b.val + i))

section

variable {s : State} {d a : Reg} {b : Oct} {m : Nat} (e : Bool)

/-- A post into a mailbox of the world. -/
theorem mbxPost_own (addr : mbxAddr (s.src.sreg a.val) = some (m, none)) (own : (s.mailbox m).owner = s.src.world) :
    exec (.mbxPost e d a b) s =
      if (s.src.busyOps || !(s.redIds s.src).isEmpty) = true then s.release (.mpost m (s.posting b) d.val) [] 1 e
      else if 64 ≤ (s.mailbox m).entries.length then s.scalar d 1 1 e
      else .next (((s.setMe (s.me.fenced.setS d.val 0)).mbxPut m (s.posting b)).advance 1 e) := by
  show execMbxPost e d a b s = _
  rw [execMbxPost, addr]
  dsimp only
  rw [if_neg (by simp [own])]
  rfl

/-- With earlier operations outstanding it is an operation of the troupe (R211). -/
theorem mbxPost_waits (addr : mbxAddr (s.src.sreg a.val) = some (m, none)) (own : (s.mailbox m).owner = s.src.world)
    (busy : s.src.busyOps = true ∨ s.redIds s.src ≠ []) :
    ∃ t id, exec (.mbxPost e d a b) s = .next (ended e t) ∧ { t with troupes := s.troupes, book := s.book } = s ∧
      (∀ k, k ≠ s.book.cur → t.troupe k = s.troupe k) ∧
      t.me = { behind s.me 1 with
        ops := s.me.ops ++ [{ id := id, kind := .mpost m (s.posting b) d.val, after := s.redIds s.me }] } := by
  have run := mbxPost_own (d := d) (b := b) e addr own
  rw [if_pos (by simpa using busy)] at run
  obtain ⟨t, ends, ⟨only, others⟩, me⟩ := s.freshId.2.done_spec { s.me with
    ops := s.me.ops ++ [{ id := s.freshId.1, kind := .mpost m (s.posting b) d.val, after := s.redIds s.me }] } 1 e
  refine ⟨t, s.freshId.1, run.trans ends, ?_, others, me⟩
  have := congrArg (fun x : State => { x with troupes := s.troupes, book := s.book }) only
  exact this

/-- Otherwise it is performed at once, with status 0, or 1 where the mailbox is full. -/
theorem mbxPost_posts (addr : mbxAddr (s.src.sreg a.val) = some (m, none)) (own : (s.mailbox m).owner = s.src.world)
    (idle : s.src.busyOps = false) (settled : s.redIds s.src = []) (quiet : (s.mailbox m).arming = none) :
    ((s.mailbox m).entries.length < 64 →
      ∃ t, exec (.mbxPost e d a b) s = .next (ended e t) ∧ { t with troupes := s.troupes, mbx := s.mbx } = s ∧
        (∀ k, k ≠ s.book.cur → t.troupe k = s.troupe k) ∧ ScalarWritten s d.val 1 0 { t.me with pts := s.me.pts } ∧
        t.me.pts = max s.me.pts s.me.ctl.redTs ∧
        (∀ k, k ≠ m → t.mailbox k = s.mailbox k) ∧
        t.mailbox m = { s.mailbox m with entries := (s.mailbox m).entries ++ [s.posting b] }) ∧
    (64 ≤ (s.mailbox m).entries.length → Completes (.mbxPost e d a b) e s (ScalarWritten s d.val 1 1)) := by
  have run := mbxPost_own (d := d) (b := b) e addr own
  rw [if_neg (by simp [idle, settled])] at run
  refine ⟨fun room => ?_, fun full => State.scalar_completes (run.trans (if_pos full))⟩
  rw [if_neg (not_le.2 room), State.mbxPut_unarmed (s := s.setMe (s.me.fenced.setS d.val 0)) _ quiet] at run
  obtain ⟨t, ends, ⟨only, others⟩, me⟩ :=
    State.advance_spec ((s.setMe (s.me.fenced.setS d.val 0)).modMailbox m fun x => x.gain (s.posting b)) 1 e
  have issuer : ((s.setMe (s.me.fenced.setS d.val 0)).modMailbox m fun x => x.gain (s.posting b)).me = s.me.fenced.setS d.val 0 :=
    s.me_setMe _
  rw [issuer] at me
  have boxes (k : Nat) : t.mailbox k = if m = k then (s.mailbox m).gain (s.posting b) else s.mailbox k := by
    have := congrArg (fun x : State => x.mailbox k) only
    exact this.trans (State.mailbox_modMailbox _ _ _ _)
  refine ⟨t, run.trans (congrArg _ ends), ?_, fun k hk => ?_, ?_, ?_, fun k hk => ?_, ?_⟩
  · have := congrArg (fun x : State => { x with troupes := s.troupes, mbx := s.mbx }) only
    exact this
  · rw [others k hk]
    exact s.troupe_setMe _ k hk
  · refine scalarWritten_of_setS ?_ ?_
    · rw [me, Troupe.setS_frame]; rfl
    · rw [me]
      unfold Troupe.setS
      split <;> rfl
  · rw [me, Troupe.setS_frame]; rfl
  · rw [boxes, if_neg (Ne.symm hk)]
  · rw [boxes, if_pos rfl, Mailbox.gain, if_pos room]

/-- Where the peer p has its mailbox m. -/
def peerMailbox (p m : Nat) : Nat := 0x600000000000 + p * 0x40000000000 + m

theorem mbxAddr_bounds {x : W64} {m p : Nat} (addr : mbxAddr x = some (m, some p)) : m < 1024 ∧ p < 16 := by
  unfold mbxAddr at addr
  split at addr
  · cases addr
  · rw [Option.some_inj, Prod.mk.injEq] at addr
    obtain ⟨rfl, peer⟩ := addr
    split at peer
    · cases peer
      exact ⟨Nat.mod_lt _ (by decide), Nat.mod_lt _ (by decide)⟩
    · cases peer

theorem regionOf_peerMailbox {p m : Nat} (mailbox : m < 1024) (peer : p < 16) : regionOf (peerMailbox p m) = .peer p := by
  unfold regionOf peerMailbox
  rw [if_neg (by omega), if_neg (by omega), if_neg (by omega), if_neg (by omega), if_neg (by omega), if_neg (by omega),
    if_pos (by omega)]
  exact congrArg Region.peer (by omega)

/-- One question to a peer is kept, and goes out in flits (R436). -/
theorem State.ask_peer (s : State) (t : Troupe) (opId tag : Nat) (sync : Bool) {o : LaneOp} (errand : Errand) {p : Nat}
    (peer : regionOf o.pa = .peer p) : ∃ x : Ext, x.peer = some p ∧ x.opId = opId ∧ x.uid = t.uid ∧
      ∃ y, y = s.ask t opId tag sync [o] errand ∧ y.ext = s.ext ++ [x] ∧ y.mem = s.mem ∧ y.mbx = s.mbx ∧ y.troupes = s.troupes ∧
        y.book.cur = s.book.cur := by
  refine ⟨{ id := s.book.nextId, tkey := t.key, uid := t.uid, opId := opId, world := t.world, peer := some p, tag := tag,
            lanes := [o], sync := sync, errand := errand }, rfl, rfl, rfl, s.ask t opId tag sync [o] errand, rfl, ?_⟩
  unfold State.ask State.sendExt
  simp only [List.foldl_cons, List.foldl_nil, peer]
  exact ⟨(FlitsOnly.sendFlits _ _ _ _ _ _).ext, (FlitsOnly.sendFlits _ _ _ _ _ _).mem, (FlitsOnly.sendFlits _ _ _ _ _ _).mbx,
    (FlitsOnly.sendFlits _ _ _ _ _ _).troupes, (FlitsOnly.sendFlits _ _ _ _ _ _).cur⟩

/-- A post to a peer: status 3 where it is not reached, and otherwise an operation that awaits its answer (R283). -/
theorem mbxPost_peer {p : Nat} (addr : mbxAddr (s.src.sreg a.val) = some (m, some p)) :
    (s.reaches s.src.world p = false → Completes (.mbxPost e d a b) e s (ScalarWritten s d.val 1 3)) ∧
    (s.reaches s.src.world p = true → s.src.busyOps = false → s.redIds s.src = [] →
      ∃ t o, exec (.mbxPost e d a b) s = .next (ended e t) ∧ t.mem = s.mem ∧ t.mbx = s.mbx ∧
        (∀ k, k ≠ s.book.cur → t.troupe k = s.troupe k) ∧
        t.me = { behind s.me 1 with ops := s.me.ops ++ [o], pts := max s.me.pts s.me.ctl.redTs } ∧
        o.kind = .post d.val ∧ o.performed = true ∧
        ∃ x, t.ext = s.ext ++ [x] ∧ x.peer = some p ∧ x.opId = o.id ∧ x.uid = s.src.uid) := by
  have run : exec (.mbxPost e d a b) s = execMbxPost e d a b s := rfl
  rw [execMbxPost, addr] at run
  dsimp only at run
  refine ⟨fun apart => State.scalar_completes (run.trans (if_pos (by simp [apart]))), fun reached idle settled => ?_⟩
  rw [if_neg (by simp [reached]), if_neg (by simp [idle, settled])] at run
  obtain ⟨mailbox, peer⟩ := mbxAddr_bounds addr
  have region := regionOf_peerMailbox mailbox peer
  let o : LaneOp := { lane := 0, va := 0, pa := peerMailbox p m, data := (s.posting b).flatMap wordBytes }
  let op : Op := { id := s.freshId.1, kind := .post d.val, performed := true, external := [o] }
  let u : Troupe := { s.me.fenced with ops := s.me.ops ++ [op] }
  obtain ⟨x, towards, name, uid, y, asked, ext, mem, mbx, troupes, cur⟩ :=
    (s.freshId.2.setMe u).ask_peer s.src s.freshId.1 3 false (o := o) .plain region
  have issuer : y.me = u := by
    rw [State.me, troupes, cur]
    exact s.freshId.2.me_setMe u
  obtain ⟨t, ends, ⟨only, others⟩, me⟩ := y.advance_spec 1 e
  refine ⟨t, op, run.trans ((congrArg (fun z : State => Host.Outcome.next (z.advance 1 e)) asked.symm).trans (congrArg _ ends)),
    ?_, ?_, fun k hk => ?_, ?_, rfl, rfl, x, ?_, towards, name, uid⟩
  · have := congrArg State.mem only
    exact Eq.trans this mem
  · have := congrArg State.mbx only
    exact Eq.trans this mbx
  · rw [others k (by rw [cur]; exact hk)]
    exact (congrArg (fun z : Table Troupe => z.find k) troupes).trans (s.freshId.2.troupe_setMe u k hk)
  · rw [me, issuer]
    rfl
  · have := congrArg State.ext only
    exact Eq.trans this ext

end

/-- A bad mailbox address faults (R282). -/
theorem mbxPost_faults {s : State} {a : Reg} (e : Bool) (b : Oct) (plain : Plain s)
    (bad : ∀ m p, mbxAddr (s.src.sreg a.val) = some (m, p) → p = none ∧ (s.mailbox m).owner ≠ s.src.world) (d : Reg) :
    Faults (.mbxPost e d a b) s 4 6 s.src.live (s.src.sreg a.val) := by
  obtain ⟨t, halts, taken⟩ := State.fault_taken plain 4 6 s.src.live (s.src.sreg a.val)
  refine ⟨t, ?_, taken⟩
  have run : exec (.mbxPost e d a b) s = execMbxPost e d a b s := rfl
  rw [execMbxPost] at run
  dsimp only at run
  cases addr : mbxAddr (s.src.sreg a.val) with
  | none => rw [addr] at run; exact run.trans halts
  | some x =>
    obtain ⟨m, p⟩ := x
    obtain ⟨rfl, foreign⟩ := bad m p addr
    rw [addr] at run
    exact (run.trans (if_pos foreign)).trans halts

/-! ### mbx.take (R282 to R284) -/

/-- A world that takes from its notice mailbox is told so. -/
theorem State.noticeTaken_due (x : State) (w m : Nat) : ∃ due,
    (if (x.world w).areas.noticeMbx = m then x.raiseEvent (.noticePost w) else x) = { x with book := { x.book with due := due } } := by
  split
  · exact ⟨_, rfl⟩
  · exact ⟨x.book.due, rfl⟩

section

variable {s : State} {a b : Reg}

/-- What an `mbx.take` of a mailbox of the world does once nothing bars it (R284). -/
def State.takeFrom (s : State) (e : Bool) (d : Oct) (b : Reg) (m : Nat) : Res :=
  match (s.mailbox m).entries with
  | [] =>
    if b.val = 63 then .next ((s.setMe (s.me.setSs (8 * d.val) (List.replicate 8 0))).advance 1 e)
    else .next (((((s.setMe (s.me.setSs (8 * d.val) (List.replicate 8 0))).fireArming m).modMailbox m fun y =>
      { y with arming := some (s.src.core, (s.src.sreg b.val).toNat) }).barMine (s.src.sreg b.val).toNat .external).advance 1 e)
  | r :: rest =>
    let x := s.modMailbox m fun y => { y with entries := rest, drops := 0 }
    let x := if (x.world s.src.world).areas.noticeMbx = m then x.raiseEvent (.noticePost s.src.world) else x
    .next ((x.setMe { x.me.setSs (8 * d.val)
      ((w64 (fld (r.headD 0) 47 0 + (s.mailbox m).drops * 2 ^ 48) :: r.drop 1).take 8) with pts := max x.me.pts x.maxTs }).advance 1 e)

/-- What is wrong with the barrier an `mbx.take` is to arm, if it is to arm one. -/
def State.takeCause (s : State) (b : Reg) : Option Nat := if b.val = 63 then none else s.barCause s.src (s.src.sreg b.val)

/-- The causes of an `mbx.take` in their order (R282). -/
theorem mbxTake_eq (e : Bool) (d : Oct) (s : State) : exec (.mbxTake e d a b) s =
    match mbxAddr (s.src.sreg a.val) with
    | some (m, none) =>
      if (s.mailbox m).owner ≠ s.src.world ∧ s.takeCause b ≠ some 3 then s.faultAll 4 6 (s.src.sreg a.val)
      else match s.takeCause b with
      | some c => s.faultAll c 6 (s.src.sreg b.val)
      | none => if s.src.busyOps then s.stall else s.takeFrom e d b m
    | _ => if b.val ≠ 63 ∧ s.barCause s.src (s.src.sreg b.val) = some 3 then s.faultAll 3 6 (s.src.sreg b.val)
      else s.faultAll 4 6 (s.src.sreg a.val) := by
  show execMbxTake e d a b s = _
  rw [execMbxTake]
  cases mbxAddr (s.src.sreg a.val) with
  | none => rfl
  | some x =>
    obtain ⟨m, p⟩ := x
    cases p with
    | some p => rfl
    | none => rfl

/-- A mailbox that is not the world's faults, unless the barrier is out of range. -/
theorem mbxTake_faults_mailbox (e : Bool) (d : Oct) (plain : Plain s)
    (foreign : ∀ m, mbxAddr (s.src.sreg a.val) = some (m, none) → (s.mailbox m).owner ≠ s.src.world)
    (inRange : b.val = 63 ∨ s.barCause s.src (s.src.sreg b.val) ≠ some 3) :
    Faults (.mbxTake e d a b) s 4 6 s.src.live (s.src.sreg a.val) := by
  obtain ⟨t, halts, taken⟩ := State.fault_taken plain 4 6 s.src.live (s.src.sreg a.val)
  refine ⟨t, ?_, taken⟩
  have unbarred : s.takeCause b ≠ some 3 := by
    unfold State.takeCause
    split <;> simp_all
  have run := mbxTake_eq (a := a) (b := b) e d s
  have outside : ¬ (b.val ≠ 63 ∧ s.barCause s.src (s.src.sreg b.val) = some 3) := by tauto
  cases addr : mbxAddr (s.src.sreg a.val) with
  | none =>
    rw [addr] at run
    exact (run.trans (if_neg outside)).trans halts
  | some x =>
    obtain ⟨m, p⟩ := x
    rw [addr] at run
    cases p with
    | some p => exact (run.trans (if_neg outside)).trans halts
    | none => exact (run.trans (if_pos ⟨foreign m addr, unbarred⟩)).trans halts

/-- A barrier out of range faults before the mailbox. -/
theorem mbxTake_faults_range (e : Bool) (d : Oct) (plain : Plain s) (arms : b.val ≠ 63)
    (range : s.barCause s.src (s.src.sreg b.val) = some 3) :
    Faults (.mbxTake e d a b) s 3 6 s.src.live (s.src.sreg b.val) := by
  obtain ⟨t, halts, taken⟩ := State.fault_taken plain 3 6 s.src.live (s.src.sreg b.val)
  refine ⟨t, ?_, taken⟩
  have barred : s.takeCause b = some 3 := by rw [State.takeCause, if_neg arms, range]
  have run := mbxTake_eq (a := a) (b := b) e d s
  cases addr : mbxAddr (s.src.sreg a.val) with
  | none =>
    rw [addr] at run
    exact (run.trans (if_pos ⟨arms, range⟩)).trans halts
  | some x =>
    obtain ⟨m, p⟩ := x
    rw [addr] at run
    cases p with
    | some p => exact (run.trans (if_pos ⟨arms, range⟩)).trans halts
    | none =>
      dsimp only at run
      rw [barred, if_neg (by simp)] at run
      exact run.trans halts

section

variable {m : Nat} (addr : mbxAddr (s.src.sreg a.val) = some (m, none)) (own : (s.mailbox m).owner = s.src.world)
include addr own

/-- In a mailbox of the world only the barrier can fault. -/
theorem mbxTake_faults_barrier (e : Bool) (d : Oct) (plain : Plain s) (arms : b.val ≠ 63) {c : Nat}
    (cause : s.barCause s.src (s.src.sreg b.val) = some c) :
    Faults (.mbxTake e d a b) s c 6 s.src.live (s.src.sreg b.val) := by
  obtain ⟨t, halts, taken⟩ := State.fault_taken plain c 6 s.src.live (s.src.sreg b.val)
  refine ⟨t, ?_, taken⟩
  have barred : s.takeCause b = some c := by rw [State.takeCause, if_neg arms, cause]
  have run := mbxTake_eq (a := a) (b := b) e d s
  rw [addr] at run
  dsimp only at run
  rw [barred, if_neg (by simp [own])] at run
  exact run.trans halts

variable (usable : b.val = 63 ∨ s.barCause s.src (s.src.sreg b.val) = none) (idle : s.src.busyOps = false)
include usable idle

theorem mbxTake_takes (e : Bool) (d : Oct) : exec (.mbxTake e d a b) s = s.takeFrom e d b m := by
  have unbarred : s.takeCause b = none := by
    rw [State.takeCause, ite_eq_left_iff]
    exact fun arms => usable.resolve_left arms
  have run := mbxTake_eq (a := a) (b := b) e d s
  rw [addr] at run
  dsimp only at run
  rw [unbarred, if_neg (by simp [own])] at run
  exact run.trans (if_neg (by simp [idle]))

/-- Nothing to take: eight zeros. -/
theorem mbxTake_empty (e : Bool) (d : Oct) (empty : (s.mailbox m).entries = []) (unarmed : b.val = 63) :
    Completes (.mbxTake e d a b) e s fun u => u = { behind s.me 1 with s := u.s } ∧
      (∀ i, i < 8 → u.sreg (8 * d.val + i) = 0) ∧ ∀ r, (r < 8 * d.val ∨ 8 * d.val + 8 ≤ r) → u.sreg r = s.me.sreg r := by
  have run := mbxTake_takes addr own usable idle e d
  rw [State.takeFrom, empty] at run
  obtain ⟨t, ends, only, me⟩ := s.done_spec (s.me.setSs (8 * d.val) (List.replicate 8 0)) 1 e
  have regs (k : Nat) : t.me.sreg k = (s.me.setSs (8 * d.val) (List.replicate 8 0)).sreg k := by rw [me]; rfl
  have oct := d.isLt
  refine ⟨t, (run.trans (if_pos unarmed)).trans ends, only, ?_, fun i hi => ?_, fun r hr => ?_⟩
  · rw [me, Troupe.setSs_frame]; rfl
  · rw [regs, Troupe.sreg_setSs, if_pos (by rw [List.length_replicate]; omega), List.getD_replicate _ (by omega)]
  · rw [regs, Troupe.sreg_setSs, if_neg (by rw [List.length_replicate]; omega)]

/-- The oldest entry is taken, with the number of posts that were dropped in its first word. -/
theorem mbxTake_entry (e : Bool) (d : Oct) {w0 : W64} {ws : List W64} {rest : List (List W64)}
    (holds : (s.mailbox m).entries = (w0 :: ws) :: rest) :
    ∃ t, exec (.mbxTake e d a b) s = .next (ended e t) ∧
      { t with troupes := s.troupes, mbx := s.mbx, book := s.book } = s ∧
      (∀ k, k ≠ s.book.cur → t.troupe k = s.troupe k) ∧
      t.me = { behind s.me 1 with s := t.me.s, pts := max s.me.pts s.maxTs } ∧
      (∀ i, i < 8 → i < ws.length + 1 → t.me.sreg (8 * d.val + i) =
        if i = 0 then w64 (fld w0 47 0 + (s.mailbox m).drops * 2 ^ 48) else ws.getD (i - 1) 0) ∧
      (∀ r, (r < 8 * d.val ∨ 8 * d.val + 8 ≤ r) → t.me.sreg r = s.me.sreg r) ∧
      (∀ k, k ≠ m → t.mailbox k = s.mailbox k) ∧
      t.mailbox m = { s.mailbox m with entries := rest, drops := 0 } := by
  have run := mbxTake_takes addr own usable idle e d
  rw [State.takeFrom, holds] at run
  dsimp only at run
  obtain ⟨due, raised⟩ := (s.modMailbox m fun y => { y with entries := rest, drops := 0 }).noticeTaken_due s.src.world m
  rw [raised] at run
  let x : State := { s.modMailbox m fun y => { y with entries := rest, drops := 0 } with book := { s.book with due := due } }
  let words : List W64 := (w64 (fld w0 47 0 + (s.mailbox m).drops * 2 ^ 48) :: ws).take 8
  obtain ⟨t, ends, ⟨same, others⟩, me⟩ := x.done_spec { s.me.setSs (8 * d.val) words with pts := max s.me.pts s.maxTs } 1 e
  have regs (k : Nat) : t.me.sreg k = (s.me.setSs (8 * d.val) words).sreg k := by rw [me]; rfl
  have boxes (k : Nat) : t.mailbox k = if m = k then { s.mailbox m with entries := rest, drops := 0 } else s.mailbox k := by
    have := congrArg (fun y : State => y.mailbox k) same
    exact this.trans (s.mailbox_modMailbox m k fun y => { y with entries := rest, drops := 0 })
  have count : words.length = min 8 (ws.length + 1) := by rw [List.length_take, List.length_cons]
  have oct := d.isLt
  refine ⟨t, run.trans ends, ?_, others, ?_, fun i hi there => ?_, fun r hr => ?_, fun k hk => ?_, ?_⟩
  · have := congrArg (fun y : State => { y with troupes := s.troupes, mbx := s.mbx, book := s.book }) same
    exact this
  · rw [me, Troupe.setSs_frame]; rfl
  · rw [regs, Troupe.sreg_setSs, if_pos (by rw [count]; omega), Nat.add_sub_cancel_left]
    cases i with
    | zero => rfl
    | succ i =>
      rw [if_neg (Nat.succ_ne_zero i), Nat.add_sub_cancel, List.getD_eq_getElem?_getD, List.getD_eq_getElem?_getD,
        List.getElem?_take_of_lt hi]
      rfl
  · rw [regs, Troupe.sreg_setSs, if_neg (by rw [count]; omega)]
  · rw [boxes, if_neg (Ne.symm hk)]
  · rw [boxes, if_pos rfl]

end

end

/-! ### mwait (R278, R279) -/

/-- A troupe that enters a wait and is not diverted only gives up its issue slot. -/
theorem State.endInWait_stays {s : State} (stays : s.me.ctl.debug = true ∨ s.me.ctl.divert = false ∧ s.me.act.armed = false) :
    s.endInWait = s.dropHold s.me.core s.me.tslot := by
  unfold State.endInWait
  obtain debug | ⟨undiverted, unarmed⟩ := stays
  · simp [debug]
  · simp [undiverted, unarmed]

section

variable {s : State} {a : Reg} (e : Bool)

theorem mwait_eq (e : Bool) : exec (.mwait e a) s =
    if batchClosed s.src.sp.batch ((s.src.sreg a.val).setWidth 32) = false then .next (s.advance 1 true)
    else if batchDone s.src.done ((s.src.sreg a.val).setWidth 32) = true then .next (s.acquireBar.advance 1 true)
    else .next (s.setMe { s.me with ctl := { s.me.ctl with
      wait := .batch ((s.src.sreg a.val).setWidth 32) (s.me.pc + 1), stalled := false } }).endInWait := by
  show execMwait e a s = _
  rw [execMwait]
  simp only [Bool.not_eq_true']

/-- Where the batch is done, what the reads of the scratchpad before it saw is seen. -/
theorem mwait_done (closed : batchClosed s.src.sp.batch ((s.src.sreg a.val).setWidth 32) = true)
    (done : batchDone s.src.done ((s.src.sreg a.val).setWidth 32) = true) :
    ∃ t, exec (.mwait e a) s = .next (ended true t) ∧ OnlyScratchpad s t ∧
      (∀ c a, (t.core c).spad.byte a = (s.core c).spad.byte a) ∧
      t.me = { behind s.me 1 with pts := max s.me.pts (s.core s.me.core).swts } := by
  have run := mwait_eq (s := s) (a := a) e
  rw [closed, if_neg (by decide), if_pos done] at run
  obtain ⟨touches, bytes⟩ := s.loadsSpad_spec
  obtain ⟨t, ends, only, me⟩ := s.loadsSpad.done_spec
    { s.loadsSpad.me with pts := max s.me.pts (s.core s.me.core).swts } 1 true
  refine ⟨t, run.trans ends, onlyScratchpad_of touches only, fun c a => ?_, ?_⟩
  · obtain ⟨same, -⟩ := only
    have core : t.core c = s.loadsSpad.core c := by
      have := congrArg (fun y : State => y.core c) same
      exact this
    rw [core, (bytes c).1]
  · rw [me]
    rfl

/-- Where the batch is still to come, the troupe waits. -/
theorem mwait_waits (closed : batchClosed s.src.sp.batch ((s.src.sreg a.val).setWidth 32) = true)
    (pending : batchDone s.src.done ((s.src.sreg a.val).setWidth 32) = false)
    (stays : s.me.ctl.debug = true ∨ s.me.ctl.divert = false ∧ s.me.act.armed = false) :
    Gives (exec (.mwait e a) s) fun t => { t with troupes := s.troupes, cores := s.cores } = s ∧
      (∀ k, k ≠ s.book.cur → t.troupe k = s.troupe k) ∧
      t.me = { s.me with ctl := { s.me.ctl with
        wait := .batch ((s.src.sreg a.val).setWidth 32) (s.me.pc + 1), stalled := false } } := by
  have run := mwait_eq (s := s) (a := a) e
  rw [closed, if_neg (by decide), if_neg (by simp [pending])] at run
  let u : Troupe := { s.me with ctl := { s.me.ctl with
    wait := .batch ((s.src.sreg a.val).setWidth 32) (s.me.pc + 1), stalled := false } }
  have waits : (s.setMe u).endInWait = (s.setMe u).dropHold u.core u.tslot := by
    have issuer : (s.setMe u).me = u := s.me_setMe u
    rw [State.endInWait_stays (by rw [issuer]; exact stays), issuer]
  refine ⟨_, run.trans (congrArg _ waits), ?_, fun k hk => ?_, ?_⟩
  · rw [State.dropHold_frame]
    rfl
  · rw [State.dropHold_frame]
    exact s.troupe_setMe u k hk
  · rw [State.dropHold_frame]
    exact s.me_setMe u

end

/-- Settles O20, instruction by instruction: `pref`, `pin` and `unpin` by what they do to lines of the slices, `fence` and
`mwait` by the time they give the troupe, and the mailboxes' instructions by the order of their causes. -/
theorem linesFencesMailboxes : Obligations.LinesFencesMailboxes := by
  unfold Obligations.LinesFencesMailboxes
  refine ⟨⟨pref_spec, ?_, ?_⟩, ?_, ?_, ?_, ?_, ?_, ?_, ?_, ?_⟩
  · intro e d m la s o idle near checked
    exact pin_spec idle near checked e d la
  · intro e m la s o idle near checked
    exact unpin_spec idle near checked e la
  · intro e sc s free
    exact fence_completes e free
  · intro e d a b s m addr own busy
    exact mbxPost_waits e addr own busy
  · intro e d a b s m addr own idle settled quiet
    exact mbxPost_posts e addr own idle settled quiet
  · intro e d a b s m p addr
    exact mbxPost_peer e addr
  · intro e a b s plain bad d
    exact mbxPost_faults e b plain bad d
  · intro e d a b s plain
    refine ⟨mbxTake_faults_mailbox e d plain, mbxTake_faults_range e d plain, ?_⟩
    intro m c addr own arms cause
    exact mbxTake_faults_barrier addr own e d plain arms cause
  · intro e d a b s m addr own usable idle
    exact ⟨fun w0 ws rest holds => mbxTake_entry addr own usable idle e d holds, mbxTake_empty addr own usable idle e d⟩
  · intro e a s
    refine ⟨fun still => ?_, mwait_done e, mwait_waits e⟩
    exact State.advance_completes ((mwait_eq e).trans (if_pos still))

end Sys2Proof.Machine
end
